-- ==== Sys2Proof/Machine/Assoc.lean ====
section
/-!
DEFINITION. Finite maps as plain data: a list of key and value pairs in rising key order, read with a default value.
Register files, cores, tiles, regions and tables of the C7 are held this way, so that equal contents can be compared.
-/

namespace Sys2Proof.Machine

/-- A finite map with natural-number keys. -/
abbrev Assoc (α : Type) := List (Nat × α)

namespace Assoc

/-- The value at a key, `dflt` where the key is not listed. -/
def get {α : Type} (dflt : α) : Assoc α → Nat → α
  | [], _ => dflt
  | (j, a) :: rest, k => if j = k then a else get dflt rest k

/-- The value at a key, if the key is listed. -/
def find? {α : Type} : Assoc α → Nat → Option α
  | [], _ => none
  | (j, a) :: rest, k => if j = k then some a else find? rest k

/-- Put a value at a key: in place where the key is listed, else before the first greater key. -/
def set {α : Type} : Assoc α → Nat → α → Assoc α
  | [], k, v => [(k, v)]
  | (j, a) :: rest, k, v =>
    if j = k then (k, v) :: rest
    else if k < j then (k, v) :: (j, a) :: rest
    else (j, a) :: set rest k v

/-- Remove a key. -/
def erase {α : Type} (m : Assoc α) (k : Nat) : Assoc α := m.filter (fun e => e.1 != k)

/-- The listed keys. -/
def keys {α : Type} (m : Assoc α) : List Nat := m.map (·.1)

/-- Reading the key just written gives the value written. -/
@[simp] theorem get_set_same {α : Type} (d : α) (m : Assoc α) (k : Nat) (v : α) : get d (set m k v) k = v := by
  induction m with
  | nil => simp [set, get]
  | cons e rest ih =>
    obtain ⟨j, a⟩ := e
    unfold set
    split
    · simp [get]
    · split
      · simp [get]
      · simp [get, *]

/-- A write leaves every other key as it was. -/
theorem get_set_other {α : Type} (d : α) (m : Assoc α) {j k : Nat} (v : α) (h : j ≠ k) :
    get d (set m k v) j = get d m j := by
  induction m with
  | nil => simp [set, get, Ne.symm h]
  | cons e rest ih =>
    obtain ⟨i, a⟩ := e
    unfold set
    split
    · subst_vars; simp [get, Ne.symm h]
    · split
      · simp [get, Ne.symm h]
      · simp [get, ih]

/-- Reading after a write, in one equation. -/
theorem get_set {α : Type} (d : α) (m : Assoc α) (j k : Nat) (v : α) :
    get d (set m k v) j = if j = k then v else get d m j := by
  split
  · subst_vars; simp
  · exact get_set_other d m v ‹_›

end Assoc

end Sys2Proof.Machine
end

