-- ==== Sys2Proof/Word.lean ====
section
/-!
DEFINITION. The word types of the C7: 32-bit register values, bytes, and the bit vectors that name registers.
-/

namespace Sys2Proof

/-- A 32-bit value: a singleton, an element of a vector tile, an entry of a parameter stack. -/
abbrev Word := BitVec 32
/-- One byte of memory. -/
abbrev Byte := BitVec 8
/-- A bundle address or virtual address (48 bits, R1). -/
abbrev Addr := BitVec 48
/-- A domain register D0–D63 (R194). -/
abbrev DReg := BitVec 6
/-- A vector tile register V0–V15. -/
abbrev VReg := BitVec 4
/-- A predicate register P0–P7. -/
abbrev PReg := BitVec 3
/-- A condition register C0–C7. -/
abbrev CReg := BitVec 3
/-- A branch target register B0–B3. -/
abbrev BReg := BitVec 2
/-- A wrap register W0–W7. -/
abbrev WReg := BitVec 3
/-- A stream register F0–F7. -/
abbrev FReg := BitVec 3
/-- A gloss handle G0–G3. -/
abbrev GReg := BitVec 2
/-- A buffer descriptor BD0–BD15. -/
abbrev BdReg := BitVec 4
/-- An event E0–E31. -/
abbrev EvNum := BitVec 5

end Sys2Proof
end

