-- ==== Sys2Proof/Operand.lean ====
section
/-!
DEFINITION. The operands that instructions and machine events carry: memory operands (R259, R260), system-register
names (R267), packets (R60, R37) and the requests that reach the package from outside.
-/

namespace Sys2Proof

/-- The size of an `LD` or `LDR` (R261): signed B, H, W, the pair D, and the unsigned forms. -/
inductive LoadSize | b | h | w | d | bu | hu
  deriving DecidableEq, Repr

/-- The size of an `ST` (R261). -/
inductive StoreSize | b | h | w | d
  deriving DecidableEq, Repr

/-- The addressing modes of R260. -/
inductive AMode
  /-- `BDn[Dk, imm]` -/
  | off
  /-- `BDn[Dk, post=i]` -/
  | post
  /-- `BDn[Dk, Dx, imm]` -/
  | idx (dx : DReg)
  /-- `BDn[Wm]` -/
  | wrap (w : WReg)
  deriving DecidableEq, Repr

/-- A memory operand of the MM format (R253, R259, R260); `dc` is opcode bit 7 (the class is the descriptor's). -/
structure MemOp where
  dc : Bool
  oclass : BitVec 4
  scope : BitVec 3
  mode : AMode
  bd : BdReg
  off : DReg
  imm : BitVec 20
  deriving DecidableEq, Repr

/-- The memory operand of an atomic: addressing is OFF and amode is the order field (R259). -/
structure AtomOp where
  dc : Bool
  oclass : BitVec 4
  scope : BitVec 3
  fail : Bool
  order : BitVec 2
  bd : BdReg
  off : DReg
  imm : BitVec 20
  deriving DecidableEq, Repr

/-- The count of a vector shift: a tile or a constant (R264, R363). -/
inductive ShiftCount
  | tile (vb : VReg)
  | const (k : BitVec 5)
  deriving DecidableEq, Repr

/-- System registers (R267). -/
inductive SysReg
  | status | trapcode | trappc | trapvec | failvec | failinfo | propbudget | propstat | propcount | ckptdepth
  | trailtop | ctxid | groupid | regionid | pasid | prio | fwshare | cycle | ptime | evpending | leasestat
  | mgovstat | swthrottle | rflevel | rfiter | rfstate | tracectl | debugctl | replayctl
  | bkpt (n : BitVec 3)
  deriving DecidableEq, Repr

/-- Who runs a program of its own (R163, R183, R200): the user or firmware context of a control core, a lookup
core, or the matrix or copy sequencer of a control core. -/
inductive Agent
  | user (core : Nat)
  | fw (core : Nat)
  | lookup (n : Nat)
  | matrix (core : Nat)
  | copy (core : Nat)
  deriving DecidableEq, Repr

/-- A packet of the swash mesh (R60): the header's fields and up to 64 payload bytes; `poison` is the flag of R65. -/
structure Packet where
  kind : BitVec 4
  x : Bool
  cls : BitVec 4
  dst : BitVec 13
  src : BitVec 13
  seq : BitVec 12
  region : BitVec 12
  stamp : BitVec 18
  op : BitVec 4
  len : BitVec 6
  addr : BitVec 40
  fw : Bool
  poison : Bool
  data : List Byte
  deriving DecidableEq, Repr

/-- A packet of a Linnor link (R37). -/
structure LinnorPacket where
  kind : BitVec 4
  dst : BitVec 10
  src : BitVec 10
  tag : BitVec 12
  len : BitVec 8
  op : BitVec 4
  addr : BitVec 52
  data : List Byte
  deriving DecidableEq, Repr

/-- The kinds of a Linnor flit a port may send (R34). -/
inductive FlitKind | data | idle | retryRequest | retrainRequest
  deriving DecidableEq, Repr

/-- A request that arrives at a PCIe/CXL port (R51, R52). -/
structure PcieRequest where
  port : Nat
  pasid : Option (BitVec 20)
  addr : BitVec 64
  write : Bool
  /-- atomic operation: 0 FetchAdd, 1 Swap, 2 CAS -/
  atomic : Option (BitVec 2)
  /-- bytes read, or the operand width in bytes of an atomic -/
  len : Nat
  data : List Byte
  /-- an MSI-X message in place of a write: the application core and identity that it names -/
  msi : Option (BitVec 37) := none
  deriving DecidableEq, Repr

/-- How a PCIe/CXL port runs (R50): as a PCIe root port, as the package's endpoint, or as CXL. -/
inductive PcieMode | root | endpoint | cxl
  deriving DecidableEq, Repr
/-- The width of a port. -/
inductive PcieWidth | x16 | x8x8 | x4x4x4x4
  deriving DecidableEq, Repr
/-- A PCIe/CXL port: its mode and width, and the rate it has trained to in tenths of GT/s, 0 before that. -/
structure PciePort where
  mode : PcieMode := .root
  width : PcieWidth := .x16
  rate : Nat := 0
  deriving DecidableEq, Repr

/-- What a fence takes out of service (R28). -/
inductive FenceUnit
  | tile (n : Nat) | stack (n : Nat) | die (n : Nat) | linnorPort (n : Nat) | pciePort (n : Nat)
  deriving DecidableEq, Repr

/-- Why the management core fences a unit while running (R29, R30). -/
inductive FenceCause
  | secondUncorrectable | rowErrors | retryLimit | fabric | headerError | lostSystemBridge | lostDieBridge
  deriving DecidableEq, Repr

/-- What an I3C request reads (R55). -/
inductive I3cQuery
  | journal (record : Nat) | sensors | readymap
  deriving DecidableEq, Repr

/-- A walk that ends (R149): who asked, for which access (bit 0 read, 1 write, 2 execute, 3 atomic, R155), on which
path, with the declared page size. -/
structure WalkRequest where
  pasid : BitVec 20
  va : Addr
  access : BitVec 4
  path : BitVec 8
  page : BitVec 2
  node : BitVec 13
  region : BitVec 12
  tile : Option Nat
  deriving DecidableEq, Repr

/-- A buffer descriptor (R145), without its reserved field. -/
structure BufDesc where
  base : Addr
  len : BitVec 40
  page : BitVec 2
  kind : BitVec 2
  cls : BitVec 4
  deriving DecidableEq, Repr

/-- The contents of a configuration bank (R91). -/
structure BankImage where
  entry : Addr
  mstart : Addr
  cstart : Addr
  region : BitVec 12
  pasid : BitVec 20
  prio : BitVec 4
  debug : Bool
  conf : Bool
  bds : List BufDesc
  events : List Byte
  deriving DecidableEq, Repr

end Sys2Proof
end

