-- ==== Sys2Proof/Syntax.lean ====
section
/-!
DEFINITION. The C7's instructions and machine steps: one constructor for each row of spec/opcode_table.json.
The instructions that carry operands stand first; then those without, among them the machine's own steps and the
happenings that reach it from outside, whose operands the state holds (`State.inp`), and the engines' launch words and `CLASS`,
whose modifier bits stand in the word the sequencer holds (`State.word`). First come the
bundle syllables of classes 000 to 110 (the E bit belongs to the bundle, R186), and the 16-bit engine words.
-/

namespace Sys2Proof

/-- The rows of the opcode table. Each docstring is the row's mnemonic, rule and summary. -/
inductive Instr
  /-- ADD (R275): Functional add. -/
  | add (dd da db : DReg)
  /-- ADD_I (R275): Functional add of an immediate. -/
  | addI (dd da : DReg) (imm : BitVec 32)
  /-- ADD_R (R278): Relational narrowing of d = a + b. -/
  | addR (dd da db : DReg)
  /-- ADD_RK (R276): Relational narrowing of d = a + b, kept in the store. -/
  | addRk (dd da db : DReg)
  /-- ADD_I_R (R278): Relational add with a constant. -/
  | addIR (dd da : DReg) (imm : BitVec 32)
  /-- ADD_I_RK (R276): Kept relational add with a constant. -/
  | addIRk (dd da : DReg) (imm : BitVec 32)
  /-- SUB (R275): Functional subtract. -/
  | sub (dd da db : DReg)
  /-- SUB_I (R275): Functional subtract of an immediate. -/
  | subI (dd da : DReg) (imm : BitVec 32)
  /-- SUB_R (R278): Relational narrowing of d = a − b. -/
  | subR (dd da db : DReg)
  /-- SUB_RK (R276): Kept relational subtract. -/
  | subRk (dd da db : DReg)
  /-- SUB_I_R (R278): Relational subtract with a constant. -/
  | subIR (dd da : DReg) (imm : BitVec 32)
  /-- SUB_I_RK (R276): Kept relational subtract with a constant. -/
  | subIRk (dd da : DReg) (imm : BitVec 32)
  /-- MUL (R275): Functional multiply. -/
  | mul (dd da db : DReg)
  /-- MUL_I (R275): Functional multiply by an immediate. -/
  | mulI (dd da : DReg) (imm : BitVec 32)
  /-- MUL_R (R278): Relational narrowing of d = a × b. -/
  | mulR (dd da db : DReg)
  /-- MUL_RK (R276): Kept relational multiply. -/
  | mulRk (dd da db : DReg)
  /-- MUL_I_R (R278): Relational multiply with a constant. -/
  | mulIR (dd da : DReg) (imm : BitVec 32)
  /-- MUL_I_RK (R276): Kept relational multiply with a constant. -/
  | mulIRk (dd da : DReg) (imm : BitVec 32)
  /-- MIN (R275): Functional minimum. -/
  | min (dd da db : DReg)
  /-- MIN_I (R275): Functional minimum with an immediate. -/
  | minI (dd da : DReg) (imm : BitVec 32)
  /-- MIN_R (R278): Relational narrowing of d = min(a, b). -/
  | minR (dd da db : DReg)
  /-- MIN_RK (R276): Kept relational minimum. -/
  | minRk (dd da db : DReg)
  /-- MIN_I_R (R278): Relational minimum with a constant. -/
  | minIR (dd da : DReg) (imm : BitVec 32)
  /-- MIN_I_RK (R276): Kept relational minimum with a constant. -/
  | minIRk (dd da : DReg) (imm : BitVec 32)
  /-- MAX (R275): Functional maximum. -/
  | max (dd da db : DReg)
  /-- MAX_I (R275): Functional maximum with an immediate. -/
  | maxI (dd da : DReg) (imm : BitVec 32)
  /-- MAX_R (R278): Relational narrowing of d = max(a, b). -/
  | maxR (dd da db : DReg)
  /-- MAX_RK (R276): Kept relational maximum. -/
  | maxRk (dd da db : DReg)
  /-- MAX_I_R (R278): Relational maximum with a constant. -/
  | maxIR (dd da : DReg) (imm : BitVec 32)
  /-- MAX_I_RK (R276): Kept relational maximum with a constant. -/
  | maxIRk (dd da : DReg) (imm : BitVec 32)
  /-- ABS (R275): Functional absolute value. -/
  | abs (dd da : DReg)
  /-- ABS_R (R278): Relational narrowing of d = |a|. -/
  | absR (dd da : DReg)
  /-- ABS_RK (R276): Kept relational absolute value. -/
  | absRk (dd da : DReg)
  /-- NEG (R275): Functional negation. -/
  | neg (dd da : DReg)
  /-- NEG_R (R278): Relational narrowing of d = −a. -/
  | negR (dd da : DReg)
  /-- NEG_RK (R276): Kept relational negation. -/
  | negRk (dd da : DReg)
  /-- MOV (R275): Copy of a domain register. -/
  | mov (dd da : DReg)
  /-- MOV_R (R278): Relational narrowing of d = a. -/
  | movR (dd da : DReg)
  /-- MOV_RK (R276): Kept relational equality of two registers. -/
  | movRk (dd da : DReg)
  /-- MULH (R275): High 32 bits of the signed product. -/
  | mulh (dd da db : DReg)
  /-- MULH_I (R275): MULH with an immediate. -/
  | mulhI (dd da : DReg) (imm : BitVec 32)
  /-- DIV (R275): Truncating signed division. -/
  | div (dd da db : DReg)
  /-- DIV_I (R275): Division by an immediate. -/
  | divI (dd da : DReg) (imm : BitVec 32)
  /-- REM (R275): Signed remainder. -/
  | rem (dd da db : DReg)
  /-- REM_I (R275): Remainder by an immediate. -/
  | remI (dd da : DReg) (imm : BitVec 32)
  /-- AND (R275): Bitwise AND. -/
  | and (dd da db : DReg)
  /-- AND_I (R275): Bitwise AND with a pattern. -/
  | andI (dd da : DReg) (imm : BitVec 32)
  /-- OR (R275): Bitwise OR. -/
  | or (dd da db : DReg)
  /-- OR_I (R275): Bitwise OR with a pattern. -/
  | orI (dd da : DReg) (imm : BitVec 32)
  /-- XOR (R275): Bitwise XOR. -/
  | xor (dd da db : DReg)
  /-- XOR_I (R275): Bitwise XOR with a pattern. -/
  | xorI (dd da : DReg) (imm : BitVec 32)
  /-- ANDN (R275): a AND NOT b. -/
  | andn (dd da db : DReg)
  /-- ANDN_I (R275): ANDN with a pattern. -/
  | andnI (dd da : DReg) (imm : BitVec 32)
  /-- SHL (R275): Shift left. -/
  | shl (dd da db : DReg)
  /-- SHL_I (R275): Shift left by a constant. -/
  | shlI (dd da : DReg) (imm : BitVec 32)
  /-- SHR (R275): Logical shift right. -/
  | shr (dd da db : DReg)
  /-- SHR_I (R275): Logical shift right by a constant. -/
  | shrI (dd da : DReg) (imm : BitVec 32)
  /-- SRA (R275): Arithmetic shift right. -/
  | sra (dd da db : DReg)
  /-- SRA_I (R275): Arithmetic shift right by a constant. -/
  | sraI (dd da : DReg) (imm : BitVec 32)
  /-- CLZ (R275): Count of leading zeros. -/
  | clz (dd da : DReg)
  /-- POPC (R275): Count of set bits. -/
  | popc (dd da : DReg)
  /-- SEXT (R275): Sign extension from width w. -/
  | sext (dd da : DReg) (imm : BitVec 32)
  /-- ZEXT (R275): Zero extension from width w. -/
  | zext (dd da : DReg) (imm : BitVec 32)
  /-- MOVI (R275): Writes a singleton immediate. -/
  | movi (dd : DReg) (imm : BitVec 32)
  /-- EQ (R279): Functional equality test. -/
  | eq (dd da db : DReg)
  /-- EQ_I (R279): Equality test with a constant. -/
  | eqI (dd da : DReg) (imm : BitVec 32)
  /-- EQ_R (R279): Asserted or reified equality. -/
  | eqR (dd da db : DReg)
  /-- EQ_RK (R276): Kept equality constraint. -/
  | eqRk (dd da db : DReg)
  /-- EQ_I_R (R279): Relational equality with a constant. -/
  | eqIR (dd da : DReg) (imm : BitVec 32)
  /-- EQ_I_RK (R276): Kept equality with a constant. -/
  | eqIRk (dd da : DReg) (imm : BitVec 32)
  /-- NE (R279): Functional inequality test. -/
  | ne (dd da db : DReg)
  /-- NE_I (R279): Inequality test with a constant. -/
  | neI (dd da : DReg) (imm : BitVec 32)
  /-- NE_R (R279): Asserted or reified inequality. -/
  | neR (dd da db : DReg)
  /-- NE_RK (R276): Kept inequality constraint. -/
  | neRk (dd da db : DReg)
  /-- NE_I_R (R279): Relational inequality with a constant. -/
  | neIR (dd da : DReg) (imm : BitVec 32)
  /-- NE_I_RK (R276): Kept inequality with a constant. -/
  | neIRk (dd da : DReg) (imm : BitVec 32)
  /-- LT (R279): Functional less-than test. -/
  | lt (dd da db : DReg)
  /-- LT_I (R279): Less-than test with a constant. -/
  | ltI (dd da : DReg) (imm : BitVec 32)
  /-- LT_R (R279): Asserted or reified less-than. -/
  | ltR (dd da db : DReg)
  /-- LT_RK (R276): Kept less-than constraint. -/
  | ltRk (dd da db : DReg)
  /-- LT_I_R (R279): Relational less-than with a constant. -/
  | ltIR (dd da : DReg) (imm : BitVec 32)
  /-- LT_I_RK (R276): Kept less-than with a constant. -/
  | ltIRk (dd da : DReg) (imm : BitVec 32)
  /-- LE (R279): Functional less-or-equal test. -/
  | le (dd da db : DReg)
  /-- LE_I (R279): Less-or-equal test with a constant. -/
  | leI (dd da : DReg) (imm : BitVec 32)
  /-- LE_R (R279): Asserted or reified less-or-equal. -/
  | leR (dd da db : DReg)
  /-- LE_RK (R276): Kept less-or-equal constraint. -/
  | leRk (dd da db : DReg)
  /-- LE_I_R (R279): Relational less-or-equal with a constant. -/
  | leIR (dd da : DReg) (imm : BitVec 32)
  /-- LE_I_RK (R276): Kept less-or-equal with a constant. -/
  | leIRk (dd da : DReg) (imm : BitVec 32)
  /-- IN_R (R280): Narrows Dd to set(Da). -/
  | inR (dd da : DReg)
  /-- IN_RK (R280): Kept membership constraint watching both registers. -/
  | inRk (dd da : DReg)
  /-- ALLDIFF_R (R280): Pairwise distinctness pass over n registers. -/
  | alldiffR (dd : DReg) (imm : BitVec 32)
  /-- ALLDIFF_RK (R280): Kept all-different constraint. -/
  | alldiffRk (dd : DReg) (imm : BitVec 32)
  /-- DSET (R281): Sets a dense domain from two singleton bounds. -/
  | dset (dd da db : DReg)
  /-- DFULL (R281): Sets the full domain. -/
  | dfull (dd : DReg)
  /-- DMASK (R281): Replaces half of the mask and canonicalises. -/
  | dmask (dd da : DReg) (imm : BitVec 32)
  /-- DLO (R281): Singleton of a domain's lo. -/
  | dlo (dd da : DReg)
  /-- DHI (R281): Singleton of a domain's hi. -/
  | dhi (dd da : DReg)
  /-- DSIZE (R281): Singleton of a domain's cardinality. -/
  | dsize (dd da : DReg)
  /-- DEXCL (R282): Trailed exclusion of a register's value. -/
  | dexcl (dd db : DReg)
  /-- DEXCL_I (R282): Trailed exclusion of a constant. -/
  | dexclI (dd : DReg) (imm : BitVec 32)
  /-- DPICK (R288): Propagates, then narrows Dd to its lo at a fixed point. -/
  | dpick (dd : DReg)
  /-- RESTORE (R291): Undoes the trail to mark n and truncates store and queue. -/
  | restore (mark : BitVec 32)
  /-- PREP (R301): Writes a relative target into a B register. -/
  | prep (bt : BReg) (off : BitVec 34)
  /-- PREPI (R301): Writes a register-indexed relative target. -/
  | prepi (bt : BReg) (da : DReg) (k : BitVec 34)
  /-- PREPJ (R302): Loads a target from a jump table or uses the default. -/
  | prepj (bt : BReg) (da : DReg) (bd : BdReg) (count : BitVec 14) (off : BitVec 20)
  /-- CMP (R303): Signed comparison of two registers into a condition bit. -/
  | cmp (rel : BitVec 2) (neg : Bool) (c : CReg) (da db : DReg)
  /-- CMP_I (R303): Signed comparison with an immediate. -/
  | cmpI (rel : BitVec 2) (neg : Bool) (c : CReg) (da : DReg) (imm : BitVec 32)
  /-- CMPU (R303): Unsigned comparison of two registers. -/
  | cmpu (rel : BitVec 2) (neg : Bool) (c : CReg) (da db : DReg)
  /-- CMPU_I (R303): Unsigned comparison with an immediate. -/
  | cmpuI (rel : BitVec 2) (neg : Bool) (c : CReg) (da : DReg) (imm : BitVec 32)
  /-- CMPD_SINGLE (R304): Tests whether a domain is a singleton. -/
  | cmpdSingle (neg : Bool) (c : CReg) (da : DReg)
  /-- CMPD_HAS (R304): Tests membership of a register's value. -/
  | cmpdHas (neg : Bool) (c : CReg) (da db : DReg)
  /-- CMPD_HAS_I (R304): Tests membership of an immediate. -/
  | cmpdHasI (neg : Bool) (c : CReg) (da : DReg) (imm : BitVec 32)
  /-- CMPD_WIDTH (R304): Tests a domain's size against a register. -/
  | cmpdWidth (neg : Bool) (c : CReg) (da db : DReg)
  /-- CMPD_WIDTH_I (R304): Tests a domain's size against an immediate. -/
  | cmpdWidthI (neg : Bool) (c : CReg) (da : DReg) (imm : BitVec 32)
  /-- XFER (R305): Unconditional transfer after two delay bundles. -/
  | xfer (bt : BReg)
  /-- XFER_C (R305): Conditional transfer. -/
  | xferC (bt : BReg) (neg : Bool) (c : CReg)
  /-- XFERL (R305): Transfer with link. -/
  | xferl (bt bl : BReg)
  /-- XFERL_C (R305): Conditional transfer with link. -/
  | xferlC (bt bl : BReg) (neg : Bool) (c : CReg)
  /-- LOOPB (R306): Arms both engines' next REP with a count and skews. -/
  | loopb (da : DReg) (mskew cskew : BitVec 8)
  /-- LOOPCUT (R307): Cuts broadcast loops at a register count. -/
  | loopcut (da : DReg)
  /-- LOOPCUT_I (R307): Cuts broadcast loops at an immediate count. -/
  | loopcutI (k : BitVec 32)
  /-- POST_D (R308): Posts the event a register names. -/
  | postD (da : DReg)
  /-- POST (R308): Posts Ek as a release of earlier accesses. -/
  | post (k : EvNum)
  /-- AWAIT_D (R308): Waits on the event a register names. -/
  | awaitD (da : DReg)
  /-- AWAIT (R308): Waits until Ek is served. -/
  | await (k : EvNum)
  /-- SPAWN (R309): Submits a child RCB as a release. -/
  | spawn (bd : BdReg) (da : DReg) (imm : BitVec 20)
  /-- YIELD (R310): Writes a continuation record and frees the user context. -/
  | yield (bd : BdReg) (da : DReg) (imm : BitVec 20)
  /-- TRAP (R319): Raises TRAP after commit. -/
  | trap (k : BitVec 16)
  /-- SYSCALL (R320): Posts a request to the firmware context and waits. -/
  | syscall (k : BitVec 16)
  /-- BRK (R319): Raises DEBUG with BRKHIT, or is a NOP without the debug capability. -/
  | brk (k : BitVec 16)
  /-- MFSR (R321): Reads half of a system register, latching 64-bit counters. -/
  | mfsr (da : DReg) (r : SysReg) (high : Bool)
  /-- MTSR (R321): Writes a system register field by field. -/
  | mtsr (r : SysReg) (da db : DReg)
  /-- BDSET (R323): Writes one part of a buffer descriptor. -/
  | bdset (bd : BdReg) (part : BitVec 3) (da : DReg)
  /-- TEMIT (R324): Emits a TEMIT trace record. -/
  | temit (da db : DReg)
  /-- RFBEGIN (R326): Latches a refinement descriptor and transfers to FACTOR. -/
  | rfbegin (bd : BdReg) (da : DReg) (imm : BitVec 20)
  /-- RFTEST (R328): Tests the residual norm: converge, continue, escalate, exit or diverge. -/
  | rftest (v : VReg)
  /-- LD (R334): Local SRAM load. -/
  | ld (z : LoadSize) (dd : DReg) (m : MemOp)
  /-- ST (R334): Store, local in issue order or sent as WR. -/
  | st (z : StoreSize) (ds : DReg) (m : MemOp)
  /-- STN (R335): Nibble store under a mask. -/
  | stn (ds : DReg) (m : MemOp) (mask : BitVec 2)
  /-- LDR (R336): Split-phase load through any kind. -/
  | ldr (z : LoadSize) (dd : DReg) (m : MemOp) (k : EvNum)
  /-- LDV (R337): Loads a 16-row tile from local SRAM. -/
  | ldv (v : VReg) (m : MemOp) (dp : DReg)
  /-- STV (R337): Stores a tile to local SRAM. -/
  | stv (v : VReg) (m : MemOp) (dp : DReg)
  /-- LDVP (R339): Probe load of a tile with a per-row residency predicate. -/
  | ldvp (v : VReg) (m : MemOp) (p : PReg)
  /-- GATHV (R338): Gathers 1,024 elements by an index tile. -/
  | gathv (v : VReg) (m : MemOp) (vi : VReg)
  /-- SCATV (R338): Scatters 1,024 elements by an index tile. -/
  | scatv (v : VReg) (m : MemOp) (vi : VReg)
  /-- PAGEREQ (R340): Walks a page and writes a page request if it is absent. -/
  | pagereq (m : MemOp)
  /-- PREFETCH (R340): Walks and installs translations for a range. -/
  | prefetch (dn : DReg) (m : MemOp)
  /-- SOPEN (R342): Opens a stream register of a given kind. -/
  | sopen (kind : BitVec 2) (f : FReg) (m : MemOp) (dq : DReg)
  /-- SADV (R343): Advances a stream's position. -/
  | sadv (f : FReg) (dn : DReg)
  /-- SGET (R343): Reads the stream element at POS. -/
  | sget (dd : DReg) (f : FReg)
  /-- VSGET (R343): Reads 1,024 stream elements into a tile. -/
  | vsget (v : VReg) (f : FReg)
  /-- STEND (R343): Tests for the end of a stream. -/
  | stend (c : CReg) (f : FReg)
  /-- SCLOSE (R343): Closes a stream register. -/
  | sclose (f : FReg)
  /-- WSET (R333): Opens a wrap register ring. -/
  | wset (w : WReg) (m : MemOp) (dn : DReg)
  /-- AMO_ADD (R344): Atomic add at the home. -/
  | amoAdd (wide : Bool) (dd : DReg) (m : AtomOp) (ds : DReg)
  /-- AMO_MIN (R344): Atomic signed minimum. -/
  | amoMin (wide : Bool) (dd : DReg) (m : AtomOp) (ds : DReg)
  /-- AMO_MAX (R344): Atomic signed maximum. -/
  | amoMax (wide : Bool) (dd : DReg) (m : AtomOp) (ds : DReg)
  /-- AMO_AND (R344): Atomic AND. -/
  | amoAnd (wide : Bool) (dd : DReg) (m : AtomOp) (ds : DReg)
  /-- AMO_OR (R344): Atomic OR. -/
  | amoOr (wide : Bool) (dd : DReg) (m : AtomOp) (ds : DReg)
  /-- AMO_XOR (R344): Atomic XOR. -/
  | amoXor (wide : Bool) (dd : DReg) (m : AtomOp) (ds : DReg)
  /-- AMO_SWAP (R344): Atomic swap. -/
  | amoSwap (wide : Bool) (dd : DReg) (m : AtomOp) (ds : DReg)
  /-- CAS (R344): Compare-and-swap with success and failure orders. -/
  | cas (wide : Bool) (dd : DReg) (m : AtomOp) (ds : DReg)
  /-- LDA (R345): Acquire load. -/
  | lda (wide : Bool) (dd : DReg) (m : MemOp)
  /-- STL (R345): Release store. -/
  | stl (wide : Bool) (ds : DReg) (m : MemOp)
  /-- FENCE (R346): Orders earlier and later accesses of the masked classes. -/
  | fence (scope : BitVec 3) (mask : BitVec 16)
  /-- BARWINIT (R348): Initialises a stage barrier word. -/
  | barwinit (dt : DReg) (m : MemOp) (exact : Bool)
  /-- BARWADD (R348): Adds a count to a barrier word. -/
  | barwadd (dn : DReg) (m : AtomOp)
  /-- BARWWAIT (R349): Waits for a generation, with an optional timeout. -/
  | barwwait (dg : DReg) (m : MemOp) (dt : DReg)
  /-- BARWTRY (R349): Tests a generation once. -/
  | barwtry (dg : DReg) (m : MemOp) (c : CReg)
  /-- WQPUSH (R350): Pushes a deque item at BOTTOM. -/
  | wqpush (q : BitVec 4) (m : MemOp) (c : CReg)
  /-- WQPOP (R351): Pops the item at BOTTOM. -/
  | wqpop (q : BitVec 4) (m : MemOp) (c : CReg)
  /-- WQPOP_ONE (R351): Bind-pops one index from a RANGE item. -/
  | wqpopOne (q : BitVec 4) (m : MemOp) (c : CReg)
  /-- WQSTEAL (R351): Steals the item at TOP. -/
  | wqsteal (q : BitVec 4) (m : MemOp) (c : CReg)
  /-- LGATHER (R352): Lookup core gathers up to 8 table rows. -/
  | lgather (dd : DReg) (m : MemOp) (n : BitVec 3)
  /-- LDEDUP (R353): Compacts registers to their distinct values. -/
  | ldedup (dd : DReg) (scope : BitVec 3) (dk : DReg) (n : BitVec 3)
  /-- LPOOL (R354): Pools rows by sum, mean or max. -/
  | lpool (op : BitVec 2) (dd : DReg) (scope : BitVec 3) (ds : DReg) (rows : BitVec 4) (rsz : BitVec 20)
  /-- LHAND (R355): Sends swizzled chunks counted on a barrier word. -/
  | lhand (ds : DReg) (m : MemOp) (dw : DReg)
  /-- VADD (R362): Elementwise add. -/
  | vadd (f : BitVec 4) (vd va vb : VReg) (p : PReg)
  /-- VSUB (R362): Elementwise subtract. -/
  | vsub (f : BitVec 4) (vd va vb : VReg) (p : PReg)
  /-- VMUL (R362): Elementwise multiply. -/
  | vmul (f : BitVec 4) (vd va vb : VReg) (p : PReg)
  /-- VFMA (R362): Fused a × b + c. -/
  | vfma (f : BitVec 4) (vd va vb vc : VReg) (p : PReg)
  /-- VFMS (R362): Fused a × b − c. -/
  | vfms (f : BitVec 4) (vd va vb vc : VReg) (p : PReg)
  /-- VMIN (R362): Elementwise minimum. -/
  | vmin (f : BitVec 4) (vd va vb : VReg) (p : PReg)
  /-- VMAX (R362): Elementwise maximum. -/
  | vmax (f : BitVec 4) (vd va vb : VReg) (p : PReg)
  /-- VABS (R362): Elementwise absolute value. -/
  | vabs (f : BitVec 4) (vd va : VReg) (p : PReg)
  /-- VNEG (R362): Elementwise negation. -/
  | vneg (f : BitVec 4) (vd va : VReg) (p : PReg)
  /-- VAND (R363): Bitwise AND of tiles. -/
  | vand (vd va vb : VReg) (p : PReg)
  /-- VOR (R363): Bitwise OR of tiles. -/
  | vor (vd va vb : VReg) (p : PReg)
  /-- VXOR (R363): Bitwise XOR of tiles. -/
  | vxor (vd va vb : VReg) (p : PReg)
  /-- VSHL (R363): Shift left. -/
  | vshl (f : BitVec 4) (vd va : VReg) (cnt : ShiftCount) (p : PReg)
  /-- VSHR (R363): Logical shift right. -/
  | vshr (f : BitVec 4) (vd va : VReg) (cnt : ShiftCount) (p : PReg)
  /-- VSRA (R363): Arithmetic shift right. -/
  | vsra (f : BitVec 4) (vd va : VReg) (cnt : ShiftCount) (p : PReg)
  /-- VCMP (R364): Compares tiles into a predicate. -/
  | vcmp (rel : BitVec 3) (f : BitVec 4) (pd : PReg) (va vb : VReg) (p : PReg)
  /-- VSEL (R365): Selects elements by predicate. -/
  | vsel (vd va vb : VReg) (sel : PReg)
  /-- VMOV (R365): Copies a tile and its tag. -/
  | vmov (vd va : VReg) (p : PReg)
  /-- VSPLAT (R366): Splats a singleton over a tile. -/
  | vsplat (f : BitVec 4) (vd : VReg) (ds : DReg) (p : PReg)
  /-- VIOTA (R366): Writes element indices. -/
  | viota (m : BitVec 2) (vd : VReg) (p : PReg)
  /-- VCVT (R367): Converts value by value between formats. -/
  | vcvt (t : BitVec 4) (vd va : VReg) (p : PReg)
  /-- VQUANT (R368): Block-quantises to FP8 or FP4 with UE8M2 scales. -/
  | vquant (t : BitVec 4) (vd vc va : VReg)
  /-- VDEQ (R369): Dequantises with block scales. -/
  | vdeq (vd va vb : VReg) (p : PReg)
  /-- VCLASS (R370): Classifies elements into a predicate. -/
  | vclass (pd : PReg) (va : VReg) (m : BitVec 4) (p : PReg)
  /-- PAND (R371): Predicate AND. -/
  | pand (pd pa pb : PReg) (p : PReg)
  /-- POR (R371): Predicate OR. -/
  | por (pd pa pb : PReg) (p : PReg)
  /-- PXOR (R371): Predicate XOR. -/
  | pxor (pd pa pb : PReg) (p : PReg)
  /-- PNOT (R371): Predicate NOT. -/
  | pnot (pd pa : PReg) (p : PReg)
  /-- VROTR (R372): Rotates along rows. -/
  | vrotr (vd va : VReg) (k : BitVec 6) (p : PReg)
  /-- VROTC (R372): Rotates along columns. -/
  | vrotc (vd va : VReg) (k : BitVec 6) (p : PReg)
  /-- VBCR (R372): Broadcasts a column across rows. -/
  | vbcr (vd va : VReg) (k : BitVec 6) (p : PReg)
  /-- VBCC (R372): Broadcasts a row down columns. -/
  | vbcc (vd va : VReg) (k : BitVec 6) (p : PReg)
  /-- VREDR (R373): Tree reduction of each row. -/
  | vredr (op : BitVec 2) (f : BitVec 4) (vd va : VReg) (p : PReg)
  /-- VREDC (R373): Tree reduction of each column slot. -/
  | vredc (op : BitVec 2) (f : BitVec 4) (vd va : VReg) (p : PReg)
  /-- VSCANR (R374): Inclusive scan along rows. -/
  | vscanr (op : BitVec 2) (f : BitVec 4) (vd va : VReg) (p : PReg)
  /-- VSCANC (R374): Inclusive scan down columns. -/
  | vscanc (op : BitVec 2) (f : BitVec 4) (vd va : VReg) (p : PReg)
  /-- VTRN (R375): Transposes 16 × 16 blocks. -/
  | vtrn (vd va : VReg)
  /-- VSFU_EXP2 (R376): 2^x on the special-function unit. -/
  | vsfuExp2 (vd va : VReg) (p : PReg)
  /-- VSFU_LOG2 (R376): log2 x. -/
  | vsfuLog2 (vd va : VReg) (p : PReg)
  /-- VSFU_RCP (R376): Reciprocal. -/
  | vsfuRcp (vd va : VReg) (p : PReg)
  /-- VSFU_RSQRT (R376): Reciprocal square root. -/
  | vsfuRsqrt (vd va : VReg) (p : PReg)
  /-- VSFU_SQRT (R376): Square root. -/
  | vsfuSqrt (vd va : VReg) (p : PReg)
  /-- VSFU_SINPI (R376): sin(πx). -/
  | vsfuSinpi (vd va : VReg) (p : PReg)
  /-- VSFU_COSPI (R376): cos(πx). -/
  | vsfuCospi (vd va : VReg) (p : PReg)
  /-- VSFU_TANH (R376): tanh x. -/
  | vsfuTanh (vd va : VReg) (p : PReg)
  /-- VSFU_SIGM (R376): Logistic sigmoid. -/
  | vsfuSigm (vd va : VReg) (p : PReg)
  /-- VSFU_ERF (R376): erf x. -/
  | vsfuErf (vd va : VReg) (p : PReg)
  /-- VANY (R378): Condition bit set if any predicate bit is set. -/
  | vany (c : CReg) (p : PReg)
  /-- VALL (R378): Condition bit set if all predicate bits are set. -/
  | vall (c : CReg) (p : PReg)
  /-- VCOMPRESS (R379): 2:4 compression into values and IDX2 metadata. -/
  | vcompress (vd vc va : VReg)
  /-- VEXPAND (R380): 2:4 expansion from values and metadata. -/
  | vexpand (vd va vb : VReg) (p : PReg)
  /-- VEXTR (R381): Extracts one element into a domain register. -/
  | vextr (dd : DReg) (va : VReg) (row : BitVec 4) (col : BitVec 6)
  /-- VINSR (R381): Inserts a singleton into one element. -/
  | vinsr (vd : VReg) (ds : DReg) (row : BitVec 4) (col : BitVec 6)
  /-- ESTART (R420): Starts or resumes the matrix or copy engine. -/
  | estart (copy : Bool) (da : DReg)
  /-- ESTOP (R421): Stops an engine and waits until it is idle. -/
  | estop (copy : Bool)
  /-- ESTAT (R422): Reads one engine status item. -/
  | estat (dd : DReg) (copy : Bool) (item : BitVec 3)
  /-- GOPEN (R423): Opens a gloss list into a handle snapshot. -/
  | gopen (g : GReg) (bd : BdReg) (da : DReg) (imm : BitVec 20)
  /-- GATTACH (R424): Attaches a layer to a gloss list as a release. -/
  | gattach (g : GReg) (bd : BdReg) (da : DReg) (imm : BitVec 20)
  /-- GDETACH (R425): Detaches a gloss layer slot. -/
  | gdetach (c : CReg) (g : GReg) (slot : BitVec 3)
  /-- GFOLD (R426): Starts a fold of a handle's snapshot into a new list. -/
  | gfold (c : CReg) (g : GReg) (bda : BdReg) (da : DReg) (bdb : BdReg) (db : DReg) (tag : BitVec 4)
  /-- LIT (R383): Pushes a sign-extended 12-bit literal. -/
  | lit (v : BitVec 12)
  /-- LITX (R383): Extends the top entry by 12 bits. -/
  | litx (v : BitVec 12)
  /-- PUSHD (R384): Pushes a singleton domain register's value. -/
  | pushd (n : DReg)
  /-- PUSHB (R383): Pushes half of a descriptor's BASE. -/
  | pushb (n : BdReg) (high : Bool)
  /-- JMP (R383): Jumps within the engine stream. -/
  | jmp (k : BitVec 10)
  /-- ENGINE_POST (R174): Posts an event after earlier launch words have completed. -/
  | enginePost (k : EvNum)
  /-- ENGINE_AWAIT (R184): Holds the engine until an event is served. -/
  | engineAwait (k : EvNum)
  /-- POWER_ON_RESET (R22): After power-on or reset the management core runs from ROM, verifies the slot A firmware and starts the bring-up steps in order. -/
  | powerOnReset
  /-- BRINGUP_STEP_COMPLETE (R23): A bring-up step instance passes or fails; its journal record and ladder policy are written, its READYMAP bit set, or it is fenced, and the start may halt. -/
  | bringupStepComplete
  /-- THERMAL_POLL (R15): Every 100 µs the management core reads all sensors and acts on the highest tile reading. -/
  | thermalPoll
  /-- CLOCK_ADJUST_TICK (R15): Each 1 ms the core clock is lowered or raised by 100 MHz, as the current reading requires. -/
  | clockAdjustTick
  /-- GOVERNOR_WINDOW (R18): In issue-budget mode a new 64-cycle window begins and a stalled matrix array may resume. -/
  | governorWindow
  /-- GOVERNOR_BUDGET_STALL (R18): Once the array has been active BUDGET + 1 cycles in a window, it stalls until the window ends. -/
  | governorBudgetStall
  /-- TOKEN_ARRIVAL (R19): A token reaches a tile and is held for a burst or passed on in the next cycle. -/
  | tokenArrival
  /-- TOKEN_BURST_END (R19): A burst ends when its lease ends or after 1,024 cycles, and the token passes to the next tile. -/
  | tokenBurstEnd
  /-- RUNTIME_FENCE (R29): The management core fences a tile, stack, port or die while running: READYMAP bit cleared, FENCE record written, requests refused. -/
  | runtimeFence
  /-- DISTRIBUTOR_TAKEOVER (R119): The surviving distributor raises TERM, reads the lost die's journal, faults or re-deals regions, and resumes serving the LFE. -/
  | distributorTakeover
  /-- I3C_REQUEST (R55): A board-management request on I3C reads the journal, sensors or READYMAP. -/
  | i3cRequest
  /-- I3C_SERVICE_COMMAND (R24): A service command clears journal entries, resetting ladders and REPLREQ. -/
  | i3cServiceCommand
  /-- JTAG_INSTRUCTION (R56): An IEEE 1149.1 mandatory instruction is executed. -/
  | jtagInstruction
  /-- DEBUG_ACCESS_CHALLENGE (R56): The private debug-access instruction opens after an ECDSA answer to the seal's challenge. -/
  | debugAccessChallenge
  /-- SEAL_KEY_INSTALL (R161): The seal installs or removes a memory key for a key ID, on request of system software or an attested tenant. -/
  | sealKeyInstall
  /-- SEAL_TRACE_KEY_INSTALL (R136): The tenant installs the trace key of a confidential PASID after attestation. -/
  | sealTraceKeyInstall
  /-- SEAL_ATTESTATION (R31): The seal issues an attestation report with the units in service and the replacement flag. -/
  | sealAttestation
  /-- LINNOR_FLIT_RECEIVE (R33): A received flit is corrected by FEC and checked by CRC; a flit that fails is discarded, and credits and ACK are taken. -/
  | linnorFlitReceive
  /-- LINNOR_FLIT_TRANSMIT (R35): A port sends a data, idle, retry-request or retrain-request flit, holding sent data flits in the replay buffer. -/
  | linnorFlitTransmit
  /-- LINNOR_RETRY_REQUEST (R35): A received retry request makes the transmitter resend from the named sequence. -/
  | linnorRetryRequest
  /-- RETRY_REQUEST_TIMEOUT (R35): After 2 µs without the missing flit the receiver sends another retry request. -/
  | retryRequestTimeout
  /-- LINNOR_RETRAIN (R35): After 8 failed requests for one sequence both ends retrain and resume from the oldest unacknowledged flit. -/
  | linnorRetrain
  /-- RETRY_LIMIT_EXCEEDED (R35): 4,096 resent flits within one second exceed the port's retry limit. -/
  | retryLimitExceeded
  /-- LINNOR_RD (R38): An incoming RD is checked against the export entries, performed and answered with RDRSP or ERR. -/
  | linnorRd
  /-- LINNOR_WR (R38): An incoming WR is checked, performed at its home and answered with WRACK or ERR. -/
  | linnorWr
  /-- LINNOR_ATOM (R39): An incoming atomic is checked for width, alignment and operation, performed at its home and answered with ATOMRSP or ERR. -/
  | linnorAtom
  /-- LINNOR_MSG (R47): An incoming MSG is written into the message ring, or answered BUSY when the ring is full or disabled. -/
  | linnorMsg
  /-- LINNOR_WAKE (R49): An incoming WAKE is delivered as a MSG, or while all cores are gated it is matched against the wake filter, held, and restores its core. -/
  | linnorWake
  /-- LINNOR_RESERVED_KIND (R38): A packet of a reserved kind is answered ERR MALFORMED. -/
  | linnorReservedKind
  /-- LINNOR_RDRSP (R38): A read response returns data for an outstanding request tag. -/
  | linnorRdrsp
  /-- LINNOR_WRACK (R38): A write acknowledgement completes an outstanding write, which has now performed. -/
  | linnorWrack
  /-- LINNOR_ATOMRSP (R45): An atomic response returns the old value and sets the learned path capability bit. -/
  | linnorAtomrsp
  /-- LINNOR_MSGACK (R38): A message acknowledgement completes an outstanding MSG or WAKE. -/
  | linnorMsgack
  /-- LINNOR_ERR (R40): An error response is mapped to the issuer's trap, learns capability on UNSUPPORTED, or schedules a resend on IDLE or BUSY. -/
  | linnorErr
  /-- LINNOR_RESEND_TIMER (R40): Every 4 µs a request answered IDLE or BUSY is resent. -/
  | linnorResendTimer
  /-- LINNOR_REQUEST_GIVEUP (R40): After 10 ms without success the request is reported as ECC_UNCORR. -/
  | linnorRequestGiveup
  /-- WAKE_REPLAY (R99): A restored core's firmware enters a held frame in the message ring, sends its MSGACK and clears HELD. -/
  | wakeReplay
  /-- PCIE_INBOUND_REQUEST (R51): An inbound device request is translated by the IOMMU and performed. -/
  | pcieInboundRequest
  /-- PCIE_ATS_PRI_REQUEST (R51): An ATS or Page Request Interface request is answered Unsupported Request. -/
  | pcieAtsPriRequest
  /-- PCIE_ATOMICOP_INBOUND (R52): An inbound 32- or 64-bit AtomicOp is completed at its home; a 128-bit CAS is refused. -/
  | pcieAtomicopInbound
  /-- BAR0_ACCESS (R80): A host access through BAR0 reads the management window, or writes only MSGHEAD and IDLECTL. -/
  | bar0Access
  /-- BAR2_ACCESS (R53): A host access through BAR2 reaches BASE × 2^30 + offset, or is aborted when EN is 0. -/
  | bar2Access
  /-- MGMT_WINDOW_BAD_ACCESS (R79): A management-window access that is not an aligned 8-byte access is answered with an error and has no effect. -/
  | mgmtWindowBadAccess
  /-- REGISTER_WRITE (R7): A write to a register that has no behaviour of its own updates its fields by their access codes. -/
  | registerWrite
  /-- ROUTER_CYCLE (R66): Each cycle a router ranks its arrivals, ejects, routes productively or deflects them, and takes a pending injection. -/
  | routerCycle
  /-- PACKET_EJECT (R72): A packet is offered to its destination and performed, buffered for reassembly, or refused by sequence and partition checks. -/
  | packetEject
  /-- MESH_RD (R61): A read request is performed at its home and answered with RDD or NACK. -/
  | meshRd
  /-- MESH_WR (R61): A write is performed at its home and answered with WACK or NACK. -/
  | meshWr
  /-- MESH_WRB (R62): A write is performed, then LEN + 1 is added to the named barrier word, and WACK is sent. -/
  | meshWrb
  /-- MESH_WRN (R61): A nibble write is performed under its mask at the home. -/
  | meshWrn
  /-- MESH_AMO (R62): An atomic is performed at its home and answered with AMOR or NACK. -/
  | meshAmo
  /-- MESH_BADD (R176): A count is added to a barrier word, which may advance its generation. -/
  | meshBadd
  /-- HOP_BINIT (R63): A barrier word is initialised at its home with TARGET and EXACT. -/
  | hopBinit
  /-- HOP_BREAD (R63): Bytes 0–23 of a barrier word are read in one step and returned. -/
  | hopBread
  /-- HOP_BTIMEOUT (R349): TIMEOUT is set if generation g has not been reached, and the word is returned with status. -/
  | hopBtimeout
  /-- HOP_WQPUSH (R63): A deque item is pushed at BOTTOM, or FULL is returned. -/
  | hopWqpush
  /-- HOP_WQPOP (R115): The item at BOTTOM is taken, or split by the ONE flag, or EMPTY is returned. -/
  | hopWqpop
  /-- HOP_WQSTEAL (R115): The item at TOP is taken, or EMPTY is returned, the owner winning a tie for the last item. -/
  | hopWqsteal
  /-- HOP_GREAD (R63): A gloss list is read in one step and returned in four HOPRs. -/
  | hopGread
  /-- HOP_GATTACH (R228): A layer is attached at the list's home, or refused with GLOSS_OVF. -/
  | hopGattach
  /-- HOP_GDETACH (R228): A slot's DVER is set and VERSION advances, or the detach is refused. -/
  | hopGdetach
  /-- HOP_GFOLD (R228): FOLDING is set and the fold engine starts, or the fold is refused. -/
  | hopGfold
  /-- HOP_CNTINC (R160): A far-memory access counter byte is incremented, saturating, and a notice is written at THRESH. -/
  | hopCntinc
  /-- HOP_RESERVED (R63): A HOP with a reserved operation is discarded and reported as a machine check. -/
  | hopReserved
  /-- MESH_RESERVED_KIND (R61): A packet of a reserved kind is discarded and reported as a machine check. -/
  | meshReservedKind
  /-- MESH_RDD (R61): Read data returns to its requester. -/
  | meshRdd
  /-- MESH_WACK (R61): A write acknowledgement returns and may trigger a copy engine's BADD. -/
  | meshWack
  /-- MESH_AMOR (R61): An atomic's old value returns to the interlocked bundle. -/
  | meshAmor
  /-- MESH_NACK (R64): A NACK returns and raises its trap precisely, at the next bundle boundary, or as an engine fault. -/
  | meshNack
  /-- MESH_HOPR (R63): A home-operation response returns its result and status. -/
  | meshHopr
  /-- LQCTL_ENABLE (R82): Setting V checks SIZE and PASID; on success STOP and ERR clear and fetch resumes at LQHEAD, otherwise ERR 4 or 5 is set. -/
  | lqctlEnable
  /-- LQCTL_DISABLE (R82): Clearing V takes effect between records; a pending WAIT is abandoned. -/
  | lqctlDisable
  /-- LQTAIL_DOORBELL (R83): A write to LQTAIL is a release that makes records fetchable, and may wake the package from idle. -/
  | lqtailDoorbell
  /-- LFE_RECORD_FETCH (R83): The LFE fetches the next record of the highest-priority ready queue and checks it. -/
  | lfeRecordFetch
  /-- WAIT_RECORD_SATISFIED (R86): WAITBW reaches WAITGEN: STATUS is set done and LQHEAD passes the record. -/
  | waitRecordSatisfied
  /-- SIGNAL_RECORD (R86): A SIGNAL record adds DONEADD to DONEBW as a release, then sets STATUS done. -/
  | signalRecord
  /-- LAUNCH_WAIT_SATISFIED (R86): A LAUNCH's WAITBW reaches WAITGEN and the region may start. -/
  | launchWaitSatisfied
  /-- LAUNCH_GRANT (R116): The master distributor grants tiles and cores, splits indices, and deals grains into the deques. -/
  | launchGrant
  /-- SHADOW_BANK_LOADED (R92): The last write to a shadow bank performs and the bank becomes LOADED. -/
  | shadowBankLoaded
  /-- BANK_SWAP (R92): A LOADED shadow bank swaps into the active bank once the core has no active work. -/
  | bankSwap
  /-- BANK_SWAP_DONE (R92): After 16 cycles the shadow bank is EMPTY and the new operator's tasks dispatch. -/
  | bankSwapDone
  /-- LAUNCH_COMPLETION (R94): The LFE writes T_DONE and STATUS, adds DONEADD to DONEBW and sends the MSI. -/
  | launchCompletion
  /-- IDLE_NOW (R98): A write of NOW begins idle entry, or is ignored while a region exists. -/
  | idleNow
  /-- IDLECTL_WAKE_WRITE (R99): An IDLECTL write with EN 0 in IDLE wakes every unfenced core. -/
  | idlectlWakeWrite
  /-- IDLE_DELAY_EXPIRY (R98): After DELAY µs with no work and no region, idle entry begins. -/
  | idleDelayExpiry
  /-- IDLE_ENTERED (R98): The last control core is gated, STATE becomes IDLE and the wake filters take over. -/
  | idleEntered
  /-- WAKE_COMPLETE (R99): The first restored core reports ready and STATE becomes RUNNING. -/
  | wakeComplete
  /-- PASID_ACTIVATE (R101): ACTIVATE makes a FREE PASID ACTIVE. -/
  | pasidActivate
  /-- PASID_TEARDOWN (R101): TEARDOWN quiesces a PASID: queues stopped, regions faulted, walks discarded, faults marked STALE. -/
  | pasidTeardown
  /-- PASID_STATUS_SELECT (R101): A PASIDCMD write with CMD 0b00 selects the PASID whose state PASIDSTAT returns. -/
  | pasidStatusSelect
  /-- PASID_TEARDOWN_COMPLETE (R101): When OUTSTANDING reaches zero the PASID's TLB entries are invalidated and STATE becomes FREE. -/
  | pasidTeardownComplete
  /-- WALK_COMPLETE (R149): A page walk ends: its entry is installed, or a fault record is written or joined, or PROT is raised. -/
  | walkComplete
  /-- FAULT_RECORD_DEFERRED (R156): A fault that waited for room has its record written in order, with its JOINED count. -/
  | faultRecordDeferred
  /-- FBRESOLVE_RETRY (R156): RETRY releases every access waiting on the open fault, and they try again. -/
  | fbresolveRetry
  /-- FBRESOLVE_PAGE (R153): PAGE resolves the fault and raises PAGE in the issuing context. -/
  | fbresolvePage
  /-- FBRESOLVE_PROT (R153): PROT resolves the fault and raises PROT in the issuing context. -/
  | fbresolveProt
  /-- IOTINVAL_VMA (R152): An IOMMU invalidation removes matching entries from every tile, second-level and LFE TLB. -/
  | iotinvalVma
  /-- IOFENCE_C (R152): The fence completes once earlier walks have ended and old-translation accesses have performed. -/
  | iofenceC
  /-- COUNTER_EPOCH_SWEEP (R159): Every 2^EPOCH µs all far-memory access counters are halved. -/
  | counterEpochSweep
  /-- SPAWN_VALIDATE (R104): The distributor validates a submitted RCB and writes ID, PARENT, SAVE and STATE QUEUED or REJECTED. -/
  | spawnValidate
  /-- REGION_COMPLETION (R108): With LIVE and CHILDREN at zero, the region becomes DONE, returns carved resources, advances DONEBW and tells its parent. -/
  | regionCompletion
  /-- REGION_FAULT (R109): A fatal fault ends the nearest fault-domain region and its subtree: tasks stopped, mesh drained, partitions released, FLTBW advanced. -/
  | regionFault
  /-- TASK_DISPATCH (R121): A free user context takes the lowest armed bind record and starts it within 24 cycles. -/
  | taskDispatch
  /-- CONTINUATION_ELIGIBLE (R113): An eligibility read finds PENDING at 0 and every listed generation reached. -/
  | continuationEligible
  /-- LEVEL_PROMOTION (R122): Each 2^20 cycles spent eligible and unbound raise a continuation's level by one. -/
  | levelPromotion
  /-- GRAIN_REQUEST (R117): A core with no work asks its die's distributor for the lowest PENDING grain. -/
  | grainRequest
  /-- PREEMPT_REQUEST (R126): The master distributor stops a root tree, drains it, saves its SRAM, images and copy records, and marks it PREEMPTED. -/
  | preemptRequest
  /-- PREEMPT_RESUME (R126): A pre-empted tree is restored in reverse order once its resources are free. -/
  | preemptResume
  /-- LEASE_GRANT (R124): The matrix lease is granted by priority, round-robin and share to a waiting sequencer. -/
  | leaseGrant
  /-- LEASE_CYCLE_LIMIT (R196): A lease ends after 1,024 cycles and is re-arbitrated. -/
  | leaseCycleLimit
  /-- EVENT_CYCLE_UPDATE (R184): Each cycle POSTs are applied and waiting AWAITs are served in stream order. -/
  | eventCycleUpdate
  /-- DEFERRED_TRAP (R317): An LDR report or engine fault is taken at the next bundle boundary in priority order. -/
  | deferredTrap
  /-- FIRMWARE_RESTART (R315): After a firmware-context trap the management core restarts that context from the verified firmware. -/
  | firmwareRestart
  /-- SYSCALL_RELEASE (R320): Firmware writes PENDING 0, so D8–D11 take the returned values and the user context resumes. -/
  | syscallRelease
  /-- LOOKUP_BANK_WRITE (R200): System software writes a lookup core's active bank, which binds it to a region and counts in LIVE. -/
  | lookupBankWrite
  /-- SAMPLE_TIMER (R134): Every 2^(SPER + 9) cycles a SAMPLE record is put in the quill FIFO. -/
  | sampleTimer
  /-- QUILL_DRAIN (R134): The copy datapath writes a FIFO record or sealed block to the trace ring and updates WRITTEN or LOST. -/
  | quillDrain
  /-- SEAL_TIMEOUT (R136): After 4,096 cycles without a new record a partial block is sealed. -/
  | sealTimeout
  /-- REPLAY_WAIT_TIMEOUT (R140): A replayed atomic that waits 2^24 cycles raises REPLAY_DIVERGE. -/
  | replayWaitTimeout
  /-- BARWWAIT_TIMEOUT_EXPIRY (R349): The wait's timeout expires and a BTIMEOUT request goes to the word's home. -/
  | barwwaitTimeoutExpiry
  /-- MATRIX_PASS_COMMIT (R392): A 24-cycle pass commits its accumulator updates and the step index advances. -/
  | matrixPassCommit
  /-- FOLD_FINISH (R230): The fold engine writes the new list, retires the old one, and adds 1 to the barrier word. -/
  | foldFinish
  /-- FOLD_ABANDON (R230): A fold is abandoned on PAGE, PROT or region fault, and FOLDING clears at the next step. -/
  | foldAbandon
  /-- PROP (R286): Runs the propagation queue to fixed point, budget or failure. -/
  | prop
  /-- CKPT (R287): Propagates and pushes a checkpoint mark at fixed point. -/
  | ckpt
  /-- COMMIT (R292): Removes the youngest mark. -/
  | commit
  /-- NOP (R312): Does nothing. -/
  | nop
  /-- TRANSFER_TAKES_PLACE (R300): The last delay bundle commits, the context continues at XTGT and a pending link is written. -/
  | transferTakesPlace
  /-- RETIRE (R311): Ends the task instance once engines, LDRs and the quill are idle. -/
  | retire
  /-- ERET (R318): Returns from a handler at TRAPPC after landing the handler's results. -/
  | eret
  /-- IDLE (R312): Waits until an event is non-zero or the context is stopped. -/
  | idle
  /-- RFNEXT (R327): Advances FACTOR to SOLVE or SOLVE to RESID and transfers. -/
  | rfnext
  /-- RFEND (R329): Returns the controller to IDLE. -/
  | rfend
  /-- LDR_LANDING (R336): An LDR value lands in its registers and posts its event. -/
  | ldrLanding
  /-- DUP (R383): Duplicates the top entry. -/
  | dup
  /-- DROP (R383): Pops the top entry. -/
  | drop
  /-- SWAP (R383): Exchanges the top two entries. -/
  | swap
  /-- OVER (R383): Pushes a copy of the entry below the top. -/
  | over
  /-- REP (R385): Opens a repeated body with a popped or armed count. -/
  | rep
  /-- ENDREP (R385): Closes or repeats the innermost body. -/
  | endrep
  /-- ENGINE_NOP (R383): Engine word that does nothing. -/
  | engineNop
  /-- HALT (R383): Ends the stream after completion and ends any lease. -/
  | halt
  /-- CLASS (R383): Sets the stream's ordering class. -/
  | classW
  /-- LEASE (R386): Requests the matrix lease and waits for it. -/
  | lease
  /-- FREE (R386): Ends the sequencer's lease. -/
  | free
  /-- MZERO (R387): Zeroes one or both of the core's accumulators. -/
  | mzero
  /-- MWIN (R396): Latches a convolution window from five popped values. -/
  | mwin
  /-- MMA (R390): Unscaled matrix multiply-accumulate. -/
  | mma
  /-- MMAS (R390): Block-scaled matrix multiply-accumulate. -/
  | mmas
  /-- MMASP (R393): Block-scaled multiply with a 2:4 sparse B. -/
  | mmasp
  /-- MSTORE (R398): Stores an accumulator with optional promotion scales. -/
  | mstore
  /-- COPY (R411): Copies a linear byte range. -/
  | copy
  /-- COPY2 (R411): Copies a two-dimensional block of rows. -/
  | copy2
  /-- MCAST (R412): Multicasts bytes to selected tiles of the partition. -/
  | mcast
  /-- GLD (R415): Loads a glossed tile evaluated at the memory slices. -/
  | gld
  /-- DECOMP (R416): Decodes a prefix-coded SPR object into plain layout. -/
  | decomp
  /-- FILL (R413): Fills bytes with a repeated 32-bit pattern. -/
  | fill
  /-- BARANN (R414): Initialises a barrier word after earlier words complete. -/
  | barann
  /-- PCIE_COMPLETION (R52): A PCIe completion or CXL.mem response arrives at a root port for a request the C7 sent, including AtomicOp completions with status Unsupported Request. -/
  | pcieCompletion
  /-- ILLEGAL_BUNDLE (R271): A bundle that is not made of instructions issues, either malformed, with an unassigned or forbidden syllable, or with a non-zero reserved field, and raises ILLEGAL before any commit. -/
  | illegalBundle
  /-- ILLEGAL_ENGINE_WORD (R270): An engine word of groups 1101–1111, a matrix-stream group 1011, or one with reserved bits set is reached and raises ILLEGAL as an engine fault. -/
  | illegalEngineWord
  /-- LOOPB_START_SKEW (R306): The mskew or cskew cycles counted from a LOOPB run out, and an engine waiting at its armed REP starts the first repetition. -/
  | loopbStartSkew
  deriving DecidableEq, Repr

end Sys2Proof
end

