-- ==== Sys2Proof/Machine/State.lean ====
section
/-!
DEFINITION. The state of the C7 package as plain data: every register, memory, queue and table that the spec names, the
order of happenings (`sched`) and the operands of the happening in progress (`inp`), and the state after package reset.
Notes in the assumption log: 1 (one step at a time), 2 (memory), 3 (reset values), 4 (the fetched word), 5 (free values).
Also log entry 127 (records of what the package sends out).
-/

namespace Sys2Proof.Machine

/-! ### Values -/

/-- A domain (R272): bounds and the bitmap of the first 64 values from `lo`. -/
structure Dom where
  lo : Word
  hi : Word
  mask : BitVec 64
  deriving DecidableEq, Repr

/-- The domain that holds one value. -/
def Dom.single (v : Word) : Dom := ⟨v, v, 1⟩

/-- A vector tile (R194, R195): a format tag and 16 × 64 elements, row 0 first. -/
structure VTile where
  tag : BitVec 4
  elems : List Word
  deriving DecidableEq, Repr

/-- A tile of zeros with the tag it has at reset. -/
def VTile.zero : VTile := ⟨0, List.replicate 1024 0⟩

/-- A result on its way to a register (R187, R204). F, G and BD results are always seen by the next bundle. -/
inductive Write
  | d (r : DReg) (x : Dom)
  | v (r : VReg) (x : VTile)
  | p (r : PReg) (x : BitVec 1024)
  | c (r : CReg) (x : Bool)
  | b (r : BReg) (x : Addr)
  | w (r : WReg) (x : BitVec 128)
  | f (r : FReg) (x : BitVec 512)
  | g (r : GReg) (x : BitVec 256)
  | bd (r : BdReg) (x : BitVec 128)
  deriving DecidableEq, Repr

/-- An entry of the pending-write queue (R191, R204): bundles still to issue before the result is seen, the issuing slot
and the issue count of its bundle. -/
structure Pend where
  dist : Nat
  frozen : Bool
  slot : Nat
  count : Nat
  wr : Write
  deriving DecidableEq, Repr

/-! ### A context -/

/-- The register files of a context (R193, R194). -/
structure Regs where
  d : Assoc Dom := []
  v : Assoc VTile := []
  p : Assoc (BitVec 1024) := []
  c : BitVec 8 := 0
  b : Assoc Addr := []
  w : Assoc (BitVec 128) := []
  f : Assoc (BitVec 512) := []
  g : Assoc (BitVec 256) := []
  bd : Assoc (BitVec 128) := []
  /-- The event counts E0–E31 (R184). -/
  ev : Assoc Byte := []
  deriving DecidableEq, Repr

/-- The fields of `STATUS` that are not constant (R313). -/
structure Status where
  xdist : BitVec 2 := 0
  xtgt : BitVec 45 := 0
  intrap : Bool := false
  xlv : Bool := false
  xlb : BReg := 0
  satnan : Bool := false
  rm : BitVec 2 := 0
  deriving DecidableEq, Repr

/-- An entry of the constraint store (R283). -/
structure StoreEntry where
  opc : BitVec 8
  dd : DReg
  da : DReg
  db : DReg
  imm : Word
  deriving DecidableEq, Repr

/-- The constraint store, propagation queue, trail, marks and propagation registers (R283 to R298). `trail` has its
youngest entry first; `marks` its oldest first. -/
structure Cons where
  store : List StoreEntry := []
  queue : List Nat := []
  trail : List (DReg × Dom) := []
  marks : List (Nat × Nat) := []
  pcont : Bool := false
  trapen : Bool := false
  limit : BitVec 16 := 256
  /-- `PROPSTAT`.STATE: 0 NONE, 1 FIXPOINT, 2 BUDGET, 3 FAIL, 4 RUNNING. -/
  pstate : BitVec 3 := 0
  runs : BitVec 17 := 0
  deriving DecidableEq, Repr

/-- The refinement controller (R325 to R329). PHASE: 0 IDLE, 1 FACTOR, 2 SOLVE, 3 RESID, 4 DONE. -/
structure Refine where
  phase : BitVec 3 := 0
  exit : BitVec 2 := 0
  stag : BitVec 2 := 0
  level : BitVec 2 := 0
  iter : Word := 0
  prev : BitVec 64 := 0
  addr : Addr := 0
  desc : List Byte := []
  deriving DecidableEq, Repr

/-- The debug registers (R131 to R138): `bkpt` by number, `tracectl` and `replayctl` whole, and the fields of `DEBUGCTL`.
`suppress` is set by `ERET` for the first bundle after it (R132). -/
structure Debug where
  bkpt : Assoc (BitVec 64) := []
  tracectl : BitVec 64 := 0
  replayctl : BitVec 64 := 0
  sstep : Bool := false
  ehalt : Bool := false
  stephit : Bool := false
  brkhit : Bool := false
  bhit : BitVec 8 := 0
  suppress : Bool := false
  deriving DecidableEq, Repr

/-- What the bound region gives a context (R91, R322). -/
structure Ident where
  group : BitVec 32 := 0
  region : BitVec 12 := 0
  pasid : BitVec 20 := 0
  prio : BitVec 4 := 0
  debug : Bool := false
  conf : Bool := false
  deriving DecidableEq, Repr

/-- A trap to take: its code, argument and source (R314). -/
structure TrapReq where
  code : BitVec 8
  arg : BitVec 16 := 0
  source : BitVec 2 := 0
  /-- How a DEBUG arose: bit 0 SSTEP, bit 1 `BRK`; and the breakpoints that matched (R133). -/
  dbg : BitVec 2 := 0
  bhit : BitVec 8 := 0
  deriving DecidableEq, Repr

/-- A trap taken at a boundary (group 1 of R317): `rank` 0 engine faults and LDR reports, 1 BUDGET, 2 SSTEP DEBUG,
3 SYSCALL, 4 TRAP; `args` holds a SYSCALL's arguments. Rank 5, `BRK`, waits with them but is taken at level 3. -/
structure Deferred where
  rank : Nat
  req : TrapReq
  args : List Word := []
  deriving DecidableEq, Repr

/-- An `LDR` whose value has not landed (R190, R336). `data` holds the value once it has been taken; `fault` names the
virtual address whose translation fault it waits on; `live` is false when a later write of `dd` has landed (R187), and `liveHi` of the register after it; `slotOf` is
the continuation record it lands in after a `YIELD` (R112). -/
structure Ldr where
  size : LoadSize
  dd : DReg
  ev : EvNum
  count : Nat
  cls : BitVec 4
  dst : BitVec 13
  seq : BitVec 12
  data : Option (List Byte) := none
  fault : Option Addr := none
  /-- The context has been restored since its page's fault: the read is tried once, whether or not it is resolved (R157). -/
  retry : Bool := false
  live : Bool := true
  liveHi : Bool := true
  slotOf : Option (BitVec 52) := none
  bd : BitVec 128 := 0
  off : Nat := 0
  deriving DecidableEq, Repr

/-- An access of an agent that has been sent and not yet answered (R167, R179). `addr` is the home byte address. -/
structure Access where
  cls : BitVec 4
  dst : BitVec 13
  seq : BitVec 12
  x : Bool
  addr : Nat
  len : Nat
  off : Bool
  write : Bool
  /-- The context's bundle waits for the answer. -/
  held : Bool := false
  /-- The barrier word, by key ID and cell, to add the bytes to once they have performed (R177). -/
  bar : Option (BitVec 8 × Nat) := none
  /-- The issue count of its bundle: what a trap handler sends itself is told from what was sent before it (R192). -/
  count : Nat := 0
  deriving DecidableEq, Repr

/-- What an interlocked off-package request got back: the bytes read, the old value, or the trap to raise. -/
inductive Reply
  | data (bs : List Byte)
  | trap (code : BitVec 8)
  deriving DecidableEq, Repr

/-- Why a context issues nothing, and what its next issue must know. -/
structure Waits where
  /-- `SYSCALL` waits for the firmware (R320). -/
  syscall : Bool := false
  /-- `IDLE` waits for an event (R312). -/
  idle : Bool := false
  /-- The bundle of an issue count waits in an `AWAIT` of an event: the event, and the count (R184). -/
  awaits : Option (Nat × Nat) := none
  /-- The page a fault of the bundle waits on (R153). -/
  fault : Option Addr := none
  /-- The trap a resolution PAGE or PROT raises when the bundle issues again (R153). -/
  resolved : Option (BitVec 8) := none
  /-- An interlocked off-package request has been sent. -/
  sent : Bool := false
  /-- Its answer. -/
  reply : Option Reply := none
  /-- The bytes that its earlier requests brought, where one request does not hold them all. -/
  got : List Byte := []
  /-- A `BARWWAIT` timeout has expired and been served at the home (R349). -/
  timedOut : Bool := false
  /-- A `BARWWAIT` is waiting. -/
  barrier : Bool := false
  /-- Its generation, the home of its word, its timeout in cycles (0 for none) and the cycle in which it began. -/
  gen : Word := 0
  wordKey : BitVec 8 := 0
  word : Nat := 0
  limit : Word := 0
  since : BitVec 64 := 0
  /-- A replayed operation waits for its home (R140). -/
  replay : Bool := false
  /-- Packets of an `LHAND` that have left the buffer. -/
  sentChunks : Nat := 0
  deriving DecidableEq, Repr

/-- A context of a core (R193, R194, R200). -/
structure Ctx where
  pc : Addr := 0
  /-- The context holds a task (user, lookup) or its firmware. -/
  running : Bool := false
  regs : Regs := {}
  pend : List Pend := []
  /-- Bundles issued (R204 keeps it modulo 2^30). -/
  count : Nat := 0
  status : Status := {}
  trapcode : BitVec 64 := 0
  trappc : Addr := 0
  trapvec : Addr := 0
  failvec : Addr := 0
  failinfo : BitVec 64 := 0
  cons : Cons := {}
  refine : Refine := {}
  dbg : Debug := {}
  id : Ident := {}
  /-- Delay bundles still to issue of the window of a transfer instruction (R300), and whether it was taken. -/
  window : Nat := 0
  taken : Bool := false
  /-- The window that a trap interrupted. -/
  winHeld : Nat := 0
  /-- The issue count at which the trap in progress was taken (R428). -/
  trapAt : Nat := 0
  /-- The last delay bundle has committed and the transfer is to take place (R299). -/
  due : Bool := false
  waits : Waits := {}
  deferred : List Deferred := []
  ldrs : List Ldr := []
  out : List Access := []
  /-- The latches of `CYCLE` and `PTIME` (R321). -/
  cycleLatch : Option Word := none
  ptimeLatch : Option Word := none
  deriving DecidableEq, Repr

/-! ### Engines, cores and tiles -/

/-- The STATE of an engine (R203). -/
inductive EngineState | idle | running | waitEvent | waitLease | stopped
  deriving DecidableEq, Repr

/-- An open `REP` level: the address of its body, the repetitions left, and whether it is a broadcast loop (R306, R385). -/
structure RepLevel where
  start : Addr
  left : Word
  bcast : Bool
  deriving DecidableEq, Repr

/-- The broadcast loop of an engine (R306, R307): the count armed and not yet taken, the start skew still to pass,
the repetitions completed, and the cut. -/
structure Bcast where
  armed : Option Word := none
  skew : BitVec 8 := 0
  /-- The cycle in which it was armed. -/
  armedAt : BitVec 64 := 0
  skewDone : Bool := true
  done : Word := 0
  active : Bool := false
  cut : Option Word := none
  deriving DecidableEq, Repr

/-- A matrix or copy sequencer (R203, R403, R419). `stack` has its top first, `reps` its innermost level first; `ops` are
the operands latched by the word in progress, deepest first. -/
structure Engine where
  state : EngineState := .idle
  word : Addr := 0
  step : BitVec 32 := 0
  cls : BitVec 4 := 15
  stack : List Word := []
  reps : List RepLevel := []
  bcast : Bcast := {}
  ops : List Word := []
  /-- The event that an engine in WAIT EVENT waits for (R184). -/
  awaits : Nat := 0
  /-- The encoding of the word in progress, while one is (R391). -/
  inWord : Option (BitVec 16) := none
  satnan : Bool := false
  /-- The word in progress cannot be resumed: a NACK or a decode error (R417, R416). -/
  dead : Bool := false
  /-- The page that the engine's translation fault waits on (R153), and the trap its resolution raised. -/
  fault : Option Addr := none
  resolved : Option (BitVec 8) := none
  /-- The window of `MWIN`, five values (R396). -/
  window : Option (List Word) := none
  /-- The handle a `GLD` latched, and its list's fields (R415). -/
  handle : BitVec 256 := 0
  glist : List Byte := []
  /-- Bytes counted on the word's barrier words (R419). -/
  counted : BitVec 64 := 0
  /-- Packets sent and not yet answered (R409). -/
  out : List Access := []
  /-- Packets of a row, slice or replicated piece that have been injected (R417). -/
  sub : Nat := 0
  /-- A body of no repetitions is passed over: the open `REP`s of it (R385). -/
  skip : Nat := 0
  /-- A read off the package: sent, its answer, and what earlier ones brought. -/
  sent : Bool := false
  reply : Option Reply := none
  got : List Byte := []
  deriving DecidableEq, Repr

/-- A context whose image stands in a save area (R123, R126): the core or lookup core it belongs to, the image's address,
the instance it runs, and the context and engines as they were, of which the image holds the architected part. -/
structure Kept where
  lookup : Bool
  core : Nat
  running : Bool
  addr : BitVec 52
  index : Option Word
  ctx : Ctx
  mat : Engine
  cpy : Engine
  deriving DecidableEq, Repr

/-- A shadow configuration bank (R92). -/
inductive ShadowState | empty | loading | loaded
  deriving DecidableEq, Repr

/-- An empty configuration bank. -/
def BankImage.empty : BankImage :=
  { entry := 0, mstart := 0, cstart := 0, region := 0, pasid := 0, prio := 0, debug := false, conf := false, bds := []
    events := [] }

/-- A trace record (R135). -/
structure TraceRec where
  stamp : BitVec 64
  payload : BitVec 64
  group : BitVec 32
  core : BitVec 10
  kind : Byte
  fw : Bool
  pc : Addr
  deriving DecidableEq, Repr

/-- The quill of a core (R134, R136): its FIFO oldest first, records dropped since the last LOST record, and the records
gathered for a sealed block. -/
structure Quill where
  fifo : List TraceRec := []
  lost : Nat := 0
  part : List TraceRec := []
  /-- Cycles of the newest record and of the latest sample, `PTIME` of the latest sealing, and whether a partial block is
  to be sealed as soon as the FIFO is empty (at unbind and at a pre-emption). -/
  lastAt : BitVec 64 := 0
  sampledAt : BitVec 64 := 0
  sealedAt : Option (BitVec 64) := none
  flush : Bool := false
  deriving DecidableEq, Repr

/-- A control core (R183, R193). `acc` holds A(2k) and A(2k + 1), 4,096 patterns each (R197). -/
structure Core where
  user : Ctx := {}
  fw : Ctx := {}
  mat : Engine := {}
  cpy : Engine := {}
  acc0 : List Word := List.replicate 4096 0
  acc1 : List Word := List.replicate 4096 0
  active : BankImage := BankImage.empty
  shadow : BankImage := BankImage.empty
  shadowState : ShadowState := .empty
  swapping : Bool := false
  /-- `FWSHARE` IDLEALL and N (R120). -/
  idleall : Bool := true
  fwn : BitVec 4 := 0
  /-- The latest window of 16 issue slots in which the firmware context issued, its issue count before that window, and its
  issue count after its latest turn (R120). -/
  fwWindow : BitVec 60 := 0
  fwBase : Nat := 0
  fwLast : Nat := 0
  /-- `SWTHROTTLE` (R68). -/
  last : BitVec 2 := 0
  held : BitVec 48 := 0
  quill : Quill := {}
  /-- The engines are held by EHALT (R133). -/
  engHeld : Bool := false
  /-- The core's rank in the core set of its region (R110, R116). -/
  rank : BitVec 10 := 0
  /-- The instance index that the user context runs, if it runs one (R110). -/
  index : Option Word := none
  /-- A parked image (R123). -/
  parked : Option Kept := none
  deriving DecidableEq, Repr

/-- A lookup core (R200). Its 1 MiB buffer stands in the memory. -/
structure Lookup where
  ctx : Ctx := {}
  bank : BankImage := BankImage.empty
  busy : Bool := false
  deriving DecidableEq, Repr

/-- An entry of a translation cache (R151): `size` is the page-size code of R145; `r`, `w` and `x` its rights, `d` its D. `route`
is, for a page that leads off the package, the number of its path and the copy of that path's KNOWN, CAP and LEARNED (R45, R52). -/
structure TlbEntry where
  pasid : BitVec 20
  va : Addr
  size : BitVec 2
  pa : BitVec 52
  r : Bool
  w : Bool
  x : Bool
  d : Bool
  route : Option (Nat × BitVec 64) := none
  deriving DecidableEq, Repr

/-- The lease of a tile's matrix array (R196, R198). -/
structure Lease where
  held : Bool := false
  holder : BitVec 2 := 0
  words : Nat := 0
  /-- The cycle in which it was granted. -/
  since : BitVec 64 := 0
  /-- By core: cycles waited before, and the cycle since when it waits now. -/
  waited : Assoc Word := []
  waitFrom : Assoc (BitVec 64) := []
  /-- The region and the cycles of the leases that ended, youngest first (R124's window). -/
  past : List (BitVec 12 × Nat) := []
  /-- The last holder, for round-robin. -/
  lastHolder : BitVec 2 := 3
  deriving DecidableEq, Repr

/-- A compute tile (R196 to R199, R18, R21). -/
structure TileState where
  lease : Lease := {}
  /-- The copy sequencer served last (R199). -/
  copyTurn : BitVec 2 := 0
  token : Bool := false
  stalls : BitVec 48 := 0
  /-- Issue-budget mode (R18): the active cycles of the array in a window, and those that later windows owe; the window, as its number
  from CYCLE 0; and whether the array stalls until the window ends. -/
  activeCycles : Nat := 0
  window : Nat := 0
  govStalled : Bool := false
  /-- Token-ring mode (R19): tokens on their way to the tile, and when its burst began. -/
  passing : Nat := 0
  /-- A lease has been in force since the token came. -/
  burst : Bool := false
  tokenAt : BitVec 64 := 0
  tlb : List TlbEntry := []
  deriving DecidableEq, Repr

/-! ### Regions and scheduling -/

/-- STATE of a region (R103). -/
inductive RegionState | new | queued | running | preempted | done | faulted | rejected
  deriving DecidableEq, Repr

/-- A grain of a region's index range (R116, R118); state 0 PENDING, 1 DEALT, 2 DONE. -/
structure Grain where
  region : BitVec 12
  state : BitVec 2
  die : BitVec 1
  first : Word
  count : Word
  /-- Indices retired. -/
  retired : Nat := 0
  deriving DecidableEq, Repr

/-- The end of a fault domain under way (R109): its top region, CAUSE, FAULTPC and FAULTCORE, and the cycle of the fault. -/
structure EndCause where
  top : BitVec 12
  cause : Byte
  pc : Addr
  core : Nat
  at_ : BitVec 64
  deriving DecidableEq, Repr

/-- The parts of a region the distributor keeps (R103 to R105). -/
structure Region where
  /-- The physical address of its RCB. -/
  rcb : BitVec 52
  pasid : BitVec 20
  parent : BitVec 12
  root : BitVec 12
  depth : Nat
  state : RegionState
  prio : BitVec 4
  fdom : Bool
  debug : Bool
  conf : Bool
  mxshare : Nat
  swshare : Nat
  /-- The tiles and cores the region runs on, in rising order. -/
  tiles : List Nat
  cores : List Nat
  /-- Budgets carved, for validation of children (R107). -/
  tileBudget : Nat
  coreBudget : Nat
  sramBudget : Nat
  carved : BitVec 3
  /-- The granules of its own partition, tile × 96 + granule in rising order; empty when it shares its parent's (R105). -/
  granules : List Nat
  first : Word
  count : Word
  entry : Addr
  args : Addr
  /-- The root tree is stopping for a pre-emption (R126). -/
  stopping : Bool := false
  /-- The fault domain that it belongs to is ending (R109). -/
  ending : Option EndCause := none
  deriving DecidableEq, Repr

/-- The rest of a region: what completion needs (R103, R108) and the bank it gives its cores (R91). -/
structure RegionLife where
  donebw : Addr := 0
  doneadd : BitVec 64 := 0
  fltbw : Addr := 0
  save : BitVec 52 := 0
  /-- The continuation pool (R111): its base, and how many records have been written in it. -/
  pool : BitVec 52 := 0
  slots : Nat := 0
  live : Word := 0
  children : Word := 0
  group : BitVec 32 := 0
  bank : BankImage := BankImage.empty
  arglen : Word := 0
  /-- The launch that made a root, if any. -/
  launch : Option Nat := none
  /-- Continuation records of the region that wait (R111), each with the index of the instance it goes on with. -/
  conts : List (BitVec 52 × Option Word) := []
  /-- The order in which the region became runnable, and in which it was pre-empted. -/
  started : Nat := 0
  preempted : Nat := 0
  /-- The contexts of a pre-empted tree, those running and those parked, and the states its regions had (R126). -/
  saved : List Kept := []
  savedParked : List Kept := []
  was : List (BitVec 12 × RegionState) := []
  deriving DecidableEq, Repr

/-- A launch in the hands of the LFE and the distributor (R86, R94). -/
structure Launch where
  queue : BitVec 10
  /-- Virtual address of its operator record. -/
  record : Addr
  pasid : BitVec 20
  bytes : List Byte
  bank : BankImage
  group : BitVec 32
  region : BitVec 12
  /-- 0 waits for WAITBW, 1 waits for a grant, 2 granted, 3 started. -/
  stage : BitVec 2
  order : Nat
  /-- Its root region has ended: done (0), or faulted with a cause. -/
  ended : Option Byte := none
  /-- The page that its access waits on, and the steps taken of its start (R96) or its completion (R94). -/
  fault : Option Addr := none
  step : Nat := 0
  /-- The writes of its start are not done; T_START. -/
  starting : Bool := false
  tstart : BitVec 64 := 0
  /-- The cores whose shadow bank has been begun for it (R91, R93). -/
  banked : List Nat := []
  deriving DecidableEq, Repr

/-- An addition of a distributor to DONEBW or FLTBW (R108, R109) that waits on a page's fault: the word, what is added, and the
region of which a child has then ended. -/
structure BarAdd where
  conf : Bool
  pasid : BitVec 20
  va : Addr
  n : BitVec 64
  parent : BitVec 12
  deriving DecidableEq, Repr

/-- The distributors (R116 to R119). -/
structure Dist where
  term : Word := 1
  master : BitVec 1 := 0
  grains : List Grain := []
  nextOrder : Nat := 0
  /-- Bytes of the firmware area given out: control blocks, save areas and continuation pools (R103, R111, R127). -/
  areaUsed : Nat := 0
  /-- The SRAM granule owners, by tile × 96 + granule (R73, R105). -/
  owners : Assoc (BitVec 12) := []
  /-- The mirrors of the range journals on each side, die 0's first: their entries, oldest first (R118). -/
  journal0 : List (List Byte) := []
  journal1 : List (List Byte) := []
  /-- Additions that wait on a fault (R153). -/
  adds : List BarAdd := []
  deriving DecidableEq, Repr

/-- A queue context of the LFE (R82). -/
structure Queue where
  v : Bool := false
  stop : Bool := false
  prio : BitVec 4 := 0
  size : BitVec 6 := 0
  pasid : BitVec 20 := 0
  err : Byte := 0
  base : Addr := 0
  tail : Word := 0
  head : Word := 0
  irq : BitVec 64 := 0
  /-- The record at the head is a WAIT or SIGNAL in progress (R86): its bytes. -/
  held : Bool := false
  bytes : List Byte := []
  /-- The record at the head has FENCE and earlier launches of the queue have not ended (R87). -/
  fenced : Bool := false
  /-- The page its fault waits on. -/
  fault : Option Addr := none
  /-- The access that waits is to the launch record; the launch record cannot be written, and its writes are skipped. -/
  lrecWait : Bool := false
  lrecSkip : Bool := false
  /-- STATUS 0 and T_FETCH have been written for the LAUNCH at the head (R96). -/
  fetched : Bool := false
  /-- A write that clears V waits until the record in progress is done, and later writes of the queue's registers and reads of
  LQCTL wait behind it (R82): offset and value, oldest first; offset 64 is a read. -/
  waiting : List (Nat × BitVec 64) := []
  deriving DecidableEq, Repr

/-- The launch front end (R82 to R96). -/
structure Lfe where
  queues : Assoc Queue := []
  launches : Assoc Launch := []
  nextLaunch : Nat := 0
  /-- The queue of each priority fetched last, for round-robin. -/
  lastQueue : Assoc Nat := []
  tlb : List TlbEntry := []
  deriving DecidableEq, Repr

/-! ### Translation -/

/-- A process context (R148): is its first stage Sv48, and the page of its root table. -/
structure ProcCtx where
  sv48 : Bool
  root : BitVec 44
  deriving DecidableEq, Repr

/-- STATE of a PASID (R101). -/
inductive PasidState | free | active | quiescing
  deriving DecidableEq, Repr

/-- An open fault (R155, R156). `index` is its record's number once written. -/
structure OpenFault where
  index : Option Word
  pasid : BitVec 20
  va : Addr
  region : BitVec 12
  node : BitVec 13
  access : BitVec 4
  cause : Byte
  path : Byte
  page : BitVec 2
  joined : Nat
  stale : Bool
  /-- Agents that wait on it. -/
  waiters : List Agent
  deriving DecidableEq, Repr

/-- Translation and its registers (R148 to R160). -/
structure Mmu where
  /-- Where the device context of device ID 0 says the process directory table stands (R148): mode and root page. -/
  pdt : BitVec 64 := 0
  pasids : Assoc PasidState := []
  selected : BitVec 20 := 0
  l2 : Assoc (List TlbEntry) := []
  faults : List OpenFault := []
  fbbase : BitVec 64 := 0
  fben : Bool := false
  fbovf : Bool := false
  fbsize : BitVec 4 := 0
  fbmsi : BitVec 37 := 0
  fbhead : Word := 0
  fbtail : Word := 0
  cntbase : BitVec 64 := 0
  cnten : Bool := false
  thresh : Byte := 0
  epoch : BitVec 5 := 0
  /-- When the counters were last halved (R159), and how many IOFENCE.C have completed (R152). -/
  sweptAt : BitVec 64 := 0
  fencesDone : Nat := 0
  /-- The number of the walk in progress, for the choice of a victim. -/
  walks : Nat := 0
  deriving DecidableEq, Repr

/-! ### Mesh, links and ports -/

/-- A packet on a mesh link, arriving at a router (R57, R66). -/
structure Flit where
  die : BitVec 2
  router : Nat
  plane : BitVec 2
  pkt : Packet
  /-- The cycle of its router in which it arrives there. -/
  at_ : Nat := 0
  deriving DecidableEq, Repr

/-- What a router has done on a plane (R66): how many cycles, and of its latest cycle the output ports and ejection ports left
over and the streams it and the planes below have injected. -/
structure RouterRun where
  cycles : Nat := 0
  free : List (Nat × Nat) := []
  eject : Nat := 0
  streams : List Nat := []
  deriving DecidableEq, Repr

/-- The swash mesh (R57 to R73). -/
structure Mesh where
  /-- The mesh cycle count (R60), extended to 64 bits (R111); bring-up step 3 starts it. -/
  count : BitVec 64 := 0
  started : Bool := false
  flits : List Flit := []
  /-- What each router has done, by (die × 256 + router) × 4 + plane. -/
  runs : Assoc RouterRun := []
  /-- Packets that have crossed a bridge and wait for the facing router's cycle. -/
  crossing : List Flit := []
  /-- Packets whose source waits for its router to take them, oldest first. -/
  pending : List Packet := []
  /-- Packets ejected at their destination and not yet taken up (R72). -/
  offered : List Packet := []
  /-- Packets in reassembly buffers. -/
  held : List Packet := []
  /-- Next sequence number of each stream at its source, and expected one at its destination (R71). -/
  next : Assoc (BitVec 12) := []
  expect : Assoc (BitVec 12) := []
  /-- Tags given to exempt requests. -/
  nextTag : BitVec 12 := 0
  deriving DecidableEq, Repr

/-- A packet travelling in the slots of Linnor flits, with its channel. -/
structure LnSlot where
  response : Bool
  pkt : LinnorPacket
  deriving DecidableEq, Repr

/-- A Linnor port (R32 to R49). -/
structure LnPort where
  /-- Trained, and at half the rate (R22). -/
  trained : Bool := false
  half : Bool := false
  /-- The next sequence number to send, and data flits sent and not acknowledged, oldest first (R35). -/
  next : BitVec 12 := 0
  replay : List (BitVec 12 × List Byte) := []
  /-- The sequence number expected; is it missing, how often it was asked for, and when last. -/
  expect : BitVec 12 := 0
  missing : Bool := false
  /-- A data flit has been received in order. -/
  acked : Bool := false
  asks : Nat := 0
  askedAt : BitVec 64 := 0
  /-- Credits held for the request and the response channel, in slots, and credits to return (R36). -/
  creq : Nat := 0
  crsp : Nat := 0
  retReq : Nat := 0
  retRsp : Nat := 0
  /-- Flits resent: when, and how many, latest first. -/
  resent : List (BitVec 64 × Nat) := []
  /-- Packets to send, and the rest of the slots of packets begun. -/
  sendq : List LnSlot := []
  rest : List Byte := []
  /-- Slots received of a packet that is not whole yet. -/
  part : List Byte := []
  /-- What was last put on the wire. -/
  wire : List Byte := []
  /-- The wake frame held (R48, R49). -/
  held : Option LinnorPacket := none
  deriving DecidableEq, Repr

/-- A request sent to another device and not yet answered (R40): the mesh packet it serves, when it was sent first and
last, and whether it was answered IDLE or BUSY and waits to be sent again. -/
structure LnReq where
  port : Nat
  pkt : LinnorPacket
  orig : Option Packet
  since : BitVec 64
  sentAt : BitVec 64
  waiting : Bool := false
  deriving DecidableEq, Repr

/-- A request that a PCIe root port has sent: the mesh packet it serves (none for a flushing read of the package itself), and the
posted writes it flushes. -/
structure PcieOut where
  req : PcieRequest
  orig : Option Packet
  flushes : List Packet := []
  deriving DecidableEq, Repr

/-- A request that a PCIe port has taken from outside for a place off the package (R51, R53), while it is served: the place and the
bytes of what is left, the data to write, an atomic's operation, what has been read, and the request on its way. -/
structure OuterReq where
  port : Nat
  pa : BitVec 52
  write : Bool
  op : Option (BitVec 4) := none
  left : Nat
  data : List Byte := []
  got : List Byte := []
  seq : BitVec 12 := 0
  sent : Nat := 0
  deriving DecidableEq, Repr

/-- Linnor links and their registers (R41 to R49, R81). -/
structure Links where
  self : BitVec 10 := 0
  ports : Assoc LnPort := []
  win : Assoc (BitVec 64) := []
  route : Assoc (BitVec 64) := []
  portmask : Assoc (BitVec 64) := []
  exp : Assoc (BitVec 64) := []
  wakectl : Assoc (BitVec 64) := []
  wakepat : Assoc (BitVec 64) := []
  cap : Assoc (BitVec 64) := []
  reqs : Assoc LnReq := []
  nextTag : BitVec 12 := 0
  /-- Requests the PCIe root ports have sent, by tag (R52), and the mesh packets of posted writes that no completed read
  has flushed, by port (R179). -/
  pcie : Assoc PcieOut := []
  pcieTag : Nat := 0
  /-- Packets that wait at a root port for a free tag (R51), oldest first. -/
  pcieWait : List Packet := []
  posted : Assoc (List Packet) := []
  /-- Path capability of PCIe addresses (R52): KNOWN and CAP as in R44, by port, and the LEARNED bits. -/
  pcieCap : Assoc (BitVec 64) := []
  /-- The PCIe/CXL ports (R50), and what they have taken from outside for places off the package. -/
  pports : Assoc PciePort := []
  outer : List OuterReq := []
  /-- The HDM decoders' ranges of far memory: start, bytes, port (R54). -/
  hdm : List (Nat × Nat × Nat) := []
  deriving DecidableEq, Repr

/-! ### System die -/

/-- A boot journal record (R25). -/
structure JournalRec where
  time : BitVec 64
  step : Byte
  outcome : Byte
  inst : BitVec 16
  policy : Byte
  attempt : Byte
  detail : BitVec 16
  start : Word
  deriving DecidableEq, Repr

/-- Bring-up and the boot journal (R22 to R26). -/
structure Boot where
  journal : Assoc JournalRec := []
  next : BitVec 12 := 0
  /-- Latest record of each step instance, by step × 2^16 + instance. -/
  latest : Assoc JournalRec := []
  starts : Word := 1
  replreq : Bool := false
  halted : Bool := false
  off : Bool := false
  stepNow : Nat := 0
  /-- The instances of the step that have ended. -/
  done : List Nat := []
  fwok : Bool := false
  hbm : BitVec 12 := 0
  meshUp : BitVec 2 := 0
  pcie : BitVec 4 := 0
  osready : Bool := false
  alldone : Bool := false
  tiles : BitVec 256 := 0
  /-- Tiles that passed their test and wait for their die's mesh (R26). -/
  tested : BitVec 256 := 0
  links : BitVec 64 := 0
  /-- A compute die 0 kept as a transit path (R30). -/
  transit : Bool := false
  deriving DecidableEq, Repr

/-- Which units are fenced (R28). -/
structure Fences where
  tiles : BitVec 256 := 0
  hbms : BitVec 12 := 0
  dies : BitVec 2 := 0
  lports : BitVec 64 := 0
  pports : BitVec 4 := 0
  /-- When a tile last took an uncorrectable error, and the rows of a stack that took one, with the time (R29). -/
  tileErr : Assoc (BitVec 64) := []
  rowErr : Assoc (List (Nat × BitVec 64)) := []
  deriving DecidableEq, Repr

/-- STATE of IDLESTAT (R98). -/
inductive IdleState | running | entering | idle | waking
  deriving DecidableEq, Repr

/-- The management core's registers and what it sends out (R81, R97, R98). -/
structure Mgmt where
  bar2 : BitVec 64 := 0
  msgbase : BitVec 64 := 0
  msgen : Bool := false
  msgsize : BitVec 4 := 0
  msgmsi : BitVec 37 := 0
  msghead : Word := 0
  msgtail : Word := 0
  idleEn : Bool := false
  idleDelay : Word := 0
  idle : IdleState := .running
  idleCause : BitVec 4 := 0
  /-- The control cores are gated, but for those restored (R98, R99). -/
  gated : Bool := false
  restored : List Nat := []
  /-- The cycle in which a wake frame last began a wake (R49). -/
  wokeAt : BitVec 64 := 0
  /-- When a region or a record to fetch was last seen (R98). -/
  quietAt : BitVec 64 := 0
  /-- MSIs sent: application core and identity, youngest first. -/
  msis : List (BitVec 5 × BitVec 11) := []
  /-- The pending identities of the IMSICs (R77), by application core × 2^11 + identity. -/
  imsic : Assoc Bool := []
  /-- Machine checks reported, youngest first: the node that reported. -/
  checks : List (BitVec 13) := []
  /-- The answer to the latest outside request, byte by byte; empty for an error. -/
  answer : List Byte := []
  answerOk : Bool := false
  debugOpen : Bool := false
  /-- The latest instruction of the boundary-scan port (R56). -/
  jtag : Nat := 0
  /-- Core clock in MHz (R15). -/
  clock : Nat := 1900
  hottest : Int := 0
  /-- The readings of the latest poll (R15), when it was, and when the clock was last adjusted. -/
  temps : Assoc Int := []
  polledAt : Option (BitVec 64) := none
  clockAt : Option (BitVec 64) := none
  deriving DecidableEq, Repr

/-- The seal (R31, R56, R136, R161, R162): keys present by key ID, the tenant key of each confidential PASID, trace keys, 32 bytes,
by PASID, and the latest attestation report (REPLREQ, tiles, stacks, lookup cores, Linnor ports, PCIe ports). -/
structure Seal where
  keys : Assoc Bool := [(0, true)]
  tenants : Assoc (BitVec 8) := []
  traceKeys : Assoc (List Byte) := []
  report : List Nat := []
  deriving DecidableEq, Repr

/-- A fold in the fold engine of an old list's home (R228, R230, R426): the home's node, the old list, the snapshot, the
new list, the barrier word and the issuing context; and the page its fault waits on, with what resolved it. -/
structure Fold where
  home : BitVec 13
  old : BitVec 52
  snap : BitVec 256
  newVa : Addr
  bar : BitVec 52
  tag : BitVec 4
  pasid : BitVec 20
  region : BitVec 12
  conf : Bool
  core : Nat
  /-- The instance whose task started it, and how its region has ended since: 0 it has not, 1 normally, 2 by a fault. -/
  index : Option Word := none
  ended : BitVec 2 := 0
  fault : Option Addr := none
  resolved : Option (BitVec 8) := none
  deriving DecidableEq, Repr

/-! ### The whole -/

/-- The operands of the happening in progress; each machine step's docstring says which it reads. -/
structure Input where
  n : Nat := 0
  m : Nat := 0
  k : Nat := 0
  int : Int := 0
  flag : Bool := false
  value : BitVec 64 := 0
  pasid : BitVec 20 := 0
  addr : Option (BitVec 48) := none
  pkt : Option Packet := none
  lpkt : Option LinnorPacket := none
  req : Option PcieRequest := none
  bytes : List Byte := []
  unit : Option FenceUnit := none
  cause : FenceCause := .fabric
  query : I3cQuery := .sensors
  flit : FlitKind := .idle
  who : Agent := .user 0
  walk : Option WalkRequest := none
  /-- The arrivals, by rank, that an uncorrectable error meets (R65): in the header, or in the payload. -/
  errs : List (Nat × Bool) := []
  /-- The bytes of a flit on lane 1 of a port (R32); those on lane 0 stand in `bytes`. -/
  lane1 : List Byte := []
  pport : PciePort := {}
  /-- Readings in degrees Celsius: of tile n at n, of HBM stack n at 256 + n (R15). -/
  temps : Assoc Int := []
  bank : BankImage := BankImage.empty
  write : Option (BitVec 64) := none
  deriving DecidableEq, Repr

/-- What happens next: a happening with its operands, or an agent's move. -/
inductive Turn
  | happen (i : Instr) (inp : Input)
  | agent (a : Agent)
  deriving DecidableEq, Repr

/-- What a syllable asks of the boundary after its bundle: class 001 holds at most one such syllable in a bundle. -/
inductive After
  | none
  /-- The delay window of a transfer that is not taken (R300). -/
  | window
  /-- A taken transfer: its target, and the link register of `XFERL` (R305). -/
  | transfer (target : Addr) (link : Option BReg)
  | eret
  | retire
  | yield
  | idle
  /-- A trap taken after commit (R317). -/
  | trap (d : Deferred)
  deriving DecidableEq, Repr

/-- The bundle being issued (R186, R187): `snap` is the context as the bundle found it, `len` its syllables, `slot` the
slot of the syllable in progress, `after` what the boundary does. Inside a bundle of several syllables `inner` is set, and
`trap` (with its place in R317's order) and `stall` (1 a wait, 2 a page fault) say what the syllable met. -/
structure Issue where
  snap : Option Ctx := Option.none
  len : Nat := 1
  slot : Nat := 0
  after : After := .none
  inner : Bool := false
  /-- Of a propagation point: 0 the whole, 1 its runs only, 2 what follows them (R285). -/
  phase : Nat := 0
  trap : Option (Nat × TrapReq) := Option.none
  stall : Nat := 0
  /-- The slots whose propagation point ended in FIXPOINT (R285, R287, R288). -/
  fixed : List Nat := []
  /-- A propagation point of the bundle ended in BUDGET with its trap enabled (R294). -/
  budget : Bool := false
  /-- A translation fault of the syllable is an `LDR`'s (R155). -/
  split : Bool := false
  deriving DecidableEq, Repr

/-- The state of the package. -/
structure State where
  cycle : BitVec 64
  ptime : BitVec 64
  /-- Counts the steps; the model's own, it picks the free values of a step. -/
  fresh : Nat
  cur : Agent
  sched : List Turn
  inp : Input
  issue : Issue
  /-- The engine word the current sequencer fetched (R268). -/
  word : BitVec 16
  cores : Assoc Core
  lookups : Assoc Lookup
  tiles : Assoc TileState
  regions : Assoc Region
  lives : Assoc RegionLife
  dist : Dist
  lfe : Lfe
  mmu : Mmu
  mesh : Mesh
  links : Links
  boot : Boot
  fences : Fences
  mgmt : Mgmt
  security : Seal
  folds : List Fold
  /-- The key ID each 64-byte unit was last written under, where it is not 0 (R161). -/
  unitKey : Assoc (BitVec 8)
  /-- Bytes that hold uncorrectable data (R65). -/
  poison : Assoc Bool
  mem : List Host.Cell
  deriving DecidableEq, Repr

/-! ### Stops -/

/-- Why the machine stops. -/
inductive Fault
  /-- Raised by every step of a package that is off (R15): nothing runs until a power cycle. Safe. -/
  | packageOff
  deriving DecidableEq, Repr

/-- Why the model gives no next state. -/
inductive Refusal
  /-- Raised by an arm of `exec` that has no meaning yet. Safe. -/
  | notModelled (mnemonic : String)
  deriving DecidableEq, Repr

/-! ### Reset -/

/-- The package right after package reset. Values the spec does not give are those of log entry 3. -/
def State.reset : State :=
  { cycle := 0, ptime := 0, fresh := 0, cur := .user 0, sched := [], inp := {}, issue := {}, word := 0
    cores := [], lookups := [], tiles := [], regions := [], lives := [], dist := {}, lfe := {}, mmu := {}, mesh := {}
    links := {}, boot := {}, fences := {}, mgmt := {}, security := {}, folds := [], unitKey := [], poison := [], mem := [] }

end Sys2Proof.Machine
end

