-- ==== Sys2Proof/Machine/Domain.lean ====
section
/-!
DEFINITION. Domains as sets of integers (R272, R273): membership, the least canonical domain of a set, intervals,
narrowing and exclusion. Sets are described by a membership test with outer bounds.
-/

namespace Sys2Proof.Machine

/-- The least and greatest 32-bit integers. -/
def intMin : Int := -2147483648
def intMax : Int := 2147483647

/-- A set of integers: a membership test, and bounds outside which it has no member. -/
structure IntSet where
  mem : Int → Bool
  lo : Int
  hi : Int

namespace IntSet

/-- The first member at or above `v`, looking at `n` values. -/
def up (s : IntSet) : Nat → Int → Option Int
  | 0, _ => none
  | n + 1, v => if s.hi < v then none else if s.mem v then some v else up s n (v + 1)

/-- The last member at or below `v`, looking at `n` values. -/
def down (s : IntSet) : Nat → Int → Option Int
  | 0, _ => none
  | n + 1, v => if v < s.lo then none else if s.mem v then some v else down s n (v - 1)

/-- The interval [l, h]. -/
def interval (l h : Int) : IntSet := ⟨fun v => decide (l ≤ v) && decide (v ≤ h), l, h⟩

/-- The members of both. -/
def inter (a b : IntSet) : IntSet := ⟨fun v => a.mem v && b.mem v, max a.lo b.lo, min a.hi b.hi⟩

/-- The set moved by `c`. -/
def shift (c : Int) (a : IntSet) : IntSet := ⟨fun v => a.mem (v - c), a.lo + c, a.hi + c⟩

/-- The negatives of the members. -/
def neg (a : IntSet) : IntSet := ⟨fun v => a.mem (-v), -a.hi, -a.lo⟩

/-- The absolute values of the members. -/
def abs (a : IntSet) : IntSet :=
  ⟨fun v => decide (0 ≤ v) && (a.mem v || a.mem (-v)),
    if 0 ≤ a.lo then a.lo else if a.hi ≤ 0 then -a.hi else 0, max (-a.lo) a.hi⟩

/-- The set without `v`. -/
def without (a : IntSet) (v : Int) : IntSet := ⟨fun u => a.mem u && decide (u ≠ v), a.lo, a.hi⟩

/-- The bits of the first `n` values from `lo + k` on, as a number whose bit 0 is the first of them. -/
def bitsFrom (s : IntSet) (lo : Int) : Nat → Nat → Nat
  | 0, _ => 0
  | n + 1, k => (if s.mem (lo + k) then 1 else 0) + 2 * bitsFrom s lo n (k + 1)

/-- How many values above a bound can be no members although members lie beyond them: each set used here is built from
at most three domains, whose bitmaps cover 64 values each. -/
def reach : Nat := 200

/-- canon(S) of R273, for a set within the 32-bit integers; `none` for the empty set. -/
def canon (s : IntSet) : Option Dom :=
  match s.up reach s.lo, s.down reach s.hi with
  | some l, some h =>
    some ⟨BitVec.ofInt 32 l, BitVec.ofInt 32 h, BitVec.ofNat 64 (bitsFrom s l (min 64 (h - l + 1).toNat) 0)⟩
  | _, _ => none

end IntSet

/-- The set clipped to the 32-bit integers. -/
def IntSet.clip (s : IntSet) : IntSet := s.inter (IntSet.interval intMin intMax)

namespace Dom

/-- The full domain. -/
def full : Dom := ⟨0x80000000#32, 0x7FFFFFFF#32, BitVec.allOnes 64⟩

/-- lo, as the integer it is. -/
def l (a : Dom) : Int := a.lo.toInt
/-- hi. -/
def h (a : Dom) : Int := a.hi.toInt

/-- Is `v` in set(D) (R272)? -/
def mem (a : Dom) (v : Int) : Bool :=
  decide (a.l ≤ v) && decide (v ≤ a.h) && (decide (a.l + 64 ≤ v) || a.mask.getLsbD (v - a.l).toNat)

/-- set(D). -/
def set (a : Dom) : IntSet := ⟨a.mem, a.l, a.h⟩

/-- A singleton has lo = hi. -/
def isSingle (a : Dom) : Bool := a.lo == a.hi

/-- A domain is canonical (R272). -/
def canonical (a : Dom) : Bool :=
  decide (a.l ≤ a.h) && a.mask.getLsbD 0
    && (if a.h - a.l ≤ 63 then a.mask.getLsbD (a.h - a.l).toNat
          && a.mask >>> ((a.h - a.l).toNat + 1) == 0 else true)

/-- dense(l, h) of R273. -/
def dense (l h : Int) : Option Dom := (IntSet.interval l h).clip.canon

/-- narrow(D, S) of R273. -/
def narrow (a : Dom) (s : IntSet) : Option Dom := (a.set.inter s).canon

/-- exclude(D, v) of R273: a value inside the dense tail stays. -/
def exclude (a : Dom) (v : Int) : Option Dom :=
  if a.l + 64 ≤ v && v != a.h then some a
  else if a.l + 64 ≤ v then (IntSet.mk (fun u => a.mem u && decide (u ≠ v)) a.l (a.h - 1)).canon
  else (a.set.without v).canon

/-- The number of members of set(D) (R281): those the bitmap shows and the tail. -/
def size (a : Dom) : Nat :=
  (List.range 64).foldl (fun (n k : Nat) => if a.mem (a.l + (k : Int)) then n + 1 else n) 0 + (a.h - a.l - 63).toNat

/-- Up to `n` least members. -/
def least (a : Dom) (n : Nat) : List Int :=
  (((List.range (64 + n)).map (fun (k : Nat) => a.l + (k : Int))).filter a.mem).take n

/-- The 128 bits of R272. -/
def bits (a : Dom) : BitVec 128 := a.lo ++ (a.hi ++ a.mask)
/-- The domain that 128 bits stand for. -/
def ofBits (b : BitVec 128) : Dom := ⟨b.extractLsb' 96 32, b.extractLsb' 64 32, b.extractLsb' 0 64⟩

end Dom

end Sys2Proof.Machine
end

