-- ==== Sys2Proof/Machine/Flags.lean ====
section
/-!
DEFINITION. The status register and the other registers that are read as words: how `STATUS`, `PROPSTAT`, `DEBUGCTL` and
`RFSTATE` are put together and which of their fields a write reaches; the condition bits; the traps' places in R317's order.
-/

namespace Sys2Proof.Machine

/-- `STATUS` as it reads (R313); bit 14 is 1 in the firmware context, which has no use for the fields of a pending transfer
or of a trap (R321). -/
def Status.word (st : Status) (fw : Bool) : BitVec 64 :=
  let st := if fw then { st with xdist := 0, xtgt := 0, intrap := false, xlv := false, xlb := 0 } else st
  st.xdist ++ (0#1 ++ (st.xtgt ++ (BitVec.ofBool st.intrap ++ (BitVec.ofBool fw ++ (0#3 ++ (BitVec.ofBool st.xlv
    ++ (st.xlb ++ (BitVec.ofBool st.satnan ++ (st.rm ++ 0#5)))))))))

/-- A write of `STATUS` reaches SATNAN and RM only (R313). -/
def Status.write (st : Status) (w : BitVec 64) : Status :=
  { st with satnan := w.getLsbD 7, rm := w.extractLsb' 5 2 }

/-- `TRAPCODE` (R314). -/
def trapcodeWord (t : TrapReq) : BitVec 64 := 0#32 ++ (t.arg ++ (0#6 ++ (t.source ++ t.code)))

/-- `PROPBUDGET` (R298). -/
def Cons.budgetWord (c : Cons) : BitVec 64 := 0#47 ++ (BitVec.ofBool c.trapen ++ c.limit)
/-- `PROPSTAT` (R298). -/
def Cons.statWord (c : Cons) : BitVec 64 :=
  0#23 ++ (BitVec.ofNat 9 c.queue.length ++ (0#7 ++ (BitVec.ofNat 9 c.store.length ++ (0#13 ++ c.pstate))))

/-- `RFSTATE` (R329). -/
def Refine.word (r : Refine) : BitVec 64 := 0#54 ++ (r.stag ++ (0#2 ++ (r.exit ++ (0#1 ++ r.phase))))

/-- `DEBUGCTL` (R133). -/
def Debug.ctlWord (d : Debug) (cap : Bool) : BitVec 64 :=
  BitVec.ofBool cap ++ (BitVec.ofBool d.sstep ++ (BitVec.ofBool d.ehalt ++ (BitVec.ofBool d.stephit
    ++ (BitVec.ofBool d.brkhit ++ (d.bhit ++ 0#51)))))

/-- The fields of `TRACECTL` a write reaches: EN, DROP, SPER, SIZE and BASE (R134). -/
def tracectlMask : BitVec 64 := 0xFFC0FFFFFFFFF000#64
/-- The fields of `REPLAYCTL` a write reaches: MODE, SIZE and BASE (R138). -/
def replayctlMask : BitVec 64 := 0xC3C0FFFFFFFFF000#64
/-- The fields of `BKPTn` a write reaches (R131). -/
def bkptMask : BitVec 64 := 0xFF00FFFFFFFFFFFF#64

/-- The bits of `old` outside `mask` with those of `new` inside it. -/
def mergeBits (mask old new : BitVec 64) : BitVec 64 := (old &&& ~~~mask) ||| (new &&& mask)

/-- `EVPENDING`: bit k is set while Ek is non-zero (R185). -/
def evPending (ev : Assoc Byte) : BitVec 64 :=
  BitVec.ofNat 64 ((List.range 32).foldl (fun n k => if Assoc.get 0 ev k = 0 then n else n + 2 ^ k) 0)

/-- The condition bit after a test: test XOR N (R303, R304). -/
def condBit (test neg : Bool) : Bool := test != neg

/-- Trap codes (R315). -/
def tIllegal : Byte := 0x01
def tFormat : Byte := 0x02
def tUnresolved : Byte := 0x03
def tFail : Byte := 0x04
def tBudget : Byte := 0x05
def tStoreOvf : Byte := 0x06
def tTrailOvf : Byte := 0x07
def tCkptOvf : Byte := 0x08
def tPage : Byte := 0x09
def tProt : Byte := 0x0A
def tAlign : Byte := 0x0B
def tAtomicPath : Byte := 0x0C
def tBarrierOver : Byte := 0x0D
def tBarrierTimeout : Byte := 0x0E
def tEventOvf : Byte := 0x0F
def tStack : Byte := 0x10
def tGlossOvf : Byte := 0x11
def tRefineDiverge : Byte := 0x12
def tEccUncorr : Byte := 0x13
def tReplayDiverge : Byte := 0x14
def tDebug : Byte := 0x15
def tSyscall : Byte := 0x16
def tTrap : Byte := 0x17

/-- The place of a precise trap in the order of R317 (levels 4 to 10, in tens); a lower number is taken first. -/
def trapLevel (code : Byte) : Nat :=
  match code.toNat with
  | 0x09 => 25
  | 0x01 => 40
  | 0x02 => 50
  | 0x03 => 51
  | 0x0B => 60
  | 0x0A => 61
  | 0x15 => 70
  | 0x06 | 0x07 | 0x08 | 0x04 => 80
  | 0x0F | 0x0C | 0x13 | 0x0D | 0x0E | 0x11 | 0x12 => 90
  | _ => 100

end Sys2Proof.Machine
end

