-- ==== Sys2Proof/Config.lean ====
section
/-!
DEFINITION. What the specification leaves to an implementation or leaves open: constants without a body, so that nothing
can be proved about their values. Log entries: 5 (free values), 6 (time), 7 (the package configuration record).
-/

namespace Sys2Proof.Config

/-- Core-clock cycles that pass in a step: free (log entry 6). -/
opaque stepCycles : Nat → Nat
/-- Nanoseconds that pass in a step: free (log entry 6). -/
opaque stepNanos : Nat → Nat
/-- A byte read under a key ID other than the one it was written under (R162): key asked, key written, address, and the
64-byte unit's contents (log entry 8). -/
opaque scramble : BitVec 8 → BitVec 8 → Nat → Nat → Byte
/-- A 32-bit value the specification does not state: which case, and the step's number or the operand. -/
opaque freeWord : Nat → Nat → Word
/-- Which entry of a full translation cache is replaced (R151). -/
opaque victim : Nat → Nat
/-- The value of an approximated special function inside its stated bound: function code, operand bits (R376). -/
opaque sfu : Nat → Word → Word

/-- The governor's mode (R17): true is token-ring. -/
opaque tokenRing : Bool
/-- What the package configuration record sets for BUDGET (R18), the tokens less one (R19), the tile quota less 8 (R67) and the
retry limit of a Linnor port (R35): `none` leaves the default. -/
opaque budgetSet : Option (BitVec 6)
opaque tokensSet : Option (BitVec 7)
opaque quotaSet : Option (BitVec 8)
opaque retryLimitSet : Option Nat
/-- BUDGET of issue-budget mode: 57 by default (R18). -/
def budget : BitVec 6 := budgetSet.getD 57
/-- T − 1 of token-ring mode: T is 115 by default (R19). -/
def tokens : BitVec 7 := tokensSet.getD 114
/-- Where the firmware area of HBM begins, in units of 4 KiB (R103, R127). -/
opaque firmwareArea : BitVec 20
/-- The retry limit of a Linnor port, resent flits in a second: 4,096 by default (R35). -/
def retryLimit : Nat := retryLimitSet.getD 4096
/-- The address of the firmware context's first bundle (R193). -/
opaque firmwareEntry : Addr

/-- The tile quota Q of R67: 8 to 255, 64 by default. -/
def tileQuota : Nat := Nat.min 247 (quotaSet.getD 56).toNat + 8

end Sys2Proof.Config
end

