-- ==== Sys2Proof/Machine/Memory.lean ====
section
/-!
DEFINITION. The bytes of memory in one canonical form, the physical map (R143), little-endian values, and key IDs (R161).
A cell's key is bits [43:0] of its physical address; a lookup core's buffer and a tile's control store, which have no
physical address, stand above them. Log entries: 2 (memory), 8 (key IDs).
-/

namespace Sys2Proof.Machine

/-! ### Cells -/

namespace Memory

/-- What an unlisted address reads as (log entry 2). -/
def blank : Byte := 0

/-- One byte. -/
def read : List Host.Cell → Nat → Byte
  | [], _ => blank
  | (b, v) :: rest, a => if b = a then v else read rest a

/-- Put a listed byte (never the blank one) in its place. -/
def put : List Host.Cell → Nat → Byte → List Host.Cell
  | [], a, v => [(a, v)]
  | (b, u) :: rest, a, v =>
    if b = a then (a, v) :: rest
    else if a < b then (a, v) :: (b, u) :: rest
    else (b, u) :: put rest a v

/-- Take an address out of the list. -/
def drop : List Host.Cell → Nat → List Host.Cell
  | [], _ => []
  | (b, u) :: rest, a => if b = a then rest else if a < b then (b, u) :: rest else (b, u) :: drop rest a

/-- Write one byte; the blank byte is never listed. -/
def write (m : List Host.Cell) (a : Nat) (v : Byte) : List Host.Cell := if v = blank then drop m a else put m a v

/-- Addresses strictly rising, from above `lo` on, and no blank byte listed. -/
def wfFrom : Option Nat → List Host.Cell → Bool
  | _, [] => true
  | lo, (b, v) :: rest =>
    (match lo with | none => true | some l => decide (l < b)) && decide (v ≠ blank) && wfFrom (some b) rest

/-- The canonical form. -/
def wf (m : List Host.Cell) : Bool := wfFrom none m

end Memory

/-! ### The physical map (R143) -/

/-- The regions of the physical map. -/
inductive PhysRegion | hbm | sram | reserved | registers | far | pcie | linnor
  deriving DecidableEq, Repr

/-- The region of an address's bits [43:0] (R143). -/
def physRegion (a : Nat) : PhysRegion :=
  if a < 0x0C000000000 then .hbm
  else if a < 0x0C060000000 then .sram
  else if a < 0x0FF00000000 then .reserved
  else if a < 0x10000000000 then .registers
  else if a < 0xD0000000000 then .far
  else if a < 0xE0000000000 then .pcie
  else .linnor

/-- The start of the SRAM global range. -/
def sramBase : Nat := 0x0C000000000
/-- The bytes of a slice: 6 MiB (R12). -/
def sliceBytes : Nat := 6 * 2 ^ 20
/-- The bytes of a granule: 64 KiB (R105). -/
def granuleBytes : Nat := 2 ^ 16
/-- The cell of a tile's slice byte. -/
def sliceCell (tile off : Nat) : Nat := sramBase + tile * sliceBytes + off
/-- The cell of a lookup core's buffer byte (R200). -/
def bufferCell (n off : Nat) : Nat := 2 ^ 44 + n * 2 ^ 20 + off
/-- The cell of a tile's control store byte (R121). -/
def storeCell (tile off : Nat) : Nat := 2 ^ 45 + tile * 2 ^ 14 + off

/-- The cell and the key ID of a physical address (R143). -/
def physCell (pa : BitVec 52) : Nat := (pa.extractLsb' 0 44).toNat
def physKey (pa : BitVec 52) : BitVec 8 := pa.extractLsb' 44 8
/-- A physical address from its two parts. -/
def physAddr (key : BitVec 8) (a : Nat) : BitVec 52 := key ++ BitVec.ofNat 44 a

/-- Do key IDs apply (R143, R161)? -/
def keyed (a : Nat) : Bool := physRegion a == .hbm || (physRegion a == .far && a < 2 ^ 44)

/-! ### Little-endian values -/

/-- The number that bytes stand for, the lowest address first. -/
def leNat : List Byte → Nat
  | [] => 0
  | b :: rest => b.toNat + 256 * leNat rest

/-- The `n` bytes of a number. -/
def leBytes : Nat → Nat → List Byte
  | 0, _ => []
  | n + 1, v => BitVec.ofNat 8 v :: leBytes n (v / 256)

/-- Bytes `off` to `off + n - 1` of a list as a number; missing bytes are 0. -/
def field (bs : List Byte) (off n : Nat) : Nat := leNat ((bs.drop off).take n)

/-- A number at an offset, as bits. -/
def bitsAt (w : Nat) (b : List Byte) (off n : Nat) : BitVec w := BitVec.ofNat w (field b off n)

/-! ### Bytes of the state -/

/-- A byte as its home holds it, with no key. -/
def State.byte (s : State) (a : Nat) : Byte := Memory.read s.mem a

/-- Write a byte at its home. -/
def State.setByte (s : State) (a : Nat) (v : Byte) : State :=
  { s with mem := Memory.write s.mem a v }

/-- The contents of a 64-byte unit as a number. -/
def State.unitData (s : State) (u : Nat) : Nat := leNat ((List.range 64).map (fun i => s.byte (u * 64 + i)))

/-- A byte read under a key ID (R161, R162). -/
def State.byteKey (s : State) (key : BitVec 8) (a : Nat) : Byte :=
  if keyed a then
    let k := Assoc.get 0 s.unitKey (a / 64)
    if k = key then s.byte a else Config.scramble key k a (s.unitData (a / 64))
  else s.byte a

/-- `n` bytes read under a key ID. -/
def State.bytesKey (s : State) (key : BitVec 8) (a : Nat) : Nat → List Byte
  | 0 => []
  | n + 1 => s.byteKey key a :: State.bytesKey s key (a + 1) n

/-- The bytes at consecutive cells. -/
def State.bytes (s : State) (a n : Nat) : List Byte := s.bytesKey 0 a n

/-- Give a 64-byte unit to a key ID: its other bytes then read as what that key makes of them. -/
def State.rekey (s : State) (key : BitVec 8) (u : Nat) : State :=
  let k := Assoc.get 0 s.unitKey u
  if k = key then s
  else
    { (List.range 64).foldl (fun t i => t.setByte (u * 64 + i) (Config.scramble key k (u * 64 + i) (s.unitData u))) s with
      unitKey := Assoc.set s.unitKey u key }

/-- Write a byte under a key ID; a write makes poisoned data good. -/
def State.setByteKey (s : State) (key : BitVec 8) (a : Nat) (v : Byte) : State :=
  let t := if keyed a then s.rekey key (a / 64) else s
  let t := t.setByte a v
  if t.poison = [] then t else { t with poison := Assoc.erase t.poison a }

/-- Write bytes at consecutive cells under a key ID. -/
def State.setBytesKey (s : State) (key : BitVec 8) (a : Nat) : List Byte → State
  | [] => s
  | v :: vs => State.setBytesKey (s.setByteKey key a v) key (a + 1) vs

/-- Write bytes where no key applies or key ID 0 does. -/
def State.setBytes (s : State) (a : Nat) (vs : List Byte) : State := s.setBytesKey 0 a vs

/-- Does any of `n` bytes hold uncorrectable data (R65)? -/
def State.poisoned (s : State) (a n : Nat) : Bool :=
  s.poison != [] && (List.range n).any (fun i => Assoc.get false s.poison (a + i))

/-- Mark bytes as uncorrectable. -/
def State.setPoison (s : State) (a n : Nat) : State :=
  { s with poison := (List.range n).foldl (fun m i => Assoc.set m (a + i) true) s.poison }

end Sys2Proof.Machine
end

