-- ==== Sys2Proof/Machine/Context.lean ====
section
/-!
DEFINITION. Agents and their contexts: which core and tile an agent belongs to, its node (R58, R59, R78), reading and
replacing cores, tiles, contexts and engines, and the register files with their special registers (R193, R194).
Also log entry 97 (HDM decoders).
-/

namespace Sys2Proof.Machine

/-! ### Places -/

/-- The control core of an agent, if it is one of a core's. -/
def agentCore : Agent → Option Nat
  | .user k | .fw k | .matrix k | .copy k => some k
  | .lookup _ => none

/-- The tile of an agent of a control core. -/
def agentTile (a : Agent) : Option Nat := (agentCore a).map (· / 4)

/-- The compute die of a tile or of a lookup core's stack (R12, R58). -/
def tileDie (t : Nat) : Nat := t / 128
def lookupDie (n : Nat) : Nat := n / 48
/-- The compute die of an agent. -/
def agentDie : Agent → Nat
  | .lookup n => lookupDie n
  | .user k | .fw k | .matrix k | .copy k => tileDie (k / 4)

/-- A node ID from its parts (R59). -/
def nodeOf (die router sub : Nat) : BitVec 13 := BitVec.ofNat 13 (die * 2048 + router * 8 + sub)
/-- The router index of a tile (R57, R59). -/
def tileRouter (t : Nat) : Nat := (t % 128) % 16 + 1 + 18 * ((t % 128) / 16 + 1)
/-- A tile's node with a sub-port (R58). -/
def tileNode (t sub : Nat) : BitVec 13 := nodeOf (tileDie t) (tileRouter t) sub
/-- The router of position `j` of local stack `s` (R58). -/
def stackRouter (s j : Nat) : Nat := if s < 3 then 1 + 4 * s + j else 1 + 4 * (s - 3) + j + 18 * 9
/-- The node of a memory slice: stack 0–11, slice 0–15 (R58, R144). -/
def sliceNode (stack j : Nat) : BitVec 13 := nodeOf (stack / 6) (stackRouter (stack % 6) (j / 4)) (j % 4)
/-- The node of a lookup core. -/
def lookupNode (n : Nat) : BitVec 13 :=
  nodeOf (lookupDie n) (stackRouter (n / 8 % 6) (n % 8 / 2)) (4 + n % 2)
/-- The node of a Linnor port's group (R58). -/
def portNode (p : Nat) : BitVec 13 :=
  let g := p % 32 / 4
  nodeOf (p / 32) (if g < 4 then g + 13 else g + 9 + 18 * 9) 0
/-- The node of a PCIe/CXL port (R78). -/
def pcieNode (p : Nat) : BitVec 13 := nodeOf 2 (1 + 2 * p) 0
/-- The management core's node (R78). -/
def mgmtNode : BitVec 13 := nodeOf 2 (0 + 2 * 8) 0
/-- The LFE's node (R78). -/
def lfeNode : BitVec 13 := nodeOf 2 (1 + 2 * 4) 0
/-- The nodes of the system die (R78): the clusters of application cores, the management core and the seal, the IOMMU, the
PCIe/CXL ports, and the four request engines of the LFE. Its other sub-ports are unused. -/
def systemNodes : List (BitVec 13) :=
  (List.range 8).map (fun y => nodeOf 2 (2 * y) 0) ++ [mgmtNode, nodeOf 2 16 1, nodeOf 2 18 0]
    ++ (List.range 4).map pcieNode ++ (List.range 4).map (nodeOf 2 9)

/-- The node an agent sends from: its core's sub-port, or a lookup core's own (R58). -/
def agentNode : Agent → BitVec 13
  | .lookup n => lookupNode n
  | .user k | .fw k | .matrix k => tileNode (k / 4) (k % 4)
  | .copy k => tileNode (k / 4) 5

/-! ### Parts of the state -/

namespace State

/-- Control core `k`, 4 × tile + core. -/
def core (s : State) (k : Nat) : Core := Assoc.get {} s.cores k
/-- Replace a control core. -/
def setCore (s : State) (k : Nat) (c : Core) : State := { s with cores := Assoc.set s.cores k c }
/-- Change a control core. -/
def modCore (s : State) (k : Nat) (f : Core → Core) : State := s.setCore k (f (s.core k))
/-- Lookup core `n`. -/
def lookup (s : State) (n : Nat) : Lookup := Assoc.get {} s.lookups n
/-- Replace a lookup core. -/
def setLookup (s : State) (n : Nat) (l : Lookup) : State := { s with lookups := Assoc.set s.lookups n l }
/-- Compute tile `t`. -/
def tile (s : State) (t : Nat) : TileState := Assoc.get {} s.tiles t
/-- Replace a tile. -/
def setTile (s : State) (t : Nat) (x : TileState) : State := { s with tiles := Assoc.set s.tiles t x }
/-- Change a tile. -/
def modTile (s : State) (t : Nat) (f : TileState → TileState) : State := s.setTile t (f (s.tile t))

/-- The context an agent runs in or belongs to: the engines belong to the user context. -/
def ctxOf (s : State) : Agent → Ctx
  | .user k | .matrix k | .copy k => (s.core k).user
  | .fw k => (s.core k).fw
  | .lookup n => (s.lookup n).ctx
/-- Replace an agent's context. -/
def setCtxOf (s : State) (a : Agent) (c : Ctx) : State :=
  match a with
  | .user k | .matrix k | .copy k => s.setCore k { s.core k with user := c }
  | .fw k => s.setCore k { s.core k with fw := c }
  | .lookup n => s.setLookup n { s.lookup n with ctx := c }
/-- Change an agent's context. -/
def modCtxOf (s : State) (a : Agent) (f : Ctx → Ctx) : State := s.setCtxOf a (f (s.ctxOf a))

/-- The context in progress. -/
def ctx (s : State) : Ctx := s.ctxOf s.cur
/-- Replace the context in progress. -/
def setCtx (s : State) (c : Ctx) : State := s.setCtxOf s.cur c
/-- Change the context in progress. -/
def modCtx (s : State) (f : Ctx → Ctx) : State := s.setCtx (f s.ctx)

/-- What a syllable reads: the context as its bundle found it (R187). -/
def src (s : State) : Ctx := s.issue.snap.getD s.ctx

/-- Is the context in progress a firmware context? -/
def isFw (s : State) : Bool := match s.cur with | .fw _ => true | _ => false
/-- Is it a lookup core's? -/
def isLookup (s : State) : Bool := match s.cur with | .lookup _ => true | _ => false
/-- Is it a user context of a control core? -/
def isUser (s : State) : Bool := !s.isFw && !s.isLookup

/-- The HDM decoder that covers a far-memory address: its port (R54, R143). -/
def farPort (s : State) (a : Nat) : Option Nat :=
  (s.links.hdm.find? (fun d => d.1 ≤ a && a < d.1 + d.2.1)).map (·.2.2)

/-- The Linnor window of an aperture address (R42). -/
def window (s : State) (a : Nat) : BitVec 64 := Assoc.get 0 s.links.win ((a - 0xE0000000000) / 2 ^ 30)

/-- A Linnor port. -/
def lnPort (s : State) (p : Nat) : LnPort := Assoc.get {} s.links.ports p
/-- Does a port carry flits: trained and not fenced (R28)? -/
def lnUp (s : State) (p : Nat) : Bool :=
  (s.lnPort p).trained && !s.fences.lports.getLsbD p && !s.fences.dies.getLsbD (p / 32)

/-- The ports of a device's route, of those that `ok` admits: those that are up, or all where none is. -/
def lnRoute (s : State) (d : Nat) (ok : Nat → Bool) : List Nat :=
  let m := Assoc.get 0 s.links.portmask d
  let ps := (List.range 64).filter (fun p => m.getLsbD p && ok p)
  let up := ps.filter s.lnUp
  if up = [] then ps else up
/-- Requests are spread over the ports of a route by their 256 bytes of address (R43; DESIGN CHOICE, log entry 46). -/
def lnSpread (ps : List Nat) (a : Nat) : Option Nat := ps[a / 256 % ps.length]?

/-- The node that is the home of an address, or through which it is reached (R58, R62, R144). -/
def homeNode (s : State) (a : Nat) : BitVec 13 :=
  if 2 ^ 44 ≤ a then lfeNode else
  match physRegion a with
  | .sram => tileNode ((a - sramBase) / sliceBytes) 4
  | .hbm => sliceNode (a / 2 ^ 36) (a / 256 % 16)
  | .linnor =>
    let d := ((s.window a).extractLsb' 53 10).toNat
    portNode ((lnSpread (s.lnRoute d (fun _ => true)) a).getD 0)
  | .far => pcieNode ((s.farPort a).getD 0)
  | .pcie => pcieNode ((a - 0xD0000000000) / 2 ^ 38)
  | _ => mgmtNode

/-- Does the function that holds an address answer (R27, R143)? Its READYMAP bit is set and it is not fenced. -/
def inService (s : State) (a : Nat) : Bool :=
  if 2 ^ 44 ≤ a then true else
  match physRegion a with
  | .hbm => s.boot.hbm.getLsbD (a / 2 ^ 36) && !s.fences.hbms.getLsbD (a / 2 ^ 36)
      && !s.fences.dies.getLsbD (a / 2 ^ 36 / 6)
  | .sram => let t := (a - sramBase) / sliceBytes; s.boot.tiles.getLsbD t && !s.fences.tiles.getLsbD t
      && !s.fences.dies.getLsbD (tileDie t)
  | .far => match s.farPort a with
    | some p => s.boot.pcie.getLsbD p && !s.fences.pports.getLsbD p
    | none => false
  | .pcie => let p := (a - 0xD0000000000) / 2 ^ 38; s.boot.pcie.getLsbD p && !s.fences.pports.getLsbD p
  | .linnor => true
  | .registers => true
  | .reserved => false

/-- An engine of a core: the copy sequencer or the matrix sequencer. -/
def engine (s : State) (k : Nat) (copy : Bool) : Engine := if copy then (s.core k).cpy else (s.core k).mat
/-- Replace an engine. -/
def setEngine (s : State) (k : Nat) (copy : Bool) (e : Engine) : State :=
  s.modCore k (fun c => if copy then { c with cpy := e } else { c with mat := e })

end State

/-! ### Packets into the mesh (R60 to R62, R71), and the counts of far memory (R160) -/

/-- The key of a stream (R71). -/
def streamKey (src : BitVec 13) (region : BitVec 12) (cls : BitVec 4) (dst : BitVec 13) : Nat :=
  ((src.toNat * 4096 + region.toNat) * 16 + cls.toNat) * 8192 + dst.toNat

/-- The address field of a packet (R62). -/
def packetAddr (key : BitVec 8) (a : Nat) : BitVec 40 :=
  match physRegion a with
  | .sram => BitVec.ofNat 40 ((a - sramBase) % sliceBytes)
  | .hbm => key ++ BitVec.ofNat 32 (a % 2 ^ 36 / 4096 * 256 + a % 256)
  | _ => 0

/-- Does a packet to an address carry it in its payload (R62)? -/
def payloadAddressed (a : Nat) : Bool := physRegion a != .sram && physRegion a != .hbm

namespace State

/-- The mesh cycle count as packets carry it (R60). -/
def stampNow (s : State) : BitVec 18 := s.mesh.count.extractLsb' 0 18

/-- A packet of a sequenced stream, numbered and waiting for its router (R71). -/
def inject (s : State) (p : Packet) : State × BitVec 12 :=
  if p.x then
    let t := s.mesh.nextTag
    ({ s with mesh := { s.mesh with pending := s.mesh.pending ++ [{ p with seq := t }], nextTag := t + 1 } }, t)
  else
    let k := streamKey p.src p.region p.cls p.dst
    let n := Assoc.get 0 s.mesh.next k
    ({ s with mesh := { s.mesh with
        pending := s.mesh.pending ++ [{ p with seq := n }], next := Assoc.set s.mesh.next k (n + 1) } }, n)

/-- The counter byte of a far-memory address (R159). -/
def counterCell (s : State) (a : Nat) : Nat := physCell (s.mmu.cntbase.extractLsb' 0 52) + (a - 0x10000000000) / 65536

/-- The root port reports an access that it performs in far memory (R160). -/
def countFar (s : State) (a : Nat) : State :=
  if physRegion a == .far && a < 2 ^ 44 && s.mmu.cnten then
    let base := s.mmu.cntbase.extractLsb' 0 52
    let c := s.counterCell a
    (s.inject { kind := 6, x := false, cls := 15, dst := s.homeNode c, src := s.homeNode a, seq := 0, region := 0
                stamp := s.stampNow, op := 11, len := 0, addr := packetAddr (physKey base) c, fw := false
                poison := false, data := [] }).1
  else s

/-- A store that a unit of the package makes for itself: under an empty key ID it performs nothing (R161), and in far memory it
is counted. -/
def unitStore (s : State) (key : BitVec 8) (cell : Nat) (bs : List Byte) : State :=
  if keyed cell && !Assoc.get false s.security.keys key.toNat then s else (s.setBytesKey key cell bs).countFar cell

end State

/-! ### Register files -/

/-- The code of a result's register (R204); F, G and BD, which R204 does not code, follow. -/
def Write.dest : Write → Nat
  | .d r _ => r.toNat
  | .v r _ => 0x40 + r.toNat
  | .p r _ => 0x50 + r.toNat
  | .c r _ => 0x58 + r.toNat
  | .b r _ => 0x60 + r.toNat
  | .w r _ => 0x64 + r.toNat
  | .f r _ => 0x70 + r.toNat
  | .g r _ => 0x78 + r.toNat
  | .bd r _ => 0x80 + r.toNat

/-- Is a result a vector or predicate value (R188)? -/
def Write.isVec : Write → Bool
  | .v _ _ | .p _ _ => true
  | _ => false

namespace Regs

/-- D0 always reads as singleton 0 (R272). -/
def dom (r : Regs) (k : DReg) : Dom := if k = 0 then Dom.single 0 else Assoc.get (Dom.single 0) r.d k.toNat
/-- A vector tile register. -/
def vec (r : Regs) (k : VReg) : VTile := Assoc.get VTile.zero r.v k.toNat
/-- P0 reads all-true (R194). -/
def pred (r : Regs) (k : PReg) : BitVec 1024 := if k = 0 then BitVec.allOnes 1024 else Assoc.get 0 r.p k.toNat
/-- A condition register. -/
def cond (r : Regs) (k : CReg) : Bool := r.c.getLsbD k.toNat
/-- A branch target register. -/
def target (r : Regs) (k : BReg) : Addr := Assoc.get 0 r.b k.toNat
/-- A wrap register. -/
def wrap (r : Regs) (k : WReg) : BitVec 128 := Assoc.get 0 r.w k.toNat
/-- A stream register. -/
def stream (r : Regs) (k : FReg) : BitVec 512 := Assoc.get 0 r.f k.toNat
/-- A gloss handle. -/
def gloss (r : Regs) (k : GReg) : BitVec 256 := Assoc.get 0 r.g k.toNat
/-- A buffer descriptor. -/
def desc (r : Regs) (k : BdReg) : BitVec 128 := Assoc.get 0 r.bd k.toNat
/-- An event's count. -/
def event (r : Regs) (k : Nat) : Byte := Assoc.get 0 r.ev k
/-- Set an event's count. -/
def setEvent (r : Regs) (k : Nat) (v : Byte) : Regs := { r with ev := Assoc.set r.ev k v }

/-- A result lands: writes to D0 and P0 are discarded (R194, R332). -/
def write (r : Regs) : Write → Regs
  | .d k x => if k = 0 then r else { r with d := Assoc.set r.d k.toNat x }
  | .v k x => { r with v := Assoc.set r.v k.toNat x }
  | .p k x => if k = 0 then r else { r with p := Assoc.set r.p k.toNat x }
  | .c k x => { r with c := if x then r.c ||| (1#8 <<< k.toNat) else r.c &&& ~~~(1#8 <<< k.toNat) }
  | .b k x => { r with b := Assoc.set r.b k.toNat x }
  | .w k x => { r with w := Assoc.set r.w k.toNat x }
  | .f k x => { r with f := Assoc.set r.f k.toNat x }
  | .g k x => { r with g := Assoc.set r.g k.toNat x }
  | .bd k x => { r with bd := Assoc.set r.bd k.toNat x }

end Regs

end Sys2Proof.Machine
end

