-- ==== Sys2Proof/Machine/Translate.lean ====
section
/-!
DEFINITION. Translation (R148 to R156): the Sv48 walk with the C7's rules, the translation caches, open faults and their
records, and the table of PASIDs. Log entries: 9 (process contexts), 10 (walks within a step).
Also log entries 92 (the order of a leaf's checks), 96 (the victim of a full translation cache).
-/

namespace Sys2Proof.Machine

/-! ### Kinds of access and of fault -/

/-- The ACCESS codes of a fault record (R155). -/
def accRead : BitVec 4 := 1
def accWrite : BitVec 4 := 2
def accExec : BitVec 4 := 4
def accAtomic : BitVec 4 := 8

/-- What a translation gives. -/
inductive Xlate
  /-- The physical address; the state has the entry installed and the A and D bits set. -/
  | ok (pa : BitVec 52) (s : State)
  /-- The leaf maps to SRAM or registers, or the key ID is another tenant's: PROT at the issuer (R149, R162). -/
  | prot (s : State)
  /-- A fault with its cause (R155). -/
  | fault (cause : Byte) (s : State)
  /-- The PASID is not ACTIVE: the result is discarded and the access waits (R101, R102). -/
  | wait
  deriving DecidableEq, Repr

/-- May an access use a page with these permissions (R149)? -/
def permits (acc : BitVec 4) (r w x : Bool) : Bool :=
  (!acc.getLsbD 0 || r) && (!acc.getLsbD 1 || w) && (!acc.getLsbD 2 || x) && (!acc.getLsbD 3 || (r && w))

/-- Does an access need D = 1? -/
def dirties (acc : BitVec 4) : Bool := acc.getLsbD 1 || acc.getLsbD 3

/-! ### The walk (R149) -/

/-- What a walk ends in. -/
inductive Walked
  | leaf (e : TlbEntry) (s : State)
  | prot (s : State)
  | fault (cause : Byte) (s : State)
  deriving DecidableEq, Repr

/-- The offset bits of a leaf at a level, or of a 64 KiB leaf. -/
def leafBits (level : Nat) (napot : Bool) : Nat := if napot then 16 else 12 + 9 * level

/-- Does an entry with V set hold a leaf encoding that Sv48 reserves, whatever its other bits (R149)? -/
def reservedLeaf (level : Nat) (pte : BitVec 64) : Bool :=
  let ppn := pte.extractLsb' 10 44
  (pte.getLsbD 2 && !pte.getLsbD 1)
    || ((pte.getLsbD 1 || pte.getLsbD 3)
      && (level == 3 || (level == 2 && ppn.extractLsb' 0 18 != 0) || (level == 1 && ppn.extractLsb' 0 9 != 0)))

/-- A leaf entry (R149): `pte` was read at cell `at_` under `key`. -/
def walkLeaf (s : State) (pasid : BitVec 20) (va : Addr) (acc : BitVec 4) (level : Nat) (key : BitVec 8) (at_ : Nat)
    (pte : BitVec 64) : Walked :=
  let r := pte.getLsbD 1
  let w := pte.getLsbD 2
  let x := pte.getLsbD 3
  let n := pte.getLsbD 63
  let ppn := pte.extractLsb' 10 44
  if !pte.getLsbD 4 then .fault 2 s
  else if !permits acc r w x then .fault 2 s
  else if ppn.extractLsb' 40 4 != 0 then .fault 3 s
  else if n && (level != 0 || ppn.extractLsb' 0 4 != 8) then .fault 3 s
  else
    let b := leafBits level n
    let base := (ppn.extractLsb' 0 32).toNat * 4096 / 2 ^ b * 2 ^ b
    let a := base + va.toNat % 2 ^ b
    if physRegion a == .sram || physRegion a == .registers then .prot s
    else
      let pte' := pte ||| 0x40 ||| (if dirties acc then 0x80 else 0)
      let s := if pte' = pte then s else (s.setBytesKey key at_ (leBytes 8 pte'.toNat)).countFar at_
      .leaf { pasid := pasid, va := BitVec.ofNat 48 (va.toNat / 2 ^ b * 2 ^ b)
              size := if n then 1 else if level = 0 then 0 else if level = 1 then 2 else 3
              pa := physAddr (ppn.extractLsb' 32 8) base, r := r, w := w, x := x, d := pte'.getLsbD 7 } s

/-- A read of a table by a walker; `none` where the data is uncorrectable. -/
def State.tableRead (s : State) (key : BitVec 8) (cell n : Nat) : Option (List Byte × State) :=
  if !s.inService cell || s.poisoned cell n || (keyed cell && !Assoc.get false s.security.keys key.toNat) then none
  else some (s.bytesKey key cell n, s.countFar cell)

/-- Walk down from the table at page `ppn`, `level` levels above level 0 (R149). -/
def walkFrom (s : State) (pasid : BitVec 20) (va : Addr) (acc : BitVec 4) : Nat → BitVec 44 → Walked
  | 0, _ => .fault 1 s
  | level + 1, ppn =>
    let key := ppn.extractLsb' 32 8
    let at_ := (ppn.extractLsb' 0 32).toNat * 4096 + 8 * (va.toNat / 2 ^ (12 + 9 * level) % 512)
    match s.tableRead key at_ 8 with
    | none => .fault 4 s
    | some (bs, s) =>
      let pte := BitVec.ofNat 64 (leNat bs)
      if !pte.getLsbD 0 then .fault 1 s
      else if reservedLeaf level pte then .fault 3 s
      else if pte.extractLsb' 54 7 != 0 then .fault 1 s
      else if pte.getLsbD 1 || pte.getLsbD 3 then walkLeaf s pasid va acc level key at_ pte
      else if level = 0 then .fault 1 s
      else if pte.getLsbD 63 || pte.extractLsb' 50 4 != 0 then .fault 3 s
      else walkFrom s pasid va acc level (pte.extractLsb' 10 44)

/-- The state of a PASID (R101): every PASID is FREE after package reset. -/
def State.pasidState (s : State) (pasid : BitVec 20) : PasidState := Assoc.get .free s.mmu.pasids pasid.toNat

/-- A process context of 16 bytes as the process directory table holds it (log entry 9): bit 0 of the first doubleword is its
V; the second holds the mode in [63:60], 9 for Sv48, and the root page in [43:0]. -/
def procOf (bs : List Byte) : Option ProcCtx :=
  if bs.length = 16 && (field bs 0 8).testBit 0 then
    some { sv48 := (BitVec.ofNat 64 (field bs 8 8)).extractLsb' 60 4 == 9
           root := (BitVec.ofNat 64 (field bs 8 8)).extractLsb' 0 44 }
  else none

/-- Walk the process directory from its table at page `ppn`, `level` levels above the process contexts, to a PASID's process
context (R148, log entry 9); `.error` has the cause of a fault. -/
def procFrom (s : State) (pasid : BitVec 20) : Nat → BitVec 44 → Except (Byte × State) (ProcCtx × State)
  | 0, ppn =>
    match s.tableRead (ppn.extractLsb' 32 8) ((ppn.extractLsb' 0 32).toNat * 4096 + 16 * (pasid.toNat % 256)) 16 with
    | none => .error (4, s)
    | some (bs, t) => match procOf bs with
      | some c => .ok (c, t)
      | none => .error (3, t)
  | level + 1, ppn =>
    match s.tableRead (ppn.extractLsb' 32 8)
        ((ppn.extractLsb' 0 32).toNat * 4096 + 8 * (pasid.toNat / 2 ^ (8 + 9 * level) % 512)) 8 with
    | none => .error (4, s)
    | some (bs, t) =>
      let e := BitVec.ofNat 64 (leNat bs)
      if e.getLsbD 0 then procFrom t pasid level (e.extractLsb' 10 44) else .error (3, t)

/-- The process context of a PASID, through the directory that the device context names: it has one, two or three levels,
for PASIDs of 8, 17 and 20 bits (log entry 9). -/
def State.procCtx (s : State) (pasid : BitVec 20) : Except (Byte × State) (ProcCtx × State) :=
  let mode := (s.mmu.pdt.extractLsb' 60 4).toNat
  if mode = 0 || 3 < mode || 2 ^ (if mode = 1 then 8 else if mode = 2 then 17 else 20) ≤ pasid.toNat then .error (3, s)
  else procFrom s pasid (mode - 1) (s.mmu.pdt.extractLsb' 0 44)

/-- A walk of a PASID's tables (R148): a first stage of another mode makes every translation BAD. -/
def State.walk (s : State) (pasid : BitVec 20) (va : Addr) (acc : BitVec 4) : Walked :=
  match s.procCtx pasid with
  | .ok (p, t) => if p.sv48 then walkFrom t pasid va acc 4 p.root else .fault 3 t
  | .error (c, t) => .fault c t

/-! ### Translation caches (R151) -/

/-- Does an entry translate an address? -/
def TlbEntry.hits (e : TlbEntry) (pasid : BitVec 20) (va : Addr) : Bool :=
  let b := [12, 16, 21, 30].getD e.size.toNat 12
  e.pasid == pasid && e.va.toNat / 2 ^ b == va.toNat / 2 ^ b

/-- The physical address an entry gives. -/
def TlbEntry.translate (e : TlbEntry) (va : Addr) : BitVec 52 :=
  let b := [12, 16, 21, 30].getD e.size.toNat 12
  physAddr (physKey e.pa) (physCell e.pa + va.toNat % 2 ^ b)

/-- May an access use an entry? -/
def TlbEntry.serves (e : TlbEntry) (pasid : BitVec 20) (va : Addr) (acc : BitVec 4) : Bool :=
  e.hits pasid va && permits acc e.r e.w e.x && (e.d || !dirties acc)

/-- Put an entry into a cache of at most `n` entries that `same` counts together; a full one loses an entry of the
implementation's choice. -/
def tlbInsert (tlb : List TlbEntry) (e : TlbEntry) (n seed : Nat) (same : TlbEntry → Bool) : List TlbEntry :=
  let tlb := tlb.filter (fun f => !(f.pasid == e.pasid && f.va == e.va && f.size == e.size))
  if (tlb.filter same).length < n then e :: tlb
  else e :: tlb.erase ((tlb.filter same).getD (Config.victim seed % n) e)

/-- The caches an agent's misses fill: a tile's and its die's, or a lookup core's die's; `none` is the LFE. -/
inductive Port
  | tile (t : Nat)
  | lookup (n : Nat)
  | lfe
  deriving DecidableEq

/-- The port of an agent. -/
def agentPort : Agent → Port
  | .lookup n => .lookup n
  | .user k | .fw k | .matrix k | .copy k => .tile (k / 4)

/-- The first entry that serves an access. -/
def State.tlbFind (s : State) (p : Port) (pasid : BitVec 20) (va : Addr) (acc : BitVec 4) : Option TlbEntry :=
  let l2 (d : Nat) := (Assoc.get [] s.mmu.l2 d).find? (·.serves pasid va acc)
  match p with
  | .tile t => ((s.tile t).tlb.find? (·.serves pasid va acc)).or (l2 (tileDie t))
  | .lookup n => l2 (lookupDie n)
  | .lfe => s.lfe.tlb.find? (·.serves pasid va acc)

/-- The path of an address off the package, by a number: a device's route, or 1,024 and a PCIe port (R45, R52). -/
def State.pathOfCell (s : State) (cell : Nat) : Option Nat :=
  if 2 ^ 44 ≤ cell then none
  else match physRegion cell with
    | .linnor => some ((s.window cell).extractLsb' 53 10).toNat
    | .pcie => some (1024 + (cell - 0xD0000000000) / 2 ^ 38)
    | _ => none

/-- The capability word of a path as it stands now: LNROUTE, or what is known of the port. -/
def State.pathWord (s : State) (id : Nat) : BitVec 64 :=
  if id < 1024 then Assoc.get 0 s.links.route id else Assoc.get 0 s.links.pcieCap (id - 1024)

/-- KNOWN, CAP and LEARNED of a capability word (R43). -/
def capMask : BitVec 64 := 0x40FFFF0000000000

/-- An entry takes the capability of its page's path with it (R45). -/
def State.withRoute (s : State) (e : TlbEntry) : TlbEntry :=
  { e with route := (s.pathOfCell (physCell e.pa)).map (fun id => (id, s.pathWord id &&& capMask)) }

/-- What a capability word becomes when an operation has been performed or refused (R45): a bit that is not known is
learned. -/
def learned (w : BitVec 64) (i : Nat) (ok : Bool) : BitVec 64 :=
  if w.getLsbD 62 || w.getLsbD (40 + i) then w
  else
    let w := w ||| (1#64 <<< (40 + i))
    if ok then w ||| (1#64 <<< (48 + i)) else w &&& ~~~(1#64 <<< (48 + i))

/-- An entry that carries a path learns with it. -/
def TlbEntry.learn (e : TlbEntry) (id i : Nat) (ok : Bool) : TlbEntry :=
  { e with route := e.route.map (fun r => if r.1 = id then (r.1, learned r.2 i ok) else r) }

/-- The capability of a path is learned: in its register and, in the same step, in every entry of a tile's or a second-level
cache that carries it (R45). -/
def State.learnPath (s : State) (id i : Nat) (ok : Bool) : State :=
  let upd (es : List TlbEntry) : List TlbEntry := es.map (fun e => e.learn id i ok)
  { s with
    tiles := s.tiles.map (fun x => (x.1, { x.2 with tlb := upd x.2.tlb }))
    mmu := { s.mmu with l2 := s.mmu.l2.map (fun x => (x.1, upd x.2)) }
    links := if id < 1024 then { s.links with route := Assoc.set s.links.route id (learned (s.pathWord id) i ok) }
      else { s.links with pcieCap := Assoc.set s.links.pcieCap (id - 1024) (learned (s.pathWord id) i ok) } }

/-- Install a walk's entry at its real size (R150, R151). -/
def State.tlbFill (s : State) (p : Port) (e : TlbEntry) : State :=
  let e := s.withRoute e
  let k := s.mmu.walks
  let s := { s with mmu := { s.mmu with walks := k + 1 } }
  let l2 (s : State) (d : Nat) : State :=
    { s with mmu := { s.mmu with
      l2 := Assoc.set s.mmu.l2 d (tlbInsert (Assoc.get [] s.mmu.l2 d) e 8192 k (fun _ => true)) } }
  match p with
  | .tile t => (l2 s (tileDie t)).modTile t (fun x => { x with tlb := tlbInsert x.tlb e 64 k (fun f => f.size == e.size) })
  | .lookup n => l2 s (lookupDie n)
  | .lfe => { s with lfe := { s.lfe with tlb := tlbInsert s.lfe.tlb e 256 k (fun _ => true) } }

/-- May a region with or without the CONF grant use memory under a key ID (R162)? -/
def State.keyAllowed (s : State) (conf : Bool) (pasid : BitVec 20) (pa : BitVec 52) : Bool :=
  let key := physKey pa
  if !keyed (physCell pa) then true
  else if conf then key == 0 || Assoc.find? s.security.tenants pasid.toNat == some key
  else !(s.security.tenants.any (fun t => t.2 == key))

/-- Translate a virtual address (R148 to R151, R162). -/
def State.translate (s : State) (p : Port) (conf : Bool) (pasid : BitVec 20) (va : Addr) (acc : BitVec 4) : Xlate :=
  let mayUse (pa : BitVec 52) : Bool := match p with
    | .lfe => !keyed (physCell pa) || !(s.security.tenants.any (fun t => t.2 == physKey pa && t.1 != pasid.toNat))
    | _ => s.keyAllowed conf pasid pa
  let check (pa : BitVec 52) (s : State) : Xlate := if mayUse pa then .ok pa s else .prot s
  match s.tlbFind p pasid va acc with
  | some e => check (e.translate va) s
  | none =>
    if s.pasidState pasid != .active then .wait
    else match s.walk pasid va acc with
      | .leaf e t => check (e.translate va) (t.tlbFill p e)
      | .prot t => .prot t
      | .fault c t => .fault c t

/-! ### The fault buffer (R154 to R156) -/

/-- Send an MSI as a register of LQIRQ's layout names it (R82). -/
def State.sendMsi (s : State) (irq : BitVec 37) : State :=
  { s with mgmt := { s.mgmt with
      msis := (irq.extractLsb' 32 5, irq.extractLsb' 0 11) :: s.mgmt.msis
      imsic := Assoc.set s.mgmt.imsic ((irq.extractLsb' 32 5).toNat * 2048 + (irq.extractLsb' 0 11).toNat) true } }

/-- The 32 bytes of a fault record (R155): `addr` is a virtual address, and a physical one for KIND 3. -/
def recordBytes (addr : Nat) (f : OpenFault) (kind : Byte) (time : BitVec 64) : List Byte :=
  leBytes 8 addr ++ leBytes 4 f.pasid.toNat ++ leBytes 2 f.region.toNat ++ leBytes 2 f.node.toNat
    ++ [kind, BitVec.zeroExtend 8 f.access, f.cause, f.path, if f.stale then 2 else 0,
        BitVec.ofNat 8 (min 255 f.joined), BitVec.zeroExtend 8 f.page, 0]
    ++ leBytes 8 time.toNat

/-- The record of a fault or of a page request. -/
def faultRecord (f : OpenFault) (kind : Byte) (time : BitVec 64) : List Byte := recordBytes f.va.toNat f kind time

/-- Is there room for a record in the ring? -/
def State.fbRoom (s : State) : Bool := s.mmu.fben && decide ((s.mmu.fbtail - s.mmu.fbhead).toNat < 2 ^ s.mmu.fbsize.toNat)

/-- Write a record, advance FBTAIL and send the MSI when the ring was empty (R154). -/
def State.fbWrite (s : State) (bytes : List Byte) : State :=
  let base := s.mmu.fbbase.extractLsb' 0 52
  let at_ := physCell base + 32 * (s.mmu.fbtail.toNat % 2 ^ s.mmu.fbsize.toNat)
  let empty := s.mmu.fbtail == s.mmu.fbhead
  let s := s.unitStore (physKey base) at_ bytes
  let s := { s with mmu := { s.mmu with fbtail := s.mmu.fbtail + 1 } }
  if empty then s.sendMsi s.mmu.fbmsi else s

/-- Two accesses share a fault when PASID and bits [47:12] agree (R151, R156). -/
def OpenFault.covers (f : OpenFault) (pasid : BitVec 20) (va : Addr) : Bool :=
  !f.stale && f.pasid == pasid && f.va.toNat / 4096 == va.toNat / 4096

/-- Raise or join a KIND 1 fault (R155, R156). `f.index` of the argument is not read. -/
def State.raiseFault (s : State) (f : OpenFault) : State :=
  if s.mmu.faults.any (·.covers f.pasid f.va) then
    { s with mmu := { s.mmu with faults := s.mmu.faults.map (fun g =>
        if g.covers f.pasid f.va then
          { g with joined := g.joined + 1, waiters := g.waiters ++ f.waiters.filter (fun a => !g.waiters.contains a) }
        else g) } }
  else if s.mmu.faults.length < 1024 && s.mmu.faults.all (·.index.isSome) && s.fbRoom then
    let t := s.fbWrite (faultRecord f 1 s.ptime)
    { t with mmu := { t.mmu with faults := t.mmu.faults ++ [{ f with index := some s.mmu.fbtail }] } }
  else
    { s with mmu := { s.mmu with fbovf := s.mmu.fben || s.mmu.fbovf, faults := s.mmu.faults ++ [{ f with index := none }] } }

/-- Is a page's fault still open, so that an access waits on it? -/
def State.faultOpen (s : State) (pasid : BitVec 20) (va : Addr) : Bool := s.mmu.faults.any (·.covers pasid va)

end Sys2Proof.Machine
end

