-- ==== Sys2Proof/Machine/Ops.lean ====
section
/-!
DEFINITION. The operations that instructions share: time, results in flight and their landing (R187 to R191, R428), what a
syllable may end in, taking a trap (R293, R316) and coming back from one (R318), the bundle boundary, and the frame that
every bundle syllable runs in. Log entries: 1, 6, 11 (traps), 12 (single step in a handler), 13 (empty bundles).
Also log entries 91 (the address in a fatal trap that comes after commit), 102 (a handler's own transfers), 104 (a
trap clears what a bundle waited for).
-/

namespace Sys2Proof.Machine

/-! ### Time and happenings -/

/-- Is an engine in an array word? -/
def Engine.inArray (e : Engine) : Bool :=
  match e.inWord with
  | some w => let g := (w.extractLsb' 12 4).toNat; 7 ≤ g && g ≤ 9
  | none => false

/-- The active cycles that count in window `w` (R18): each window since has taken its budget of them. -/
def TileState.settled (x : TileState) (w : Nat) : Nat := x.activeCycles - (w - x.window) * (Config.budget.toNat + 1)

namespace State

/-- Is a control core gated (R98)? -/
def coreGated (s : State) (k : Nat) : Bool := s.mgmt.gated && !s.mgmt.restored.contains k

/-- Does a region exist, or has an enabled queue a record to fetch (R98)? -/
def hasWork (s : State) : Bool :=
  s.regions != [] || s.lfe.queues.any (fun q => q.2.v && !q.2.stop && q.2.head != q.2.tail)

/-- The window of 64 cycles that CYCLE is in (R16, R18). -/
def cycleWindow (s : State) : Nat := s.cycle.toNat / 64

/-- The slots that the firmware context in progress has taken are noted (R120). -/
def noteSlots (s : State) : State :=
  match s.cur with
  | .fw k => s.modCore k (fun c =>
      let w := s.cycle.extractLsb' 4 60
      { c with fwWindow := w, fwBase := if c.fwWindow = w then c.fwBase else c.fwLast, fwLast := c.fw.count })
  | _ => s

/-- Is the array of a tile held by the power governor (R17 to R19): without a token, or in a window whose budget is used up? What a
window leaves over goes on in the next. -/
def governed (s : State) (t : Nat) : Bool :=
  let x := s.tile t
  if Config.tokenRing then !x.token
  else (x.govStalled && x.window == s.cycleWindow) || decide (Config.budget.toNat + 1 ≤ x.settled s.cycleWindow)

/-- Has a tile's array a matrix step ready that the governor holds (R21)? -/
def stepHeld (s : State) (t : Nat) : Bool :=
  let l := (s.tile t).lease
  let e := (s.core (4 * t + l.holder.toNat)).mat
  if l.held then e.inArray && e.state == .running && e.fault.isNone && s.governed t
  else (List.range 4).any (fun i => (s.core (4 * t + i)).mat.state == .waitLease) && Config.tokenRing && s.governed t

/-- A step takes some time: how much is free (log entry 6). -/
def tick (s : State) : State :=
  let s := s.noteSlots
  let n := Config.stepCycles s.fresh
  { s with tiles := s.tiles.map (fun e => (e.1, if s.stepHeld e.1 then { e.2 with stalls := e.2.stalls + BitVec.ofNat 48 n } else e.2))
           fresh := s.fresh + 1, cycle := s.cycle + BitVec.ofNat 64 n
           ptime := s.ptime + BitVec.ofNat 64 (Config.stepNanos s.fresh)
           mesh := { s.mesh with count := if s.mesh.started then s.mesh.count + BitVec.ofNat 64 n else s.mesh.count }
           mgmt := if s.hasWork then { s.mgmt with quietAt := s.ptime + BitVec.ofNat 64 (Config.stepNanos s.fresh) } else s.mgmt }

/-- A happening that follows at once. -/
def push (s : State) (i : Instr) (inp : Input) : State := { s with sched := .happen i inp :: s.sched }

/-- A machine check reported to the management core. -/
def machineCheck (s : State) (node : BitVec 13) : State :=
  { s with mgmt := { s.mgmt with checks := node :: s.mgmt.checks } }

end State

/-! ### Results in flight -/

/-- Was `p` issued before `q`: an earlier bundle, or an earlier slot of one bundle (R187)? -/
def Pend.before (p q : Pend) : Bool := p.count < q.count || (p.count == q.count && p.slot < q.slot)

/-- Put a result among those in flight, which are kept in order of issue. -/
def insertPend (p : Pend) : List Pend → List Pend
  | [] => [p]
  | q :: rest => if p.before q then p :: q :: rest else q :: insertPend p rest

/-- A result that lands discards the results of earlier bundles on their way to the same register (R187), the values of
earlier `LDR`s included (R336). Results of one bundle land each in its own time; the later slot's comes last. -/
def Ctx.land (c : Ctx) (p : Pend) : Ctx :=
  { c with
    regs := c.regs.write p.wr
    pend := c.pend.filter (fun q => !(q.wr.dest == p.wr.dest && decide (q.count < p.count)))
    ldrs := c.ldrs.map (fun l =>
      if l.count < p.count then
        { l with live := l.live && l.dd.toNat != p.wr.dest, liveHi := l.liveHi && l.dd.toNat + 1 != p.wr.dest }
      else l) }

/-- A bundle of the context has issued: every result that is not frozen comes one bundle nearer, and those that reach
their bundle land in order of issue (R189, R191, R192). -/
def Ctx.age (c : Ctx) : Ctx :=
  let aged := c.pend.map (fun p => if p.frozen then p else { p with dist := p.dist - 1 })
  let due := aged.filter (fun p => !p.frozen && p.dist == 0)
  due.foldl Ctx.land { c with pend := aged.filter (fun p => p.frozen || p.dist != 0), count := c.count + 1 }

/-- Results in flight on a register that are not frozen (R277, R428). -/
def Ctx.inFlight (c : Ctx) (dest : Nat) : Bool := c.pend.any (fun p => !p.frozen && p.wr.dest == dest)

/-- Has no later write landed on every register of an `LDR` (R187)? -/
def Ldr.alive (l : Ldr) : Bool := l.live || (l.size == .d && l.liveHi)

/-- An `LDR` of an earlier bundle on its way to a domain register. -/
def Ctx.ldrTo (c : Ctx) (r : DReg) : Bool :=
  c.ldrs.any (fun l => l.slotOf.isNone && !(c.status.intrap && l.count < c.trapAt)
    && ((l.live && l.dd == r) || (l.liveHi && l.size == .d && l.dd.toNat + 1 == r.toNat)))

namespace State

/-- Send a result on its way: seen `lat` bundles after the bundle in progress. -/
def write (s : State) (lat : Nat) (w : Write) : State :=
  s.modCtx (fun c => { c with pend := insertPend ⟨lat, false, s.issue.slot, c.count, w⟩ c.pend })

/-- An empty bundle (R428): it counts as issued and does nothing else. -/
def emptyBundle (s : State) : State := s.modCtx Ctx.age

end State

/-! ### What a syllable ends in -/

/-- Why a syllable does not complete. -/
inductive Halt
  /-- A trap (R315); the state is the one the trap is taken from. -/
  | trap (t : TrapReq) (s : State)
  /-- An interlock holds the bundle; the state is the one in which it issues again. -/
  | stall (s : State)
  /-- A translation fault holds the bundle (R153). -/
  | fault (s : State)
  deriving DecidableEq, Repr

/-- The effect of a syllable, or why it has none. -/
abbrev Eff := Except Halt

/-- Raise a trap. -/
def raise {α : Type} (code : Byte) (s : State) : Eff α := .error (.trap { code := code } s)

/-- Go on only if a condition holds; else raise a trap. -/
def need (b : Bool) (code : Byte) (s : State) : Eff Unit := if b then .ok () else raise code s

/-- Go on only if a condition holds; else the bundle waits in state `t`. -/
def waitFor (b : Bool) (t : State) : Eff Unit := if b then .ok () else .error (.stall t)

/-- The value of a register that must be a singleton (UNRESOLVED otherwise). -/
def single (s : State) (r : DReg) : Eff Word :=
  let d := s.src.regs.dom r
  if d.isSingle then .ok d.lo else raise tUnresolved s

/-- Instructions that the firmware context may not run (R193). -/
def notFw (s : State) : Eff Unit := need (!s.isFw) tIllegal s
/-- Instructions of a control core's user context only (R193, R200). -/
def userOnly (s : State) : Eff Unit := need s.isUser tIllegal s
/-- Instructions of a lookup core only (R254). -/
def lookupOnly (s : State) : Eff Unit := need s.isLookup tIllegal s

/-- The path code of a context's faults (R155). -/
def pathOf (a : Agent) : Byte :=
  match a with
  | .lookup _ => 4
  | .copy _ => 2
  | .matrix _ => 3
  | _ => 0

/-- A bundle's translation fault: its record is written or joined, and the context waits (R153, R156). -/
def State.bundleFault (s : State) (va : Addr) (acc : BitVec 4) (cause : Byte) (page : BitVec 2) : State :=
  let c := s.ctx
  (s.raiseFault { index := none, pasid := c.id.pasid, va := va, region := c.id.region, node := agentNode s.cur
                  access := acc, cause := cause, path := if s.issue.split then 1 else pathOf s.cur, page := page, joined := 0, stale := false
                  waiters := [s.cur] }).modCtx (fun c => { c with waits := { c.waits with fault := some va } })

/-! ### Trace and replay log (R134, R135, R138 to R140) -/

namespace State

/-- Does the bound region have the debug capability (R130)? -/
def debugCap (s : State) : Bool := !s.isFw && s.ctx.id.debug

/-- The core number that records name: 4 × tile + core, or the lookup core's number (R135, R322). -/
def coreNumber (s : State) : BitVec 10 :=
  match s.cur with
  | .user k | .fw k | .matrix k | .copy k => BitVec.ofNat 10 k
  | .lookup n => BitVec.ofNat 10 n

/-- A trace record of the context in progress. -/
def traceRec (s : State) (pc : Addr) (kind : Byte) (payload stamp : BitVec 64) : TraceRec :=
  { stamp := stamp, payload := payload, group := s.ctx.id.group, core := s.coreNumber, kind := kind, fw := s.isFw, pc := pc }

/-- Once the quill FIFO of 64 has room again, a LOST record says how many were dropped (R135). -/
def quillRoom (s : State) (k : Nat) : State :=
  s.modCore k (fun c =>
    let q := c.quill
    if q.lost ≠ 0 && q.fifo.length < 64
      then { c with quill := { q with fifo := q.fifo ++ [s.traceRec s.ctx.pc 3 (BitVec.ofNat 64 q.lost) s.ptime], lost := 0 } } else c)

/-- Put a record into the core's quill FIFO of 64, after a LOST record where some were dropped (R134, R135); with a full FIFO the
record is counted as lost. -/
def quillPutAt (s : State) (pc : Addr) (kind : Byte) (payload stamp : BitVec 64) : State :=
  match agentCore s.cur with
  | none => s
  | some k =>
    (s.quillRoom k).modCore k (fun c =>
      let q := c.quill
      if q.fifo.length < 64 then { c with quill := { q with fifo := q.fifo ++ [s.traceRec pc kind payload stamp], lastAt := s.cycle } }
      else { c with quill := { q with lost := q.lost + 1 } })

/-- A record of the bundle in progress. -/
def quillPut (s : State) (kind : Byte) (payload stamp : BitVec 64) : State := s.quillPutAt s.ctx.pc kind payload stamp

/-- Is the core's quill FIFO full? -/
def quillFull (s : State) : Bool :=
  match agentCore s.cur with
  | none => false
  | some k => decide (64 ≤ (s.core k).quill.fifo.length)

/-- The replay mode: 1 record, 2 replay (R138). -/
def replayMode (s : State) : Nat := (s.src.dbg.replayctl.extractLsb' 62 2).toNat

/-- The place of `n` bytes of the replay log at an offset, through the region's translation: a fault of its page holds the
bundle like any of its accesses (R153). -/
def logAt (s : State) (off n : Nat) (acc : BitVec 4) : Eff (BitVec 8 × Nat × State) :=
  let va := BitVec.ofNat 48 ((s.src.dbg.replayctl.extractLsb' 12 36).toNat * 4096 + off)
  match s.translate (agentPort s.cur) s.ctx.id.conf s.ctx.id.pasid va acc with
  | .ok pa t =>
    let (key, cell) := (physKey pa, physCell pa)
    if !t.inService cell || (keyed cell && !Assoc.get false t.security.keys key.toNat) || t.poisoned cell n then
      raise tEccUncorr t
    else .ok (key, cell, t.countFar cell)
  | .prot t => raise tProt t
  | .fault c t => .error (if s.ctx.waits.fault = some va then .stall s else .fault (t.bundleFault va acc c 0))
  | .wait => .error (.stall s)

/-- The entries a log holds: the bytes after its header, 16 each. -/
def logRoom (s : State) : Nat := (2 ^ ((s.src.dbg.replayctl.extractLsb' 54 4).toNat + 12) - 64) / 16

/-- Record one event in record mode (R139): KIND, VALUE and the bundle address; a full log stops the recording. -/
def record (s : State) (kind : Byte) (value : BitVec 64) : Eff State :=
  if s.replayMode != 1 || s.ctx.dbg.replayctl.getLsbD 61 then .ok s
  else do
    let (key, at_, s) ← s.logAt 0 16 accWrite
    let written := leNat (s.bytesKey key at_ 8)
    if s.logRoom ≤ written then
      .ok (s.modCtx (fun c => { c with dbg := { c.dbg with replayctl := c.dbg.replayctl ||| (1#64 <<< 61) } }))
    else
      let (ekey, eat, s) ← s.logAt (64 + 16 * written) 16 accWrite
      let s := s.setBytesKey ekey eat (leBytes 8 value.toNat ++ leBytes 4 s.ctx.pc.toNat ++ [kind, 0, 0, 0])
      .ok (s.setBytesKey key at_ (leBytes 8 (written + 1)))

/-- In replay mode, the value that the next log entry holds (R140): `none` is REPLAY_DIVERGE. The state has READ one
higher. -/
def replayNext (s : State) (kind : Byte) : Eff (Option (BitVec 64 × State)) := do
  let (key, at_, s) ← s.logAt 0 16 accWrite
  let written := leNat (s.bytesKey key at_ 8)
  let read := leNat (s.bytesKey key (at_ + 8) 8)
  if read == written then .ok none
  else
    let (ekey, eat, s) ← s.logAt (64 + 16 * read) 16 accRead
    let e := s.bytesKey ekey eat 16
    .ok (if e.getD 12 0 != kind || field e 8 4 != s.ctx.pc.toNat % 2 ^ 32 then none
      else some (BitVec.ofNat 64 (field e 0 8), s.setBytesKey key (at_ + 8) (leBytes 8 (read + 1))))

end State

/-! ### Taking a trap (R192, R293, R315, R316) -/

/-- Every result in flight stops counting (R192). -/
def Ctx.freeze (c : Ctx) : Ctx := { c with pend := c.pend.map (fun p => { p with frozen := true }) }
/-- Every frozen result counts again. -/
def Ctx.thaw (c : Ctx) : Ctx := { c with pend := c.pend.map (fun p => { p with frozen := false }) }

/-- The vector of a trap: FAIL has its own (R293, R315). -/
def Ctx.vector (c : Ctx) (code : Byte) : Addr := if code = tFail then c.failvec else c.trapvec

/-- What a context in a trap handler holds after a vectored trap (R316): `TRAPPC` names the bundle at `pc`, the queue is
frozen, issue continues at the vector. A pending transfer stays in `STATUS` (R300). -/
def Ctx.enterTrap (c : Ctx) (t : TrapReq) : Ctx :=
  let dbg := if t.code = tDebug then
      { c.dbg with stephit := t.dbg.getLsbD 0, brkhit := t.dbg.getLsbD 1, bhit := t.bhit }
    else c.dbg
  { c.freeze with
    trappc := c.pc, trapcode := trapcodeWord t, status := { c.status with intrap := true }
    pc := c.vector t.code, winHeld := c.window, trapAt := c.count, window := 0, dbg := dbg, waits := {} }

namespace State

/-- A trap that is fatal to the region (R109, R315): the fault's happening follows at once, with CAUSE, FAULTPC and
FAULTCORE. In the firmware context it is a machine check, and the context stops until it is restarted. -/
def fatalTrap (s : State) (t : TrapReq) : State :=
  if s.isFw then
    (s.machineCheck (agentNode s.cur)).modCtx (fun c => { c with running := false })
  else
    s.push .regionFault
      { n := s.ctx.id.region.toNat, m := s.coreNumber.toNat, value := BitVec.zeroExtend 64 t.code, addr := some s.ctx.pc
        who := s.cur }

/-- Is a trap fatal (R315)? -/
def trapFatal (s : State) (t : TrapReq) : Bool :=
  s.isFw || s.ctx.status.intrap || s.ctx.vector t.code == 0

/-- The REPLAY_DIVERGE that a trap becomes (R140), with DIVERGED set. -/
def diverge (s : State) : TrapReq × State :=
  ({ code := tReplayDiverge },
    s.modCtx (fun c => { c with dbg := { c.dbg with replayctl := c.dbg.replayctl ||| (1#64 <<< 60) } }))

/-- Replay checks or records a trap other than DEBUG, and the timeout of a barrier wait with it (R139, R140): the trap that
is taken. -/
def replayTrap (s : State) (t : TrapReq) : Eff (TrapReq × State) :=
  if t.code = tDebug then .ok (t, s)
  else if s.replayMode == 2 then
    if t.code = tReplayDiverge || t.code = tEccUncorr then .ok s.diverge
    else do
      let s ← if t.code = tBarrierTimeout then do
          let x ← s.replayNext 8
          .ok ((x.map (·.2)).getD s)
        else .ok s
      match ← s.replayNext 9 with
      | some (v, s') => .ok (if v == BitVec.zeroExtend 64 t.code then (t, s') else s.diverge)
      | none => .ok s.diverge
  else do
    let s ← if t.code = tBarrierTimeout then s.record 8 1 else .ok s
    let s ← s.record 9 (BitVec.zeroExtend 64 t.code)
    .ok (t, s)

/-- The trap that is taken in place of `t` once the replay log has it; `.error` holds the state in which the context waits for
the log's page first, and the trap is raised again (R153). An entry that the log's own memory refuses is left out, and so is
that of a fatal trap whose log has no page (log entry 129). -/
def loggedTrap (s : State) (t : TrapReq) : Except State (TrapReq × State) :=
  match s.replayTrap t with
  | .ok x => .ok x
  | .error (.trap _ _) => .ok (t, s)
  | .error (.fault u) | .error (.stall u) => if s.trapFatal t then .ok (t, s) else .error u

/-- Enter a trap at the bundle at the context's pc (R293, R316), or end the region where it is fatal (R315). -/
def enter (s : State) (t : TrapReq) : State :=
  if s.trapFatal t then s.fatalTrap t
  else
    let s := s.modCtx (·.enterTrap t)
    if t.code = tDebug then
      let s := if s.ctx.dbg.ehalt then
          (match agentCore s.cur with
            | some k => s.modCore k (fun c => { c with engHeld := true })
            | none => s)
        else s
      if s.ctx.dbg.tracectl.getLsbD 63 then s.quillPutAt s.ctx.trappc 4 (s.ctx.dbg.ctlWord s.debugCap) s.ptime else s
    else s

/-- Take a trap (R293, R315, R316), or wait for the replay log's page first. -/
def takeTrap (s : State) (t : TrapReq) : State :=
  match ({ s with issue := {} } : State).loggedTrap t with
  | .ok (t, s) => s.enter t
  | .error u => u

end State

/-- Back from a trap (R318): INTRAP is cleared, the queue counts again, issue continues at `TRAPPC`, the interrupted
delay window and transfer go on, and breakpoints are not matched for the first bundle. -/
def Ctx.leaveTrap (c : Ctx) : Ctx :=
  { c.thaw with
    status := { c.status with intrap := false }, pc := c.trappc
    window := c.winHeld, taken := c.status.xdist != 0, winHeld := 0
    dbg := { c.dbg with suppress := true } }

/-- Queue a trap that is taken at a boundary (group 1 of R317): in the order of its rank, after those of the same rank. -/
def insertDeferred (d : Deferred) : List Deferred → List Deferred
  | [] => [d]
  | e :: rest => if d.rank < e.rank then d :: e :: rest else e :: insertDeferred d rest

/-- Queue a deferred trap in an agent's context. -/
def State.defer (s : State) (a : Agent) (d : Deferred) : State :=
  s.modCtxOf a (fun c => { c with deferred := insertDeferred d c.deferred })

/-- A report of work that a bundle of issue count `n` sent (R64, R153, R336): what was sent before the trap in progress stays
pending until its handler returns, and what the handler sent itself is fatal, PAGE excepted (R192, R315). -/
def State.report (s : State) (a : Agent) (n : Nat) (code : Byte) : State :=
  let c := s.ctxOf a
  if c.status.intrap && c.trapAt ≤ n && code != tPage then
    { { s with cur := a }.takeTrap { code := code } with cur := s.cur, issue := s.issue }
  else s.defer a ⟨0, { code := code }, []⟩

/-! ### The end of a task instance (R108, R311) -/

/-- The journal entry of a grain (R118). -/
def Grain.entry (g : Grain) (term : Word) : List Byte :=
  leBytes 2 g.region.toNat ++ [BitVec.zeroExtend 8 g.state, BitVec.zeroExtend 8 g.die] ++ leBytes 4 g.first.toNat
    ++ leBytes 4 g.count.toNat ++ leBytes 4 term.toNat

namespace State

/-- A region as the distributor keeps it. -/
def region (s : State) (r : BitVec 12) : Option Region := Assoc.find? s.regions r.toNat
/-- The counters and links of a region. -/
def life (s : State) (r : BitVec 12) : RegionLife := Assoc.get {} s.lives r.toNat
/-- Replace the counters of a region. -/
def setLife (s : State) (r : BitVec 12) (l : RegionLife) : State := { s with lives := Assoc.set s.lives r.toNat l }

/-- Write HW fields of a region's RCB (R103). -/
def writeRcb (s : State) (r : BitVec 12) (off : Nat) (bytes : List Byte) : State :=
  match s.region r with
  | some g => s.unitStore (physKey g.rcb) (physCell g.rcb + off) bytes
  | none => s

/-- Set a region's LIVE, in the distributor and in the RCB. -/
def setLive (s : State) (r : BitVec 12) (v : Word) : State :=
  (s.setLife r { s.life r with live := v }).writeRcb r 80 (leBytes 4 v.toNat)

/-- One task instance, continuation or lookup task of a region has retired: LIVE falls, and a region with LIVE and
CHILDREN 0 completes (R103, R108). -/
def retireFrom (s : State) (r : BitVec 12) : State :=
  let s := s.setLive r ((s.life r).live - 1)
  if (s.life r).live == 0 && (s.life r).children == 0 then s.push .regionCompletion { n := r.toNat } else s

/-- Has a compute die's side an HBM stack in service, where the mirror of the journals stands (R118)? -/
def mirrored (s : State) (die : Nat) : Bool := (List.range 6).any (fun i => s.inService ((6 * die + i) * 2 ^ 36))

/-- The journal entry of a grain, with the state it is about to take, goes to the mirror on either side (R118). -/
def journalGrain (s : State) (g : Grain) (st : BitVec 2) : State :=
  let e := { g with state := st }.entry s.dist.term
  { s with dist := { s.dist with
      journal0 := if s.mirrored 0 then s.dist.journal0 ++ [e] else s.dist.journal0
      journal1 := if s.mirrored 1 then s.dist.journal1 ++ [e] else s.dist.journal1 } }

/-- A grain changes state (R118): its entry is written first. -/
def setGrain (s : State) (g : Grain) (st : BitVec 2) : State :=
  let s := s.journalGrain g st
  { s with dist := { s.dist with grains := s.dist.grains.map (fun x => if x == g then { x with state := st } else x) } }

/-- An index has retired: its grain becomes DONE when all its indices have, wherever they ran (R118). -/
def retireIndex (s : State) (r : BitVec 12) (i : Word) : State :=
  let of_ (g : Grain) : Bool := g.region == r && decide ((i - g.first).toNat < g.count.toNat)
  let s := { s with dist := { s.dist with grains := s.dist.grains.map (fun g => if of_ g then { g with retired := g.retired + 1 } else g) } }
  match s.dist.grains.find? (fun g => of_ g && g.retired == g.count.toNat) with
  | some g => s.setGrain g 2
  | none => s

end State

/-- A context with no task: its results in flight, constraint store, trail and marks are discarded (R311). -/
def Ctx.free (c : Ctx) : Ctx :=
  { c with running := false, pend := [], cons := { c.cons with store := [], queue := [], trail := [], marks := [] },
           ldrs := c.ldrs.filter (·.slotOf.isSome), window := 0, taken := false, winHeld := 0, due := false
           waits := {}, deferred := [], status := { c.status with xdist := 0, xlv := false, intrap := false }
           cycleLatch := none, ptimeLatch := none }

/-- At an unbind a partial sealed block is to be sealed (R136). -/
def State.unbind (s : State) : State :=
  match s.cur with
  | .user k => if (s.core k).quill.fifo = [] && (s.core k).quill.part = [] then s
      else s.modCore k (fun c => { c with quill := { c.quill with flush := true } })
  | _ => s

/-- The core, or lookup core, of the context in progress has no task any more; an `IDLE` of the firmware context ends (R312). -/
def State.leaveCore (s : State) : State :=
  match s.cur with
  | .user k => s.modCore k (fun c => { c with index := none, fw := { c.fw with waits := { c.fw.waits with idle := false } } })
  | .lookup n => s.setLookup n { s.lookup n with busy := false }
  | _ => s

/-- `RETIRE` has committed (R311). -/
def State.retire (s : State) : State :=
  let r := s.ctx.id.region
  let s := s.unbind
  let s := match s.cur with
    | .user k => match (s.core k).index with
      | some i => s.retireIndex r i
      | none => s
    | _ => s
  (s.leaveCore.modCtx Ctx.free).retireFrom r

/-! ### The bundle boundary -/

/-- The delay window moves on with a bundle; after its last bundle a taken transfer is due (R299, R300). -/
def Ctx.passWindow (c : Ctx) : Ctx :=
  if c.window = 0 then c
  else
    let c' := { c with window := c.window - 1 }
    if c.taken then { c' with status := { c.status with xdist := BitVec.ofNat 2 (c.window - 1) }, due := c.window == 1 }
    else c'

/-- What the bundle's class 001 syllable asked of its boundary. -/
def State.afterBundle (s : State) (a : After) : State :=
  match a with
  | .none => s
  | .window => s.modCtx (fun c => { c with window := 2, taken := false })
  | .transfer t l => s.modCtx (fun c =>
      { c with window := 2, taken := true
               status := { c.status with xdist := 2, xtgt := t.extractLsb' 3 45, xlv := l.isSome, xlb := l.getD c.status.xlb } })
  | .eret =>
    let s := s.modCtx Ctx.leaveTrap
    match agentCore s.cur with
    | some k => s.modCore k (fun c => { c with engHeld := false })
    | none => s
  | .retire => s.retire
  | .yield => s.unbind.leaveCore.modCtx Ctx.free
  | .idle => s.modCtx (fun c => { c with waits := { c.waits with idle := true } })
  | .trap d =>
    if s.ctx.status.intrap then s.takeTrap d.req
    else s.modCtx (fun c => { c with deferred := insertDeferred d c.deferred })

/-- The boundary after a bundle that commits (R187, R189, R300, R317): results land, the pc moves past the bundle, the
delay window moves on, BUDGET (R294) and single step (`step`) raise their traps, and the bundle's own request is carried
out. A trap that a handler's bundle raises so is fatal (R192). -/
def State.boundary (step : Bool) (s : State) : State :=
  let i := s.issue
  let budget (c : Ctx) : Ctx := if i.budget && !c.status.intrap then
    { c with deferred := insertDeferred ⟨1, { code := tBudget }, []⟩ c.deferred } else c
  let s := { s with issue := {} }.modCtx (fun c =>
    let c := c.age.passWindow
    let c := { c with pc := c.pc + BitVec.ofNat 48 (8 * i.len), dbg := { c.dbg with suppress := false } }
    budget (if step then { c with deferred := insertDeferred ⟨2, { code := tDebug, dbg := 1 }, []⟩ c.deferred } else c))
  if i.budget && s.ctx.status.intrap && i.after != .retire && i.after != .yield then s.takeTrap { code := tBudget }
  else s.afterBundle i.after

/-- Results still in flight after this bundle, and the vector ones among them (R188). -/
def Ctx.overLimit (c : Ctx) : Bool :=
  let later := c.pend.filter (fun p => p.frozen || 2 ≤ p.dist)
  64 < later.length || 8 < (later.filter (·.wr.isVec)).length

/-- A bundle has done all it does in state `s`; it was issued in `s0`. It commits, unless it would bring the results in
flight above their limits: then an empty bundle goes first (R188, R428), and in a handler that only frozen results hold
up it is ILLEGAL. -/
def State.commit (s0 s : State) : State :=
  if s.ctx.overLimit then
    if s0.ctx.pend.any (fun p => !p.frozen) then { s0.emptyBundle with issue := {} }
    else s0.takeTrap { code := tIllegal }
  else s.boundary (s0.debugCap && s0.ctx.dbg.sstep && !s0.ctx.status.intrap)

/-! ### The frame of a syllable -/

/-- Run a syllable's effect. Alone in its bundle it takes its trap, waits, or commits. Inside a bundle of several
syllables it only notes in `issue` what it met; the bundle's step decides (R317). -/
def syllable (body : State → Eff State) (s : State) : Host.Outcome State Fault Refusal :=
  if s.issue.inner then
    match body s with
    | .ok t => .next t
    | .error (.trap t u) => .next { u with issue := { s.issue with trap := some (trapLevel t.code * 4 + s.issue.slot, t) } }
    | .error (.stall u) => .next { u with issue := { s.issue with stall := 1 } }
    | .error (.fault u) => .next { u with issue := { s.issue with stall := 2 } }
  else
    match body s with
    | .ok t => .next (s.commit t)
    | .error (.trap t u) => .next (u.takeTrap t)
    | .error (.stall u) => .next { u with issue := {} }
    | .error (.fault u) => .next { u with issue := {} }

end Sys2Proof.Machine
end

