-- ==== Sys2Proof/Machine/Operands.lean ====
section
/-!
DEFINITION. Operands: buffer descriptors (R145), the offsets of every addressing mode (R146, R260, R333), the partition map
(R147), where an operand lies, what a home answers (R27, R64, R73, R161), the ordering waits of R167, packets sent into
the mesh (R60 to R67) and off-package requests (R42 to R45, R179).
Log entries: 14 (interlocked accesses), 15 (data breakpoints), 16 (barrier words and deques off the package).
Also log entry 94 (stream numbers of accesses that perform in the step).
-/

namespace Sys2Proof.Machine

/-! ### Descriptors -/

/-- The fields of a buffer descriptor (R145). -/
structure Desc where
  base : Nat
  len : Nat
  page : BitVec 2
  kind : BitVec 2
  cls : BitVec 4
  deriving DecidableEq, Repr

/-- A descriptor's fields. -/
def Desc.ofBits (b : BitVec 128) : Desc :=
  ⟨(b.extractLsb' 80 48).toNat, (b.extractLsb' 40 40).toNat, b.extractLsb' 38 2, b.extractLsb' 36 2, b.extractLsb' 32 4⟩

/-- A descriptor's bits; bits [31:0] read as zero. -/
def descBits (base : BitVec 48) (len : BitVec 40) (page kind : BitVec 2) (cls : BitVec 4) : BitVec 128 :=
  base ++ (len ++ (page ++ (kind ++ (cls ++ 0#32))))

/-- The kinds of R145. -/
def kindHbm : BitVec 2 := 0
def kindLocal : BitVec 2 := 1
def kindAny : BitVec 2 := 2
def kindFar : BitVec 2 := 3

/-- Is a kind translated? -/
def translated (k : BitVec 2) : Bool := k == kindHbm || k == kindFar

/-- The firmware context's BD14 is its control window: kind SRAM local, 4 KiB (R121). -/
def controlWindow : Desc := ⟨0, 4096, 0, kindLocal, 15⟩

/-- The descriptor a syllable names, as its bundle found it. -/
def State.desc (s : State) (b : BdReg) : Desc :=
  if s.isFw && b == 14 then controlWindow else Desc.ofBits (s.src.regs.desc b)

/-- The ordering class of an access (R259). -/
def ordClass (m : MemOp) (d : Desc) : BitVec 4 := if m.dc then d.cls else m.oclass

/-- The plain operand of an atomic: its addressing is OFF (R259). -/
def atomMem (m : AtomOp) : MemOp := ⟨m.dc, m.oclass, m.scope, .off, m.bd, m.off, m.imm⟩

/-! ### Offsets (R146, R260, R333) -/

/-- An offset, and the register it updates. -/
structure Offset where
  off : Nat
  upd : Option Write
  /-- A WRAP access past its ring's end (ALIGN), or through a closed register (PROT). -/
  ringEnd : Bool := false
  closed : Bool := false
  deriving DecidableEq, Repr

/-- The fields of a wrap register (R333). -/
def wrapBits (base len cur : Word) : BitVec 128 := 1#1 ++ (0#31 ++ (base ++ (len ++ cur)))

/-- The offset of a memory operand for accesses of `size` bytes at scale `scale`. -/
def offsetOf (s : State) (m : MemOp) (size scale : Nat) : Eff Offset := do
  match m.mode with
  | .off =>
    let k ← single s m.off
    pure { off := k.toNat + m.imm.toNat * scale, upd := none }
  | .post =>
    let k ← single s m.off
    pure { off := k.toNat, upd := some (.d m.off (Dom.single (k + BitVec.ofInt 32 (m.imm.toInt * scale)))) }
  | .idx dx =>
    let k ← single s m.off
    let x ← single s dx
    pure { off := k.toNat + x.toNat * scale + m.imm.toNat * scale, upd := none }
  | .wrap wm =>
    let w := s.src.regs.wrap wm
    let base := (w.extractLsb' 64 32)
    let len := (w.extractLsb' 32 32)
    let cur := (w.extractLsb' 0 32)
    let next := if cur.toNat + size = len.toNat then 0 else cur + BitVec.ofNat 32 size
    pure { off := base.toNat + cur.toNat, upd := some (.w wm (wrapBits base len next))
           ringEnd := w.getLsbD 127 && len.toNat < cur.toNat + size, closed := !w.getLsbD 127 }

/-- Send the update of an addressing mode on its way: seen by the next bundle. -/
def Offset.apply (o : Offset) (s : State) : State :=
  match o.upd with
  | some w => s.write 1 w
  | none => s

/-! ### The partition map (R105, R147) -/

/-- The granules of the partition a region draws on: its own, else its nearest ancestor's. -/
def State.partitionOf (s : State) : Nat → BitVec 12 → List Nat
  | 0, _ => []
  | n + 1, r =>
    match s.region r with
    | some g => if g.granules = [] then State.partitionOf s n g.parent else g.granules
    | none => []

/-- The partition of a region; trees are at most eight levels deep below their root (R107). -/
def State.partition (s : State) (r : BitVec 12) : List Nat := s.partitionOf 10 r

/-- Is `r` region `x` or one of its ancestors? -/
def State.isAncestor (s : State) : Nat → BitVec 12 → BitVec 12 → Bool
  | 0, _, _ => false
  | n + 1, r, x => r == x || (match s.region x with
    | some g => g.parent != 0 && State.isAncestor s n r g.parent
    | none => false)

/-- Does a slice admit a region to a granule owned by another (R73, R105)? -/
def State.admits (s : State) (x owner : BitVec 12) : Bool := s.isAncestor 9 owner x || s.isAncestor 9 x owner

/-- May the context in progress reach a cell of SRAM (R73, R105)? The firmware context may reach any. -/
def State.granuleOpen (s : State) (cell : Nat) : Bool :=
  s.isFw || s.admits s.ctx.id.region (Assoc.get 0 s.dist.owners ((cell - sramBase) / granuleBytes))

/-- The cell of a byte of a list of granules. -/
def granuleCell (gs : List Nat) (p : Nat) : Option Nat :=
  (gs[p / granuleBytes]?).map (fun g => sliceCell (g / 96) (g % 96 * granuleBytes + p % granuleBytes))

/-- A tile's share of a partition, in ascending slice address. -/
def shareOf (gs : List Nat) (tile : Nat) : List Nat := gs.filter (fun g => g / 96 == tile)

/-- The cell of partition offset `p` under an SRAM kind, for the context in progress (R147, R121, R200). -/
def State.sramCell (s : State) (bd14 : Bool) (kind : BitVec 2) (p : Nat) : Option Nat :=
  match s.cur with
  | .lookup n => if kind == kindLocal then (if p < 2 ^ 20 then some (bufferCell n p) else none)
      else granuleCell (s.partition s.ctx.id.region) p
  | .user k | .fw k | .matrix k | .copy k =>
    if bd14 then (if p < 4096 then some (storeCell (k / 4) (4096 * (k % 4) + p)) else none)
    else if kind == kindLocal then granuleCell (shareOf (s.partition s.ctx.id.region) (k / 4)) p
    else granuleCell (s.partition s.ctx.id.region) p

/-! ### Where an operand lies -/

/-- Where an access lands: its cell and key ID, whether it is reached without the mesh, and its virtual address. -/
structure Loc where
  key : BitVec 8
  cell : Nat
  near : Bool
  va : Option Addr
  deriving DecidableEq, Repr

/-- Is a place off the package: behind the Linnor aperture or a PCIe window (R179)? -/
def Loc.offPackage (l : Loc) : Bool :=
  l.cell < 2 ^ 44 && (physRegion l.cell == .linnor || physRegion l.cell == .pcie)

/-- The place of `size` bytes at offset `off` of a descriptor (R146): LEN first, then the partition or the translation. -/
def locate (s : State) (bd14 : Bool) (d : Desc) (off size : Nat) (acc : BitVec 4) : Eff (Loc × State) := do
  need (off + size ≤ d.len) tProt s
  if translated d.kind then
    need (d.base + off + size ≤ 2 ^ 48) tProt s
    let va := BitVec.ofNat 48 (d.base + off)
    match s.translate (agentPort s.cur) s.ctx.id.conf s.ctx.id.pasid va acc with
    | .ok pa t => pure (⟨physKey pa, physCell pa, false, some va⟩, t)
    | .prot t => raise tProt t
    | .fault c t => .error (.fault (t.bundleFault va acc c d.page))
    | .wait => .error (.stall s)
  else
    match s.sramCell bd14 d.kind (d.base + off), s.sramCell bd14 d.kind (d.base + off + size - 1) with
    | some a, some _ => pure (⟨0, a, d.kind == kindLocal, none⟩, s)
    | _, _ => raise tProt s

/-- The breakpoints that a data access matches (R131, R132). -/
def bkptHits (s : State) (kindOk : BitVec 2 → Bool) (va : Addr) (n : Nat) : BitVec 8 :=
  BitVec.ofNat 8 ((List.range 8).foldl (fun m k =>
    let b := Assoc.get 0 s.src.dbg.bkpt k
    let g := 2 ^ min 20 (b.extractLsb' 56 5).toNat
    let lo := (b.extractLsb' 0 48).toNat / g * g
    if b.getLsbD 63 && kindOk (b.extractLsb' 61 2) && decide (lo < va.toNat + n) && decide (va.toNat < lo + g)
    then m + 2 ^ k else m) 0)

/-- Is breakpoint matching on (R132, R192)? -/
def bkptOn (s : State) : Bool := s.debugCap && !s.src.status.intrap && !s.src.dbg.suppress

/-- A data breakpoint on an access (R132, level 7 of R317). -/
def dataBreak (s : State) (l : Loc) (n : Nat) (write : Bool) : Eff Unit :=
  match l.va with
  | none => pure ()
  | some va =>
    let h := bkptHits s (fun k => k == 3 || (if write then k == 2 else k == 1)) va n
    if bkptOn s && h != 0 then .error (.trap { code := tDebug, bhit := h } s) else pure ()

/-- The same of `n` bytes at an offset of a descriptor, before they are translated. -/
def descBreak (s : State) (d : Desc) (off n : Nat) (write : Bool) : Eff Unit :=
  if translated d.kind && off + n ≤ d.len then dataBreak s ⟨0, 0, false, some (BitVec.ofNat 48 (d.base + off))⟩ n write else .ok ()

/-- Which kinds a row reaches (R331). -/
inductive Reach | localOnly | all | memoryOnly | sramOnly
  deriving DecidableEq

/-- Does a row reach a kind? -/
def Reach.has : Reach → BitVec 2 → Bool
  | .localOnly, k => k == kindLocal
  | .all, _ => true
  | .memoryOnly, k => translated k
  | .sramOnly, k => !translated k

/-- A memory operand of `size` bytes and alignment `align`: its offset, its place and its class, after the checks of
R260, R332, R333, R331 and R146 in the order of R317, level 6. -/
def operand (s : State) (m : MemOp) (size scale align : Nat) (reach : Reach) (acc : BitVec 4) :
    Eff (Offset × Loc × State) := do
  let o ← offsetOf s m size scale
  let d := s.desc m.bd
  need ((d.base + o.off) % align = 0 && !o.ringEnd) tAlign s
  need (!o.closed && reach.has d.kind) tProt s
  let (l, t) ← locate s (s.isFw && m.bd == 14) d o.off size acc
  dataBreak t l size (dirties acc)
  pure (o, l, t)

/-! ### What a home answers -/

/-- The trap that an access to a home ends in (R27, R64, R73, R161), if it does not perform. -/
def homeTrap (s : State) (l : Loc) (n : Nat) (write : Bool) : Option Byte :=
  if !s.inService l.cell && !l.near then some tEccUncorr
  else if keyed l.cell && !Assoc.get false s.security.keys l.key.toNat then some tEccUncorr
  else if physRegion l.cell == .sram && l.cell < 2 ^ 44 && !s.granuleOpen l.cell then some tProt
  else if !write && s.poisoned l.cell n then some tEccUncorr
  else none

/-- Go on only if the home performs the access. -/
def atHome (s : State) (l : Loc) (n : Nat) (write : Bool) : Eff Unit :=
  match homeTrap s l n write with
  | some c => raise c s
  | none => pure ()

/-- `n` bytes at a place. -/
def State.load (s : State) (l : Loc) (n : Nat) : List Byte := s.bytesKey l.key l.cell n
/-- Write bytes at a place. -/
def State.store (s : State) (l : Loc) (bs : List Byte) : State := s.setBytesKey l.key l.cell bs

/-! ### Ordering (R167) -/

/-- Do two byte ranges meet? -/
def overlap (a n b m : Nat) : Bool := a < b + m && b < a + n

/-- Must a new access wait for an earlier one (R167, R179)? `same` says whether the two are pipelined as one stream. What
copies and hand-offs send has no class and holds up nothing (R175). -/
def Access.blocks (o : Access) (cls : BitVec 4) (cell n : Nat) (same off : Bool) : Bool :=
  if o.x then false
  else if o.off && off && o.cls == cls then true
  else if same then false
  else o.cls == cls || o.cls == 15 || cls == 15 || overlap o.addr o.len cell n

/-- The bytes of a load. -/
def loadBytes : LoadSize → Nat
  | .b | .bu => 1
  | .h | .hu => 2
  | .w => 4
  | .d => 8

/-- Must a new access of `n` bytes wait for an `LDR` whose translation has faulted? Its bytes are told by their virtual
addresses. -/
def Ldr.blocks (l : Ldr) (cls : BitVec 4) (va : Option Addr) (n : Nat) : Bool :=
  match l.fault with
  | none => false
  | some a => l.cls == cls || l.cls == 15 || cls == 15
      || (match va with | some v => overlap a.toNat (loadBytes l.size) v.toNat n | none => false)

/-- May an access to a place go ahead of what is outstanding? -/
def Ctx.clearFor (c : Ctx) (cls : BitVec 4) (l : Loc) (n : Nat) (dst : Option (BitVec 13)) (off : Bool) : Bool :=
  c.out.all (fun o => !o.blocks cls l.cell n (dst == some o.dst && o.cls == cls) off)
    && c.ldrs.all (fun r => !r.blocks cls l.va n)

/-- The scope codes of R168 that a row names by itself, and is one that of SYSTEM? -/
def coreScope : BitVec 3 := 0
def deviceScope : BitVec 3 := 3
def systemScope : BitVec 3 := 4
def isSystem (scope : BitVec 3) : Bool := scope == systemScope

/-- Have all earlier accesses performed, in these classes (R170, R171)? What has gone off the package counts at SYSTEM scope
alone (R169, R179). -/
def Ctx.performed (c : Ctx) (mask : BitVec 16) (system : Bool) : Bool :=
  c.out.all (fun o => o.x || (o.off && !system) || !mask.getLsbD o.cls.toNat)
    && c.ldrs.all (fun l => l.fault.isNone || !mask.getLsbD l.cls.toNat)

/-! ### Packets (R60 to R67, R71) -/

namespace State

/-- Is a node a control core of a tile, with its matrix sequencer, or the tile's copy datapath (R58)? -/
def isTileAgent (n : BitVec 13) : Bool :=
  let y := n.toNat % 2048 / 8 / 18
  decide (n.toNat < 4096) && decide (1 ≤ y) && decide (y ≤ 8) && (decide (n.toNat % 8 < 4) || n.toNat % 8 == 5)

/-- Every packet that has not ended: on a link, at a bridge, at its source, offered or in a reassembly buffer. -/
def packets (s : State) : List Packet :=
  s.mesh.flits.map (·.pkt) ++ s.mesh.crossing.map (·.pkt) ++ s.mesh.pending ++ s.mesh.offered ++ s.mesh.held

/-- The packets in flight that count against a source's quota (R67): a control core's with those of all agents of its tile. -/
def inFlightFrom (s : State) (src : BitVec 13) : List Packet :=
  s.packets.filter (fun p => if isTileAgent src then isTileAgent p.src && p.src.toNat / 8 == src.toNat / 8 else p.src == src)

/-- The packets of a die (R67, R69). -/
def dieCount (s : State) (die : Nat) : Nat :=
  (s.mesh.flits.filter (fun f => f.die.toNat == die)).length + (s.mesh.crossing.filter (fun f => f.die.toNat == die)).length

/-- The swash injection share of a region in sixteenths; 16 without one. -/
def swshare (s : State) (r : BitVec 12) : Nat := match s.region r with | some g => g.swshare | none => 16

/-- Have `n` packets of a region's tile in flight used up the region's share of the tile quota (R67): is the quota times the share
in sixteenths, rounded up, no more than `n`? -/
def quotaUsed (s : State) (r : BitVec 12) (n : Nat) : Bool := s.swshare r * Config.tileQuota ≤ 16 * n

/-- May the source inject now (R67)? 1 names the quota or the region's share, 2 the die's limit. -/
def injectHold (s : State) (a : Agent) (r : BitVec 12) : BitVec 2 :=
  let mine := s.inFlightFrom (agentNode a)
  let full : Bool := match agentCore a with
    | some _ => decide (Config.tileQuota ≤ mine.length) || s.quotaUsed r (mine.filter (fun p => p.region == r)).length
    | none => decide (64 ≤ mine.length)
  if full then 1
  else if 1792 ≤ s.dieCount (agentDie a) then 2
  else 0

/-- The cycles of a step in which a packet was ready and not injected (R68). -/
def countHold (s : State) (a : Agent) (cause : BitVec 2) : State :=
  match agentCore a with
  | some k => s.modCore k (fun c =>
      { c with last := cause, held := BitVec.ofNat 48 (min (2 ^ 48 - 1) (c.held.toNat + Config.stepCycles s.fresh)) })
  | none => s

end State

/-- A request packet of the agent in progress to the home of a place: data begins at byte 8 after the physical address
where the home needs it (R62). -/
def requestTo (s : State) (kind op : BitVec 4) (x : Bool) (cls : BitVec 4) (l : Loc) (n : Nat) (data : List Byte) : Packet :=
  { kind := kind, x := x, cls := cls, dst := s.homeNode l.cell, src := agentNode s.cur, seq := 0
    region := s.ctx.id.region, stamp := s.stampNow, op := op, len := BitVec.ofNat 6 (n - 1)
    addr := packetAddr l.key l.cell, fw := s.isFw, poison := false
    data := if payloadAddressed l.cell then leBytes 8 (physAddr l.key l.cell).toNat ++ data else data }

/-- Is an access a PCIe write, which performs only when a later read on its port completes (R179)? -/
def Access.isPosted (o : Access) : Bool := o.off && o.write && physRegion o.addr == .pcie

/-- The first posted write that no later read flushes. -/
def needsFlush : List Access → Option Access
  | [] => none
  | o :: rest => if o.isPosted && !rest.any (fun r => r.off && !r.write && r.dst == o.dst) then some o else needsFlush rest

namespace State

/-- While something waits for a posted write, the flushing read goes out (R179). -/
def flush (s : State) : State :=
  match needsFlush s.ctx.out with
  | none => s
  | some o =>
    let l : Loc := ⟨0, o.addr, false, none⟩
    let (t, q) := s.inject (requestTo s 0 0 false o.cls l 1 [])
    t.modCtx (fun c => { c with out := c.out ++ [{ cls := o.cls, dst := o.dst, seq := q, x := false, addr := o.addr, len := 1, off := true, write := false }] })

/-- Wait for what is outstanding. -/
def await (s : State) : Halt := .stall s.flush

end State

/-- An access that performs within its bundle waits for every earlier one that R167 orders before it. -/
def orderWait (s : State) (cls : BitVec 4) (l : Loc) (n : Nat) : Eff Unit :=
  if s.ctx.clearFor cls l n none l.offPackage then .ok () else .error s.await

/-- Wait until every earlier access of the context in these classes has performed (R169 to R171); at SYSTEM scope the
flushing reads of R179 go out too. -/
def fencing (s : State) (mask : BitVec 16) (scope : BitVec 3) : Eff Unit :=
  if s.ctx.performed mask (isSystem scope) then .ok () else .error (if isSystem scope then s.await else .stall s)

/-- A release waits until every earlier access of the context has performed (R171, R179). -/
def released (s : State) (scope : BitVec 3) : Eff Unit := fencing s (BitVec.allOnes 16) scope

/-- Send a request that the bundle does not wait for (R167, R334): ordering and injection holds make the bundle wait. -/
def sendRequest (s : State) (kind op cls : BitVec 4) (l : Loc) (n : Nat) (data : List Byte) (write held : Bool) :
    Eff (BitVec 13 × BitVec 12 × State) :=
  let p := requestTo s kind op false cls l n data
  if !s.ctx.clearFor cls l n (some p.dst) l.offPackage then .error s.await
  else
    let h := s.injectHold s.cur s.ctx.id.region
    if h != 0 then .error (.stall (s.countHold s.cur h))
    else
      let (s, q) := s.inject p
      .ok (p.dst, q, s.modCtx (fun c =>
        { c with out := c.out ++ [{ cls := cls, dst := p.dst, seq := q, x := false, addr := l.cell, len := n
                                    off := l.offPackage, write := write, held := held, count := c.count }] }))

/-- A Linnor window or a PCIe range refuses an access before anything is sent (R42, R43). -/
def routeTrap (s : State) (l : Loc) (write : Bool) : Option Byte :=
  if l.cell < 2 ^ 44 && physRegion l.cell == .linnor then
    let w := s.window l.cell
    let d := (w.extractLsb' 53 10).toNat
    if !w.getLsbD 63 || (write && w.getLsbD 1) then some tProt
    else if !(Assoc.get 0 s.links.route d).getLsbD 63 || Assoc.get 0 s.links.portmask d == 0 then some tProt
    else none
  else none

/-- Go on only if the route admits the access. -/
def routed (s : State) (l : Loc) (write : Bool) : Eff Unit :=
  match routeTrap s l write with
  | some c => raise c s
  | none => .ok ()

/-- Change what the context waits for. -/
def State.modWaits (s : State) (f : Waits → Waits) : State := s.modCtx (fun c => { c with waits := f c.waits })

/-- An interlocked off-package request: sent once, and the bundle waits for the answer (R45, R179). -/
def offPackage (s : State) (kind op cls : BitVec 4) (l : Loc) (n : Nat) (data : List Byte) (write : Bool) :
    Eff (List Byte × State) :=
  let clear := s.modWaits (fun w => { w with sent := false, reply := none })
  match s.ctx.waits.reply with
  | some (.data v) => .ok (v, clear)
  | some (.trap c) => raise c clear
  | none =>
    if s.ctx.waits.sent then .error s.await
    else match sendRequest s kind op cls l n data write true with
      | .ok (_, _, t) => .error (.stall (t.modWaits (fun w => { w with sent := true })))
      | .error h => .error h

/-- The bytes of one request off the package: at most 64, and within one aligned unit of 64 (R38, R62). -/
def unitLen (a n : Nat) : Nat := min n (64 - a % 64)

/-- Read `n` bytes off the package, a unit of 64 with one request. What came earlier in the bundle is kept in `waits.got`, of
which `used` bytes are taken already; the caller drops it when its bundle needs no more (`dropGot`). -/
def offRead (used : Nat) (s : State) (cls : BitVec 4) (l : Loc) (n : Nat) : Eff (List Byte × State) :=
  let have_ := s.ctx.waits.got.drop used
  if n ≤ have_.length then .ok (have_.take n, s)
  else do
    let (bs, t) ← offPackage s 0 0 cls { l with cell := l.cell + have_.length }
      (unitLen (l.cell + have_.length) (n - have_.length)) [] false
    .error (.stall (t.modWaits (fun w => { w with got := w.got ++ bs })))

/-- Forget what `offRead` kept. -/
def State.dropGot (s : State) : State :=
  if s.ctx.waits.got = [] then s else s.modWaits (fun w => { w with got := [] })

/-! ### Ranges of bytes -/

/-- A load that the bundle waits for, of bytes that one access reaches (R164, R167): a home answers at once, and off the
package the bundle waits. With the bytes comes how many of those kept are used. -/
def loadAt (used : Nat) (s : State) (cls : BitVec 4) (l : Loc) (n : Nat) : Eff (List Byte × Nat × State) :=
  if l.offPackage then do
    routed s l false
    let (bs, t) ← offRead used s cls l n
    .ok (bs, used + n, t)
  else do
    orderWait s cls l n
    atHome s l n false
    .ok (s.load l n, used, s.countFar l.cell)

/-- The bytes from an address to the end of its 4 KiB, within `n`: neither a page nor a granule changes among them. -/
def spanLen (a n : Nat) : Nat := min n (4096 - a % 4096)

/-- Load `n` bytes at an offset of a descriptor, span by span; `k` bounds the number of spans. -/
def loadSpans (d : Desc) (bd14 : Bool) (cls : BitVec 4) : Nat → Nat → State → Nat → Nat → Eff (List Byte × Nat × State)
  | 0, used, s, _, _ => .ok ([], used, s)
  | k + 1, used, s, off, n =>
    if n = 0 then .ok ([], used, s)
    else do
      let m := spanLen (d.base + off) n
      let (l, t) ← locate s bd14 d off m accRead
      let (bs, used, t) ← loadAt used t cls l m
      let (rest, used, t) ← loadSpans d bd14 cls k used t (off + m) (n - m)
      .ok (bs ++ rest, used, t)

/-- The spans of `n` bytes. -/
def spanCount (n : Nat) : Nat := n / 4096 + 2

/-- Load `n` bytes at an offset of a descriptor. -/
def loadRange (d : Desc) (bd14 : Bool) (cls : BitVec 4) (used : Nat) (s : State) (off n : Nat) :
    Eff (List Byte × Nat × State) := loadSpans d bd14 cls (spanCount n) used s off n

/-- A number that has 32 bits to stand in; what stands there of a larger one is free (log entry 28). -/
def fit32 (case_ : Nat) (s : State) (n : Nat) : Word :=
  if n < 2 ^ 32 then BitVec.ofNat 32 n else Config.freeWord case_ s.fresh

end Sys2Proof.Machine
end

