-- ==== Sys2Proof/Machine/Arith.lean ====
section
/-!
DEFINITION. Class 000 in functional mode (R275), and the instructions that build and read domains (R281). Each operation
is a function of domains; its meaning reads the sources at issue and sends the result with the latency of R297.
-/

namespace Sys2Proof.Machine

/-! ### Operations on domains (R275) -/

/-- dense(l, h), or the full domain where the bounds leave the 32-bit integers. -/
def denseWrap (l h : Int) : Dom := if l < intMin || intMax < h then Dom.full else (Dom.dense l h).getD Dom.full

/-- canon of a set, or the full domain where its bounds leave the 32-bit integers. -/
def canonWrap (s : IntSet) : Dom := if s.lo < intMin || intMax < s.hi then Dom.full else s.canon.getD Dom.full

/-- The least and greatest of a list of integers that begins with `x`. -/
def leastOf (x : Int) (xs : List Int) : Int := xs.foldl min x
def greatestOf (x : Int) (xs : List Int) : Int := xs.foldl max x

/-- dense over corner values. -/
def corners (x : Int) (xs : List Int) : Dom := denseWrap (leastOf x xs) (greatestOf x xs)

/-- A function of two values where both sources are singletons, else of the domains. -/
def onSingles (f : Word → Word → Word) (g : Dom → Dom → Dom) (a b : Dom) : Dom :=
  if a.isSingle && b.isSingle then Dom.single (f a.lo b.lo) else g a b

namespace Fn

/-- `ADD` -/
def add : Dom → Dom → Dom := onSingles (· + ·) fun a b =>
  if b.isSingle then canonWrap (a.set.shift b.l) else denseWrap (a.l + b.l) (a.h + b.h)

/-- `SUB` -/
def sub : Dom → Dom → Dom := onSingles (· - ·) fun a b =>
  if b.isSingle then canonWrap (a.set.shift (-b.l)) else denseWrap (a.l - b.h) (a.h - b.l)

/-- `MUL` -/
def mul : Dom → Dom → Dom := onSingles (· * ·) fun a b =>
  corners (a.l * b.l) [a.l * b.h, a.h * b.l, a.h * b.h]

/-- Bits [63:32] of the product. -/
def mulhi (x y : Int) : Int := x * y / 4294967296

/-- `MULH` -/
def mulh : Dom → Dom → Dom := onSingles (fun x y => BitVec.ofInt 32 (mulhi x.toInt y.toInt)) fun a b =>
  corners (mulhi a.l b.l) [mulhi a.l b.h, mulhi a.h b.l, mulhi a.h b.h]

/-- The quotient of two values: by 0 it is −1, and −2^31 ÷ −1 is −2^31. -/
def quot (x y : Word) : Word := if y = 0 then -1 else BitVec.ofInt 32 (x.toInt.tdiv y.toInt)

/-- The divisors whose quotients bound a quotient: the bounds, and the members nearest 0 on its two sides. -/
def divisors (b : Dom) : List Int :=
  b.h :: (if b.l < 0 && 0 < b.h then
      (b.set.down IntSet.reach (-1)).toList ++ (b.set.up IntSet.reach 1).toList
    else [])

/-- `DIV` -/
def div : Dom → Dom → Dom := onSingles quot fun a b =>
  if b.mem 0 || (a.mem intMin && b.mem (-1)) then Dom.full
  else corners (a.l.tdiv b.l) (a.h.tdiv b.l :: (divisors b).flatMap (fun d => [a.l.tdiv d, a.h.tdiv d]))

/-- `REM` -/
def rem : Dom → Dom → Dom := onSingles (fun x y => x - y * quot x y) fun a b =>
  if b.mem 0 then Dom.full
  else
    let m := max b.l.natAbs b.h.natAbs
    let l := max (min a.l 0) (-((m : Int) - 1))
    let h := min (max a.h 0) ((m : Int) - 1)
    denseWrap (if 0 ≤ a.l then max l 0 else l) (if a.h ≤ 0 then min h 0 else h)

/-- `MIN` -/
def min : Dom → Dom → Dom :=
  onSingles (fun x y => if x.toInt ≤ y.toInt then x else y) fun a b => denseWrap (Min.min a.l b.l) (Min.min a.h b.h)
/-- `MAX` -/
def max : Dom → Dom → Dom :=
  onSingles (fun x y => if x.toInt ≤ y.toInt then y else x) fun a b => denseWrap (Max.max a.l b.l) (Max.max a.h b.h)

/-- `ABS` -/
def abs (a : Dom) : Dom :=
  if a.isSingle then Dom.single (if a.l < 0 then -a.lo else a.lo)
  else if a.mem intMin then Dom.full else canonWrap a.set.abs

/-- `NEG` -/
def neg (a : Dom) : Dom :=
  if a.isSingle then Dom.single (-a.lo) else if a.mem intMin then Dom.full else canonWrap a.set.neg

/-- `AND` -/
def and : Dom → Dom → Dom := onSingles (· &&& ·) fun a b =>
  if 0 ≤ a.l && 0 ≤ b.l then denseWrap 0 (Min.min a.h b.h) else Dom.full

/-- The least 2^p − 1 not below a natural number. -/
def maskOver (n : Nat) : Int := 2 ^ (if n = 0 then 0 else Nat.log2 n + 1) - 1

/-- `OR` and `XOR` on wider sources. -/
def orWide (a b : Dom) : Dom :=
  if 0 ≤ a.l && 0 ≤ b.l then denseWrap 0 (maskOver (Max.max a.h b.h).toNat) else Dom.full
/-- `OR` -/
def or : Dom → Dom → Dom := onSingles (· ||| ·) orWide
/-- `XOR` -/
def xor : Dom → Dom → Dom := onSingles (· ^^^ ·) orWide
/-- `ANDN` -/
def andn : Dom → Dom → Dom := onSingles (fun x y => x &&& ~~~y) fun a _ =>
  if 0 ≤ a.l then denseWrap 0 a.h else Dom.full

/-- The count of a shift: b mod 32. -/
def count (b : Dom) : Nat := b.lo.toNat % 32

/-- `SHL` -/
def shl : Dom → Dom → Dom := onSingles (fun x y => x <<< (y.toNat % 32)) fun a b =>
  if b.isSingle then denseWrap (a.l * 2 ^ count b) (a.h * 2 ^ count b) else Dom.full
/-- `SHR` -/
def shr : Dom → Dom → Dom := onSingles (fun x y => x >>> (y.toNat % 32)) fun a b =>
  if b.isSingle && 0 ≤ a.l then denseWrap (a.l / 2 ^ count b) (a.h / 2 ^ count b) else Dom.full
/-- `SRA` -/
def sra : Dom → Dom → Dom := onSingles (fun x y => x.sshiftRight (y.toNat % 32)) fun a b =>
  if b.isSingle then denseWrap (a.l / 2 ^ count b) (a.h / 2 ^ count b) else Dom.full

/-- Leading zeros of a value. -/
def clzWord (x : Word) : Word := if x = 0 then 32 else BitVec.ofNat 32 (31 - Nat.log2 x.toNat)
/-- Set bits of a value. -/
def popWord (x : Word) : Word := BitVec.ofNat 32 ((List.range 32).foldl (fun n k => if x.getLsbD k then n + 1 else n) 0)

/-- `CLZ` -/
def clz (a : Dom) : Dom := if a.isSingle then Dom.single (clzWord a.lo) else denseWrap 0 32
/-- `POPC` -/
def popc (a : Dom) : Dom := if a.isSingle then Dom.single (popWord a.lo) else denseWrap 0 32

/-- `SEXT` to width `w`, 1 to 32. -/
def sext (w : Nat) (a : Dom) : Dom :=
  if a.isSingle then Dom.single ((a.lo <<< (32 - w)).sshiftRight (32 - w))
  else if -(2 ^ (w - 1)) ≤ a.l && a.h ≤ 2 ^ (w - 1) - 1 then a else denseWrap (-(2 ^ (w - 1))) (2 ^ (w - 1) - 1)
/-- `ZEXT` to width `w`; with width 32 it is the identity. -/
def zext (w : Nat) (a : Dom) : Dom :=
  if w = 32 then a
  else if a.isSingle then Dom.single ((a.lo <<< (32 - w)) >>> (32 - w))
  else if 0 ≤ a.l && a.h ≤ 2 ^ w - 1 then a else denseWrap 0 (2 ^ w - 1)

/-- Do two sets meet (R279)? -/
def meets (a b : Dom) : Bool := (a.set.inter b.set).canon.isSome

/-- A truth value, or both where the relation is neither entailed nor refuted. -/
def truth (entailed refuted : Bool) : Dom :=
  if entailed then Dom.single 1 else if refuted then Dom.single 0 else ⟨0, 1, 3⟩

/-- The four relations of R279. -/
inductive Rel | eq | ne | lt | le
  deriving DecidableEq, Repr

/-- The Entailed column. -/
def Rel.entailed : Rel → Dom → Dom → Bool
  | .eq, a, b => a.isSingle && b.isSingle && a.lo == b.lo
  | .ne, a, b => !meets a b
  | .lt, a, b => a.h < b.l
  | .le, a, b => a.h ≤ b.l
/-- The Refuted column. -/
def Rel.refuted : Rel → Dom → Dom → Bool
  | .eq, a, b => !meets a b
  | .ne, a, b => a.isSingle && b.isSingle && a.lo == b.lo
  | .lt, a, b => b.h ≤ a.l
  | .le, a, b => b.h < a.l
/-- `EQ`, `NE`, `LT` and `LE` in functional mode. -/
def compare (r : Rel) (a b : Dom) : Dom := truth (r.entailed a b) (r.refuted a b)

end Fn

/-! ### Meanings -/

/-- A functional instruction of two sources. -/
def functional2 (f : Dom → Dom → Dom) (lat : Nat) (dd da db : DReg) (s : State) : Eff State :=
  .ok (s.write lat (.d dd (f (s.src.regs.dom da) (s.src.regs.dom db))))

/-- Its I form: the second source is the singleton imm32 (R255). -/
def functionalI (f : Dom → Dom → Dom) (lat : Nat) (dd da : DReg) (imm : Word) (s : State) : Eff State :=
  .ok (s.write lat (.d dd (f (s.src.regs.dom da) (Dom.single imm))))

/-- A functional instruction of one source. -/
def functional1 (f : Dom → Dom) (dd da : DReg) (s : State) : Eff State :=
  .ok (s.write 1 (.d dd (f (s.src.regs.dom da))))

/-- `ADD` (R275, R297). -/
def execAdd (dd da db : DReg) (s : State) : Host.Outcome State Fault Refusal :=
  syllable (functional2 Fn.add 1 dd da db) s
/-- `ADD` with an immediate. -/
def execAddI (dd da : DReg) (imm : Word) (s : State) : Host.Outcome State Fault Refusal :=
  syllable (functionalI Fn.add 1 dd da imm) s
/-- `SUB` (R275, R297). -/
def execSub (dd da db : DReg) (s : State) : Host.Outcome State Fault Refusal :=
  syllable (functional2 Fn.sub 1 dd da db) s
/-- `SUB` with an immediate. -/
def execSubI (dd da : DReg) (imm : Word) (s : State) : Host.Outcome State Fault Refusal :=
  syllable (functionalI Fn.sub 1 dd da imm) s
/-- `MUL` (R275, R297). -/
def execMul (dd da db : DReg) (s : State) : Host.Outcome State Fault Refusal :=
  syllable (functional2 Fn.mul 3 dd da db) s
/-- `MUL` with an immediate. -/
def execMulI (dd da : DReg) (imm : Word) (s : State) : Host.Outcome State Fault Refusal :=
  syllable (functionalI Fn.mul 3 dd da imm) s
/-- `MIN` (R275, R297). -/
def execMin (dd da db : DReg) (s : State) : Host.Outcome State Fault Refusal :=
  syllable (functional2 Fn.min 1 dd da db) s
/-- `MIN` with an immediate. -/
def execMinI (dd da : DReg) (imm : Word) (s : State) : Host.Outcome State Fault Refusal :=
  syllable (functionalI Fn.min 1 dd da imm) s
/-- `MAX` (R275, R297). -/
def execMax (dd da db : DReg) (s : State) : Host.Outcome State Fault Refusal :=
  syllable (functional2 Fn.max 1 dd da db) s
/-- `MAX` with an immediate. -/
def execMaxI (dd da : DReg) (imm : Word) (s : State) : Host.Outcome State Fault Refusal :=
  syllable (functionalI Fn.max 1 dd da imm) s
/-- `MULH` (R275, R297). -/
def execMulh (dd da db : DReg) (s : State) : Host.Outcome State Fault Refusal :=
  syllable (functional2 Fn.mulh 3 dd da db) s
/-- `MULH` with an immediate. -/
def execMulhI (dd da : DReg) (imm : Word) (s : State) : Host.Outcome State Fault Refusal :=
  syllable (functionalI Fn.mulh 3 dd da imm) s
/-- `DIV` (R275, R297). -/
def execDiv (dd da db : DReg) (s : State) : Host.Outcome State Fault Refusal :=
  syllable (functional2 Fn.div 12 dd da db) s
/-- `DIV` with an immediate. -/
def execDivI (dd da : DReg) (imm : Word) (s : State) : Host.Outcome State Fault Refusal :=
  syllable (functionalI Fn.div 12 dd da imm) s
/-- `REM` (R275, R297). -/
def execRem (dd da db : DReg) (s : State) : Host.Outcome State Fault Refusal :=
  syllable (functional2 Fn.rem 12 dd da db) s
/-- `REM` with an immediate. -/
def execRemI (dd da : DReg) (imm : Word) (s : State) : Host.Outcome State Fault Refusal :=
  syllable (functionalI Fn.rem 12 dd da imm) s
/-- `AND` (R275, R297). -/
def execAnd (dd da db : DReg) (s : State) : Host.Outcome State Fault Refusal :=
  syllable (functional2 Fn.and 1 dd da db) s
/-- `AND` with an immediate. -/
def execAndI (dd da : DReg) (imm : Word) (s : State) : Host.Outcome State Fault Refusal :=
  syllable (functionalI Fn.and 1 dd da imm) s
/-- `OR` (R275, R297). -/
def execOr (dd da db : DReg) (s : State) : Host.Outcome State Fault Refusal :=
  syllable (functional2 Fn.or 1 dd da db) s
/-- `OR` with an immediate. -/
def execOrI (dd da : DReg) (imm : Word) (s : State) : Host.Outcome State Fault Refusal :=
  syllable (functionalI Fn.or 1 dd da imm) s
/-- `XOR` (R275, R297). -/
def execXor (dd da db : DReg) (s : State) : Host.Outcome State Fault Refusal :=
  syllable (functional2 Fn.xor 1 dd da db) s
/-- `XOR` with an immediate. -/
def execXorI (dd da : DReg) (imm : Word) (s : State) : Host.Outcome State Fault Refusal :=
  syllable (functionalI Fn.xor 1 dd da imm) s
/-- `ANDN` (R275, R297). -/
def execAndn (dd da db : DReg) (s : State) : Host.Outcome State Fault Refusal :=
  syllable (functional2 Fn.andn 1 dd da db) s
/-- `ANDN` with an immediate. -/
def execAndnI (dd da : DReg) (imm : Word) (s : State) : Host.Outcome State Fault Refusal :=
  syllable (functionalI Fn.andn 1 dd da imm) s
/-- `SHL` (R275, R297). -/
def execShl (dd da db : DReg) (s : State) : Host.Outcome State Fault Refusal :=
  syllable (functional2 Fn.shl 1 dd da db) s
/-- `SHL` with an immediate. -/
def execShlI (dd da : DReg) (imm : Word) (s : State) : Host.Outcome State Fault Refusal :=
  syllable (functionalI Fn.shl 1 dd da imm) s
/-- `SHR` (R275, R297). -/
def execShr (dd da db : DReg) (s : State) : Host.Outcome State Fault Refusal :=
  syllable (functional2 Fn.shr 1 dd da db) s
/-- `SHR` with an immediate. -/
def execShrI (dd da : DReg) (imm : Word) (s : State) : Host.Outcome State Fault Refusal :=
  syllable (functionalI Fn.shr 1 dd da imm) s
/-- `SRA` (R275, R297). -/
def execSra (dd da db : DReg) (s : State) : Host.Outcome State Fault Refusal :=
  syllable (functional2 Fn.sra 1 dd da db) s
/-- `SRA` with an immediate. -/
def execSraI (dd da : DReg) (imm : Word) (s : State) : Host.Outcome State Fault Refusal :=
  syllable (functionalI Fn.sra 1 dd da imm) s
/-- `EQ` (R275, R297). -/
def execEq (dd da db : DReg) (s : State) : Host.Outcome State Fault Refusal :=
  syllable (functional2 (Fn.compare .eq) 1 dd da db) s
/-- `EQ` with an immediate. -/
def execEqI (dd da : DReg) (imm : Word) (s : State) : Host.Outcome State Fault Refusal :=
  syllable (functionalI (Fn.compare .eq) 1 dd da imm) s
/-- `NE` (R275, R297). -/
def execNe (dd da db : DReg) (s : State) : Host.Outcome State Fault Refusal :=
  syllable (functional2 (Fn.compare .ne) 1 dd da db) s
/-- `NE` with an immediate. -/
def execNeI (dd da : DReg) (imm : Word) (s : State) : Host.Outcome State Fault Refusal :=
  syllable (functionalI (Fn.compare .ne) 1 dd da imm) s
/-- `LT` (R275, R297). -/
def execLt (dd da db : DReg) (s : State) : Host.Outcome State Fault Refusal :=
  syllable (functional2 (Fn.compare .lt) 1 dd da db) s
/-- `LT` with an immediate. -/
def execLtI (dd da : DReg) (imm : Word) (s : State) : Host.Outcome State Fault Refusal :=
  syllable (functionalI (Fn.compare .lt) 1 dd da imm) s
/-- `LE` (R275, R297). -/
def execLe (dd da db : DReg) (s : State) : Host.Outcome State Fault Refusal :=
  syllable (functional2 (Fn.compare .le) 1 dd da db) s
/-- `LE` with an immediate. -/
def execLeI (dd da : DReg) (imm : Word) (s : State) : Host.Outcome State Fault Refusal :=
  syllable (functionalI (Fn.compare .le) 1 dd da imm) s
/-- `ABS` (R275). -/
def execAbs (dd da : DReg) (s : State) : Host.Outcome State Fault Refusal := syllable (functional1 Fn.abs dd da) s
/-- `NEG` (R275). -/
def execNeg (dd da : DReg) (s : State) : Host.Outcome State Fault Refusal := syllable (functional1 Fn.neg dd da) s
/-- `MOV` (R275). -/
def execMov (dd da : DReg) (s : State) : Host.Outcome State Fault Refusal := syllable (functional1 id dd da) s
/-- `CLZ` (R275). -/
def execClz (dd da : DReg) (s : State) : Host.Outcome State Fault Refusal := syllable (functional1 Fn.clz dd da) s
/-- `POPC` (R275). -/
def execPopc (dd da : DReg) (s : State) : Host.Outcome State Fault Refusal := syllable (functional1 Fn.popc dd da) s
/-- `SEXT` to width imm32 (R275). -/
def execSext (dd da : DReg) (imm : Word) (s : State) : Host.Outcome State Fault Refusal :=
  syllable (functional1 (Fn.sext imm.toNat) dd da) s
/-- `ZEXT` to width imm32 (R275). -/
def execZext (dd da : DReg) (imm : Word) (s : State) : Host.Outcome State Fault Refusal :=
  syllable (functional1 (Fn.zext imm.toNat) dd da) s
/-- `MOVI`: singleton imm32 (R275). -/
def execMovi (dd : DReg) (imm : Word) (s : State) : Host.Outcome State Fault Refusal :=
  syllable (fun s => .ok (s.write 1 (.d dd (Dom.single imm)))) s

/-! ### Building and reading domains (R281) -/

/-- `FAILINFO` (R298). -/
def failinfoWord (opc : Byte) (origin : BitVec 2) (reg : DReg) (entry : Byte) : BitVec 64 :=
  opc ++ (origin ++ (reg ++ (entry ++ 0#40)))

/-- FAIL with its information (R293). -/
def fail {α : Type} (opc : Byte) (origin : BitVec 2) (reg : DReg) (entry : Byte) (s : State) : Eff α :=
  raise tFail (s.modCtx (fun c => { c with failinfo := failinfoWord opc origin reg entry }))

/-- `DSET`: dense(a, b); an empty interval fails. -/
def dset (dd da db : DReg) (s : State) : Eff State := do
  let a ← single s da
  let b ← single s db
  match Dom.dense a.toInt b.toInt with
  | some x => .ok (s.write 1 (.d dd x))
  | none => fail 0x30 3 dd 0 s

/-- The domain of `DMASK`: half the mask replaced by 32 bits, the bits above hi − lo ignored. -/
def maskDom (d : Dom) (bits : Word) (high : Bool) : Option Dom :=
  let m : BitVec 64 := if high then bits ++ d.mask.extractLsb' 0 32 else d.mask.extractLsb' 32 32 ++ bits
  ({ d with mask := m } : Dom).set.canon

/-- `DMASK`: dd's mask, half of it replaced; an empty set fails. -/
def dmask (dd da : DReg) (imm : Word) (s : State) : Eff State := do
  let a ← single s da
  match maskDom (s.src.regs.dom dd) a (imm == 1) with
  | some x => .ok (s.write 1 (.d dd x))
  | none => fail 0x33 3 dd 0 s

/-- The size of a domain, saturated (R281). -/
def sizeWord (a : Dom) : Word := BitVec.ofNat 32 (Nat.min a.size (2 ^ 31 - 1))

/-- `DSET` (R281). -/
def execDset (dd da db : DReg) (s : State) : Host.Outcome State Fault Refusal := syllable (dset dd da db) s
/-- `DFULL` (R281). -/
def execDfull (dd : DReg) (s : State) : Host.Outcome State Fault Refusal :=
  syllable (fun s => .ok (s.write 1 (.d dd Dom.full))) s
/-- `DMASK` (R281). -/
def execDmask (dd da : DReg) (imm : Word) (s : State) : Host.Outcome State Fault Refusal := syllable (dmask dd da imm) s
/-- `DLO` (R281). -/
def execDlo (dd da : DReg) (s : State) : Host.Outcome State Fault Refusal :=
  syllable (functional1 (fun a => Dom.single a.lo) dd da) s
/-- `DHI` (R281). -/
def execDhi (dd da : DReg) (s : State) : Host.Outcome State Fault Refusal :=
  syllable (functional1 (fun a => Dom.single a.hi) dd da) s
/-- `DSIZE` (R281). -/
def execDsize (dd da : DReg) (s : State) : Host.Outcome State Fault Refusal :=
  syllable (functional1 (fun a => Dom.single (sizeWord a)) dd da) s

end Sys2Proof.Machine
end

