-- ==== Sys2Proof/Machine/Relational.lean ====
section
/-!
DEFINITION. Relational narrowing (R276 to R280, R282): the passes of every relation, the trail and the waking of the
constraint store's entries (R283, R284, R290), and the relational and kept instructions. The runs of a propagation point
use the same passes. Log entry 17 (which registers a stall of R277 looks at).
-/

namespace Sys2Proof.Machine

/-! ### Passes (R276, R278 to R280) -/

/-- The three operands of a relation: dd, da, and db or the constant. -/
inductive Opnd
  | reg (r : DReg)
  | const (v : Word)
  deriving DecidableEq, Repr

/-- Domains narrowed so far in a pass, over those the pass began with. -/
abbrev Env := Assoc Dom

/-- The current domain of an operand. -/
def Opnd.cur (base : DReg → Dom) (e : Env) : Opnd → Dom
  | .reg r => if r = 0 then Dom.single 0 else (Assoc.find? e r.toNat).getD (base r)
  | .const v => Dom.single v

/-- Which operand of a relation a narrowing concerns. -/
inductive Place | d | a | b
  deriving DecidableEq, Repr

/-- One narrowing: the operand, and its new domain from the current domains of d, a and b; `none` is empty. -/
structure Narrowing where
  place : Place
  rule : Dom → Dom → Dom → Option Dom

/-- The operands of a relational syllable or store entry. -/
structure Operands3 where
  d : Opnd
  a : Opnd
  b : Opnd
  deriving DecidableEq, Repr

/-- The operand at a place. -/
def Operands3.at_ (o : Operands3) : Place → Opnd
  | .d => o.d
  | .a => o.a
  | .b => o.b

/-- Carry out narrowings in pass order; a register that becomes empty fails, and a constant is never narrowed. -/
def runPass (base : DReg → Dom) (o : Operands3) : List Narrowing → Env → Except DReg Env
  | [], e => .ok e
  | n :: rest, e =>
    match o.at_ n.place with
    | .const _ => runPass base o rest e
    | .reg r =>
      match n.rule (o.d.cur base e) (o.a.cur base e) (o.b.cur base e) with
      | none => .error r
      | some x => runPass base o rest (if r = 0 then e else Assoc.set e r.toNat x)

/-- Narrow to [l, h]. -/
def Dom.within (x : Dom) (l h : Int) : Option Dom := x.narrow (IntSet.interval l h)

/-- Bounds that stand for −∞ and ∞. -/
def negInf : Int := -(2 ^ 70)
def posInf : Int := 2 ^ 70

/-- ⌈x / y⌉ and ⌊x / y⌋ of integers, y ≠ 0. -/
def ceilDiv (x y : Int) : Int := -((-x).fdiv y)
def floorDiv (x y : Int) : Int := x.fdiv y

/-- The two steps of `MUL` for a factor `x` with the other factor `y` (R278). -/
def mulFactor (d x y : Dom) : Option Dom :=
  let one := if 0 < y.l || y.h < 0 then
      x.within
        (leastOf (ceilDiv d.l y.l) [ceilDiv d.l y.h, ceilDiv d.h y.l, ceilDiv d.h y.h])
        (greatestOf (floorDiv d.l y.l) [floorDiv d.l y.h, floorDiv d.h y.l, floorDiv d.h y.h])
    else some x
  match one with
  | none => none
  | some x' => if d.mem 0 then some x' else x'.exclude 0

/-- The narrowings of the arithmetic relations, in pass order (R278). -/
def narrowAdd : List Narrowing :=
  [⟨.d, fun d a b => if b.isSingle then d.narrow (a.set.shift b.l) else d.within (a.l + b.l) (a.h + b.h)⟩,
   ⟨.a, fun d a b => if b.isSingle then a.narrow (d.set.shift (-b.l)) else a.within (d.l - b.h) (d.h - b.l)⟩,
   ⟨.b, fun d a b => b.within (d.l - a.h) (d.h - a.l)⟩]
def narrowSub : List Narrowing :=
  [⟨.d, fun d a b => if b.isSingle then d.narrow (a.set.shift (-b.l)) else d.within (a.l - b.h) (a.h - b.l)⟩,
   ⟨.a, fun d a b => if b.isSingle then a.narrow (d.set.shift b.l) else a.within (d.l + b.l) (d.h + b.h)⟩,
   ⟨.b, fun d a b => b.within (a.l - d.h) (a.h - d.l)⟩]
def narrowMul : List Narrowing :=
  [⟨.d, fun d a b => d.within (leastOf (a.l * b.l) [a.l * b.h, a.h * b.l, a.h * b.h])
      (greatestOf (a.l * b.l) [a.l * b.h, a.h * b.l, a.h * b.h])⟩,
   ⟨.a, fun d a b => mulFactor d a b⟩,
   ⟨.b, fun d a b => mulFactor d b a⟩]
def narrowMin : List Narrowing :=
  [⟨.d, fun d a b => d.within (min a.l b.l) (min a.h b.h)⟩,
   ⟨.a, fun d a b => a.within d.l (if d.h < b.l then d.h else posInf)⟩,
   ⟨.b, fun d a b => b.within d.l (if d.h < a.l then d.h else posInf)⟩]
def narrowMax : List Narrowing :=
  [⟨.d, fun d a b => d.within (max a.l b.l) (max a.h b.h)⟩,
   ⟨.a, fun d a b => a.within (if b.h < d.l then d.l else negInf) d.h⟩,
   ⟨.b, fun d a b => b.within (if a.h < d.l then d.l else negInf) d.h⟩]
def narrowAbs : List Narrowing :=
  [⟨.d, fun d a _ => if 0 ≤ a.l then d.narrow a.set else if a.h ≤ 0 then d.narrow a.set.neg
      else d.within 0 (max (-a.l) a.h)⟩,
   ⟨.a, fun d a _ => if 0 ≤ a.l then a.narrow d.set else if a.h ≤ 0 then a.narrow d.set.neg
      else a.within (-d.h) d.h⟩]
def narrowNeg : List Narrowing := [⟨.d, fun d a _ => d.narrow a.set.neg⟩, ⟨.a, fun d a _ => a.narrow d.set.neg⟩]
def narrowMov : List Narrowing := [⟨.d, fun d a _ => d.narrow a.set⟩, ⟨.a, fun d a _ => a.narrow d.set⟩]
def narrowIn : List Narrowing := [⟨.d, fun d a _ => d.narrow a.set⟩]

/-- What imposing a relation makes of a, and of b (R279). -/
def imposeA (r : Fn.Rel) (a b : Dom) : Option Dom :=
  match r with
  | .eq => a.narrow b.set
  | .ne => if b.isSingle then a.exclude b.l else some a
  | .lt => a.within negInf (b.h - 1)
  | .le => a.within negInf b.h
def imposeB (r : Fn.Rel) (a b : Dom) : Option Dom :=
  match r with
  | .eq => b.narrow a.set
  | .ne => if a.isSingle then b.exclude a.l else some b
  | .lt => b.within (a.l + 1) posInf
  | .le => b.within a.l posInf

/-- What imposing a relation's negation makes of a, and of b: LT(a, b) and LE(b, a) are each other's negations. -/
def denyA (r : Fn.Rel) (a b : Dom) : Option Dom :=
  match r with
  | .eq => imposeA .ne a b
  | .ne => imposeA .eq a b
  | .lt => imposeB .le b a
  | .le => imposeB .lt b a
def denyB (r : Fn.Rel) (a b : Dom) : Option Dom :=
  match r with
  | .eq => imposeB .ne a b
  | .ne => imposeB .eq a b
  | .lt => imposeA .le b a
  | .le => imposeA .lt b a

/-- Is a Boolean domain {1}, or {0}? -/
def isTrue (d : Dom) : Bool := d.isSingle && d.lo == 1
def isFalse (d : Dom) : Bool := d.isSingle && d.lo == 0

/-- The pass of a relation: asserted where the dd field is 0, else reified (R279). -/
def narrowRel (r : Fn.Rel) (asserted : Bool) : List Narrowing :=
  if asserted then [⟨.a, fun _ a b => imposeA r a b⟩, ⟨.b, fun _ a b => imposeB r a b⟩]
  else
    [⟨.d, fun d _ _ => d.within 0 1⟩,
     ⟨.d, fun d a b => if d.isSingle then some d else if r.entailed a b then d.within 1 1
        else if r.refuted a b then d.within 0 0 else some d⟩,
     ⟨.a, fun d a b => if isTrue d then imposeA r a b else if isFalse d then denyA r a b else some a⟩,
     ⟨.b, fun d a b => if isTrue d then imposeB r a b else if isFalse d then denyB r a b else some b⟩]

/-! ### `ALLDIFF` (R280) -/

/-- Exclude a value from every register of a list but one. -/
def excludeAll (base : DReg → Dom) (v : Int) (skip : DReg) : List DReg → Env → Except DReg Env
  | [], e => .ok e
  | r :: rest, e =>
    if r = skip then excludeAll base v skip rest e
    else match ((Opnd.reg r).cur base e).exclude v with
      | none => .error r
      | some x => excludeAll base v skip rest (Assoc.set e r.toNat x)

/-- One round over the registers. -/
def allDiffRound (base : DReg → Dom) (all : List DReg) : List DReg → Env → Except DReg Env
  | [], e => .ok e
  | r :: rest, e =>
    let x := (Opnd.reg r).cur base e
    if x.isSingle then
      match excludeAll base x.l r all e with
      | .error q => .error q
      | .ok e' => allDiffRound base all rest e'
    else allDiffRound base all rest e

/-- Rounds until none changes a register; at most one more than the registers. -/
def allDiffRounds (base : DReg → Dom) (all : List DReg) : Nat → Env → Except DReg Env
  | 0, e => .ok e
  | n + 1, e =>
    match allDiffRound base all all e with
    | .error r => .error r
    | .ok e' =>
      if all.all (fun r => (Opnd.reg r).cur base e == (Opnd.reg r).cur base e') then .ok e'
      else allDiffRounds base all n e'

/-- The registers Dd to Dd + n − 1. -/
def regRun (dd : DReg) (n : Nat) : List DReg := (List.range n).map (fun i => dd + BitVec.ofNat 6 i)

/-- The pass of `ALLDIFF`: at least n values must remain. -/
def allDiff (base : DReg → Dom) (dd : DReg) (n : Nat) : Except DReg Env :=
  match allDiffRounds base (regRun dd n) (n + 1) [] with
  | .error r => .error r
  | .ok e =>
    if (((regRun dd n).flatMap (fun r => ((Opnd.reg r).cur base e).least n)).eraseDups).length < n then .error dd else .ok e

/-! ### Store entries (R283) -/

/-- The pass of an opcode on its operands. -/
def passOf (e : StoreEntry) (base : DReg → Dom) : Except DReg Env :=
  let o : Operands3 := ⟨.reg e.dd, .reg e.da, if e.opc.getLsbD 7 then .const e.imm else .reg e.db⟩
  match (e.opc &&& 0x7F).toNat with
  | 0x00 => runPass base o narrowAdd []
  | 0x01 => runPass base o narrowSub []
  | 0x02 => runPass base o narrowMul []
  | 0x03 => runPass base o narrowMin []
  | 0x04 => runPass base o narrowMax []
  | 0x05 => runPass base o narrowAbs []
  | 0x06 => runPass base o narrowNeg []
  | 0x07 => runPass base o narrowMov []
  | 0x20 => runPass base o (narrowRel .eq (e.dd == 0)) []
  | 0x21 => runPass base o (narrowRel .ne (e.dd == 0)) []
  | 0x22 => runPass base o (narrowRel .lt (e.dd == 0)) []
  | 0x23 => runPass base o (narrowRel .le (e.dd == 0)) []
  | 0x24 => runPass base o narrowIn []
  | 0x25 => allDiff base e.dd e.imm.toNat
  | _ => .ok []

/-- The registers that an entry's pass names, in pass order. -/
def StoreEntry.names (e : StoreEntry) : List DReg :=
  match (e.opc &&& 0x7F).toNat with
  | 0x25 => regRun e.dd e.imm.toNat
  | 0x05 | 0x06 | 0x07 | 0x24 => [e.dd, e.da]
  | _ => if e.opc.getLsbD 7 then [e.dd, e.da] else [e.dd, e.da, e.db]

/-- Does an entry watch a register (R283)? -/
def StoreEntry.watches (e : StoreEntry) (r : DReg) : Bool := r != 0 && e.names.contains r

/-- The registers a pass changed, in pass order, with their old and new domains (R276). -/
def changedRegs (names : List DReg) (base : DReg → Dom) (e : Env) : List (DReg × Dom × Dom) :=
  (names.eraseDups.filter (fun r => r != 0)).filterMap (fun r =>
    match Assoc.find? e r.toNat with
    | some x => if x == base r then none else some (r, base r, x)
    | none => none)

/-! ### Trail and waking (R284, R290) -/

/-- Wake every entry that watches a register and is not pending, in ascending number. -/
def Cons.wake (c : Cons) (r : DReg) : Cons :=
  { c with queue := c.queue ++ ((List.range c.store.length).filter (fun i =>
      (match c.store[i]? with | some e => e.watches r | none => false) && !c.queue.contains i)) }

/-- A narrowing is trailed while a mark stands, and wakes its watchers. -/
def Cons.narrowed (c : Cons) (r : DReg) (old : Dom) : Cons :=
  (if c.marks = [] then c else { c with trail := (r, old) :: c.trail }).wake r

/-- Would `n` more trail entries pass the trail's end? -/
def Cons.trailFull (c : Cons) (n : Nat) : Bool := c.marks ≠ [] && 1024 < c.trail.length + n

/-! ### The stall of R277 (R428) -/

/-- A bundle that reads registers with results in flight waits: for `LDR` values first, then by empty bundles. -/
def landed (s : State) (rs : List DReg) : Eff Unit :=
  if rs.any s.src.ldrTo then .error (.stall s)
  else if rs.any (fun r => r != 0 && s.src.inFlight r.toNat) then .error (.stall s.emptyBundle)
  else .ok ()

/-! ### Relational syllables (R276) -/

/-- The opcode of a relational syllable as a store entry; the I forms have bit 7 set. -/
def entryRRR (opc : Byte) (dd da db : DReg) : StoreEntry := ⟨opc, dd, da, db, 0⟩
def entryRRI (opc : Byte) (dd da : DReg) (imm : Word) : StoreEntry := ⟨opc, dd, da, 0, imm⟩

/-- Make a list of narrowings: each lands in `lat` bundles, is trailed and wakes (R276). -/
def applyNarrowings (lat : Nat) (s : State) (ch : List (DReg × Dom × Dom)) : State :=
  ch.foldl (fun s c =>
    (s.modCtx (fun x => { x with cons := x.cons.narrowed c.1 c.2.1 })).write lat (.d c.1 c.2.2)) s

/-- A relational syllable (R276, R277): one pass over landed values; kept where `keep` says so. -/
def relational (e : StoreEntry) (keep : Bool) (s : State) : Eff State := do
  notFw s
  landed s e.names
  need (!(keep && 256 ≤ s.ctx.cons.store.length)) tStoreOvf s
  match passOf e s.src.regs.dom with
  | .error r => fail e.opc 0 r 0 s
  | .ok env =>
    let ch := changedRegs e.names s.src.regs.dom env
    need (!s.ctx.cons.trailFull ch.length) tTrailOvf s
    let s := if keep then s.modCtx (fun c => { c with cons := { c.cons with store := c.cons.store ++ [e] } }) else s
    .ok (applyNarrowings 2 s ch)

/-- `DEXCL` (R282): a narrowing by exclusion; in the firmware context it is neither trailed nor wakes. -/
def dexcl (opc : Byte) (dd : DReg) (b : DReg ⊕ Word) (s : State) : Eff State := do
  landed s (match b with | .inl r => [dd, r] | .inr _ => [dd])
  let v ← (match b with | .inl r => single s r | .inr v => .ok v)
  let old := s.src.regs.dom dd
  match old.exclude v.toInt with
  | none => fail opc 2 dd 0 s
  | some x =>
    if x == old then .ok s
    else if s.isFw then .ok (s.write 2 (.d dd x))
    else do
      need (!s.ctx.cons.trailFull 1) tTrailOvf s
      .ok (applyNarrowings 2 s [(dd, old, x)])

/-- `ADD` in relational mode (R276, R278). -/
def execAddR (dd da db : DReg) (s : State) : Host.Outcome State Fault Refusal :=
  syllable (relational (entryRRR 0x00 dd da db) false) s
/-- `ADD` with a constant in relational mode. -/
def execAddIR (dd da : DReg) (imm : Word) (s : State) : Host.Outcome State Fault Refusal :=
  syllable (relational (entryRRI 0x80 dd da imm) false) s
/-- `ADD` in relational mode, kept (R276, R278). -/
def execAddRk (dd da db : DReg) (s : State) : Host.Outcome State Fault Refusal :=
  syllable (relational (entryRRR 0x00 dd da db) true) s
/-- `ADD` with a constant in relational mode, kept. -/
def execAddIRk (dd da : DReg) (imm : Word) (s : State) : Host.Outcome State Fault Refusal :=
  syllable (relational (entryRRI 0x80 dd da imm) true) s
/-- `SUB` in relational mode (R276, R278). -/
def execSubR (dd da db : DReg) (s : State) : Host.Outcome State Fault Refusal :=
  syllable (relational (entryRRR 0x01 dd da db) false) s
/-- `SUB` with a constant in relational mode. -/
def execSubIR (dd da : DReg) (imm : Word) (s : State) : Host.Outcome State Fault Refusal :=
  syllable (relational (entryRRI 0x81 dd da imm) false) s
/-- `SUB` in relational mode, kept (R276, R278). -/
def execSubRk (dd da db : DReg) (s : State) : Host.Outcome State Fault Refusal :=
  syllable (relational (entryRRR 0x01 dd da db) true) s
/-- `SUB` with a constant in relational mode, kept. -/
def execSubIRk (dd da : DReg) (imm : Word) (s : State) : Host.Outcome State Fault Refusal :=
  syllable (relational (entryRRI 0x81 dd da imm) true) s
/-- `MUL` in relational mode (R276, R278). -/
def execMulR (dd da db : DReg) (s : State) : Host.Outcome State Fault Refusal :=
  syllable (relational (entryRRR 0x02 dd da db) false) s
/-- `MUL` with a constant in relational mode. -/
def execMulIR (dd da : DReg) (imm : Word) (s : State) : Host.Outcome State Fault Refusal :=
  syllable (relational (entryRRI 0x82 dd da imm) false) s
/-- `MUL` in relational mode, kept (R276, R278). -/
def execMulRk (dd da db : DReg) (s : State) : Host.Outcome State Fault Refusal :=
  syllable (relational (entryRRR 0x02 dd da db) true) s
/-- `MUL` with a constant in relational mode, kept. -/
def execMulIRk (dd da : DReg) (imm : Word) (s : State) : Host.Outcome State Fault Refusal :=
  syllable (relational (entryRRI 0x82 dd da imm) true) s
/-- `MIN` in relational mode (R276, R278). -/
def execMinR (dd da db : DReg) (s : State) : Host.Outcome State Fault Refusal :=
  syllable (relational (entryRRR 0x03 dd da db) false) s
/-- `MIN` with a constant in relational mode. -/
def execMinIR (dd da : DReg) (imm : Word) (s : State) : Host.Outcome State Fault Refusal :=
  syllable (relational (entryRRI 0x83 dd da imm) false) s
/-- `MIN` in relational mode, kept (R276, R278). -/
def execMinRk (dd da db : DReg) (s : State) : Host.Outcome State Fault Refusal :=
  syllable (relational (entryRRR 0x03 dd da db) true) s
/-- `MIN` with a constant in relational mode, kept. -/
def execMinIRk (dd da : DReg) (imm : Word) (s : State) : Host.Outcome State Fault Refusal :=
  syllable (relational (entryRRI 0x83 dd da imm) true) s
/-- `MAX` in relational mode (R276, R278). -/
def execMaxR (dd da db : DReg) (s : State) : Host.Outcome State Fault Refusal :=
  syllable (relational (entryRRR 0x04 dd da db) false) s
/-- `MAX` with a constant in relational mode. -/
def execMaxIR (dd da : DReg) (imm : Word) (s : State) : Host.Outcome State Fault Refusal :=
  syllable (relational (entryRRI 0x84 dd da imm) false) s
/-- `MAX` in relational mode, kept (R276, R278). -/
def execMaxRk (dd da db : DReg) (s : State) : Host.Outcome State Fault Refusal :=
  syllable (relational (entryRRR 0x04 dd da db) true) s
/-- `MAX` with a constant in relational mode, kept. -/
def execMaxIRk (dd da : DReg) (imm : Word) (s : State) : Host.Outcome State Fault Refusal :=
  syllable (relational (entryRRI 0x84 dd da imm) true) s
/-- `ABS` in relational mode (R278, R280). -/
def execAbsR (dd da : DReg) (s : State) : Host.Outcome State Fault Refusal :=
  syllable (relational (entryRRR 0x05 dd da 0) false) s
/-- `ABS` in relational mode, kept (R278, R280). -/
def execAbsRk (dd da : DReg) (s : State) : Host.Outcome State Fault Refusal :=
  syllable (relational (entryRRR 0x05 dd da 0) true) s
/-- `NEG` in relational mode (R278, R280). -/
def execNegR (dd da : DReg) (s : State) : Host.Outcome State Fault Refusal :=
  syllable (relational (entryRRR 0x06 dd da 0) false) s
/-- `NEG` in relational mode, kept (R278, R280). -/
def execNegRk (dd da : DReg) (s : State) : Host.Outcome State Fault Refusal :=
  syllable (relational (entryRRR 0x06 dd da 0) true) s
/-- `MOV` in relational mode (R278, R280). -/
def execMovR (dd da : DReg) (s : State) : Host.Outcome State Fault Refusal :=
  syllable (relational (entryRRR 0x07 dd da 0) false) s
/-- `MOV` in relational mode, kept (R278, R280). -/
def execMovRk (dd da : DReg) (s : State) : Host.Outcome State Fault Refusal :=
  syllable (relational (entryRRR 0x07 dd da 0) true) s
/-- `IN` in relational mode (R278, R280). -/
def execInR (dd da : DReg) (s : State) : Host.Outcome State Fault Refusal :=
  syllable (relational (entryRRR 0x24 dd da 0) false) s
/-- `IN` in relational mode, kept (R278, R280). -/
def execInRk (dd da : DReg) (s : State) : Host.Outcome State Fault Refusal :=
  syllable (relational (entryRRR 0x24 dd da 0) true) s
/-- `EQ` in relational mode (R279). -/
def execEqR (dd da db : DReg) (s : State) : Host.Outcome State Fault Refusal :=
  syllable (relational (entryRRR 0x20 dd da db) false) s
/-- `EQ` with a constant in relational mode. -/
def execEqIR (dd da : DReg) (imm : Word) (s : State) : Host.Outcome State Fault Refusal :=
  syllable (relational (entryRRI 0xA0 dd da imm) false) s
/-- `EQ` in relational mode, kept (R279). -/
def execEqRk (dd da db : DReg) (s : State) : Host.Outcome State Fault Refusal :=
  syllable (relational (entryRRR 0x20 dd da db) true) s
/-- `EQ` with a constant in relational mode, kept. -/
def execEqIRk (dd da : DReg) (imm : Word) (s : State) : Host.Outcome State Fault Refusal :=
  syllable (relational (entryRRI 0xA0 dd da imm) true) s
/-- `NE` in relational mode (R279). -/
def execNeR (dd da db : DReg) (s : State) : Host.Outcome State Fault Refusal :=
  syllable (relational (entryRRR 0x21 dd da db) false) s
/-- `NE` with a constant in relational mode. -/
def execNeIR (dd da : DReg) (imm : Word) (s : State) : Host.Outcome State Fault Refusal :=
  syllable (relational (entryRRI 0xA1 dd da imm) false) s
/-- `NE` in relational mode, kept (R279). -/
def execNeRk (dd da db : DReg) (s : State) : Host.Outcome State Fault Refusal :=
  syllable (relational (entryRRR 0x21 dd da db) true) s
/-- `NE` with a constant in relational mode, kept. -/
def execNeIRk (dd da : DReg) (imm : Word) (s : State) : Host.Outcome State Fault Refusal :=
  syllable (relational (entryRRI 0xA1 dd da imm) true) s
/-- `LT` in relational mode (R279). -/
def execLtR (dd da db : DReg) (s : State) : Host.Outcome State Fault Refusal :=
  syllable (relational (entryRRR 0x22 dd da db) false) s
/-- `LT` with a constant in relational mode. -/
def execLtIR (dd da : DReg) (imm : Word) (s : State) : Host.Outcome State Fault Refusal :=
  syllable (relational (entryRRI 0xA2 dd da imm) false) s
/-- `LT` in relational mode, kept (R279). -/
def execLtRk (dd da db : DReg) (s : State) : Host.Outcome State Fault Refusal :=
  syllable (relational (entryRRR 0x22 dd da db) true) s
/-- `LT` with a constant in relational mode, kept. -/
def execLtIRk (dd da : DReg) (imm : Word) (s : State) : Host.Outcome State Fault Refusal :=
  syllable (relational (entryRRI 0xA2 dd da imm) true) s
/-- `LE` in relational mode (R279). -/
def execLeR (dd da db : DReg) (s : State) : Host.Outcome State Fault Refusal :=
  syllable (relational (entryRRR 0x23 dd da db) false) s
/-- `LE` with a constant in relational mode. -/
def execLeIR (dd da : DReg) (imm : Word) (s : State) : Host.Outcome State Fault Refusal :=
  syllable (relational (entryRRI 0xA3 dd da imm) false) s
/-- `LE` in relational mode, kept (R279). -/
def execLeRk (dd da db : DReg) (s : State) : Host.Outcome State Fault Refusal :=
  syllable (relational (entryRRR 0x23 dd da db) true) s
/-- `LE` with a constant in relational mode, kept. -/
def execLeIRk (dd da : DReg) (imm : Word) (s : State) : Host.Outcome State Fault Refusal :=
  syllable (relational (entryRRI 0xA3 dd da imm) true) s
/-- `ALLDIFF` (R280). -/
def execAlldiffR (dd : DReg) (imm : Word) (s : State) : Host.Outcome State Fault Refusal :=
  syllable (relational ⟨0x25, dd, 0, 0, imm⟩ false) s
/-- `ALLDIFF`, kept (R280). -/
def execAlldiffRk (dd : DReg) (imm : Word) (s : State) : Host.Outcome State Fault Refusal :=
  syllable (relational ⟨0x25, dd, 0, 0, imm⟩ true) s
/-- `DEXCL` of a register (R282). -/
def execDexcl (dd db : DReg) (s : State) : Host.Outcome State Fault Refusal := syllable (dexcl 0x32 dd (.inl db)) s
/-- `DEXCL` of a constant (R282). -/
def execDexclI (dd : DReg) (imm : Word) (s : State) : Host.Outcome State Fault Refusal := syllable (dexcl 0xB2 dd (.inr imm)) s

end Sys2Proof.Machine
end

