-- ==== Sys2Proof/Machine/Propagate.lean ====
section
/-!
DEFINITION. Propagation points, the trail and the marks (R285 to R292, R294): `PROP`, `CKPT`, `DPICK`, `RESTORE` and
`COMMIT`. In a bundle of several syllables a propagation point's runs come first (`Issue.phase` 1) and what follows them
comes in slot order (`phase` 2).
Also log entry 126 (the run limit of a resumed point).
-/

namespace Sys2Proof.Machine

/-- The limit on a point's runs: 0 is read as 65,536 (R285). -/
def Cons.runLimit (c : Cons) : Nat := if c.limit = 0 then 65536 else c.limit.toNat

/-- A narrowing that is seen at once: the register is written where it stands (R285, R288, R291). -/
def State.landNow (s : State) (r : DReg) (x : Dom) : State :=
  s.modCtx (fun c => c.land ⟨0, false, s.issue.slot, c.count, .d r x⟩)

/-- Apply a run's narrowings: they land before the next run reads them. -/
def applyRun (s : State) (ch : List (DReg × Dom × Dom)) : State :=
  ch.foldl (fun s c => (s.landNow c.1 c.2.2).modCtx (fun x => { x with cons := x.cons.narrowed c.1 c.2.1 })) s

/-- Set `PROPSTAT`.STATE. -/
def State.setPstate (s : State) (v : BitVec 3) : State := s.modCtx (fun c => { c with cons := { c.cons with pstate := v } })

/-- Run the queue with at most `n` steps more (R285). -/
def runQueue : Nat → State → Eff State
  | 0, s => .ok (s.setPstate 2)
  | n + 1, s =>
    match s.ctx.cons.queue with
    | [] => .ok (s.setPstate 1)
    | e :: rest =>
      if s.ctx.cons.runs.toNat == s.ctx.cons.runLimit then .ok (s.setPstate 2)
      else match s.ctx.cons.store[e]? with
        | none => runQueue n (s.modCtx (fun c => { c with cons := { c.cons with queue := rest } }))
        | some entry =>
          let base := s.ctx.regs.dom
          match passOf entry base with
          | .error r => fail entry.opc 1 r (BitVec.ofNat 8 e) (s.setPstate 3)
          | .ok env =>
            let ch := changedRegs entry.names base env
            if s.ctx.cons.trailFull ch.length then raise tTrailOvf s
            else runQueue n (applyRun (s.modCtx (fun c => { c with cons :=
              { c.cons with queue := rest, runs := c.cons.runs + 1 } })) ch)

/-- Registers that a propagation point reads: those its store names, when entries are pending. -/
def pointReads (s : State) : List DReg :=
  if s.ctx.cons.queue = [] then [] else s.ctx.cons.store.flatMap StoreEntry.names

/-- The runs of a propagation point (R285, R289): PROPCOUNT starts at 0 unless the point was interrupted. -/
def propagate (s : State) : Eff State :=
  let s := s.modCtx (fun c => { c with cons :=
    { c.cons with runs := if c.cons.pcont then c.cons.runs else 0, pcont := false, pstate := 4 } })
  runQueue (s.ctx.cons.runLimit + 1) s

/-- Among the syllables of its bundle a point's narrowings count as its slot's results (R187): they land again with the
results of the other slots. -/
def State.reland (s : State) (rs : List DReg) : State :=
  (rs.eraseDups.filter (fun r => s.ctx.regs.dom r != s.src.regs.dom r)).foldl (fun t r => t.write 1 (.d r (s.ctx.regs.dom r))) s

/-- A propagation point: its runs, then `fin` where they ended in FIXPOINT; BUDGET raises its trap after commit where
TRAPEN is set (R294). Each point of a bundle keeps its own outcome. -/
def point (pre : State → Eff Unit) (reads : List DReg) (fin : State → Eff State) (s : State) : Eff State := do
  notFw s
  landed s (reads ++ pointReads s)
  pre s
  let done := s.issue.phase = 2
  let names := reads ++ s.ctx.cons.store.flatMap StoreEntry.names
  let s ← if done then .ok s else propagate s
  let atFix := if done then s.issue.fixed.contains s.issue.slot else s.ctx.cons.pstate = 1
  if s.issue.phase = 1 then
    .ok (if atFix then { s with issue := { s.issue with fixed := s.issue.slot :: s.issue.fixed } } else s)
  else do
    let s ← if atFix then fin s
      else .ok (if s.ctx.cons.trapen then { s with issue := { s.issue with budget := true } } else s)
    .ok (if done then s.reland names else s)

/-- `CKPT` pushes a mark at a fixed point (R287). -/
def pushMark (s : State) : Eff State :=
  .ok (s.modCtx (fun c => { c with cons :=
    { c.cons with marks := c.cons.marks ++ [(c.cons.trail.length, c.cons.store.length)] } }))

/-- `DPICK` narrows dd to its lo at a fixed point (R288). -/
def pick (dd : DReg) (s : State) : Eff State :=
  let x := s.ctx.regs.dom dd
  if x.isSingle then .ok s
  else do
    need (!s.ctx.cons.trailFull 1) tTrailOvf s
    .ok (applyRun s [(dd, x, Dom.single x.lo)])

/-- Undo trail entries, the youngest first, until `n` are left (R291). -/
def undo (n : Nat) : List (DReg × Dom) → State → State
  | [], s => s
  | (r, old) :: rest, s =>
    if rest.length + 1 ≤ n then s
    else undo n rest ((s.landNow r old).modCtx (fun c => { c with cons := { c.cons with trail := rest } }))

/-- `RESTORE n` (R291). -/
def restore (n : Nat) (s : State) : Eff State := do
  notFw s
  match s.ctx.cons.marks[n]? with
  | none => raise tCkptOvf s
  | some (trail, store) =>
    let undone := s.ctx.cons.trail.take (s.ctx.cons.trail.length - trail)
    landed s (undone.map (·.1))
    let s := undo trail s.ctx.cons.trail s
    .ok (s.modCtx (fun c => { c with cons :=
      { c.cons with store := c.cons.store.take store, queue := [], marks := c.cons.marks.take n } }))

/-- `COMMIT` (R292). -/
def commitMark (s : State) : Eff State := do
  notFw s
  need (s.ctx.cons.marks ≠ []) tCkptOvf s
  .ok (s.modCtx (fun c => { c with cons :=
    { c.cons with marks := c.cons.marks.dropLast, trail := if c.cons.marks.length ≤ 1 then [] else c.cons.trail } }))

/-- `PROP` (R285, R286). -/
def execProp (s : State) : Host.Outcome State Fault Refusal := syllable (point (fun _ => .ok ()) [] .ok) s
/-- `CKPT` (R287): at depth 16 it raises CKPT_OVF before propagating. -/
def execCkpt (s : State) : Host.Outcome State Fault Refusal :=
  syllable (point (fun s => need (s.issue.phase = 2 || s.ctx.cons.marks.length < 16) tCkptOvf s) [] pushMark) s
/-- `DPICK` (R288). -/
def execDpick (dd : DReg) (s : State) : Host.Outcome State Fault Refusal :=
  syllable (point (fun _ => .ok ()) [dd] (pick dd)) s
/-- `RESTORE` (R291). -/
def execRestore (mark : Word) (s : State) : Host.Outcome State Fault Refusal := syllable (restore mark.toNat) s
/-- `COMMIT` (R292). -/
def execCommit (s : State) : Host.Outcome State Fault Refusal := syllable commitMark s

end Sys2Proof.Machine
end

