-- ==== Sys2Proof/Machine/Control.lean ====
section
/-!
DEFINITION. Class 001: split branches (R299 to R302), conditions (R303, R304), transfers (R305), loops broadcast to the
engines (R306, R307), events (R184, R308), `NOP` and `IDLE` (R312). Log entries: 19 (a table entry's fetch), 20 (`POST`).
Also log entry 88 (XTGT and XLB after a transfer).
-/

namespace Sys2Proof.Machine

/-! ### Targets (R301, R302) -/

/-- A target relative to the bundle: A + 8 × k modulo 2^48. -/
def relTarget (a : Addr) (k : Int) : Addr := BitVec.ofInt 48 (a.toNat + 8 * k)

/-- `PREP` (R301). -/
def prep (bt : BReg) (off : BitVec 34) (s : State) : Eff State :=
  .ok (s.write 3 (.b bt (relTarget s.src.pc off.toInt)))

/-- `PREPI`: Da is a singleton (R301). -/
def prepi (bt : BReg) (da : DReg) (k : BitVec 34) (s : State) : Eff State := do
  let a ← single s da
  .ok (s.write 3 (.b bt (relTarget s.src.pc (a.toInt + k.toInt))))

/-- A load of class 15 at CORE scope that the bundle waits for (R302, R310, R326): `n` bytes at an offset. -/
def loadHeld (s : State) (bd : BdReg) (off n align : Nat) : Eff (List Byte × State) := do
  let d := s.desc bd
  need ((d.base + off) % align = 0) tAlign s
  need (off + n ≤ d.len) tProt s
  let (bs, _, t) ← loadRange d (s.isFw && bd == 14) 15 0 s off n
  .ok (bs, t.dropGot)

/-- `PREPJ` (R302): an index at or past the count takes the default without a fetch. -/
def prepj (bt : BReg) (da : DReg) (bd : BdReg) (count : BitVec 14) (off : BitVec 20) (s : State) : Eff State := do
  let a ← single s da
  if count.toNat ≤ a.toNat then .ok (s.write 3 (.b bt (relTarget s.src.pc off.toInt)))
  else do
    let (bs, t) ← loadHeld s bd (8 * a.toNat) 8 8
    let e := BitVec.ofNat 64 (leNat bs)
    need (e.extractLsb' 48 16 == 0 && e.extractLsb' 0 3 == 0) tProt t
    .ok (t.write 3 (.b bt (e.extractLsb' 0 48)))

/-! ### Conditions (R303, R304) -/

/-- The relation codes of `CMP` and `CMPU` (R257). -/
def relTest (rel : BitVec 2) (x y : Int) : Bool :=
  match rel.toNat with
  | 0 => x == y
  | 1 => x < y
  | _ => x ≤ y

/-- `CMP` and `CMPU` on two values. -/
def compareTo (signed : Bool) (rel : BitVec 2) (neg : Bool) (c : CReg) (x y : Word) (s : State) : State :=
  s.write 1 (.c c (condBit (if signed then relTest rel x.toInt y.toInt else relTest rel x.toNat y.toNat) neg))

/-- Against a register. -/
def cmpReg (signed : Bool) (rel : BitVec 2) (neg : Bool) (c : CReg) (da db : DReg) (s : State) : Eff State := do
  let x ← single s da
  let y ← single s db
  .ok (compareTo signed rel neg c x y s)

/-- Against an immediate. -/
def cmpImm (signed : Bool) (rel : BitVec 2) (neg : Bool) (c : CReg) (da : DReg) (imm : Word) (s : State) : Eff State := do
  let x ← single s da
  .ok (compareTo signed rel neg c x imm s)

/-- `CMPD` (R304): a test of a domain and a value. -/
def cmpd (test : Dom → Word → Bool) (neg : Bool) (c : CReg) (da : DReg) (b : Eff Word) (s : State) : Eff State := do
  let v ← b
  .ok (s.write 1 (.c c (condBit (test (s.src.regs.dom da) v) neg)))

/-- HAS: is the value, read as signed, a member? -/
def testHas (a : Dom) (v : Word) : Bool := a.mem v.toInt
/-- WIDTH: are there at most w members, w unsigned? -/
def testWidth (a : Dom) (w : Word) : Bool := decide (a.size ≤ w.toNat)
/-- SINGLE: is the domain a singleton? -/
def testSingle (a : Dom) (_ : Word) : Bool := a.isSingle

/-! ### Transfers (R300, R305) -/

/-- A transfer instruction, `ERET`, `YIELD` or `RETIRE` in a delay window is ILLEGAL (R300). -/
def noWindow (s : State) : Eff Unit := need (s.src.window == 0) tIllegal s

/-- Ask the boundary for something. -/
def State.request (s : State) (a : After) : State := { s with issue := { s.issue with after := a } }

/-- Transfer to a target, or only open the delay window. -/
def transferIf (cond : Bool) (target : Addr) (link : Option BReg) (s : State) : State :=
  if cond then s.request (.transfer target link) else s.request .window

/-- `XFER` and `XFERL` (R305). -/
def xfer (bt : BReg) (link : Option BReg) (cond : State → Bool) (s : State) : Eff State := do
  noWindow s
  .ok (transferIf (cond s) (s.src.regs.target bt) link s)

/-- C[cidx] XOR N. -/
def condHolds (neg : Bool) (c : CReg) (s : State) : Bool := s.src.regs.cond c != neg

/-- `TRANSFER_TAKES_PLACE` (R299, R305): after the last delay bundle the context goes on at the target, and the link
register of a taken `XFERL` gets the address at which that delay bundle ended. -/
def Ctx.transferDone (c : Ctx) : Ctx :=
  let c' := if c.status.xlv then
      c.land ⟨0, false, 1, c.count, .b c.status.xlb c.pc⟩
    else c
  { c' with pc := c.status.xtgt ++ 0#3, due := false, taken := false
            status := { c.status with xdist := 0, xlv := false } }

/-- `TRANSFER_TAKES_PLACE` for the context `inp.who`, where its transfer is due. -/
def execTransferTakesPlace (s : State) : Host.Outcome State Fault Refusal :=
  .next (s.modCtxOf s.inp.who (fun c => if c.due then c.transferDone else c))

/-! ### Loops broadcast to the engines (R306, R307) -/

/-- Arm an engine with a count and its start skew, in cycle `now`; a loop that still runs goes on. -/
def Bcast.arm (b : Bcast) (n : Word) (skew : BitVec 8) (now : BitVec 64) : Bcast :=
  { b with armed := some n, skew := skew, armedAt := now, skewDone := skew == 0 }

/-- Does an engine hold an armed count it has not taken? -/
def Engine.armed (e : Engine) : Bool := e.bcast.armed.isSome

/-- `LOOPB` (R306). -/
def loopb (da : DReg) (mskew cskew : BitVec 8) (s : State) : Eff State := do
  userOnly s
  let n ← single s da
  match agentCore s.cur with
  | none => raise tIllegal s
  | some k =>
    waitFor (!((s.core k).mat.armed || (s.core k).cpy.armed)) s
    .ok (s.modCore k (fun c =>
      { c with mat := { c.mat with bcast := c.mat.bcast.arm n mskew s.cycle }
               cpy := { c.cpy with bcast := c.cpy.bcast.arm n cskew s.cycle } }))

/-- A broadcast loop of which `done` repetitions are completed is cut at repetition `k`. -/
def RepLevel.cut (r : RepLevel) (done k : Word) : RepLevel :=
  if r.bcast then
    { r with left := if k.toNat ≤ done.toNat + 1 then 1
                     else if k.toNat < done.toNat + r.left.toNat then k - done else r.left }
  else r

/-- End an engine's broadcast loops early (R307): of one that runs, repetitions below `k` and those already started are
completed; of one that is armed and not yet taken, those below `k`. -/
def Engine.cut (e : Engine) (k : Word) : Engine :=
  { e with
    bcast := { e.bcast with armed := e.bcast.armed.map (fun n => if k.toNat < n.toNat then k else n) }
    reps := if e.bcast.active then e.reps.map (fun r => r.cut e.bcast.done k) else e.reps }

/-- `LOOPCUT` at repetition `k`. -/
def loopcut (k : Eff Word) (s : State) : Eff State := do
  userOnly s
  let k ← k
  match agentCore s.cur with
  | none => raise tIllegal s
  | some n => .ok (s.modCore n (fun c => { c with mat := c.mat.cut k, cpy := c.cpy.cut k }))

/-! ### Events (R184, R308) -/

/-- An event number of this context: at most 31, in the firmware context at most 7 (R193, R308). -/
def eventOk (s : State) (k : Nat) : Bool := if s.isFw then k < 8 else k < 32

/-- The value of an event's count becomes one more; 255 is the caller's to check. -/
def State.bump (s : State) (a : Agent) (k : Nat) : State :=
  s.modCtxOf a (fun c => { c with regs := c.regs.setEvent k (c.regs.event k + 1) })

/-- `POST` (R184, R308): it waits until every earlier access has performed, and finds 255 as EVENT_OVF. -/
def post (k : Nat) (s : State) : Eff State := do
  need (eventOk s k) tIllegal s
  released s coreScope
  need (s.ctx.regs.event k != 255) tEventOvf s
  .ok (s.bump s.cur k)

/-- Does the context's bundle wait in an `AWAIT` of event `k`? It is served before the engines (R184). -/
def Ctx.awaitsEvent (c : Ctx) (k : Nat) : Bool := c.running && c.waits.awaits == some (k, c.count)

/-- `AWAIT` (R184, R308): it waits until the count is not 0, and takes one. -/
def await (k : Nat) (s : State) : Eff State := do
  need (eventOk s k) tIllegal s
  waitFor (s.ctx.regs.event k != 0) (s.modWaits (fun w => { w with awaits := some (k, s.ctx.count) }))
  .ok (s.modCtx (fun c => { c with regs := c.regs.setEvent k (c.regs.event k - 1) }))

/-! ### Meanings -/

/-- `NOP` (R312). -/
def execNop (s : State) : Host.Outcome State Fault Refusal := syllable .ok s
/-- `IDLE` (R312): the context issues nothing until an event is not zero. -/
def execIdle (s : State) : Host.Outcome State Fault Refusal := syllable (fun s => .ok (s.request .idle)) s
/-- `PREP` (R301). -/
def execPrep (bt : BReg) (off : BitVec 34) (s : State) : Host.Outcome State Fault Refusal := syllable (prep bt off) s
/-- `PREPI` (R301). -/
def execPrepi (bt : BReg) (da : DReg) (k : BitVec 34) (s : State) : Host.Outcome State Fault Refusal := syllable (prepi bt da k) s
/-- `PREPJ` (R302). -/
def execPrepj (bt : BReg) (da : DReg) (bd : BdReg) (count : BitVec 14) (off : BitVec 20) (s : State) : Host.Outcome State Fault Refusal :=
  syllable (prepj bt da bd count off) s
/-- `CMP` (R303). -/
def execCmp (rel : BitVec 2) (neg : Bool) (c : CReg) (da db : DReg) (s : State) : Host.Outcome State Fault Refusal :=
  syllable (cmpReg true rel neg c da db) s
/-- `CMP` with an immediate (R303). -/
def execCmpI (rel : BitVec 2) (neg : Bool) (c : CReg) (da : DReg) (imm : Word) (s : State) : Host.Outcome State Fault Refusal :=
  syllable (cmpImm true rel neg c da imm) s
/-- `CMPU` (R303). -/
def execCmpu (rel : BitVec 2) (neg : Bool) (c : CReg) (da db : DReg) (s : State) : Host.Outcome State Fault Refusal :=
  syllable (cmpReg false rel neg c da db) s
/-- `CMPU` with an immediate (R303). -/
def execCmpuI (rel : BitVec 2) (neg : Bool) (c : CReg) (da : DReg) (imm : Word) (s : State) : Host.Outcome State Fault Refusal :=
  syllable (cmpImm false rel neg c da imm) s
/-- `CMPD.SINGLE` (R304). -/
def execCmpdSingle (neg : Bool) (c : CReg) (da : DReg) (s : State) : Host.Outcome State Fault Refusal :=
  syllable (fun s => cmpd testSingle neg c da (.ok 0) s) s
/-- `CMPD.HAS` (R304). -/
def execCmpdHas (neg : Bool) (c : CReg) (da db : DReg) (s : State) : Host.Outcome State Fault Refusal :=
  syllable (fun s => cmpd testHas neg c da (single s db) s) s
/-- `CMPD.HAS` with an immediate (R304). -/
def execCmpdHasI (neg : Bool) (c : CReg) (da : DReg) (imm : Word) (s : State) : Host.Outcome State Fault Refusal :=
  syllable (fun s => cmpd testHas neg c da (.ok imm) s) s
/-- `CMPD.WIDTH` (R304). -/
def execCmpdWidth (neg : Bool) (c : CReg) (da db : DReg) (s : State) : Host.Outcome State Fault Refusal :=
  syllable (fun s => cmpd testWidth neg c da (single s db) s) s
/-- `CMPD.WIDTH` with an immediate (R304). -/
def execCmpdWidthI (neg : Bool) (c : CReg) (da : DReg) (imm : Word) (s : State) : Host.Outcome State Fault Refusal :=
  syllable (fun s => cmpd testWidth neg c da (.ok imm) s) s
/-- `XFER` (R305). -/
def execXfer (bt : BReg) (s : State) : Host.Outcome State Fault Refusal := syllable (xfer bt none (fun _ => true)) s
/-- `XFER` under a condition (R305). -/
def execXferC (bt : BReg) (neg : Bool) (c : CReg) (s : State) : Host.Outcome State Fault Refusal := syllable (xfer bt none (condHolds neg c)) s
/-- `XFERL` (R305). -/
def execXferl (bt bl : BReg) (s : State) : Host.Outcome State Fault Refusal := syllable (xfer bt (some bl) (fun _ => true)) s
/-- `XFERL` under a condition (R305). -/
def execXferlC (bt bl : BReg) (neg : Bool) (c : CReg) (s : State) : Host.Outcome State Fault Refusal := syllable (xfer bt (some bl) (condHolds neg c)) s
/-- `LOOPB` (R306). -/
def execLoopb (da : DReg) (mskew cskew : BitVec 8) (s : State) : Host.Outcome State Fault Refusal := syllable (loopb da mskew cskew) s
/-- `LOOPCUT` (R307). -/
def execLoopcut (da : DReg) (s : State) : Host.Outcome State Fault Refusal := syllable (fun s => loopcut (single s da) s) s
/-- `LOOPCUT` with a constant (R307). -/
def execLoopcutI (k : Word) (s : State) : Host.Outcome State Fault Refusal := syllable (loopcut (.ok k)) s
/-- `POST` (R308). -/
def execPost (k : EvNum) (s : State) : Host.Outcome State Fault Refusal := syllable (post k.toNat) s
/-- `POST` of an event named by a register (R308). -/
def execPostD (da : DReg) (s : State) : Host.Outcome State Fault Refusal := syllable (fun s => do post (← single s da).toNat s) s
/-- `AWAIT` (R308). -/
def execAwait (k : EvNum) (s : State) : Host.Outcome State Fault Refusal := syllable (await k.toNat) s
/-- `AWAIT` of an event named by a register (R308). -/
def execAwaitD (da : DReg) (s : State) : Host.Outcome State Fault Refusal := syllable (fun s => do await (← single s da).toNat s) s

end Sys2Proof.Machine
end

