-- ==== Sys2Proof/Machine/Tasks.lean ====
section
/-!
DEFINITION. Class 001: tasks (R309 to R311), traps and the return from one (R318 to R320): `SPAWN`, `YIELD`, `RETIRE`,
`TRAP`, `SYSCALL`, `ERET` and `BRK`. Log entries: 21 (a submitted control block), 22 (continuation slots).
Also log entry 89 (when BRK's DEBUG is taken).
-/

namespace Sys2Proof.Machine

/-- The memory operand of the M format of class 001 (R258): OFF addressing. -/
def operandM (bd : BdReg) (da : DReg) (imm : BitVec 20) : MemOp := ⟨false, 15, 0, .off, bd, da, imm⟩

/-- Are both engines of a core idle (R203)? -/
def Core.enginesIdle (c : Core) : Bool := c.mat.state == .idle && c.cpy.state == .idle

/-- A context's core has idle engines; a lookup core has none (R200). -/
def State.enginesIdle (s : State) : Bool :=
  match agentCore s.cur with
  | some k => (s.core k).enginesIdle
  | none => true

/-! ### `SPAWN` (R309) -/

/-- `SPAWN`: the control block's address is translated, and the distributor takes it up at once (`SPAWN_VALIDATE`). -/
def spawn (bd : BdReg) (da : DReg) (imm : BitVec 20) (s : State) : Eff State := do
  userOnly s
  let o ← offsetOf s (operandM bd da imm) 128 128
  let d := s.desc bd
  need ((d.base + o.off) % 128 = 0) tAlign s
  let (l, t) ← locate s false d o.off 128 (accRead ||| accWrite)
  need (!l.offPackage) tProt t
  atHome t l 128 false
  released t deviceScope
  .ok (t.push .spawnValidate
    { n := t.ctx.id.region.toNat, value := BitVec.zeroExtend 64 (physAddr l.key l.cell) })

/-! ### `YIELD` (R111, R112, R310) -/

/-- A yield request (R310). -/
structure YieldReq where
  live : BitVec 64
  nwait : Nat
  waits : List Byte
  /-- Are the reserved bytes zero? -/
  clean : Bool
  deriving DecidableEq, Repr

/-- A yield request's fields. -/
def YieldReq.ofBytes (b : List Byte) : YieldReq :=
  { live := BitVec.ofNat 64 (field b 0 8), nwait := field b 8 1, waits := (b.drop 16).take 48
    clean := field b 9 7 == 0 }

/-- The live registers of a request, in rising order. -/
def YieldReq.regs (r : YieldReq) : List Nat := (List.range 64).filter (fun i => r.live.getLsbD i)

/-- May the task yield with this request (R112, R310)? -/
def YieldReq.ok (r : YieldReq) (c : Ctx) : Bool :=
  r.clean && r.nwait ≤ 4 && !r.live.getLsbD 0 && r.regs.length ≤ 16
    && c.cons.store.isEmpty && c.cons.trail.isEmpty && c.cons.marks.isEmpty
    && (c.refine.phase == 0 || c.refine.phase == 4)

/-- The bits of a domain (R272). -/
def Dom.word (d : Dom) : BitVec 128 := d.lo ++ (d.hi ++ d.mask)
/-- A domain from its bits. -/
def Dom.ofWord (b : BitVec 128) : Dom := ⟨b.extractLsb' 96 32, b.extractLsb' 64 32, b.extractLsb' 0 64⟩

/-- Does an `LDR` land in one of these registers? -/
def Ldr.names (l : Ldr) (rs : List Nat) : Bool :=
  (l.live && rs.contains l.dd.toNat) || (l.liveHi && l.size == .d && rs.contains (l.dd.toNat + 1))

/-- A continuation record (R111). -/
def contRecord (pc : Addr) (region : BitVec 12) (prio : BitVec 4) (r : YieldReq) (pending : Nat) (regs : Regs) : List Byte :=
  let live := r.regs
  let dom (i : Nat) : BitVec 128 := match live[i]? with
    | some k => (regs.dom (BitVec.ofNat 6 k)).word
    | none => 0
  leBytes 8 pc.toNat ++ leBytes 2 region.toNat ++ [BitVec.ofNat 8 live.length, BitVec.ofNat 8 pending, BitVec.ofNat 8 r.nwait
    , BitVec.zeroExtend 8 prio, 0, 0] ++ leBytes 8 0 ++ r.waits
    ++ (List.range 16).map (fun i => BitVec.ofNat 8 (live.getD i 0)) ++ leBytes 8 0
    ++ (List.range 16).flatMap (fun i => leBytes 16 (dom i).toNat) ++ leBytes 32 0

/-- The lowest slot of a region's continuation pool that no waiting continuation stands in (log entry 22). -/
def RegionLife.nextSlot (l : RegionLife) : BitVec 52 :=
  let slot (i : Nat) : BitVec 52 := l.pool + BitVec.ofNat 52 (384 * i)
  slot (((List.range l.conts.length).find? (fun i => !l.conts.any (fun c => c.1 == slot i))).getD l.conts.length)

/-- The index of the instance that the context runs. -/
def State.instanceIndex (s : State) : Option Word :=
  match s.cur with
  | .user k => (s.core k).index
  | _ => none

/-- Write the record; `LDR`s to live registers then land in it, and the others are dropped. -/
def writeCont (r : YieldReq) (s : State) : State :=
  let c := s.ctx
  let g := c.id.region
  let life := s.life g
  let slot := life.nextSlot
  let (inRec, _) := c.ldrs.partition (fun l => l.slotOf.isNone && l.names r.regs)
  let old := c.ldrs.filter (·.slotOf.isSome)
  let next := c.pc + BitVec.ofNat 48 (8 * s.issue.len)
  let s := s.setBytesKey (physKey slot) (physCell slot) (contRecord next g c.id.prio r inRec.length s.src.regs)
  let s := s.setLife g { life with slots := life.slots + 1, conts := life.conts ++ [(slot, s.instanceIndex)] }
  s.modCtx (fun c => { c with ldrs := old ++ inRec.map (fun l => { l with slotOf := some slot }) })

/-- `YIELD` (R310). -/
def yield (bd : BdReg) (da : DReg) (imm : BitVec 20) (s : State) : Eff State := do
  notFw s
  noWindow s
  let o ← offsetOf s (operandM bd da imm) 64 16
  waitFor s.enginesIdle s
  let (bs, t) ← loadHeld s bd o.off 64 16
  let r := YieldReq.ofBytes bs
  need (r.ok t.ctx) tIllegal t
  released t deviceScope
  .ok ((writeCont r t).request .yield)

/-! ### `RETIRE` (R311) -/

/-- Is the quill FIFO of the context's core empty? A lookup core has none. -/
def State.quillEmpty (s : State) : Bool :=
  match agentCore s.cur with
  | some k => (s.core k).quill.fifo.isEmpty
  | none => true

/-- `RETIRE`: it waits for the engines, the `LDR`s, the quill and the release. -/
def retire (s : State) : Eff State := do
  notFw s
  noWindow s
  waitFor (s.enginesIdle && s.ctx.ldrs.all (·.slotOf.isSome) && s.quillEmpty) s
  released s deviceScope
  .ok (s.request .retire)

/-! ### Traps by instruction (R318 to R320) -/

/-- `TRAP k`: the trap is taken after the bundle commits. -/
def trapK (k : BitVec 16) (s : State) : Eff State :=
  .ok (s.request (.trap ⟨4, { code := tTrap, arg := k }, []⟩))

/-- `BRK k`: DEBUG after the bundle commits, with BRKHIT; a NOP without the debug capability. -/
def brk (k : BitVec 16) (s : State) : Eff State :=
  .ok (if s.debugCap then s.request (.trap ⟨5, { code := tDebug, arg := k, dbg := 2 }, []⟩) else s)

/-- The values of several registers that must be singletons. -/
def singles (s : State) : List DReg → Eff (List Word)
  | [] => .ok []
  | r :: rest => do
    let v ← single s r
    let vs ← singles s rest
    .ok (v :: vs)

/-- `SYSCALL k`: its arguments are read now; the request is posted when the trap is taken (`DEFERRED_TRAP`). -/
def sysCall (k : BitVec 16) (s : State) : Eff State := do
  userOnly s
  let vs ← singles s [8, 9, 10, 11, 12, 13, 14, 15]
  .ok (s.request (.trap ⟨3, { code := tSyscall, arg := k }, vs⟩))

/-- `ERET` (R318): it waits until every result issued since the trap has landed. -/
def eret (s : State) : Eff State := do
  need s.src.status.intrap tIllegal s
  noWindow s
  waitFor (!s.src.ldrs.any (fun l => l.alive && l.slotOf.isNone && s.src.trapAt ≤ l.count)) s
  waitFor (!s.src.pend.any (fun p => !p.frozen)) s.emptyBundle
  .ok (s.request .eret)

/-! ### Meanings -/

/-- `SPAWN` (R309). -/
def execSpawn (bd : BdReg) (da : DReg) (imm : BitVec 20) (s : State) : Host.Outcome State Fault Refusal := syllable (spawn bd da imm) s
/-- `YIELD` (R310). -/
def execYield (bd : BdReg) (da : DReg) (imm : BitVec 20) (s : State) : Host.Outcome State Fault Refusal := syllable (yield bd da imm) s
/-- `RETIRE` (R311). -/
def execRetire (s : State) : Host.Outcome State Fault Refusal := syllable retire s
/-- `TRAP` (R319). -/
def execTrap (k : BitVec 16) (s : State) : Host.Outcome State Fault Refusal := syllable (trapK k) s
/-- `SYSCALL` (R320). -/
def execSyscall (k : BitVec 16) (s : State) : Host.Outcome State Fault Refusal := syllable (sysCall k) s
/-- `ERET` (R318). -/
def execEret (s : State) : Host.Outcome State Fault Refusal := syllable eret s
/-- `BRK` (R319). -/
def execBrk (k : BitVec 16) (s : State) : Host.Outcome State Fault Refusal := syllable (brk k) s

end Sys2Proof.Machine
end

