-- ==== Sys2Proof/WellFormed.lean ====
section
/-!
DEFINITION. When an instruction is well formed: the limits that R254 to R270 put on fields which their width alone does
not give. A syllable or engine word that breaks one is no instruction (R254, R270).
-/

namespace Sys2Proof

/-- Does an addressing mode belong to the row's Modes column (R261)? -/
inductive ModeSet | offOnly | offPost | all
  deriving DecidableEq, Repr

namespace ModeSet

/-- Membership in the Modes column. -/
def admits : ModeSet → AMode → Bool
  | .offOnly, .off => true
  | .offOnly, _ => false
  | .offPost, .off => true
  | .offPost, .post => true
  | .offPost, _ => false
  | .all, _ => true

end ModeSet

/-- Scope codes 0b101–0b111 are reserved (R168). -/
def scopeOk (s : BitVec 3) : Bool := s.toNat ≤ 4

/-- A memory operand's own limits (R259, R260): the class field is zero when the descriptor gives the class, POST never
names D0, and WRAP leaves offreg and imm20 zero. -/
def MemOp.ok (m : MemOp) (modes : ModeSet) (hasClass : Bool) : Bool :=
  scopeOk m.scope && modes.admits m.mode
    && (if hasClass then !m.dc || m.oclass == 0 else !m.dc && m.oclass == 0)
    && (match m.mode with
        | .off => true
        | .post => m.off != 0
        | .idx _ => true
        | .wrap _ => m.off == 0 && m.imm == 0)

/-- The limits of an atomic's operand (R259, R262). -/
def AtomOp.ok (m : AtomOp) (cas : Bool) : Bool :=
  scopeOk m.scope && (!m.dc || m.oclass == 0) && (cas || !m.fail)

/-- An even register, as a pair operand needs (R254). -/
def evenReg (r : DReg) : Bool := r.toNat % 2 == 0

/-- The operation formats of class 100 arithmetic (R263, R264). -/
def arithFmt (f : BitVec 4) : Bool := f == 0 || f == 1 || f == 2 || f == 3 || f == 7
/-- The floating-point formats of `VFMA` and `VFMS`. -/
def floatFmt (f : BitVec 4) : Bool := f == 1 || f == 2 || f == 3
/-- The base formats of R224, `GLD` and `GFOLD` tags. -/
def baseFmt (t : BitVec 4) : Bool := t == 1 || t == 3 || t == 4 || t == 5 || t == 6

/-- The operand pairings of R214, by the format codes of R269. -/
def pairOk (f g : BitVec 3) : Bool :=
  (f.toNat ≤ 1 && g.toNat ≤ 1) || (f == 2 && g == 2) || (f == 3 && g == 3) || (f == 4 && g == 4)
/-- `MMAS` and `MMASP` take FP8 and FP4 only (R390). -/
def scaledPairOk (f g : BitVec 3) : Bool := pairOk f g && f.toNat ≤ 2

/-- Well-formedness of an instruction (R254 to R270). -/
def Instr.wf : Instr → Bool
  | .shlI _ _ k | .shrI _ _ k | .sraI _ _ k => k.toNat < 32
  | .sext _ _ w | .zext _ _ w => 1 ≤ w.toNat && w.toNat ≤ 32
  | .dmask _ _ h => h.toNat ≤ 1
  | .alldiffR dd n | .alldiffRk dd n => 2 ≤ n.toNat && n.toNat ≤ 8 && 1 ≤ dd.toNat && dd.toNat + n.toNat ≤ 64
  | .restore n => n.toNat ≤ 15
  | .cmp rel _ _ _ _ | .cmpI rel _ _ _ _ | .cmpu rel _ _ _ _ | .cmpuI rel _ _ _ _ => rel != 3
  | .bdset _ part _ => part.toNat ≤ 4
  | .ld z dd m => m.ok .all true && (z != .d || evenReg dd)
  | .st z ds m => m.ok .all true && (z != .d || evenReg ds)
  | .stn _ m k => m.ok .offPost true && k != 0
  | .ldr z dd m _ => m.ok .offPost true && (z != .d || evenReg dd)
  | .ldv _ m _ | .stv _ m _ => m.ok .offPost true
  | .ldvp _ m p => m.ok .offOnly true && p != 0
  | .gathv _ m _ | .scatv _ m _ => m.ok .offOnly true
  | .pagereq m | .prefetch _ m => m.ok .offOnly false
  | .sopen _ _ m dq => m.ok .offOnly false && dq.toNat ≤ 60
  | .wset _ m _ => m.ok .offOnly false
  | .amoAdd w dd m ds | .amoMin w dd m ds | .amoMax w dd m ds | .amoAnd w dd m ds | .amoOr w dd m ds
  | .amoXor w dd m ds | .amoSwap w dd m ds => m.ok false && (!w || (evenReg dd && evenReg ds))
  | .cas w dd m ds => m.ok true && (!w || (evenReg dd && evenReg ds))
  | .lda w d m | .stl w d m => m.ok .offOnly true && (!w || evenReg d)
  | .fence s _ => scopeOk s
  | .barwinit dt m _ => m.ok .offOnly false && evenReg dt
  | .barwadd _ m => m.ok false && (m.order == 0 || m.order == 2)
  | .barwwait _ m _ | .barwtry _ m _ => m.ok .offOnly false
  | .wqpush q m _ | .wqpop q m _ | .wqpopOne q m _ | .wqsteal q m _ => m.ok .offOnly false && q != 0
  | .lgather _ m n => m.ok .offOnly false && m.imm != 0 && m.off.toNat + n.toNat ≤ 63
  | .ldedup _ s dk n => s == 0 && dk.toNat + n.toNat ≤ 63
  | .lpool op _ s _ _ rsz => s == 0 && op != 3 && rsz != 0
  | .lhand _ m _ => m.ok .offOnly false && m.imm.toNat / 65536 ≤ 4
      && (m.imm.toNat / 65536 == 0 || m.imm.toNat % 16 == 0)
  | .vadd f _ _ _ _ | .vsub f _ _ _ _ | .vmul f _ _ _ _ | .vmin f _ _ _ _ | .vmax f _ _ _ _ => arithFmt f
  | .vabs f _ _ _ | .vneg f _ _ _ => arithFmt f
  | .vfma f _ _ _ _ _ | .vfms f _ _ _ _ _ => floatFmt f
  | .vshl f _ _ c _ | .vshr f _ _ c _ | .vsra f _ _ c _ => (f == 0 || f == 7) && (match c with
      | .tile _ => true
      | .const k => f == 0 || k.toNat < 8)
  | .vcmp rel f _ _ _ _ => rel.toNat ≤ 5 && arithFmt f
  | .vsplat f _ ds _ => arithFmt f && (f != 2 || evenReg ds)
  | .viota m _ _ => m != 3
  | .vcvt t _ _ _ => t.toNat ≤ 7
  | .vquant t vd vc _ => 4 ≤ t.toNat && t.toNat ≤ 6 && vd != vc
  | .vcompress vd vc _ => vd != vc
  | .vrotc _ _ k _ | .vbcc _ _ k _ => k.toNat < 16
  | .vredr op f _ _ _ | .vredc op f _ _ _ | .vscanr op f _ _ _ | .vscanc op f _ _ _ => op != 3 && arithFmt f
  | .estat _ _ item => item.toNat ≤ 4
  | .gfold _ _ _ _ _ _ tag => baseFmt tag
  | _ => true

end Sys2Proof
end

