-- ==== Sys2Proof/Decode.lean ====
section
/-!
DEFINITION. Decoding and encoding (R186, R253 to R271). A syllable's 64 bits are cut into the fields of its class's format
once; each format's opcode table then names the instruction, and every unused field must be zero. An engine word's 16 bits
are read by the table of its stream. The encoder is written from the same tables.
Log entries: 93 (the scope field of memory rows), 95 (the stream of the host's words).
-/

namespace Sys2Proof

/-- Format DR, class 000 (R253), without E and class. -/
structure RawDr where
  op : BitVec 8
  mode : BitVec 2
  dd : BitVec 6
  da : BitVec 6
  db : BitVec 6
  imm : BitVec 32
  deriving DecidableEq, Repr

/-- Format CT, class 001. -/
structure RawCt where
  op : BitVec 8
  n : BitVec 1
  c : BitVec 3
  bt : BitVec 2
  da : BitVec 6
  db : BitVec 6
  off : BitVec 34
  deriving DecidableEq, Repr

/-- Format MM, classes 010 and 011 (`hi` is the class's low bit); `dc` is bit 7 of the opcode and `op` its low seven. -/
structure RawMm where
  hi : BitVec 1
  dc : BitVec 1
  op : BitVec 7
  oclass : BitVec 4
  scope : BitVec 3
  amode : BitVec 3
  data : BitVec 6
  bd : BitVec 4
  off : BitVec 6
  ix : BitVec 6
  imm : BitVec 20
  deriving DecidableEq, Repr

/-- Format VV, classes 100 and 101. -/
structure RawVv where
  hi : BitVec 1
  op : BitVec 8
  vd : BitVec 4
  va : BitVec 4
  vb : BitVec 4
  vc : BitVec 4
  p : BitVec 3
  func : BitVec 4
  imm : BitVec 29
  deriving DecidableEq, Repr

/-- Format EQ, class 110. -/
structure RawEq where
  op : BitVec 8
  aux : BitVec 8
  opnd : BitVec 44
  deriving DecidableEq, Repr

/-- A syllable cut into the fields of its class; class 111 has no format (R254). -/
inductive Raw
  | dr (r : RawDr)
  | ct (r : RawCt)
  | mm (r : RawMm)
  | vv (r : RawVv)
  | eq (r : RawEq)
  deriving DecidableEq, Repr

/-- The 63 bits below E of a syllable. -/
def Raw.bits : Raw → BitVec 63
  | .dr r => 0#3 ++ (r.op ++ (r.mode ++ (r.dd ++ (r.da ++ (r.db ++ r.imm)))))
  | .ct r => 1#3 ++ (r.op ++ (r.n ++ (r.c ++ (r.bt ++ (r.da ++ (r.db ++ r.off))))))
  | .mm r => 1#2 ++ (r.hi ++ (r.dc ++ (r.op ++ (r.oclass ++ (r.scope ++ (r.amode ++ (r.data ++ (r.bd ++ (r.off
      ++ (r.ix ++ r.imm)))))))))) 
  | .vv r => 2#2 ++ (r.hi ++ (r.op ++ (r.vd ++ (r.va ++ (r.vb ++ (r.vc ++ (r.p ++ (r.func ++ r.imm))))))))
  | .eq r => 6#3 ++ (r.op ++ (r.aux ++ r.opnd))

/-- The fields of a syllable's low 63 bits, by its class in bits [62:60] (R253). -/
def Raw.ofBits (w : BitVec 63) : Option Raw :=
  match (w.extractLsb' 60 3).toNat with
  | 0 => some (.dr ⟨w.extractLsb' 52 8, w.extractLsb' 50 2, w.extractLsb' 44 6, w.extractLsb' 38 6, w.extractLsb' 32 6,
      w.extractLsb' 0 32⟩)
  | 1 => some (.ct ⟨w.extractLsb' 52 8, w.extractLsb' 51 1, w.extractLsb' 48 3, w.extractLsb' 46 2, w.extractLsb' 40 6,
      w.extractLsb' 34 6, w.extractLsb' 0 34⟩)
  | 2 | 3 => some (.mm ⟨w.extractLsb' 60 1, w.extractLsb' 59 1, w.extractLsb' 52 7, w.extractLsb' 48 4,
      w.extractLsb' 45 3, w.extractLsb' 42 3, w.extractLsb' 36 6, w.extractLsb' 32 4, w.extractLsb' 26 6,
      w.extractLsb' 20 6, w.extractLsb' 0 20⟩)
  | 4 | 5 => some (.vv ⟨w.extractLsb' 60 1, w.extractLsb' 52 8, w.extractLsb' 48 4, w.extractLsb' 44 4,
      w.extractLsb' 40 4, w.extractLsb' 36 4, w.extractLsb' 33 3, w.extractLsb' 29 4, w.extractLsb' 0 29⟩)
  | 6 => some (.eq ⟨w.extractLsb' 52 8, w.extractLsb' 44 8, w.extractLsb' 0 44⟩)
  | _ => none

/-- An instruction, when its row's unused fields are zero. -/
def rowIf (b : Bool) (i : Instr) : Option Instr := if b then some i else none

/-- The code of a system register (R267). -/
def SysReg.code : SysReg → BitVec 10
  | .status => 0x000 | .trapcode => 0x001 | .trappc => 0x002 | .trapvec => 0x003 | .failvec => 0x004
  | .failinfo => 0x005 | .propbudget => 0x006 | .propstat => 0x007 | .propcount => 0x008 | .ckptdepth => 0x009
  | .trailtop => 0x00A | .ctxid => 0x00B | .groupid => 0x00C | .regionid => 0x00D | .pasid => 0x00E | .prio => 0x00F
  | .fwshare => 0x010 | .cycle => 0x013 | .ptime => 0x014 | .evpending => 0x015 | .leasestat => 0x016
  | .mgovstat => 0x017 | .swthrottle => 0x018 | .rflevel => 0x019 | .rfiter => 0x01A | .rfstate => 0x01B
  | .tracectl => 0x01E | .debugctl => 0x01F | .replayctl => 0x020
  | .bkpt n => 5#7 ++ n

/-- The system register a code names; an unlisted code names none (R267). -/
def SysReg.ofCode (c : BitVec 10) : Option SysReg :=
  match c.toNat with
  | 0x000 => some .status | 0x001 => some .trapcode | 0x002 => some .trappc | 0x003 => some .trapvec
  | 0x004 => some .failvec | 0x005 => some .failinfo | 0x006 => some .propbudget | 0x007 => some .propstat
  | 0x008 => some .propcount | 0x009 => some .ckptdepth | 0x00A => some .trailtop | 0x00B => some .ctxid
  | 0x00C => some .groupid | 0x00D => some .regionid | 0x00E => some .pasid | 0x00F => some .prio
  | 0x010 => some .fwshare | 0x013 => some .cycle | 0x014 => some .ptime | 0x015 => some .evpending
  | 0x016 => some .leasestat | 0x017 => some .mgovstat | 0x018 => some .swthrottle | 0x019 => some .rflevel
  | 0x01A => some .rfiter | 0x01B => some .rfstate | 0x01E => some .tracectl | 0x01F => some .debugctl
  | 0x020 => some .replayctl
  | 0x028 => some (.bkpt 0) | 0x029 => some (.bkpt 1) | 0x02A => some (.bkpt 2) | 0x02B => some (.bkpt 3)
  | 0x02C => some (.bkpt 4) | 0x02D => some (.bkpt 5) | 0x02E => some (.bkpt 6) | 0x02F => some (.bkpt 7)
  | _ => none

/-! ### Class 000 (R255, R256) -/

/-- The instruction of a class 000 syllable (R256): the mode picks the form of the opcode. -/
def decodeDr (r : RawDr) : Option Instr :=
  match r.op.toNat, r.mode.toNat with
  | 0x00, 0 => rowIf (r.imm == 0) (.add r.dd r.da r.db)
  | 0x00, 1 => rowIf (r.imm == 0) (.addR r.dd r.da r.db)
  | 0x00, 3 => rowIf (r.imm == 0) (.addRk r.dd r.da r.db)
  | 0x01, 0 => rowIf (r.imm == 0) (.sub r.dd r.da r.db)
  | 0x01, 1 => rowIf (r.imm == 0) (.subR r.dd r.da r.db)
  | 0x01, 3 => rowIf (r.imm == 0) (.subRk r.dd r.da r.db)
  | 0x02, 0 => rowIf (r.imm == 0) (.mul r.dd r.da r.db)
  | 0x02, 1 => rowIf (r.imm == 0) (.mulR r.dd r.da r.db)
  | 0x02, 3 => rowIf (r.imm == 0) (.mulRk r.dd r.da r.db)
  | 0x03, 0 => rowIf (r.imm == 0) (.min r.dd r.da r.db)
  | 0x03, 1 => rowIf (r.imm == 0) (.minR r.dd r.da r.db)
  | 0x03, 3 => rowIf (r.imm == 0) (.minRk r.dd r.da r.db)
  | 0x04, 0 => rowIf (r.imm == 0) (.max r.dd r.da r.db)
  | 0x04, 1 => rowIf (r.imm == 0) (.maxR r.dd r.da r.db)
  | 0x04, 3 => rowIf (r.imm == 0) (.maxRk r.dd r.da r.db)
  | 0x05, 0 => rowIf (r.db == 0 && r.imm == 0) (.abs r.dd r.da)
  | 0x05, 1 => rowIf (r.db == 0 && r.imm == 0) (.absR r.dd r.da)
  | 0x05, 3 => rowIf (r.db == 0 && r.imm == 0) (.absRk r.dd r.da)
  | 0x06, 0 => rowIf (r.db == 0 && r.imm == 0) (.neg r.dd r.da)
  | 0x06, 1 => rowIf (r.db == 0 && r.imm == 0) (.negR r.dd r.da)
  | 0x06, 3 => rowIf (r.db == 0 && r.imm == 0) (.negRk r.dd r.da)
  | 0x07, 0 => rowIf (r.db == 0 && r.imm == 0) (.mov r.dd r.da)
  | 0x07, 1 => rowIf (r.db == 0 && r.imm == 0) (.movR r.dd r.da)
  | 0x07, 3 => rowIf (r.db == 0 && r.imm == 0) (.movRk r.dd r.da)
  | 0x08, 0 => rowIf (r.imm == 0) (.mulh r.dd r.da r.db)
  | 0x09, 0 => rowIf (r.imm == 0) (.div r.dd r.da r.db)
  | 0x0A, 0 => rowIf (r.imm == 0) (.rem r.dd r.da r.db)
  | 0x10, 0 => rowIf (r.imm == 0) (.and r.dd r.da r.db)
  | 0x11, 0 => rowIf (r.imm == 0) (.or r.dd r.da r.db)
  | 0x12, 0 => rowIf (r.imm == 0) (.xor r.dd r.da r.db)
  | 0x13, 0 => rowIf (r.imm == 0) (.andn r.dd r.da r.db)
  | 0x14, 0 => rowIf (r.imm == 0) (.shl r.dd r.da r.db)
  | 0x15, 0 => rowIf (r.imm == 0) (.shr r.dd r.da r.db)
  | 0x16, 0 => rowIf (r.imm == 0) (.sra r.dd r.da r.db)
  | 0x17, 0 => rowIf (r.db == 0 && r.imm == 0) (.clz r.dd r.da)
  | 0x18, 0 => rowIf (r.db == 0 && r.imm == 0) (.popc r.dd r.da)
  | 0x19, 0 => rowIf (r.db == 0) (.sext r.dd r.da r.imm)
  | 0x1A, 0 => rowIf (r.db == 0) (.zext r.dd r.da r.imm)
  | 0x1B, 0 => rowIf (r.da == 0 && r.db == 0) (.movi r.dd r.imm)
  | 0x20, 0 => rowIf (r.imm == 0) (.eq r.dd r.da r.db)
  | 0x20, 1 => rowIf (r.imm == 0) (.eqR r.dd r.da r.db)
  | 0x20, 3 => rowIf (r.imm == 0) (.eqRk r.dd r.da r.db)
  | 0x21, 0 => rowIf (r.imm == 0) (.ne r.dd r.da r.db)
  | 0x21, 1 => rowIf (r.imm == 0) (.neR r.dd r.da r.db)
  | 0x21, 3 => rowIf (r.imm == 0) (.neRk r.dd r.da r.db)
  | 0x22, 0 => rowIf (r.imm == 0) (.lt r.dd r.da r.db)
  | 0x22, 1 => rowIf (r.imm == 0) (.ltR r.dd r.da r.db)
  | 0x22, 3 => rowIf (r.imm == 0) (.ltRk r.dd r.da r.db)
  | 0x23, 0 => rowIf (r.imm == 0) (.le r.dd r.da r.db)
  | 0x23, 1 => rowIf (r.imm == 0) (.leR r.dd r.da r.db)
  | 0x23, 3 => rowIf (r.imm == 0) (.leRk r.dd r.da r.db)
  | 0x24, 1 => rowIf (r.db == 0 && r.imm == 0) (.inR r.dd r.da)
  | 0x24, 3 => rowIf (r.db == 0 && r.imm == 0) (.inRk r.dd r.da)
  | 0x25, 1 => rowIf (r.da == 0 && r.db == 0) (.alldiffR r.dd r.imm)
  | 0x25, 3 => rowIf (r.da == 0 && r.db == 0) (.alldiffRk r.dd r.imm)
  | 0x30, 0 => rowIf (r.imm == 0) (.dset r.dd r.da r.db)
  | 0x31, 0 => rowIf (r.da == 0 && r.db == 0 && r.imm == 0) (.dfull r.dd)
  | 0x32, 0 => rowIf (r.da == 0 && r.imm == 0) (.dexcl r.dd r.db)
  | 0x33, 0 => rowIf (r.db == 0) (.dmask r.dd r.da r.imm)
  | 0x34, 0 => rowIf (r.db == 0 && r.imm == 0) (.dlo r.dd r.da)
  | 0x35, 0 => rowIf (r.db == 0 && r.imm == 0) (.dhi r.dd r.da)
  | 0x36, 0 => rowIf (r.db == 0 && r.imm == 0) (.dsize r.dd r.da)
  | 0x37, 0 => rowIf (r.da == 0 && r.db == 0 && r.imm == 0) (.dpick r.dd)
  | 0x38, 0 => rowIf (r.dd == 0 && r.da == 0 && r.db == 0 && r.imm == 0) (.prop)
  | 0x39, 0 => rowIf (r.dd == 0 && r.da == 0 && r.db == 0 && r.imm == 0) (.ckpt)
  | 0x3A, 0 => rowIf (r.dd == 0 && r.da == 0 && r.db == 0) (.restore r.imm)
  | 0x3B, 0 => rowIf (r.dd == 0 && r.da == 0 && r.db == 0 && r.imm == 0) (.commit)
  | 0x80, 0 => rowIf (r.db == 0) (.addI r.dd r.da r.imm)
  | 0x80, 1 => rowIf (r.db == 0) (.addIR r.dd r.da r.imm)
  | 0x80, 3 => rowIf (r.db == 0) (.addIRk r.dd r.da r.imm)
  | 0x81, 0 => rowIf (r.db == 0) (.subI r.dd r.da r.imm)
  | 0x81, 1 => rowIf (r.db == 0) (.subIR r.dd r.da r.imm)
  | 0x81, 3 => rowIf (r.db == 0) (.subIRk r.dd r.da r.imm)
  | 0x82, 0 => rowIf (r.db == 0) (.mulI r.dd r.da r.imm)
  | 0x82, 1 => rowIf (r.db == 0) (.mulIR r.dd r.da r.imm)
  | 0x82, 3 => rowIf (r.db == 0) (.mulIRk r.dd r.da r.imm)
  | 0x83, 0 => rowIf (r.db == 0) (.minI r.dd r.da r.imm)
  | 0x83, 1 => rowIf (r.db == 0) (.minIR r.dd r.da r.imm)
  | 0x83, 3 => rowIf (r.db == 0) (.minIRk r.dd r.da r.imm)
  | 0x84, 0 => rowIf (r.db == 0) (.maxI r.dd r.da r.imm)
  | 0x84, 1 => rowIf (r.db == 0) (.maxIR r.dd r.da r.imm)
  | 0x84, 3 => rowIf (r.db == 0) (.maxIRk r.dd r.da r.imm)
  | 0x88, 0 => rowIf (r.db == 0) (.mulhI r.dd r.da r.imm)
  | 0x89, 0 => rowIf (r.db == 0) (.divI r.dd r.da r.imm)
  | 0x8A, 0 => rowIf (r.db == 0) (.remI r.dd r.da r.imm)
  | 0x90, 0 => rowIf (r.db == 0) (.andI r.dd r.da r.imm)
  | 0x91, 0 => rowIf (r.db == 0) (.orI r.dd r.da r.imm)
  | 0x92, 0 => rowIf (r.db == 0) (.xorI r.dd r.da r.imm)
  | 0x93, 0 => rowIf (r.db == 0) (.andnI r.dd r.da r.imm)
  | 0x94, 0 => rowIf (r.db == 0) (.shlI r.dd r.da r.imm)
  | 0x95, 0 => rowIf (r.db == 0) (.shrI r.dd r.da r.imm)
  | 0x96, 0 => rowIf (r.db == 0) (.sraI r.dd r.da r.imm)
  | 0xA0, 0 => rowIf (r.db == 0) (.eqI r.dd r.da r.imm)
  | 0xA0, 1 => rowIf (r.db == 0) (.eqIR r.dd r.da r.imm)
  | 0xA0, 3 => rowIf (r.db == 0) (.eqIRk r.dd r.da r.imm)
  | 0xA1, 0 => rowIf (r.db == 0) (.neI r.dd r.da r.imm)
  | 0xA1, 1 => rowIf (r.db == 0) (.neIR r.dd r.da r.imm)
  | 0xA1, 3 => rowIf (r.db == 0) (.neIRk r.dd r.da r.imm)
  | 0xA2, 0 => rowIf (r.db == 0) (.ltI r.dd r.da r.imm)
  | 0xA2, 1 => rowIf (r.db == 0) (.ltIR r.dd r.da r.imm)
  | 0xA2, 3 => rowIf (r.db == 0) (.ltIRk r.dd r.da r.imm)
  | 0xA3, 0 => rowIf (r.db == 0) (.leI r.dd r.da r.imm)
  | 0xA3, 1 => rowIf (r.db == 0) (.leIR r.dd r.da r.imm)
  | 0xA3, 3 => rowIf (r.db == 0) (.leIRk r.dd r.da r.imm)
  | 0xB2, 0 => rowIf (r.da == 0 && r.db == 0) (.dexclI r.dd r.imm)
  | _, _ => none

/-! ### Class 001 (R257, R258) -/

/-- The instruction of a class 001 syllable (R258). `cmpReg`, `cmpImm` and `mem` are the three shared shapes of operands. -/
def decodeCt (r : RawCt) : Option Instr :=
  let nc := r.n == 0 && r.c == 0
  let bare := nc && r.bt == 0 && r.da == 0 && r.db == 0
  let none0 := bare && r.off == 0
  let off32 := r.off.extractLsb' 0 32
  let imm32 := r.off.extractLsb' 32 2 == 0
  let neg := r.n == 1
  let mem := nc && r.bt == 0 && r.db.extractLsb' 4 2 == 0 && r.off.extractLsb' 20 14 == 0
  let bd := r.db.extractLsb' 0 4
  let imm20 := r.off.extractLsb' 0 20
  match r.op.toNat with
  | 0x00 => rowIf none0 .nop
  | 0x01 => rowIf (nc && r.da == 0 && r.db == 0) (.prep r.bt r.off)
  | 0x02 => rowIf (nc && r.db == 0) (.prepi r.bt r.da r.off)
  | 0x03 => rowIf (nc && r.db.extractLsb' 4 2 == 0) (.prepj r.bt r.da bd (r.off.extractLsb' 20 14) imm20)
  | 0x04 => rowIf (r.off == 0) (.cmp r.bt neg r.c r.da r.db)
  | 0x05 => rowIf (r.db == 0 && imm32) (.cmpI r.bt neg r.c r.da off32)
  | 0x06 => rowIf (r.off == 0) (.cmpu r.bt neg r.c r.da r.db)
  | 0x07 => rowIf (r.db == 0 && imm32) (.cmpuI r.bt neg r.c r.da off32)
  | 0x08 => match r.bt.toNat with
    | 0 => rowIf (r.db == 0 && r.off == 0) (.cmpdSingle neg r.c r.da)
    | 1 => rowIf (r.off == 0) (.cmpdHas neg r.c r.da r.db)
    | 2 => rowIf (r.off == 0) (.cmpdWidth neg r.c r.da r.db)
    | _ => none
  | 0x09 => match r.bt.toNat with
    | 1 => rowIf (r.db == 0 && imm32) (.cmpdHasI neg r.c r.da off32)
    | 2 => rowIf (r.db == 0 && imm32) (.cmpdWidthI neg r.c r.da off32)
    | _ => none
  | 0x10 => rowIf (nc && r.da == 0 && r.db == 0 && r.off == 0) (.xfer r.bt)
  | 0x11 => rowIf (r.da == 0 && r.db == 0 && r.off == 0) (.xferC r.bt neg r.c)
  | 0x12 => rowIf (nc && r.da.extractLsb' 2 4 == 0 && r.db == 0 && r.off == 0) (.xferl r.bt (r.da.extractLsb' 0 2))
  | 0x13 => rowIf (r.da.extractLsb' 2 4 == 0 && r.db == 0 && r.off == 0) (.xferlC r.bt (r.da.extractLsb' 0 2) neg r.c)
  | 0x18 => rowIf (nc && r.bt == 0 && r.db == 0 && r.off.extractLsb' 0 18 == 0)
      (.loopb r.da (r.off.extractLsb' 26 8) (r.off.extractLsb' 18 8))
  | 0x19 => rowIf (nc && r.bt == 0 && r.db == 0 && r.off == 0) (.loopcut r.da)
  | 0x1A => rowIf (bare && imm32) (.loopcutI off32)
  | 0x20 => rowIf (nc && r.bt == 0 && r.db == 0 && r.off == 0) (.postD r.da)
  | 0x21 => rowIf (bare && r.off.extractLsb' 5 29 == 0) (.post (r.off.extractLsb' 0 5))
  | 0x22 => rowIf (nc && r.bt == 0 && r.db == 0 && r.off == 0) (.awaitD r.da)
  | 0x23 => rowIf (bare && r.off.extractLsb' 5 29 == 0) (.await (r.off.extractLsb' 0 5))
  | 0x28 => rowIf mem (.spawn bd r.da imm20)
  | 0x29 => rowIf mem (.yield bd r.da imm20)
  | 0x2A => rowIf none0 .retire
  | 0x30 => rowIf (bare && r.off.extractLsb' 16 18 == 0) (.trap (r.off.extractLsb' 0 16))
  | 0x31 => rowIf (bare && r.off.extractLsb' 16 18 == 0) (.syscall (r.off.extractLsb' 0 16))
  | 0x32 => rowIf none0 .eret
  | 0x33 => match SysReg.ofCode (r.off.extractLsb' 0 10) with
    | some s => rowIf (nc && r.bt == 0 && r.db == 0 && r.off.extractLsb' 11 23 == 0)
        (.mfsr r.da s (r.off.extractLsb' 10 1 == 1))
    | none => none
  | 0x34 => match SysReg.ofCode (r.off.extractLsb' 0 10) with
    | some s => rowIf (nc && r.bt == 0 && r.off.extractLsb' 10 24 == 0) (.mtsr s r.da r.db)
    | none => none
  | 0x35 => rowIf (nc && r.bt == 0 && r.db == 0 && r.off.extractLsb' 7 27 == 0)
      (.bdset (r.off.extractLsb' 0 4) (r.off.extractLsb' 4 3) r.da)
  | 0x36 => rowIf (nc && r.bt == 0 && r.off == 0) (.temit r.da r.db)
  | 0x37 => rowIf (bare && r.off.extractLsb' 16 18 == 0) (.brk (r.off.extractLsb' 0 16))
  | 0x38 => rowIf none0 .idle
  | 0x40 => rowIf mem (.rfbegin bd r.da imm20)
  | 0x41 => rowIf none0 .rfnext
  | 0x42 => rowIf (bare && r.off.extractLsb' 4 30 == 0) (.rftest (r.off.extractLsb' 0 4))
  | 0x43 => rowIf none0 .rfend
  | _ => none

/-! ### Classes 010 and 011 (R259 to R262) -/

/-- The memory operand of a row whose ix field is an operand of its own; `ixFree` says that a mode may use ix. -/
def RawMm.mem (r : RawMm) : MemOp :=
  { dc := r.dc == 1, oclass := r.oclass, scope := r.scope, bd := r.bd, off := r.off, imm := r.imm
    mode := match r.amode.toNat with
      | 0 => .off
      | 1 => .post
      | 2 => .idx r.ix
      | _ => .wrap (r.ix.extractLsb' 0 3) }

/-- The order field of an atomic stands in amode (R259). -/
def RawMm.atom (r : RawMm) : AtomOp :=
  { dc := r.dc == 1, oclass := r.oclass, scope := r.scope, bd := r.bd, off := r.off, imm := r.imm
    fail := r.amode.extractLsb' 2 1 == 1, order := r.amode.extractLsb' 0 2 }

/-- amode 0b000 to 0b011, and an ix the mode leaves free is zero (R260). -/
def RawMm.modeIx (r : RawMm) : Bool :=
  match r.amode.toNat with
  | 0 | 1 => r.ix == 0
  | 2 => true
  | 3 => r.ix.extractLsb' 3 3 == 0
  | _ => false

/-- amode OFF or POST, so that ix holds the row's own operand. -/
def RawMm.offPost (r : RawMm) : Bool := r.amode.toNat ≤ 1

/-- The instruction of a class 010 syllable (R261). -/
def decodeM2 (r : RawMm) : Option Instr :=
  let v := r.data.extractLsb' 0 4
  let v0 := r.data.extractLsb' 4 2 == 0
  let d3 := r.data.extractLsb' 0 3
  let d30 := r.data.extractLsb' 3 3 == 0
  let ix3 := r.ix.extractLsb' 0 3
  let ix30 := r.ix.extractLsb' 3 3 == 0
  let noMem := r.dc == 0 && r.oclass == 0 && r.scope == 0 && r.amode == 0 && r.bd == 0 && r.off == 0 && r.imm == 0
  let off := r.amode == 0
  match r.op.toNat with
  | 0x00 => rowIf r.modeIx (.ld .b r.data r.mem)
  | 0x01 => rowIf r.modeIx (.ld .h r.data r.mem)
  | 0x02 => rowIf r.modeIx (.ld .w r.data r.mem)
  | 0x03 => rowIf r.modeIx (.ld .d r.data r.mem)
  | 0x04 => rowIf r.modeIx (.ld .bu r.data r.mem)
  | 0x05 => rowIf r.modeIx (.ld .hu r.data r.mem)
  | 0x08 => rowIf r.modeIx (.st .b r.data r.mem)
  | 0x09 => rowIf r.modeIx (.st .h r.data r.mem)
  | 0x0A => rowIf r.modeIx (.st .w r.data r.mem)
  | 0x0B => rowIf r.modeIx (.st .d r.data r.mem)
  | 0x0C => rowIf (r.offPost && r.ix.extractLsb' 2 4 == 0) (.stn r.data r.mem (r.ix.extractLsb' 0 2))
  | 0x10 => rowIf (r.offPost && r.ix.extractLsb' 5 1 == 0) (.ldr .b r.data r.mem (r.ix.extractLsb' 0 5))
  | 0x11 => rowIf (r.offPost && r.ix.extractLsb' 5 1 == 0) (.ldr .h r.data r.mem (r.ix.extractLsb' 0 5))
  | 0x12 => rowIf (r.offPost && r.ix.extractLsb' 5 1 == 0) (.ldr .w r.data r.mem (r.ix.extractLsb' 0 5))
  | 0x13 => rowIf (r.offPost && r.ix.extractLsb' 5 1 == 0) (.ldr .d r.data r.mem (r.ix.extractLsb' 0 5))
  | 0x14 => rowIf (r.offPost && r.ix.extractLsb' 5 1 == 0) (.ldr .bu r.data r.mem (r.ix.extractLsb' 0 5))
  | 0x15 => rowIf (r.offPost && r.ix.extractLsb' 5 1 == 0) (.ldr .hu r.data r.mem (r.ix.extractLsb' 0 5))
  | 0x18 => rowIf (r.offPost && v0) (.ldv v r.mem r.ix)
  | 0x19 => rowIf (r.offPost && v0) (.stv v r.mem r.ix)
  | 0x1A => rowIf (off && v0 && ix30) (.ldvp v r.mem ix3)
  | 0x1B => rowIf (off && v0 && r.ix.extractLsb' 4 2 == 0) (.gathv v r.mem (r.ix.extractLsb' 0 4))
  | 0x1C => rowIf (off && v0 && r.ix.extractLsb' 4 2 == 0) (.scatv v r.mem (r.ix.extractLsb' 0 4))
  | 0x20 => rowIf (off && r.data == 0 && r.ix == 0) (.pagereq r.mem)
  | 0x21 => rowIf (off && r.ix == 0) (.prefetch r.data r.mem)
  | 0x28 => rowIf (off && r.data.extractLsb' 5 1 == 0) (.sopen (r.data.extractLsb' 3 2) d3 r.mem r.ix)
  | 0x29 => rowIf (noMem && d30) (.sadv d3 r.ix)
  | 0x2A => rowIf (noMem && ix30) (.sget r.data ix3)
  | 0x2B => rowIf (noMem && v0 && ix30) (.vsget v ix3)
  | 0x2C => rowIf (noMem && d30 && ix30) (.stend d3 ix3)
  | 0x2D => rowIf (noMem && d30 && r.ix == 0) (.sclose d3)
  | 0x30 => rowIf (off && d30) (.wset d3 r.mem r.ix)
  | _ => none

/-- The instruction of a class 011 syllable (R262). -/
def decodeM3 (r : RawMm) : Option Instr :=
  let ix3 := r.ix.extractLsb' 0 3
  let ix30 := r.ix.extractLsb' 3 3 == 0
  let q := r.data.extractLsb' 2 4
  let q0 := r.data.extractLsb' 0 2 == 0
  let off := r.amode == 0
  match r.op.toNat with

  | 0x00 => some (.amoAdd false r.data r.atom r.ix)
  | 0x08 => some (.amoAdd true r.data r.atom r.ix)
  | 0x01 => some (.amoMin false r.data r.atom r.ix)
  | 0x09 => some (.amoMin true r.data r.atom r.ix)
  | 0x02 => some (.amoMax false r.data r.atom r.ix)
  | 0x0A => some (.amoMax true r.data r.atom r.ix)
  | 0x03 => some (.amoAnd false r.data r.atom r.ix)
  | 0x0B => some (.amoAnd true r.data r.atom r.ix)
  | 0x04 => some (.amoOr false r.data r.atom r.ix)
  | 0x0C => some (.amoOr true r.data r.atom r.ix)
  | 0x05 => some (.amoXor false r.data r.atom r.ix)
  | 0x0D => some (.amoXor true r.data r.atom r.ix)
  | 0x06 => some (.amoSwap false r.data r.atom r.ix)
  | 0x0E => some (.amoSwap true r.data r.atom r.ix)
  | 0x07 => some (.cas false r.data r.atom r.ix)
  | 0x0F => some (.cas true r.data r.atom r.ix)
  | 0x12 => rowIf (off && r.ix == 0) (.lda false r.data r.mem)
  | 0x13 => rowIf (off && r.ix == 0) (.lda true r.data r.mem)
  | 0x1A => rowIf (off && r.ix == 0) (.stl false r.data r.mem)
  | 0x1B => rowIf (off && r.ix == 0) (.stl true r.data r.mem)
  | 0x20 => rowIf (r.dc == 0 && r.oclass == 0 && off && r.data == 0 && r.bd == 0 && r.off == 0 && r.ix == 0
      && r.imm.extractLsb' 16 4 == 0) (.fence r.scope (r.imm.extractLsb' 0 16))
  | 0x28 => rowIf (off && r.ix.extractLsb' 1 5 == 0) (.barwinit r.data r.mem (r.ix.extractLsb' 0 1 == 1))
  | 0x29 => rowIf (r.ix == 0) (.barwadd r.data r.atom)
  | 0x2A => rowIf off (.barwwait r.data r.mem r.ix)
  | 0x2B => rowIf (off && ix30) (.barwtry r.data r.mem ix3)
  | 0x30 => rowIf (off && q0 && ix30) (.wqpush q r.mem ix3)
  | 0x31 => if r.ix.extractLsb' 3 1 == 1 then rowIf (off && q0 && r.ix.extractLsb' 4 2 == 0) (.wqpopOne q r.mem ix3)
      else rowIf (off && q0 && ix30) (.wqpop q r.mem ix3)
  | 0x32 => rowIf (off && q0 && ix30) (.wqsteal q r.mem ix3)
  | 0x38 => rowIf (off && ix30) (.lgather r.data r.mem ix3)
  | 0x39 => rowIf (r.dc == 0 && r.oclass == 0 && r.scope == 0 && off && ix30 && r.bd == 0 && r.imm == 0)
      (.ldedup r.data r.scope r.off ix3)
  | 0x3A => rowIf (r.dc == 0 && r.oclass == 0 && r.scope == 0 && off && r.bd == 0)
      (.lpool (r.ix.extractLsb' 0 2) r.data r.scope r.off (r.ix.extractLsb' 2 4) r.imm)
  | 0x3B => rowIf off (.lhand r.data r.mem r.ix)
  | _ => none

/-- amode of a memory operand (R260). -/
def AMode.bits : AMode → BitVec 3
  | .off => 0
  | .post => 1
  | .idx _ => 2
  | .wrap _ => 3

/-- What an addressing mode puts into ix (R260). -/
def AMode.ix : AMode → BitVec 6
  | .off => 0
  | .post => 0
  | .idx dx => dx
  | .wrap w => 0#3 ++ w

/-- A memory operand's fields with the row's class, opcode, data and ix. -/
def MemOp.raw (m : MemOp) (hi : BitVec 1) (op : BitVec 7) (data ix : BitVec 6) : Option Raw :=
  some (.mm ⟨hi, .ofBool m.dc, op, m.oclass, m.scope, m.mode.bits, data, m.bd, m.off, ix, m.imm⟩)

/-- An atomic operand's fields with the row's opcode, data and ix. -/
def AtomOp.raw (m : AtomOp) (op : BitVec 7) (data ix : BitVec 6) : Option Raw :=
  some (.mm ⟨1, .ofBool m.dc, op, m.oclass, m.scope, BitVec.ofBool m.fail ++ m.order, data, m.bd, m.off, ix, m.imm⟩)

/-- The size code of `LD` and `LDR` (R261). -/
def LoadSize.code : LoadSize → BitVec 7
  | .b => 0 | .h => 1 | .w => 2 | .d => 3 | .bu => 4 | .hu => 5

/-- The size code of `ST`. -/
def StoreSize.code : StoreSize → BitVec 7
  | .b => 0 | .h => 1 | .w => 2 | .d => 3

/-- Bit 3 of an atomic's opcode marks the 64-bit forms (R262). -/
def wideBit (w : Bool) : BitVec 7 := if w then 8 else 0

/-! ### Classes 100 and 101 (R263 to R265) -/

/-- The instruction of a class 100 syllable (R264). -/
def decodeV4 (r : RawVv) : Option Instr :=
  match r.op.toNat with
  | 0x00 => rowIf (r.vc == 0 && r.imm == 0)
      (.vadd r.func r.vd r.va r.vb r.p)
  | 0x01 => rowIf (r.vc == 0 && r.imm == 0)
      (.vsub r.func r.vd r.va r.vb r.p)
  | 0x02 => rowIf (r.vc == 0 && r.imm == 0)
      (.vmul r.func r.vd r.va r.vb r.p)
  | 0x05 => rowIf (r.vc == 0 && r.imm == 0)
      (.vmin r.func r.vd r.va r.vb r.p)
  | 0x06 => rowIf (r.vc == 0 && r.imm == 0)
      (.vmax r.func r.vd r.va r.vb r.p)
  | 0x03 => rowIf (r.imm == 0)
      (.vfma r.func r.vd r.va r.vb r.vc r.p)
  | 0x04 => rowIf (r.imm == 0)
      (.vfms r.func r.vd r.va r.vb r.vc r.p)
  | 0x07 => rowIf (r.vb == 0 && r.vc == 0 && r.imm == 0)
      (.vabs r.func r.vd r.va r.p)
  | 0x08 => rowIf (r.vb == 0 && r.vc == 0 && r.imm == 0)
      (.vneg r.func r.vd r.va r.p)
  | 0x10 => rowIf (r.vc == 0 && r.func == 0 && r.imm == 0)
      (.vand r.vd r.va r.vb r.p)
  | 0x11 => rowIf (r.vc == 0 && r.func == 0 && r.imm == 0)
      (.vor r.vd r.va r.vb r.p)
  | 0x12 => rowIf (r.vc == 0 && r.func == 0 && r.imm == 0)
      (.vxor r.vd r.va r.vb r.p)
  | 0x13 => if r.imm.extractLsb' 28 1 == 1
      then rowIf (r.vb == 0 && r.vc == 0 && r.imm.extractLsb' 5 23 == 0) (.vshl r.func r.vd r.va (.const (r.imm.extractLsb' 0 5)) r.p)
      else rowIf (r.vc == 0 && r.imm == 0) (.vshl r.func r.vd r.va (.tile r.vb) r.p)
  | 0x14 => if r.imm.extractLsb' 28 1 == 1
      then rowIf (r.vb == 0 && r.vc == 0 && r.imm.extractLsb' 5 23 == 0) (.vshr r.func r.vd r.va (.const (r.imm.extractLsb' 0 5)) r.p)
      else rowIf (r.vc == 0 && r.imm == 0) (.vshr r.func r.vd r.va (.tile r.vb) r.p)
  | 0x15 => if r.imm.extractLsb' 28 1 == 1
      then rowIf (r.vb == 0 && r.vc == 0 && r.imm.extractLsb' 5 23 == 0) (.vsra r.func r.vd r.va (.const (r.imm.extractLsb' 0 5)) r.p)
      else rowIf (r.vc == 0 && r.imm == 0) (.vsra r.func r.vd r.va (.tile r.vb) r.p)
  | 0x18 => rowIf (r.vd.extractLsb' 3 1 == 0 && r.vc == 0 && r.imm.extractLsb' 3 26 == 0)
      (.vcmp (r.imm.extractLsb' 0 3) r.func (r.vd.extractLsb' 0 3) r.va r.vb r.p)
  | 0x19 => rowIf (r.vc == 0 && r.func == 0 && r.imm == 0)
      (.vsel r.vd r.va r.vb r.p)
  | 0x1A => rowIf (r.vb == 0 && r.vc == 0 && r.func == 0 && r.imm == 0)
      (.vmov r.vd r.va r.p)
  | 0x1B => rowIf (r.va == 0 && r.vb == 0 && r.vc == 0 && r.imm.extractLsb' 6 23 == 0)
      (.vsplat r.func r.vd (r.imm.extractLsb' 0 6) r.p)
  | 0x1C => rowIf (r.va == 0 && r.vb == 0 && r.vc == 0 && r.func == 0 && r.imm.extractLsb' 2 27 == 0)
      (.viota (r.imm.extractLsb' 0 2) r.vd r.p)
  | 0x20 => rowIf (r.vb == 0 && r.vc == 0 && r.imm == 0)
      (.vcvt r.func r.vd r.va r.p)
  | 0x21 => rowIf (r.vb == 0 && r.p == 0 && r.imm == 0)
      (.vquant r.func r.vd r.vc r.va)
  | 0x22 => rowIf (r.vc == 0 && r.func == 0 && r.imm == 0)
      (.vdeq r.vd r.va r.vb r.p)
  | 0x23 => rowIf (r.vd.extractLsb' 3 1 == 0 && r.vb == 0 && r.vc == 0 && r.func == 0 && r.imm.extractLsb' 4 25 == 0)
      (.vclass (r.vd.extractLsb' 0 3) r.va (r.imm.extractLsb' 0 4) r.p)
  | 0x28 => rowIf (r.vd.extractLsb' 3 1 == 0 && r.va.extractLsb' 3 1 == 0 && r.vb.extractLsb' 3 1 == 0 && r.vc == 0 && r.func == 0 && r.imm == 0)
      (.pand (r.vd.extractLsb' 0 3) (r.va.extractLsb' 0 3) (r.vb.extractLsb' 0 3) r.p)
  | 0x29 => rowIf (r.vd.extractLsb' 3 1 == 0 && r.va.extractLsb' 3 1 == 0 && r.vb.extractLsb' 3 1 == 0 && r.vc == 0 && r.func == 0 && r.imm == 0)
      (.por (r.vd.extractLsb' 0 3) (r.va.extractLsb' 0 3) (r.vb.extractLsb' 0 3) r.p)
  | 0x2A => rowIf (r.vd.extractLsb' 3 1 == 0 && r.va.extractLsb' 3 1 == 0 && r.vb.extractLsb' 3 1 == 0 && r.vc == 0 && r.func == 0 && r.imm == 0)
      (.pxor (r.vd.extractLsb' 0 3) (r.va.extractLsb' 0 3) (r.vb.extractLsb' 0 3) r.p)
  | 0x2B => rowIf (r.vd.extractLsb' 3 1 == 0 && r.va.extractLsb' 3 1 == 0 && r.vb == 0 && r.vc == 0 && r.func == 0 && r.imm == 0)
      (.pnot (r.vd.extractLsb' 0 3) (r.va.extractLsb' 0 3) r.p)
  | _ => none

/-- The instruction of a class 101 syllable (R265). -/
def decodeV5 (r : RawVv) : Option Instr :=
  match r.op.toNat with
  | 0x00 => rowIf (r.vb == 0 && r.vc == 0 && r.func == 0 && r.imm.extractLsb' 6 23 == 0)
      (.vrotr r.vd r.va (r.imm.extractLsb' 0 6) r.p)
  | 0x01 => rowIf (r.vb == 0 && r.vc == 0 && r.func == 0 && r.imm.extractLsb' 6 23 == 0)
      (.vrotc r.vd r.va (r.imm.extractLsb' 0 6) r.p)
  | 0x02 => rowIf (r.vb == 0 && r.vc == 0 && r.func == 0 && r.imm.extractLsb' 6 23 == 0)
      (.vbcr r.vd r.va (r.imm.extractLsb' 0 6) r.p)
  | 0x03 => rowIf (r.vb == 0 && r.vc == 0 && r.func == 0 && r.imm.extractLsb' 6 23 == 0)
      (.vbcc r.vd r.va (r.imm.extractLsb' 0 6) r.p)
  | 0x04 => rowIf (r.vb == 0 && r.vc == 0 && r.imm.extractLsb' 2 27 == 0)
      (.vredr (r.imm.extractLsb' 0 2) r.func r.vd r.va r.p)
  | 0x05 => rowIf (r.vb == 0 && r.vc == 0 && r.imm.extractLsb' 2 27 == 0)
      (.vredc (r.imm.extractLsb' 0 2) r.func r.vd r.va r.p)
  | 0x06 => rowIf (r.vb == 0 && r.vc == 0 && r.imm.extractLsb' 2 27 == 0)
      (.vscanr (r.imm.extractLsb' 0 2) r.func r.vd r.va r.p)
  | 0x07 => rowIf (r.vb == 0 && r.vc == 0 && r.imm.extractLsb' 2 27 == 0)
      (.vscanc (r.imm.extractLsb' 0 2) r.func r.vd r.va r.p)
  | 0x08 => rowIf (r.vb == 0 && r.vc == 0 && r.p == 0 && r.func == 0 && r.imm == 0)
      (.vtrn r.vd r.va)
  | 0x10 => if r.vb == 0 && r.vc == 0 && r.imm == 0 then (match r.func.toNat with
      | 0 => some (.vsfuExp2 r.vd r.va r.p)
      | 1 => some (.vsfuLog2 r.vd r.va r.p)
      | 2 => some (.vsfuRcp r.vd r.va r.p)
      | 3 => some (.vsfuRsqrt r.vd r.va r.p)
      | 4 => some (.vsfuSqrt r.vd r.va r.p)
      | 5 => some (.vsfuSinpi r.vd r.va r.p)
      | 6 => some (.vsfuCospi r.vd r.va r.p)
      | 7 => some (.vsfuTanh r.vd r.va r.p)
      | 8 => some (.vsfuSigm r.vd r.va r.p)
      | 9 => some (.vsfuErf r.vd r.va r.p)
      | _ => none) else none
  | 0x18 => rowIf (r.vd.extractLsb' 3 1 == 0 && r.va == 0 && r.vb == 0 && r.vc == 0 && r.func == 0 && r.imm == 0)
      (.vany (r.vd.extractLsb' 0 3) r.p)
  | 0x19 => rowIf (r.vd.extractLsb' 3 1 == 0 && r.va == 0 && r.vb == 0 && r.vc == 0 && r.func == 0 && r.imm == 0)
      (.vall (r.vd.extractLsb' 0 3) r.p)
  | 0x20 => rowIf (r.vb == 0 && r.p == 0 && r.func == 0 && r.imm == 0)
      (.vcompress r.vd r.vc r.va)
  | 0x21 => rowIf (r.vc == 0 && r.func == 0 && r.imm == 0)
      (.vexpand r.vd r.va r.vb r.p)
  | 0x22 => rowIf (r.vd == 0 && r.vb == 0 && r.vc == 0 && r.p == 0 && r.func == 0 && r.imm.extractLsb' 16 13 == 0)
      (.vextr (r.imm.extractLsb' 0 6) r.va (r.imm.extractLsb' 6 4) (r.imm.extractLsb' 10 6))
  | 0x23 => rowIf (r.va == 0 && r.vb == 0 && r.vc == 0 && r.p == 0 && r.func == 0 && r.imm.extractLsb' 16 13 == 0)
      (.vinsr r.vd (r.imm.extractLsb' 0 6) (r.imm.extractLsb' 6 4) (r.imm.extractLsb' 10 6))
  | _ => none

/-! ### Class 110 (R266) -/

/-- The instruction of a class 110 syllable. -/
def decodeEq (r : RawEq) : Option Instr :=
  let aux0 := r.aux == 0
  let eng := r.aux.extractLsb' 0 1 == 1
  match r.op.toNat with
  | 0x00 => rowIf (r.aux.extractLsb' 1 7 == 0 && r.opnd.extractLsb' 0 38 == 0) (.estart eng (r.opnd.extractLsb' 38 6))
  | 0x01 => rowIf (r.aux.extractLsb' 1 7 == 0 && r.opnd == 0) (.estop eng)
  | 0x02 => rowIf (r.aux.extractLsb' 4 4 == 0 && r.opnd.extractLsb' 0 38 == 0)
      (.estat (r.opnd.extractLsb' 38 6) eng (r.aux.extractLsb' 1 3))
  | 0x08 => rowIf (aux0 && r.opnd.extractLsb' 20 12 == 0)
      (.gopen (r.opnd.extractLsb' 42 2) (r.opnd.extractLsb' 38 4) (r.opnd.extractLsb' 32 6) (r.opnd.extractLsb' 0 20))
  | 0x09 => rowIf (aux0 && r.opnd.extractLsb' 20 12 == 0)
      (.gattach (r.opnd.extractLsb' 42 2) (r.opnd.extractLsb' 38 4) (r.opnd.extractLsb' 32 6) (r.opnd.extractLsb' 0 20))
  | 0x0A => rowIf (r.aux.extractLsb' 3 5 == 0 && r.opnd.extractLsb' 3 39 == 0)
      (.gdetach (r.aux.extractLsb' 0 3) (r.opnd.extractLsb' 42 2) (r.opnd.extractLsb' 0 3))
  | 0x0B => rowIf (r.aux.extractLsb' 3 5 == 0 && r.opnd.extractLsb' 0 18 == 0)
      (.gfold (r.aux.extractLsb' 0 3) (r.opnd.extractLsb' 42 2) (r.opnd.extractLsb' 38 4) (r.opnd.extractLsb' 32 6)
        (r.opnd.extractLsb' 28 4) (r.opnd.extractLsb' 22 6) (r.opnd.extractLsb' 18 4))
  | _ => none

/-! ### Syllables -/

/-- The instruction of a syllable's fields, by class. -/
def decodeRaw : Raw → Option Instr
  | .dr r => decodeDr r
  | .ct r => decodeCt r
  | .mm r => if r.hi == 1 then decodeM3 r else decodeM2 r
  | .vv r => if r.hi == 1 then decodeV5 r else decodeV4 r
  | .eq r => decodeEq r

/-- Keep an instruction only if it is well formed (R254). -/
def Instr.checked (i : Option Instr) : Option Instr :=
  match i with
  | some j => if j.wf then some j else none
  | none => none

/-- The instruction of a syllable; `none` is ILLEGAL (R254). Bit 63 (E) belongs to the bundle. -/
def decodeSyllable (w : BitVec 64) : Option Instr :=
  match Raw.ofBits (w.extractLsb' 0 63) with
  | some r => Instr.checked (decodeRaw r)
  | none => none

/-- The fields that encode a syllable; `none` for engine words and machine steps. -/
def encodeRaw : Instr → Option Raw
  | .add dd da db => some (.dr ⟨0x00, 0, dd, da, db, 0⟩)
  | .addR dd da db => some (.dr ⟨0x00, 1, dd, da, db, 0⟩)
  | .addRk dd da db => some (.dr ⟨0x00, 3, dd, da, db, 0⟩)
  | .sub dd da db => some (.dr ⟨0x01, 0, dd, da, db, 0⟩)
  | .subR dd da db => some (.dr ⟨0x01, 1, dd, da, db, 0⟩)
  | .subRk dd da db => some (.dr ⟨0x01, 3, dd, da, db, 0⟩)
  | .mul dd da db => some (.dr ⟨0x02, 0, dd, da, db, 0⟩)
  | .mulR dd da db => some (.dr ⟨0x02, 1, dd, da, db, 0⟩)
  | .mulRk dd da db => some (.dr ⟨0x02, 3, dd, da, db, 0⟩)
  | .min dd da db => some (.dr ⟨0x03, 0, dd, da, db, 0⟩)
  | .minR dd da db => some (.dr ⟨0x03, 1, dd, da, db, 0⟩)
  | .minRk dd da db => some (.dr ⟨0x03, 3, dd, da, db, 0⟩)
  | .max dd da db => some (.dr ⟨0x04, 0, dd, da, db, 0⟩)
  | .maxR dd da db => some (.dr ⟨0x04, 1, dd, da, db, 0⟩)
  | .maxRk dd da db => some (.dr ⟨0x04, 3, dd, da, db, 0⟩)
  | .abs dd da => some (.dr ⟨0x05, 0, dd, da, 0, 0⟩)
  | .absR dd da => some (.dr ⟨0x05, 1, dd, da, 0, 0⟩)
  | .absRk dd da => some (.dr ⟨0x05, 3, dd, da, 0, 0⟩)
  | .neg dd da => some (.dr ⟨0x06, 0, dd, da, 0, 0⟩)
  | .negR dd da => some (.dr ⟨0x06, 1, dd, da, 0, 0⟩)
  | .negRk dd da => some (.dr ⟨0x06, 3, dd, da, 0, 0⟩)
  | .mov dd da => some (.dr ⟨0x07, 0, dd, da, 0, 0⟩)
  | .movR dd da => some (.dr ⟨0x07, 1, dd, da, 0, 0⟩)
  | .movRk dd da => some (.dr ⟨0x07, 3, dd, da, 0, 0⟩)
  | .mulh dd da db => some (.dr ⟨0x08, 0, dd, da, db, 0⟩)
  | .div dd da db => some (.dr ⟨0x09, 0, dd, da, db, 0⟩)
  | .rem dd da db => some (.dr ⟨0x0A, 0, dd, da, db, 0⟩)
  | .and dd da db => some (.dr ⟨0x10, 0, dd, da, db, 0⟩)
  | .or dd da db => some (.dr ⟨0x11, 0, dd, da, db, 0⟩)
  | .xor dd da db => some (.dr ⟨0x12, 0, dd, da, db, 0⟩)
  | .andn dd da db => some (.dr ⟨0x13, 0, dd, da, db, 0⟩)
  | .shl dd da db => some (.dr ⟨0x14, 0, dd, da, db, 0⟩)
  | .shr dd da db => some (.dr ⟨0x15, 0, dd, da, db, 0⟩)
  | .sra dd da db => some (.dr ⟨0x16, 0, dd, da, db, 0⟩)
  | .clz dd da => some (.dr ⟨0x17, 0, dd, da, 0, 0⟩)
  | .popc dd da => some (.dr ⟨0x18, 0, dd, da, 0, 0⟩)
  | .sext dd da imm => some (.dr ⟨0x19, 0, dd, da, 0, imm⟩)
  | .zext dd da imm => some (.dr ⟨0x1A, 0, dd, da, 0, imm⟩)
  | .movi dd imm => some (.dr ⟨0x1B, 0, dd, 0, 0, imm⟩)
  | .eq dd da db => some (.dr ⟨0x20, 0, dd, da, db, 0⟩)
  | .eqR dd da db => some (.dr ⟨0x20, 1, dd, da, db, 0⟩)
  | .eqRk dd da db => some (.dr ⟨0x20, 3, dd, da, db, 0⟩)
  | .ne dd da db => some (.dr ⟨0x21, 0, dd, da, db, 0⟩)
  | .neR dd da db => some (.dr ⟨0x21, 1, dd, da, db, 0⟩)
  | .neRk dd da db => some (.dr ⟨0x21, 3, dd, da, db, 0⟩)
  | .lt dd da db => some (.dr ⟨0x22, 0, dd, da, db, 0⟩)
  | .ltR dd da db => some (.dr ⟨0x22, 1, dd, da, db, 0⟩)
  | .ltRk dd da db => some (.dr ⟨0x22, 3, dd, da, db, 0⟩)
  | .le dd da db => some (.dr ⟨0x23, 0, dd, da, db, 0⟩)
  | .leR dd da db => some (.dr ⟨0x23, 1, dd, da, db, 0⟩)
  | .leRk dd da db => some (.dr ⟨0x23, 3, dd, da, db, 0⟩)
  | .inR dd da => some (.dr ⟨0x24, 1, dd, da, 0, 0⟩)
  | .inRk dd da => some (.dr ⟨0x24, 3, dd, da, 0, 0⟩)
  | .alldiffR dd imm => some (.dr ⟨0x25, 1, dd, 0, 0, imm⟩)
  | .alldiffRk dd imm => some (.dr ⟨0x25, 3, dd, 0, 0, imm⟩)
  | .dset dd da db => some (.dr ⟨0x30, 0, dd, da, db, 0⟩)
  | .dfull dd => some (.dr ⟨0x31, 0, dd, 0, 0, 0⟩)
  | .dexcl dd db => some (.dr ⟨0x32, 0, dd, 0, db, 0⟩)
  | .dmask dd da imm => some (.dr ⟨0x33, 0, dd, da, 0, imm⟩)
  | .dlo dd da => some (.dr ⟨0x34, 0, dd, da, 0, 0⟩)
  | .dhi dd da => some (.dr ⟨0x35, 0, dd, da, 0, 0⟩)
  | .dsize dd da => some (.dr ⟨0x36, 0, dd, da, 0, 0⟩)
  | .dpick dd => some (.dr ⟨0x37, 0, dd, 0, 0, 0⟩)
  | .prop => some (.dr ⟨0x38, 0, 0, 0, 0, 0⟩)
  | .ckpt => some (.dr ⟨0x39, 0, 0, 0, 0, 0⟩)
  | .restore imm => some (.dr ⟨0x3A, 0, 0, 0, 0, imm⟩)
  | .commit => some (.dr ⟨0x3B, 0, 0, 0, 0, 0⟩)
  | .addI dd da imm => some (.dr ⟨0x80, 0, dd, da, 0, imm⟩)
  | .addIR dd da imm => some (.dr ⟨0x80, 1, dd, da, 0, imm⟩)
  | .addIRk dd da imm => some (.dr ⟨0x80, 3, dd, da, 0, imm⟩)
  | .subI dd da imm => some (.dr ⟨0x81, 0, dd, da, 0, imm⟩)
  | .subIR dd da imm => some (.dr ⟨0x81, 1, dd, da, 0, imm⟩)
  | .subIRk dd da imm => some (.dr ⟨0x81, 3, dd, da, 0, imm⟩)
  | .mulI dd da imm => some (.dr ⟨0x82, 0, dd, da, 0, imm⟩)
  | .mulIR dd da imm => some (.dr ⟨0x82, 1, dd, da, 0, imm⟩)
  | .mulIRk dd da imm => some (.dr ⟨0x82, 3, dd, da, 0, imm⟩)
  | .minI dd da imm => some (.dr ⟨0x83, 0, dd, da, 0, imm⟩)
  | .minIR dd da imm => some (.dr ⟨0x83, 1, dd, da, 0, imm⟩)
  | .minIRk dd da imm => some (.dr ⟨0x83, 3, dd, da, 0, imm⟩)
  | .maxI dd da imm => some (.dr ⟨0x84, 0, dd, da, 0, imm⟩)
  | .maxIR dd da imm => some (.dr ⟨0x84, 1, dd, da, 0, imm⟩)
  | .maxIRk dd da imm => some (.dr ⟨0x84, 3, dd, da, 0, imm⟩)
  | .mulhI dd da imm => some (.dr ⟨0x88, 0, dd, da, 0, imm⟩)
  | .divI dd da imm => some (.dr ⟨0x89, 0, dd, da, 0, imm⟩)
  | .remI dd da imm => some (.dr ⟨0x8A, 0, dd, da, 0, imm⟩)
  | .andI dd da imm => some (.dr ⟨0x90, 0, dd, da, 0, imm⟩)
  | .orI dd da imm => some (.dr ⟨0x91, 0, dd, da, 0, imm⟩)
  | .xorI dd da imm => some (.dr ⟨0x92, 0, dd, da, 0, imm⟩)
  | .andnI dd da imm => some (.dr ⟨0x93, 0, dd, da, 0, imm⟩)
  | .shlI dd da imm => some (.dr ⟨0x94, 0, dd, da, 0, imm⟩)
  | .shrI dd da imm => some (.dr ⟨0x95, 0, dd, da, 0, imm⟩)
  | .sraI dd da imm => some (.dr ⟨0x96, 0, dd, da, 0, imm⟩)
  | .eqI dd da imm => some (.dr ⟨0xA0, 0, dd, da, 0, imm⟩)
  | .eqIR dd da imm => some (.dr ⟨0xA0, 1, dd, da, 0, imm⟩)
  | .eqIRk dd da imm => some (.dr ⟨0xA0, 3, dd, da, 0, imm⟩)
  | .neI dd da imm => some (.dr ⟨0xA1, 0, dd, da, 0, imm⟩)
  | .neIR dd da imm => some (.dr ⟨0xA1, 1, dd, da, 0, imm⟩)
  | .neIRk dd da imm => some (.dr ⟨0xA1, 3, dd, da, 0, imm⟩)
  | .ltI dd da imm => some (.dr ⟨0xA2, 0, dd, da, 0, imm⟩)
  | .ltIR dd da imm => some (.dr ⟨0xA2, 1, dd, da, 0, imm⟩)
  | .ltIRk dd da imm => some (.dr ⟨0xA2, 3, dd, da, 0, imm⟩)
  | .leI dd da imm => some (.dr ⟨0xA3, 0, dd, da, 0, imm⟩)
  | .leIR dd da imm => some (.dr ⟨0xA3, 1, dd, da, 0, imm⟩)
  | .leIRk dd da imm => some (.dr ⟨0xA3, 3, dd, da, 0, imm⟩)
  | .dexclI dd imm => some (.dr ⟨0xB2, 0, dd, 0, 0, imm⟩)
  | .nop => some (.ct ⟨0x00, 0, 0, 0, 0, 0, 0⟩)
  | .prep bt off => some (.ct ⟨0x01, 0, 0, bt, 0, 0, off⟩)
  | .prepi bt da k => some (.ct ⟨0x02, 0, 0, bt, da, 0, k⟩)
  | .prepj bt da bd count off => some (.ct ⟨0x03, 0, 0, bt, da, 0#2 ++ bd, count ++ off⟩)
  | .cmp rel neg c da db => some (.ct ⟨0x04, .ofBool neg, c, rel, da, db, 0⟩)
  | .cmpI rel neg c da imm => some (.ct ⟨0x05, .ofBool neg, c, rel, da, 0, 0#2 ++ imm⟩)
  | .cmpu rel neg c da db => some (.ct ⟨0x06, .ofBool neg, c, rel, da, db, 0⟩)
  | .cmpuI rel neg c da imm => some (.ct ⟨0x07, .ofBool neg, c, rel, da, 0, 0#2 ++ imm⟩)
  | .cmpdSingle neg c da => some (.ct ⟨0x08, .ofBool neg, c, 0, da, 0, 0⟩)
  | .cmpdHas neg c da db => some (.ct ⟨0x08, .ofBool neg, c, 1, da, db, 0⟩)
  | .cmpdWidth neg c da db => some (.ct ⟨0x08, .ofBool neg, c, 2, da, db, 0⟩)
  | .cmpdHasI neg c da imm => some (.ct ⟨0x09, .ofBool neg, c, 1, da, 0, 0#2 ++ imm⟩)
  | .cmpdWidthI neg c da imm => some (.ct ⟨0x09, .ofBool neg, c, 2, da, 0, 0#2 ++ imm⟩)
  | .xfer bt => some (.ct ⟨0x10, 0, 0, bt, 0, 0, 0⟩)
  | .xferC bt neg c => some (.ct ⟨0x11, .ofBool neg, c, bt, 0, 0, 0⟩)
  | .xferl bt bl => some (.ct ⟨0x12, 0, 0, bt, 0#4 ++ bl, 0, 0⟩)
  | .xferlC bt bl neg c => some (.ct ⟨0x13, .ofBool neg, c, bt, 0#4 ++ bl, 0, 0⟩)
  | .loopb da mskew cskew => some (.ct ⟨0x18, 0, 0, 0, da, 0, mskew ++ (cskew ++ 0#18)⟩)
  | .loopcut da => some (.ct ⟨0x19, 0, 0, 0, da, 0, 0⟩)
  | .loopcutI k => some (.ct ⟨0x1A, 0, 0, 0, 0, 0, 0#2 ++ k⟩)
  | .postD da => some (.ct ⟨0x20, 0, 0, 0, da, 0, 0⟩)
  | .post k => some (.ct ⟨0x21, 0, 0, 0, 0, 0, 0#29 ++ k⟩)
  | .awaitD da => some (.ct ⟨0x22, 0, 0, 0, da, 0, 0⟩)
  | .await k => some (.ct ⟨0x23, 0, 0, 0, 0, 0, 0#29 ++ k⟩)
  | .spawn bd da imm => some (.ct ⟨0x28, 0, 0, 0, da, 0#2 ++ bd, 0#14 ++ imm⟩)
  | .yield bd da imm => some (.ct ⟨0x29, 0, 0, 0, da, 0#2 ++ bd, 0#14 ++ imm⟩)
  | .rfbegin bd da imm => some (.ct ⟨0x40, 0, 0, 0, da, 0#2 ++ bd, 0#14 ++ imm⟩)
  | .retire => some (.ct ⟨0x2A, 0, 0, 0, 0, 0, 0⟩)
  | .trap k => some (.ct ⟨0x30, 0, 0, 0, 0, 0, 0#18 ++ k⟩)
  | .syscall k => some (.ct ⟨0x31, 0, 0, 0, 0, 0, 0#18 ++ k⟩)
  | .brk k => some (.ct ⟨0x37, 0, 0, 0, 0, 0, 0#18 ++ k⟩)
  | .eret => some (.ct ⟨0x32, 0, 0, 0, 0, 0, 0⟩)
  | .idle => some (.ct ⟨0x38, 0, 0, 0, 0, 0, 0⟩)
  | .mfsr da r high => some (.ct ⟨0x33, 0, 0, 0, da, 0, 0#23 ++ (BitVec.ofBool high ++ r.code)⟩)
  | .mtsr r da db => some (.ct ⟨0x34, 0, 0, 0, da, db, 0#24 ++ r.code⟩)
  | .bdset bd part da => some (.ct ⟨0x35, 0, 0, 0, da, 0, 0#27 ++ (part ++ bd)⟩)
  | .temit da db => some (.ct ⟨0x36, 0, 0, 0, da, db, 0⟩)
  | .rfnext => some (.ct ⟨0x41, 0, 0, 0, 0, 0, 0⟩)
  | .rftest v => some (.ct ⟨0x42, 0, 0, 0, 0, 0, 0#30 ++ v⟩)
  | .rfend => some (.ct ⟨0x43, 0, 0, 0, 0, 0, 0⟩)
  | .ld z dd m => m.raw 0 z.code dd m.mode.ix
  | .st z ds m => m.raw 0 (8 + z.code) ds m.mode.ix
  | .stn ds m k => m.raw 0 0x0C ds (0#4 ++ k)
  | .ldr z dd m k => m.raw 0 (0x10 + z.code) dd (0#1 ++ k)
  | .ldv v m dp => m.raw 0 0x18 (0#2 ++ v) dp
  | .stv v m dp => m.raw 0 0x19 (0#2 ++ v) dp
  | .ldvp v m p => m.raw 0 0x1A (0#2 ++ v) (0#3 ++ p)
  | .gathv v m vi => m.raw 0 0x1B (0#2 ++ v) (0#2 ++ vi)
  | .scatv v m vi => m.raw 0 0x1C (0#2 ++ v) (0#2 ++ vi)
  | .pagereq m => m.raw 0 0x20 0 0
  | .prefetch dn m => m.raw 0 0x21 dn 0
  | .sopen kind f m dq => m.raw 0 0x28 (0#1 ++ (kind ++ f)) dq
  | .sadv f dn => some (.mm ⟨0, 0, 0x29, 0, 0, 0, 0#3 ++ f, 0, 0, dn, 0⟩)
  | .sget dd f => some (.mm ⟨0, 0, 0x2A, 0, 0, 0, dd, 0, 0, 0#3 ++ f, 0⟩)
  | .vsget v f => some (.mm ⟨0, 0, 0x2B, 0, 0, 0, 0#2 ++ v, 0, 0, 0#3 ++ f, 0⟩)
  | .stend c f => some (.mm ⟨0, 0, 0x2C, 0, 0, 0, 0#3 ++ c, 0, 0, 0#3 ++ f, 0⟩)
  | .sclose f => some (.mm ⟨0, 0, 0x2D, 0, 0, 0, 0#3 ++ f, 0, 0, 0, 0⟩)
  | .wset w m dn => m.raw 0 0x30 (0#3 ++ w) dn
  | .amoAdd w dd m ds => m.raw (0 + wideBit w) dd ds
  | .amoMin w dd m ds => m.raw (1 + wideBit w) dd ds
  | .amoMax w dd m ds => m.raw (2 + wideBit w) dd ds
  | .amoAnd w dd m ds => m.raw (3 + wideBit w) dd ds
  | .amoOr w dd m ds => m.raw (4 + wideBit w) dd ds
  | .amoXor w dd m ds => m.raw (5 + wideBit w) dd ds
  | .amoSwap w dd m ds => m.raw (6 + wideBit w) dd ds
  | .cas w dd m ds => m.raw (7 + wideBit w) dd ds
  | .lda w dd m => m.raw 1 (if w then 0x13 else 0x12) dd 0
  | .stl w ds m => m.raw 1 (if w then 0x1B else 0x1A) ds 0
  | .fence s k => some (.mm ⟨1, 0, 0x20, 0, s, 0, 0, 0, 0, 0, 0#4 ++ k⟩)
  | .barwinit dt m x => m.raw 1 0x28 dt (0#5 ++ BitVec.ofBool x)
  | .barwadd dn m => m.raw 0x29 dn 0
  | .barwwait dg m dt => m.raw 1 0x2A dg dt
  | .barwtry dg m c => m.raw 1 0x2B dg (0#3 ++ c)
  | .wqpush q m c => m.raw 1 0x30 (q ++ 0#2) (0#3 ++ c)
  | .wqpop q m c => m.raw 1 0x31 (q ++ 0#2) (0#3 ++ c)
  | .wqpopOne q m c => m.raw 1 0x31 (q ++ 0#2) (1#3 ++ c)
  | .wqsteal q m c => m.raw 1 0x32 (q ++ 0#2) (0#3 ++ c)
  | .lgather dd m n => m.raw 1 0x38 dd (0#3 ++ n)
  | .ldedup dd s dk n => some (.mm ⟨1, 0, 0x39, 0, s, 0, dd, 0, dk, 0#3 ++ n, 0⟩)
  | .lpool op dd s ds rows rsz => some (.mm ⟨1, 0, 0x3A, 0, s, 0, dd, 0, ds, rows ++ op, rsz⟩)
  | .lhand ds m dw => m.raw 1 0x3B ds dw
  | .vadd f vd va vb p => some (.vv ⟨0, 0x00, vd, va, vb, 0, p, f, 0⟩)
  | .vsub f vd va vb p => some (.vv ⟨0, 0x01, vd, va, vb, 0, p, f, 0⟩)
  | .vmul f vd va vb p => some (.vv ⟨0, 0x02, vd, va, vb, 0, p, f, 0⟩)
  | .vmin f vd va vb p => some (.vv ⟨0, 0x05, vd, va, vb, 0, p, f, 0⟩)
  | .vmax f vd va vb p => some (.vv ⟨0, 0x06, vd, va, vb, 0, p, f, 0⟩)
  | .vfma f vd va vb vc p => some (.vv ⟨0, 0x03, vd, va, vb, vc, p, f, 0⟩)
  | .vfms f vd va vb vc p => some (.vv ⟨0, 0x04, vd, va, vb, vc, p, f, 0⟩)
  | .vabs f vd va p => some (.vv ⟨0, 0x07, vd, va, 0, 0, p, f, 0⟩)
  | .vneg f vd va p => some (.vv ⟨0, 0x08, vd, va, 0, 0, p, f, 0⟩)
  | .vand vd va vb p => some (.vv ⟨0, 0x10, vd, va, vb, 0, p, 0, 0⟩)
  | .vor vd va vb p => some (.vv ⟨0, 0x11, vd, va, vb, 0, p, 0, 0⟩)
  | .vxor vd va vb p => some (.vv ⟨0, 0x12, vd, va, vb, 0, p, 0, 0⟩)
  | .vshl f vd va (.tile vb) p => some (.vv ⟨0, 0x13, vd, va, vb, 0, p, f, 0⟩)
  | .vshl f vd va (.const k) p => some (.vv ⟨0, 0x13, vd, va, 0, 0, p, f, 1#1 ++ (0#23 ++ k)⟩)
  | .vshr f vd va (.tile vb) p => some (.vv ⟨0, 0x14, vd, va, vb, 0, p, f, 0⟩)
  | .vshr f vd va (.const k) p => some (.vv ⟨0, 0x14, vd, va, 0, 0, p, f, 1#1 ++ (0#23 ++ k)⟩)
  | .vsra f vd va (.tile vb) p => some (.vv ⟨0, 0x15, vd, va, vb, 0, p, f, 0⟩)
  | .vsra f vd va (.const k) p => some (.vv ⟨0, 0x15, vd, va, 0, 0, p, f, 1#1 ++ (0#23 ++ k)⟩)
  | .vcmp rel f pd va vb p => some (.vv ⟨0, 0x18, 0#1 ++ pd, va, vb, 0, p, f, 0#26 ++ rel⟩)
  | .vsel vd va vb p => some (.vv ⟨0, 0x19, vd, va, vb, 0, p, 0, 0⟩)
  | .vmov vd va p => some (.vv ⟨0, 0x1A, vd, va, 0, 0, p, 0, 0⟩)
  | .vsplat f vd ds p => some (.vv ⟨0, 0x1B, vd, 0, 0, 0, p, f, 0#23 ++ ds⟩)
  | .viota m vd p => some (.vv ⟨0, 0x1C, vd, 0, 0, 0, p, 0, 0#27 ++ m⟩)
  | .vcvt t vd va p => some (.vv ⟨0, 0x20, vd, va, 0, 0, p, t, 0⟩)
  | .vquant t vd vc va => some (.vv ⟨0, 0x21, vd, va, 0, vc, 0, t, 0⟩)
  | .vdeq vd va vb p => some (.vv ⟨0, 0x22, vd, va, vb, 0, p, 0, 0⟩)
  | .vclass pd va m p => some (.vv ⟨0, 0x23, 0#1 ++ pd, va, 0, 0, p, 0, 0#25 ++ m⟩)
  | .pand pd pa pb p => some (.vv ⟨0, 0x28, 0#1 ++ pd, 0#1 ++ pa, 0#1 ++ pb, 0, p, 0, 0⟩)
  | .por pd pa pb p => some (.vv ⟨0, 0x29, 0#1 ++ pd, 0#1 ++ pa, 0#1 ++ pb, 0, p, 0, 0⟩)
  | .pxor pd pa pb p => some (.vv ⟨0, 0x2A, 0#1 ++ pd, 0#1 ++ pa, 0#1 ++ pb, 0, p, 0, 0⟩)
  | .pnot pd pa p => some (.vv ⟨0, 0x2B, 0#1 ++ pd, 0#1 ++ pa, 0, 0, p, 0, 0⟩)
  | .vrotr vd va k p => some (.vv ⟨1, 0x00, vd, va, 0, 0, p, 0, 0#23 ++ k⟩)
  | .vrotc vd va k p => some (.vv ⟨1, 0x01, vd, va, 0, 0, p, 0, 0#23 ++ k⟩)
  | .vbcr vd va k p => some (.vv ⟨1, 0x02, vd, va, 0, 0, p, 0, 0#23 ++ k⟩)
  | .vbcc vd va k p => some (.vv ⟨1, 0x03, vd, va, 0, 0, p, 0, 0#23 ++ k⟩)
  | .vredr op f vd va p => some (.vv ⟨1, 0x04, vd, va, 0, 0, p, f, 0#27 ++ op⟩)
  | .vredc op f vd va p => some (.vv ⟨1, 0x05, vd, va, 0, 0, p, f, 0#27 ++ op⟩)
  | .vscanr op f vd va p => some (.vv ⟨1, 0x06, vd, va, 0, 0, p, f, 0#27 ++ op⟩)
  | .vscanc op f vd va p => some (.vv ⟨1, 0x07, vd, va, 0, 0, p, f, 0#27 ++ op⟩)
  | .vtrn vd va => some (.vv ⟨1, 0x08, vd, va, 0, 0, 0, 0, 0⟩)
  | .vsfuExp2 vd va p => some (.vv ⟨1, 0x10, vd, va, 0, 0, p, 0, 0⟩)
  | .vsfuLog2 vd va p => some (.vv ⟨1, 0x10, vd, va, 0, 0, p, 1, 0⟩)
  | .vsfuRcp vd va p => some (.vv ⟨1, 0x10, vd, va, 0, 0, p, 2, 0⟩)
  | .vsfuRsqrt vd va p => some (.vv ⟨1, 0x10, vd, va, 0, 0, p, 3, 0⟩)
  | .vsfuSqrt vd va p => some (.vv ⟨1, 0x10, vd, va, 0, 0, p, 4, 0⟩)
  | .vsfuSinpi vd va p => some (.vv ⟨1, 0x10, vd, va, 0, 0, p, 5, 0⟩)
  | .vsfuCospi vd va p => some (.vv ⟨1, 0x10, vd, va, 0, 0, p, 6, 0⟩)
  | .vsfuTanh vd va p => some (.vv ⟨1, 0x10, vd, va, 0, 0, p, 7, 0⟩)
  | .vsfuSigm vd va p => some (.vv ⟨1, 0x10, vd, va, 0, 0, p, 8, 0⟩)
  | .vsfuErf vd va p => some (.vv ⟨1, 0x10, vd, va, 0, 0, p, 9, 0⟩)
  | .vany c p => some (.vv ⟨1, 0x18, 0#1 ++ c, 0, 0, 0, p, 0, 0⟩)
  | .vall c p => some (.vv ⟨1, 0x19, 0#1 ++ c, 0, 0, 0, p, 0, 0⟩)
  | .vcompress vd vc va => some (.vv ⟨1, 0x20, vd, va, 0, vc, 0, 0, 0⟩)
  | .vexpand vd va vb p => some (.vv ⟨1, 0x21, vd, va, vb, 0, p, 0, 0⟩)
  | .vextr dd va row col => some (.vv ⟨1, 0x22, 0, va, 0, 0, 0, 0, 0#13 ++ (col ++ (row ++ dd))⟩)
  | .vinsr vd ds row col => some (.vv ⟨1, 0x23, vd, 0, 0, 0, 0, 0, 0#13 ++ (col ++ (row ++ ds))⟩)
  | .estart e da => some (.eq ⟨0x00, 0#7 ++ BitVec.ofBool e, da ++ 0#38⟩)
  | .estop e => some (.eq ⟨0x01, 0#7 ++ BitVec.ofBool e, 0⟩)
  | .estat dd e item => some (.eq ⟨0x02, 0#4 ++ (item ++ BitVec.ofBool e), dd ++ 0#38⟩)
  | .gopen g bd da imm => some (.eq ⟨0x08, 0, g ++ (bd ++ (da ++ (0#12 ++ imm)))⟩)
  | .gattach g bd da imm => some (.eq ⟨0x09, 0, g ++ (bd ++ (da ++ (0#12 ++ imm)))⟩)
  | .gdetach c g slot => some (.eq ⟨0x0A, 0#5 ++ c, g ++ (0#39 ++ slot)⟩)
  | .gfold c g bda da bdb db tag => some (.eq ⟨0x0B, 0#5 ++ c, g ++ (bda ++ (da ++ (bdb ++ (db ++ (tag ++ 0#18)))))⟩)
  | _ => none

/-- The syllable of an instruction with E as given. -/
def encode (e : Bool) (i : Instr) : Option (BitVec 64) :=
  match encodeRaw i with
  | some r => some (BitVec.ofBool e ++ r.bits)
  | none => none

/-! ### Bundles (R186) -/

/-- The slots of a bundle, in their order. -/
inductive Slot | da | db | m | v
  deriving DecidableEq, Repr

/-- A slot's place in the order DA, DB, M, V. -/
def Slot.rank : Slot → Nat
  | .da => 0 | .db => 1 | .m => 2 | .v => 3

/-- The class of a syllable, bits [62:60]. -/
def syllableClass (w : BitVec 64) : Nat := (w.extractLsb' 60 3).toNat

/-- The slot a syllable takes, after the slots already taken (R186): class 000 takes DA first and then DB. -/
def slotOf (cls : Nat) (last : Option Slot) : Option Slot :=
  match cls with
  | 0 => match last with
    | none => some .da
    | some .da => some .db
    | some _ => none
  | 1 => some .db
  | 2 | 3 => some .m
  | 4 | 5 | 6 => some .v
  | _ => none

/-- The instructions of a bundle's syllables with their slots: `none` when a slot is used twice or out of order, or a
syllable is no instruction (R186, R254). -/
def decodeSyllables : Option Slot → List (BitVec 64) → Option (List (Slot × Instr))
  | _, [] => some []
  | last, w :: ws =>
    match slotOf (syllableClass w) last, decodeSyllable w with
    | some s, some i =>
      if (match last with | none => true | some l => l.rank < s.rank) then
        match decodeSyllables (some s) ws with
        | some rest => some ((s, i) :: rest)
        | none => none
      else none
    | _, _ => none

/-- The syllables of the bundle that begins a list of words: up to the first with E set, at most four. -/
def bundleWords : Nat → List (BitVec 64) → Option (List (BitVec 64))
  | 0, _ => none
  | _, [] => none
  | k + 1, w :: ws =>
    if w.getLsbD 63 then some [w]
    else match bundleWords k ws with
      | some rest => some (w :: rest)
      | none => none

/-- The bundle that begins a list of words (R186). -/
def decodeBundle (ws : List (BitVec 64)) : Option (List (Slot × Instr)) :=
  match bundleWords 4 ws with
  | some b => decodeSyllables none b
  | none => none

/-! ### Engine words (R268 to R270) -/

/-- The words both streams accept (R268). -/
def decodeCommon (w : BitVec 16) : Option Instr :=
  match (w.extractLsb' 12 4).toNat with
  | 0 => some (.lit (w.extractLsb' 0 12))
  | 1 => some (.litx (w.extractLsb' 0 12))
  | 2 => if w.extractLsb' 0 8 == 0 then
      (match (w.extractLsb' 8 4).toNat with
        | 0 => some .dup | 1 => some .drop | 2 => some .swap | 3 => some .over | _ => none)
      else none
  | 3 => if w.extractLsb' 11 1 == 0
      then rowIf (w.extractLsb' 6 5 == 0) (.pushd (w.extractLsb' 0 6))
      else rowIf (w.extractLsb' 4 6 == 0) (.pushb (w.extractLsb' 0 4) (w.extractLsb' 10 1 == 1))
  | 4 => match (w.extractLsb' 10 2).toNat with
    | 0 => some (.jmp (w.extractLsb' 0 10))
    | 1 => rowIf (w.extractLsb' 0 10 == 0) .rep
    | 2 => rowIf (w.extractLsb' 0 10 == 0) .endrep
    | _ => if w.extractLsb' 0 10 == 0 then some .engineNop else if w.extractLsb' 0 10 == 1 then some .halt else none
  | 5 => rowIf (w.extractLsb' 5 6 == 0)
      (if w.extractLsb' 11 1 == 0 then .enginePost (w.extractLsb' 0 5) else .engineAwait (w.extractLsb' 0 5))
  | 12 => rowIf (w.extractLsb' 4 8 == 0) .classW
  | _ => none

/-- The modifier bits of `MMA`, `MMAS` and `MMASP` (R269). -/
structure ArrayMods where
  a : Bool
  f : BitVec 3
  g : BitVec 3
  s : Bool
  w : Bool
  deriving DecidableEq, Repr

/-- The modifier bits of `MSTORE`. -/
structure StoreMods where
  a : Bool
  f : BitVec 3
  r : Bool
  c : Bool
  d : Bool
  deriving DecidableEq, Repr

/-- The modifier bits of `GLD`. -/
structure GldMods where
  h : GReg
  t : BitVec 4
  b : Bool
  deriving DecidableEq, Repr

/-- The array modifiers of a word whose low three bits are zero. -/
def ArrayMods.ofWord (w : BitVec 16) : ArrayMods :=
  ⟨w.extractLsb' 11 1 == 1, w.extractLsb' 8 3, w.extractLsb' 5 3, w.extractLsb' 4 1 == 1, w.extractLsb' 3 1 == 1⟩
/-- The word of an array launch with opcode `op`. -/
def ArrayMods.word (op : BitVec 4) (m : ArrayMods) : BitVec 16 :=
  op ++ (BitVec.ofBool m.a ++ (m.f ++ (m.g ++ (BitVec.ofBool m.s ++ (BitVec.ofBool m.w ++ 0#3)))))
/-- `MMA` takes the pairings of R214. -/
def ArrayMods.okMma (m : ArrayMods) : Bool := pairOk m.f m.g
/-- `MMAS` takes FP8 and FP4 only (R390). -/
def ArrayMods.okMmas (m : ArrayMods) : Bool := scaledPairOk m.f m.g
/-- `MMASP` besides has no window. -/
def ArrayMods.okMmasp (m : ArrayMods) : Bool := scaledPairOk m.f m.g && !m.w

/-- The modifiers of an `MSTORE` word. -/
def StoreMods.ofWord (w : BitVec 16) : StoreMods :=
  ⟨w.extractLsb' 11 1 == 1, w.extractLsb' 8 3, w.extractLsb' 7 1 == 1, w.extractLsb' 6 1 == 1, w.extractLsb' 5 1 == 1⟩
/-- The word of an `MSTORE`. -/
def StoreMods.word (m : StoreMods) : BitVec 16 :=
  10#4 ++ (BitVec.ofBool m.a ++ (m.f ++ (BitVec.ofBool m.r ++ (BitVec.ofBool m.c ++ (BitVec.ofBool m.d ++ 0#5)))))
/-- The formats of an `MSTORE` (R269): INT32 neither scales nor sums. -/
def StoreMods.ok (m : StoreMods) : Bool := m.f.toNat ≤ 4 && (m.f != 4 || (!m.r && !m.c))

/-- The accumulators an `MZERO` word names: bit 0 is A0 and bit 1 is A1. -/
def mzeroSet (w : BitVec 16) : BitVec 2 := w.extractLsb' 7 2
/-- The word of an `MZERO`. -/
def mzeroWord (n : BitVec 2) : BitVec 16 := 0x32#7 ++ (n ++ 0#7)

/-- The modifiers of a `GLD` word. -/
def GldMods.ofWord (w : BitVec 16) : GldMods := ⟨w.extractLsb' 10 2, w.extractLsb' 6 4, w.extractLsb' 5 1 == 1⟩
/-- The word of a `GLD`. -/
def GldMods.word (m : GldMods) : BitVec 16 := 9#4 ++ (m.h ++ (m.t ++ (BitVec.ofBool m.b ++ 0#5)))

/-- The class a `CLASS` word names. -/
def classField (w : BitVec 16) : BitVec 4 := w.extractLsb' 0 4
/-- The word of a `CLASS`. -/
def classWord (c : BitVec 4) : BitVec 16 := 0xC0#8 ++ (0#4 ++ c)

/-- Does a `COPY`, `COPY2`, `MCAST` or `DECOMP` word count its bytes on a stage barrier word (bit 11)? -/
def copyCounts (w : BitVec 16) : Bool := w.extractLsb' 11 1 == 1
/-- The word of a copy launch with opcode `op`. -/
def copyWord (op : BitVec 4) (b : Bool) : BitVec 16 := op ++ (BitVec.ofBool b ++ 0#11)

/-- A word of the matrix stream (R269); `none` is ILLEGAL (R270). -/
def decodeMatrix (w : BitVec 16) : Option Instr :=
  match (w.extractLsb' 12 4).toNat with
  | 6 => match (w.extractLsb' 9 3).toNat with
    | 0 => rowIf (w.extractLsb' 0 9 == 0) .lease
    | 1 => rowIf (w.extractLsb' 0 9 == 0) .free
    | 2 => rowIf (w.extractLsb' 0 7 == 0 && mzeroSet w != 0) .mzero
    | 3 => rowIf (w.extractLsb' 0 9 == 0) .mwin
    | _ => none
  | 7 => rowIf (w.extractLsb' 0 3 == 0 && (ArrayMods.ofWord w).okMma) .mma
  | 8 => rowIf (w.extractLsb' 0 3 == 0 && (ArrayMods.ofWord w).okMmas) .mmas
  | 9 => rowIf (w.extractLsb' 0 3 == 0 && (ArrayMods.ofWord w).okMmasp) .mmasp
  | 10 => rowIf (w.extractLsb' 0 5 == 0 && (StoreMods.ofWord w).ok) .mstore
  | 11 => none
  | _ => decodeCommon w

/-- A word of the copy stream (R269); `none` is ILLEGAL (R270). -/
def decodeCopy (w : BitVec 16) : Option Instr :=
  let z := w.extractLsb' 0 11 == 0
  match (w.extractLsb' 12 4).toNat with
  | 6 => rowIf z .copy
  | 7 => rowIf z .copy2
  | 8 => rowIf z .mcast
  | 9 => rowIf (w.extractLsb' 0 5 == 0 && baseFmt (GldMods.ofWord w).t) .gld
  | 10 => rowIf z .decomp
  | 11 => if w.extractLsb' 0 8 == 0 then
      (match (w.extractLsb' 8 4).toNat with | 0 => some .fill | 1 => some .barann | _ => none) else none
  | _ => decodeCommon w

/-- The 16 bits of an engine word (R268, R269); `none` for everything else. The launch words have their own encoders
(`ArrayMods.word`, `StoreMods.word`, `GldMods.word`, `copyWord`, `mzeroWord`, `classWord`), for their modifiers are no fields of `Instr`. -/
def encodeEngine : Instr → Option (BitVec 16)
  | .lit v => some (0#4 ++ v)
  | .litx v => some (1#4 ++ v)
  | .dup => some 0x2000
  | .drop => some 0x2100
  | .swap => some 0x2200
  | .over => some 0x2300
  | .pushd n => some (12#6 ++ (0#4 ++ n))
  | .pushb n h => some (7#5 ++ (BitVec.ofBool h ++ (0#6 ++ n)))
  | .jmp k => some (16#6 ++ k)
  | .rep => some 0x4400
  | .endrep => some 0x4800
  | .engineNop => some 0x4C00
  | .halt => some 0x4C01
  | .enginePost k => some (10#5 ++ (0#6 ++ k))
  | .engineAwait k => some (11#5 ++ (0#6 ++ k))
  | .lease => some 0x6000
  | .free => some 0x6200
  | .mwin => some 0x6600
  | .fill => some 0xB000
  | .barann => some 0xB100
  | _ => none

/-! ### The host's question -/

/-- What the decoder reads from an instruction whose bits are `w`: a 16-bit engine word is read by the matrix stream
where that stream has a meaning for it, and otherwise by the copy stream (the opcode table gives `LEASE` and `COPY` the
same bits); a wider word is a syllable, whose E bit is the bundle's. -/
def decodeTableWord (nbits w : Nat) : Option Instr :=
  if nbits ≤ 16 then
    match decodeMatrix (BitVec.ofNat 16 w) with
    | some i => some i
    | none => decodeCopy (BitVec.ofNat 16 w)
  else decodeSyllable (BitVec.ofNat 64 w)

end Sys2Proof
end

