-- ==== Sys2Proof/Machine/System.lean ====
section
/-!
DEFINITION. Class 001: system registers (R120, R130, R131, R133, R134, R138, R313, R314, R321, R322), buffer descriptors
(R323) and trace (R324): `MFSR`, `MTSR`, `BDSET` and `TEMIT`. Log entries: 23 (system registers on a lookup core), 24
(a half of `SWTHROTTLE`).
-/

namespace Sys2Proof.Machine

/-! ### Reading (R321) -/

/-- Registers that the firmware context may name (R321). -/
def fwMay : SysReg → Bool
  | .status | .ctxid | .groupid | .regionid | .pasid | .prio | .fwshare | .cycle | .ptime | .evpending | .leasestat
  | .mgovstat | .swthrottle => true
  | _ => false

/-- Registers of the debug capability (R130). -/
def isDebug : SysReg → Bool
  | .tracectl | .debugctl | .replayctl | .bkpt _ => true
  | _ => false

/-- Cycles elapsed in the lease in force, at most 1,024. -/
def Lease.cycles (l : Lease) (now : BitVec 64) : Nat := if l.held then min 1024 (now - l.since).toNat else 0
/-- Cycles that core `c` has waited for the lease, wrapping. -/
def Lease.waitedBy (l : Lease) (c : Nat) (now : BitVec 64) : Word :=
  Assoc.get 0 l.waited c + (match Assoc.find? l.waitFrom c with
    | some t => (now - t).extractLsb' 0 32
    | none => 0)

/-- `LEASESTAT` as core `c` of the tile reads it (R198). -/
def TileState.leaseWord (t : TileState) (c : Nat) (now : BitVec 64) : BitVec 64 :=
  BitVec.ofBool t.lease.held ++ (t.lease.holder ++ (BitVec.ofNat 5 t.lease.words ++ (BitVec.ofNat 11 (t.lease.cycles now)
    ++ (0#13 ++ t.lease.waitedBy c now))))

/-- `MGOVSTAT` (R21). -/
def TileState.govWord (t : TileState) : BitVec 64 :=
  if Config.tokenRing then 1#2 ++ (0#6 ++ (BitVec.ofBool t.token ++ (Config.tokens ++ t.stalls)))
  else 0#2 ++ (Config.budget ++ (0#8 ++ t.stalls))

/-- `SWTHROTTLE` (R68). -/
def Core.throttleWord (c : Core) : BitVec 64 := c.last ++ (0#14 ++ c.held)
/-- `FWSHARE` (R120). -/
def Core.shareWord (c : Core) : BitVec 64 := 0#59 ++ (BitVec.ofBool c.idleall ++ c.fwn)

/-- `CTXID` (R322). -/
def State.ctxidWord (s : State) : BitVec 64 := 0#52 ++ (BitVec.ofBool s.isLookup ++ (BitVec.ofBool s.isFw ++ s.coreNumber))

/-- What a system register holds, as the bundle found it. -/
def State.sysreg (s : State) (r : SysReg) : BitVec 64 :=
  let c := s.src
  let core (f : Core → BitVec 64) : BitVec 64 := match agentCore s.cur with | some k => f (s.core k) | none => 0
  let tile (f : TileState → BitVec 64) : BitVec 64 := match agentTile s.cur with | some t => f (s.tile t) | none => 0
  match r with
  | .status => c.status.word s.isFw
  | .trapcode => c.trapcode
  | .trappc => BitVec.zeroExtend 64 c.trappc
  | .trapvec => BitVec.zeroExtend 64 c.trapvec
  | .failvec => BitVec.zeroExtend 64 c.failvec
  | .failinfo => c.failinfo
  | .propbudget => c.cons.budgetWord
  | .propstat => c.cons.statWord
  | .propcount => BitVec.zeroExtend 64 c.cons.runs
  | .ckptdepth => BitVec.ofNat 64 c.cons.marks.length
  | .trailtop => BitVec.ofNat 64 c.cons.trail.length
  | .ctxid => s.ctxidWord
  | .groupid => BitVec.zeroExtend 64 c.id.group
  | .regionid => BitVec.zeroExtend 64 c.id.region
  | .pasid => BitVec.zeroExtend 64 c.id.pasid
  | .prio => BitVec.zeroExtend 64 c.id.prio
  | .fwshare => core Core.shareWord
  | .cycle => s.cycle
  | .ptime => s.ptime
  | .evpending => evPending c.regs.ev
  | .leasestat => tile (fun t => t.leaseWord ((agentCore s.cur).getD 0 % 4) s.cycle)
  | .mgovstat => tile TileState.govWord
  | .swthrottle => core Core.throttleWord
  | .rflevel => BitVec.zeroExtend 64 c.refine.level
  | .rfiter => BitVec.zeroExtend 64 c.refine.iter
  | .rfstate => c.refine.word
  | .tracectl => if s.debugCap then c.dbg.tracectl else 0
  | .debugctl => if s.debugCap then c.dbg.ctlWord true else 0
  | .replayctl => if s.debugCap then c.dbg.replayctl else 0
  | .bkpt n => if s.debugCap then Assoc.get 0 c.dbg.bkpt n.toNat else 0

/-- The selected half of a 64-bit value. -/
def half (w : BitVec 64) (high : Bool) : Word := if high then w.extractLsb' 32 32 else w.extractLsb' 0 32

/-- What a read of a counter gives with its latch, and the latch after it (R321). -/
def latched (l : Option Word) (v : BitVec 64) (high : Bool) : Word × Option Word :=
  if high then (match l with | some h => (h, none) | none => (half v true, none)) else (half v false, some (half v true))

/-- An event of the replay log (R139, R140): recorded, or in replay the logged value in its place. -/
def replayed (kind : Byte) (v : BitVec 64) (s : State) : Eff (BitVec 64 × State) :=
  if s.replayMode == 2 then do
    match ← s.replayNext kind with
    | some (x, t) => .ok (x, t)
    | none => raise tReplayDiverge s
  else do
    let t ← s.record kind v
    .ok (v, t)

/-- `MFSR` (R321). -/
def mfsr (da : DReg) (r : SysReg) (high : Bool) (s : State) : Eff State := do
  need (!s.isFw || fwMay r) tIllegal s
  match r with
  | .cycle => do
    let (v, l) := latched s.src.cycleLatch s.cycle high
    let (x, t) ← replayed 4 (BitVec.zeroExtend 64 v) s
    .ok ((t.modCtx (fun c => { c with cycleLatch := l })).write 1 (.d da (Dom.single (half x false))))
  | .ptime => do
    let (v, l) := latched s.src.ptimeLatch s.ptime high
    let (x, t) ← replayed 5 (BitVec.zeroExtend 64 v) s
    .ok ((t.modCtx (fun c => { c with ptimeLatch := l })).write 1 (.d da (Dom.single (half x false))))
  | .swthrottle =>
    let t := match s.cur with
      | .fw k => s.modCore k (fun c => { c with held := 0 })
      | _ => s
    .ok (t.write 1 (.d da (Dom.single (half (s.sysreg r) high))))
  | _ => .ok (s.write 1 (.d da (Dom.single (half (s.sysreg r) high))))

/-! ### Writing (R321) -/

/-- Bits [47:3] of a written address. -/
def vectorBits (w : BitVec 64) : Addr := w.extractLsb' 3 45 ++ 0#3

/-- A write of `TRAPPC` (R289, R300, R314): it cancels a pending transfer, and PCONT. -/
def Ctx.setTrappc (c : Ctx) (w : BitVec 64) : Ctx :=
  { c with trappc := vectorBits w, status := { c.status with xdist := 0, xlv := false }, winHeld := 0, taken := false
           due := false, cons := { c.cons with pcont := false } }

/-- What a write does to the context (the Access columns of R131, R133, R134, R138, R298, R313, R314). -/
def Ctx.mtsr (c : Ctx) (r : SysReg) (w : BitVec 64) : Ctx :=
  match r with
  | .status => { c with status := c.status.write w }
  | .trappc => c.setTrappc w
  | .trapvec => { c with trapvec := vectorBits w }
  | .failvec => { c with failvec := vectorBits w }
  | .propbudget => { c with cons := { c.cons with trapen := w.getLsbD 16, limit := w.extractLsb' 0 16 } }
  | .tracectl => { c with dbg := { c.dbg with tracectl := mergeBits tracectlMask c.dbg.tracectl w } }
  | .debugctl => { c with dbg := { c.dbg with sstep := w.getLsbD 62, ehalt := w.getLsbD 61 } }
  | .replayctl =>
    if w.extractLsb' 62 2 = 3 then c
    else { c with dbg := { c.dbg with replayctl := mergeBits replayctlMask c.dbg.replayctl w } }
  | .bkpt n => { c with dbg := { c.dbg with
      bkpt := Assoc.set c.dbg.bkpt n.toNat (mergeBits bkptMask (Assoc.get 0 c.dbg.bkpt n.toNat) w) } }
  | _ => c

/-- `MTSR` (R321): a write to a debug register without the capability, or to `FWSHARE` outside the firmware context,
raises PROT (R120, R130). -/
def mtsr (r : SysReg) (da db : DReg) (s : State) : Eff State := do
  need (!s.isFw || fwMay r) tIllegal s
  let a ← single s da
  let b ← single s db
  let w := b ++ a
  need (!(isDebug r && !s.debugCap)) tProt s
  match r with
  | .fwshare =>
    match s.cur with
    | .fw k => .ok (s.modCore k (fun c => { c with idleall := w.getLsbD 4, fwn := w.extractLsb' 0 4 }))
    | _ => raise tProt s
  | _ => .ok (s.modCtx (·.mtsr r w))

/-! ### `BDSET` (R323) -/

/-- Put `n` bits at bit `at_` of a descriptor. -/
def putBits (b : BitVec 128) (at_ n : Nat) (v : Nat) : BitVec 128 :=
  let mask : BitVec 128 := BitVec.ofNat 128 (2 ^ n - 1) <<< at_
  (b &&& ~~~mask) ||| ((BitVec.ofNat 128 v <<< at_) &&& mask)

/-- A descriptor with one part written; `none` where higher bits of the value are not zero. -/
def bdPart (b : BitVec 128) (part : BitVec 3) (v : Word) : Option (BitVec 128) :=
  match part.toNat with
  | 0 => some (putBits b 80 32 v.toNat)
  | 1 => if v.toNat < 2 ^ 16 then some (putBits b 112 16 v.toNat) else none
  | 2 => some (putBits b 40 32 v.toNat)
  | 3 => if v.toNat < 2 ^ 8 then some (putBits b 72 8 v.toNat) else none
  | _ => if v.toNat < 2 ^ 8 then some (putBits b 32 8 v.toNat) else none

/-- `BDSET` (R323): part by part; BD14 of the firmware context is not writable (R121). -/
def bdset (bd : BdReg) (part : BitVec 3) (da : DReg) (s : State) : Eff State := do
  need (!(s.isFw && bd == 14)) tIllegal s
  let v ← single s da
  match bdPart (s.src.regs.desc bd) part v with
  | some b => .ok (s.write 1 (.bd bd b))
  | none => raise tProt s

/-! ### `TEMIT` (R324) -/

/-- `TEMIT`: a record into the quill FIFO; a full FIFO stalls it, or the record is dropped (R134, R324). -/
def temit (da db : DReg) (s : State) : Eff State := do
  if !s.debugCap then .ok s
  else do
    let a ← single s da
    let b ← single s db
    if !s.src.dbg.tracectl.getLsbD 63 then .ok s
    else do
      waitFor (!(s.quillFull && !s.src.dbg.tracectl.getLsbD 62)) s
      let (stamp, t) ← replayed 6 s.ptime s
      .ok (t.quillPut 1 (b ++ a) stamp)

/-! ### Meanings -/

/-- `MFSR` (R321). -/
def execMfsr (da : DReg) (r : SysReg) (high : Bool) (s : State) : Host.Outcome State Fault Refusal := syllable (mfsr da r high) s
/-- `MTSR` (R321). -/
def execMtsr (r : SysReg) (da db : DReg) (s : State) : Host.Outcome State Fault Refusal := syllable (mtsr r da db) s
/-- `BDSET` (R323). -/
def execBdset (bd : BdReg) (part : BitVec 3) (da : DReg) (s : State) : Host.Outcome State Fault Refusal := syllable (bdset bd part da) s
/-- `TEMIT` (R324). -/
def execTemit (da db : DReg) (s : State) : Host.Outcome State Fault Refusal := syllable (temit da db) s

end Sys2Proof.Machine
end

