-- ==== Sys2Proof/Machine/Float.lean ====
section
/-!
DEFINITION. Number formats and arithmetic (R205 to R221): decoding a code to its exact value, exact operations, rounding in
the four modes, conversions, block scales, the matrix group adder and quantisation. Codes are natural numbers.
Log entry: 25 (an infinite source).
-/

namespace Sys2Proof.Machine

/-! ### Formats (R195, R205) -/

/-- The format tags that R195 lists. -/
def tagI32 : BitVec 4 := 0
def tagF32 : BitVec 4 := 1
def tagF64 : BitVec 4 := 2
def tagBf16 : BitVec 4 := 3
def tagE4m3 : BitVec 4 := 4
def tagE5m2 : BitVec 4 := 5
def tagFp4 : BitVec 4 := 6
def tagI8 : BitVec 4 := 7
def tagScale : BitVec 4 := 8
def tagIdx2 : BitVec 4 := 9

/-- A floating-point format: the widths of its exponent and mantissa, its bias, the code of its largest finite value, and
whether codes above it are an infinity and NaNs. -/
structure FloatFmt where
  expW : Nat
  mantW : Nat
  bias : Nat
  maxCode : Nat
  ieee : Bool
  deriving DecidableEq, Repr

/-- The formats of R205, by tag. -/
def fmtOf (tag : BitVec 4) : FloatFmt :=
  match tag.toNat with
  | 1 => ⟨8, 23, 127, 0x7F7FFFFF, true⟩
  | 2 => ⟨11, 52, 1023, 0x7FEFFFFFFFFFFFFF, true⟩
  | 3 => ⟨8, 7, 127, 0x7F7F, true⟩
  | 4 => ⟨4, 3, 7, 0x7E, false⟩
  | 5 => ⟨5, 2, 15, 0x7B, true⟩
  | _ => ⟨2, 1, 1, 7, false⟩

/-- The sign's place value. -/
def FloatFmt.signBit (f : FloatFmt) : Nat := 2 ^ (f.expW + f.mantW)
/-- The exponent of the smallest subnormal. -/
def FloatFmt.emin (f : FloatFmt) : Int := 1 - (f.bias : Int) - f.mantW

/-- The canonical NaN of a format (R207); FP4 has none, and a NaN becomes +0 in it (R212). -/
def FloatFmt.nan (f : FloatFmt) : Nat :=
  if f.ieee then f.maxCode + 1 + 2 ^ (f.mantW - 1) else if f.mantW = 3 then 0x7F else 0

/-- Is a tag an integer format? -/
def isIntTag (tag : BitVec 4) : Bool := tag == tagI32 || tag == tagI8
/-- The bits of a value of a tag. -/
def widthOf (tag : BitVec 4) : Nat := [32, 32, 64, 16, 8, 8, 4, 8, 32, 2].getD tag.toNat 32
/-- The values in a 32-bit element (R357); FP64 takes a pair of elements. -/
def perElem (tag : BitVec 4) : Nat := [1, 1, 1, 2, 4, 4, 8, 4, 1, 16].getD tag.toNat 1

/-! ### Exact values -/

/-- A number: (−1)^neg × m × 2^e, an infinity, or a NaN. -/
inductive Num
  | nan
  | inf (neg : Bool)
  | fin (neg : Bool) (m : Nat) (e : Int)
  deriving DecidableEq, Repr

/-- The value of a code (R205). -/
def FloatFmt.decode (f : FloatFmt) (code : Nat) : Num :=
  let neg := code / f.signBit % 2 == 1
  let body := code % f.signBit
  if f.maxCode < body then (if f.ieee && body = f.maxCode + 1 then .inf neg else .nan)
  else
    let x := body / 2 ^ f.mantW
    let m := body % 2 ^ f.mantW
    if x = 0 then .fin neg m f.emin else .fin neg (m + 2 ^ f.mantW) (f.emin + (x - 1))

/-- The value of an integer code of `w` bits. -/
def intOf (w code : Nat) : Int := if code % 2 ^ w < 2 ^ (w - 1) then (code % 2 ^ w : Nat) else (code % 2 ^ w : Nat) - (2 ^ w : Nat)
/-- The code of an integer. -/
def ofInt (w : Nat) (v : Int) : Nat := (v % (2 ^ w : Nat)).toNat

/-- The exact value of a code of a tag. -/
def decodeTag (tag : BitVec 4) (code : Nat) : Num :=
  if isIntTag tag then let v := intOf (widthOf tag) code; .fin (v < 0) v.natAbs 0 else (fmtOf tag).decode code

/-- A power of two times a natural number, as numerator and denominator. -/
def scaleNat (m : Nat) (e : Int) : Nat := m * 2 ^ e.toNat

/-- The negation of a value. -/
def Num.neg : Num → Num
  | .nan => .nan
  | .inf s => .inf !s
  | .fin s m e => .fin (!s) m e

/-- The integer that a finite value is in units of 2^e0. -/
def signed (s : Bool) (m : Nat) (e e0 : Int) : Int :=
  let v : Int := (scaleNat m (e - e0) : Nat)
  if s then -v else v

/-- The exact sum; the sign of an exact zero depends on the rounding mode (R213). -/
def Num.add (rm : BitVec 2) (x y : Num) : Num :=
  match x, y with
  | .nan, _ => .nan
  | _, .nan => .nan
  | .inf s, .inf t => if s == t then .inf s else .nan
  | .inf s, _ => .inf s
  | _, .inf t => .inf t
  | .fin s m e, .fin t n f =>
    let e0 := min e f
    let v := signed s m e e0 + signed t n f e0
    if v = 0 then .fin (if s == t then s else rm == 2) 0 0 else .fin (v < 0) v.natAbs e0

/-- The exact product. -/
def Num.mul (x y : Num) : Num :=
  match x, y with
  | .nan, _ => .nan
  | _, .nan => .nan
  | .inf s, .inf t => .inf (s != t)
  | .inf s, .fin t n _ => if n = 0 then .nan else .inf (s != t)
  | .fin s m _, .inf t => if m = 0 then .nan else .inf (s != t)
  | .fin s m e, .fin t n f => .fin (s != t) (m * n) (e + f)

/-- Is `x` less than `y`? False with a NaN; zeros are equal. -/
def Num.lt (x y : Num) : Bool :=
  match x, y with
  | .nan, _ => false
  | _, .nan => false
  | .inf s, .inf t => s && !t
  | .inf s, _ => s
  | _, .inf t => !t
  | .fin s m e, .fin t n f => let e0 := min e f; decide (signed s m e e0 < signed t n f e0)

/-- Are two values equal? -/
def Num.eq (x y : Num) : Bool :=
  match x, y with
  | .nan, _ => false
  | _, .nan => false
  | _, _ => !x.lt y && !y.lt x

/-- Is a value a NaN? -/
def Num.isNan : Num → Bool | .nan => true | _ => false

/-! ### Rounding (R211, R212) -/

/-- Should a magnitude `q` with remainder `r` of `d` be rounded up? -/
def roundUp (rm : BitVec 2) (neg : Bool) (q r d : Nat) : Bool :=
  match rm.toNat with
  | 0 => d < 2 * r || (2 * r == d && q % 2 == 1)
  | 1 => false
  | 2 => neg && r != 0
  | _ => !neg && r != 0

/-- (n ÷ d) × 2^e in units of 2^t, rounded to a natural number. -/
def quotient (rm : BitVec 2) (neg : Bool) (n d : Nat) (e t : Int) : Nat :=
  let n := scaleNat n (e - t)
  let d := scaleNat d (t - e)
  let q := n / d
  if roundUp rm neg q (n % d) d then q + 1 else q

/-- ⌊log2 (n ÷ d)⌋ for positive n and d. -/
def ilog2 (n d : Nat) : Int :=
  let k : Int := (Nat.log2 n : Int) - Nat.log2 d
  if scaleNat d k ≤ scaleNat n (-k) then k else k - 1

/-- What an overflow becomes (R212). -/
def FloatFmt.overflow (f : FloatFmt) (rm : BitVec 2) (satnan neg : Bool) : Nat :=
  let s := if neg then f.signBit else 0
  if f.mantW = 3 then (if satnan then f.nan else s + f.maxCode)
  else if f.mantW = 1 then s + f.maxCode
  else if rm = 0 || (rm = 2 && neg) || (rm = 3 && !neg) then s + f.maxCode + 1
  else s + f.maxCode

/-- The code of (−1)^neg × (n ÷ d) × 2^e, rounded once. -/
def FloatFmt.encodeRatio (f : FloatFmt) (rm : BitVec 2) (satnan neg : Bool) (n d : Nat) (e : Int) : Nat :=
  let s := if neg then f.signBit else 0
  if n = 0 then s
  else
    let t := max (ilog2 n d + e - f.mantW) f.emin
    let body := (t - f.emin).toNat * 2 ^ f.mantW + quotient rm neg n d e t
    if f.maxCode < body then f.overflow rm satnan neg else s + body

/-- The code of an exact value, rounded once (R212). An infinite value stays infinite where the format has one. -/
def FloatFmt.encode (f : FloatFmt) (rm : BitVec 2) (satnan : Bool) : Num → Nat
  | .nan => f.nan
  | .inf neg => if f.ieee then (if neg then f.signBit else 0) + f.maxCode + 1 else f.overflow rm satnan neg
  | .fin neg m e => f.encodeRatio rm satnan neg m 1 e

/-- A value rounded to an integer and saturated to `w` bits (R212). -/
def encodeInt (w : Nat) (rm : BitVec 2) : Num → Nat
  | .nan => 0
  | .inf neg => if neg then 2 ^ (w - 1) else 2 ^ (w - 1) - 1
  | .fin neg m e =>
    let q := quotient rm neg m 1 e 0
    if neg then (if 2 ^ (w - 1) < q then 2 ^ (w - 1) else ofInt w (-(q : Int)))
    else min q (2 ^ (w - 1) - 1)

/-- The code of a value in the format of a tag. -/
def encodeTag (tag : BitVec 4) (rm : BitVec 2) (satnan : Bool) (x : Num) : Nat :=
  if isIntTag tag then encodeInt (widthOf tag) rm x else (fmtOf tag).encode rm satnan x

/-- A conversion (R212). -/
def convert (src dst : BitVec 4) (rm : BitVec 2) (satnan : Bool) (code : Nat) : Nat :=
  encodeTag dst rm satnan (decodeTag src code)

/-- A code with every NaN as its format's canonical one (R207). -/
def canonical (tag : BitVec 4) (code : Nat) : Nat :=
  if !isIntTag tag && ((fmtOf tag).decode code).isNan then (fmtOf tag).nan else code

/-! ### Arithmetic on codes (R213, R362) -/

/-- An arithmetic operation on values. -/
inductive VOp | add | sub | mul | fma | fms | min | max | abs | neg
  deriving DecidableEq, Repr

/-- On floating-point codes. -/
def floatOp (f : FloatFmt) (rm : BitVec 2) (op : VOp) (a b c : Nat) : Nat :=
  let x := f.decode a
  let y := f.decode b
  let z := f.decode c
  let enc := f.encode rm false
  let zeroLess (p q : Num) : Bool := match p, q with | .fin s 0 _, .fin t 0 _ => s && !t | _, _ => p.lt q
  match op with
  | .add => enc (x.add rm y)
  | .sub => enc (x.add rm y.neg)
  | .mul => enc (x.mul y)
  | .fma => enc ((x.mul y).add rm z)
  | .fms => enc ((x.mul y).add rm z.neg)
  | .min => if x.isNan || y.isNan then f.nan else if zeroLess y x then b else a
  | .max => if x.isNan || y.isNan then f.nan else if zeroLess x y then b else a
  | .abs => a % f.signBit
  | .neg => if a < f.signBit then a + f.signBit else a - f.signBit

/-- On integer codes of `w` bits: they wrap. -/
def intOp (w : Nat) (op : VOp) (a b c : Nat) : Nat :=
  let x := intOf w a
  let y := intOf w b
  let z := intOf w c
  ofInt w (match op with
    | .add => x + y | .sub => x - y | .mul => x * y | .fma => x * y + z | .fms => x * y - z
    | .min => if y < x then y else x | .max => if x < y then y else x | .abs => x.natAbs | .neg => -x)

/-- On codes of a tag. -/
def valueOp (tag : BitVec 4) (rm : BitVec 2) (op : VOp) (a b c : Nat) : Nat :=
  if isIntTag tag then intOp (widthOf tag) op a b c else floatOp (fmtOf tag) rm op a b c

/-- The relations of `VCMP` (R358, R364). -/
def valueRel (tag : BitVec 4) (rel : BitVec 3) (a b : Nat) : Bool :=
  let x := decodeTag tag a
  let y := decodeTag tag b
  match rel.toNat with
  | 0 => x.eq y
  | 1 => !x.eq y
  | 2 => x.lt y
  | 3 => x.lt y || x.eq y
  | 4 => y.lt x
  | _ => y.lt x || x.eq y

/-- The zero detector (R237): every bit but a floating-point sign is zero. -/
def codeZero (tag : BitVec 4) (code : Nat) : Bool :=
  if isIntTag tag then code % 2 ^ widthOf tag == 0 else code % (fmtOf tag).signBit == 0

/-- The class of a value (R370): 0 zero, 1 finite, 2 infinite, 3 NaN. -/
def codeClass (tag : BitVec 4) (code : Nat) : Nat :=
  if codeZero tag code then 0 else match decodeTag tag code with | .fin _ _ _ => 1 | .inf _ => 2 | .nan => 3

/-! ### Block scales (R209, R210) -/

/-- The value of a UE8M2 scale; the bits above the tenth are ignored. -/
def scaleValue (code : Nat) : Num :=
  if code / 4 % 256 = 255 then .nan else .fin false (4 + code % 4) ((code / 4 % 256 : Nat) - 129)

/-- The scale 1.0. -/
def unitScale : Nat := 0x1FC
/-- The NaN scale. -/
def nanScale : Nat := 0x3FC

/-- n × 2^e ≤ d × 2^g? -/
def leScaled (n : Nat) (e : Int) (d : Nat) (g : Int) : Bool := decide (scaleNat n (e - g) ≤ scaleNat d (g - e))

/-- The least scale code with value at least m × 2^e ÷ fmax, fmax being k × 2^g: a search by halving. -/
def leastScale (m : Nat) (e : Int) (k : Nat) (g : Int) : Nat → Nat → Nat → Nat
  | 0, lo, _ => lo
  | n + 1, lo, hi =>
    if lo < hi then
      let mid := (lo + hi) / 2
      if leScaled m e ((4 + mid % 4) * k) ((mid / 4 : Nat) - 129 + g) then leastScale m e k g n lo mid
      else leastScale m e k g n (mid + 1) hi
    else lo

/-- The largest magnitude of finite values. -/
def maxMag : List Num → Nat × Int
  | [] => (0, 0)
  | .fin _ m e :: rest => let r := maxMag rest; if leScaled m e r.1 r.2 then r else (m, e)
  | _ :: rest => maxMag rest

/-- Quantise a block (R220): its codes in format `dst`, and its scale. -/
def quantise (src dst : BitVec 4) (codes : List Nat) : List Nat × Nat :=
  let xs := codes.map (decodeTag src)
  if xs.any (fun x => match x with | .fin _ _ _ => false | _ => true) then (codes.map (fun _ => 0), nanScale)
  else
    let b := maxMag xs
    let f := fmtOf dst
    let top := match f.decode f.maxCode with | .fin _ m e => (m, e) | _ => (1, 0)
    let s := leastScale b.1 b.2 top.1 top.2 10 0 1019
    (xs.map (fun x => match x with
      | .fin neg m e => f.encodeRatio 0 false neg m (4 + s % 4) (e - ((s / 4 : Nat) - 129))
      | _ => 0), s)

/-- `VDEQ` of one element (R221). -/
def dequantise (src : BitVec 4) (rm : BitVec 2) (code scale : Nat) : Nat :=
  (fmtOf tagF32).encode rm false ((decodeTag src code).mul (scaleValue scale))

/-! ### Dot products (R214 to R217) -/

/-- A factor of a product: sign, significand and exponent as R215 takes them; the value is m × 2^e ÷ 2^w. -/
structure Factor where
  neg : Bool
  m : Nat
  e : Int
  w : Nat
  deriving DecidableEq, Repr

/-- The factor of a finite code of a format: a subnormal has exponent 1 − bias. -/
def FloatFmt.factor (f : FloatFmt) (code : Nat) : Factor :=
  let body := code % f.signBit
  let x := body / 2 ^ f.mantW
  let m := body % 2 ^ f.mantW
  ⟨code / f.signBit % 2 == 1, if x = 0 then m else m + 2 ^ f.mantW, (if x = 0 then 1 else (x : Int)) - f.bias, f.mantW⟩

/-- The group size G and fraction width F of R214, for operands of at most this width. -/
def groupSize (width : Nat) : Nat := if width = 4 then 32 else if width = 8 then 16 else 8
def groupFrac (width : Nat) : Nat := if width = 4 then 17 else if width = 8 then 18 else 19

/-- The sum of a group's finite products, each truncated in the window of `F` fraction bits below `emax` (R215). -/
def groupAcc (frac : Nat) (emax : Int) : List (Factor × Factor) → Int
  | [] => 0
  | (a, b) :: rest =>
    let sh : Int := a.e + b.e - emax + frac - a.w - b.w
    let mag : Int := (scaleNat (a.m * b.m) sh / 2 ^ (-sh).toNat : Nat)
    (if a.neg != b.neg then -mag else mag) + groupAcc frac emax rest

/-- S of one group (R215): the operands' codes in pairs, and the formats of A and B. -/
def groupSum (fa fb : FloatFmt) (frac : Nat) (pairs : List (Nat × Nat)) : Num :=
  let vals := pairs.map (fun p => (fa.decode p.1, fb.decode p.2))
  let isInf (x : Num) : Bool := match x with | .inf _ => true | _ => false
  let isZero (x : Num) : Bool := match x with | .fin _ 0 _ => true | _ => false
  let sign (x : Num) : Bool := match x with | .inf s => s | .fin s _ _ => s | .nan => false
  if vals.any (fun v => v.1.isNan || v.2.isNan) then .nan
  else if vals.any (fun v => (isInf v.1 && isZero v.2) || (isZero v.1 && isInf v.2)) then .nan
  else
    let infs := (vals.filter (fun v => isInf v.1 || isInf v.2)).map (fun v => sign v.1 != sign v.2)
    if infs.contains true && infs.contains false then .nan
    else match infs with
    | s :: _ => .inf s
    | [] =>
      let nz := (pairs.map (fun p => (fa.factor p.1, fb.factor p.2))).filter (fun p => p.1.m != 0 && p.2.m != 0)
      match nz with
      | [] => .fin false 0 0
      | p :: rest =>
        let emax := rest.foldl (fun m q => max m (q.1.e + q.2.e)) (p.1.e + p.2.e)
        let acc := groupAcc frac emax nz
        if acc = 0 then .fin false 0 0 else .fin (acc < 0) acc.natAbs (emax - frac)

/-- One group added into an accumulator (R216): scaled, and one rounding. -/
def accumulate (acc : Nat) (s sa sb : Num) : Nat :=
  (fmtOf tagF32).encode 0 false ((((fmtOf tagF32).decode acc).add 0 ((s.mul sa).mul sb)))

/-- An accumulator element with its promotion scales, rounded to a format (R218). -/
def promote (dst : BitVec 4) (satnan : Bool) (acc : Nat) (pa pb : Option Nat) : Nat :=
  let f := fmtOf tagF32
  let one : Num := .fin false 1 0
  let s (p : Option Nat) : Num := match p with | some c => f.decode c | none => one
  (fmtOf dst).encode 0 satnan (((f.decode acc).mul (s pa)).mul (s pb))

end Sys2Proof.Machine
end

