-- ==== Sys2Proof/Machine/Special.lean ====
section
/-!
DEFINITION. The special-function unit (R376, R377): the special inputs, the exact results, and for every other input a free
value that keeps the stated error bound. The bound is checked against the exact result worked out to 200 fraction bits, so
it admits every value that the specification admits. Log entry: 26.
-/

namespace Sys2Proof.Machine

/-! ### Fixed point: integers in units of 2^−200 -/

/-- The fraction bits. -/
def fixBits : Nat := 200
/-- The unit. -/
def fixOne : Int := 2 ^ 200
/-- ln 2, π and 2 ÷ √π. -/
def fixLn2 : Int := 1113844574712631719546256151097547306333272293549090750737802
def fixPi : Int := 5048344754617993871973410141242436836214643421488662971535368
def fixTwoSqrtPi : Int := 1813235411955051368075975534027907639852476658415964181376627

/-- A product of fixed-point numbers. -/
def fixMul (a b : Int) : Int := a * b / 2 ^ 200
/-- A quotient of fixed-point numbers. -/
def fixDiv (a b : Int) : Int := a * 2 ^ 200 / b
/-- m × 2^e. -/
def fixOf (m : Nat) (e : Int) : Int := (scaleNat m (e + 200) / 2 ^ (-(e + 200)).toNat : Nat)

/-- A power series: `next` gives each term from the one before. -/
def series (next : Nat → Int → Int) : Nat → Nat → Int → Int
  | 0, _, _ => 0
  | n + 1, i, t => t + series next n (i + 1) (next i t)

/-- e^t for 0 ≤ t < 1. -/
def fixExp (t : Int) : Int := series (fun i u => fixMul u t / (i + 1)) 60 0 fixOne
/-- sin θ for 0 ≤ θ ≤ π ÷ 2. -/
def fixSin (a : Int) : Int := series (fun i u => -(fixMul (fixMul u a) a / ((2 * i + 2) * (2 * i + 3)))) 40 0 a
/-- The sum of z^i ÷ (2i + 1), for z = y². -/
def fixOdd (z : Int) : Nat → Nat → Int → Int
  | 0, _, _ => 0
  | n + 1, i, p => p / (2 * i + 1) + fixOdd z n (i + 1) (fixMul p z)
/-- artanh y. -/
def fixAtanh (y : Int) : Int := fixMul y (fixOdd (fixMul y y) 80 0 fixOne)
/-- erf x ÷ x, from z = x². -/
def fixErf (z : Int) : Int :=
  let rec go : Nat → Nat → Int → Int
    | 0, _, _ => 0
    | n + 1, i, p => p / (2 * i + 1) + go n (i + 1) (-(fixMul p z) / (i + 1))
  fixMul fixTwoSqrtPi (go 120 0 fixOne)

/-- ⌊√n⌋ by halving, for n below 4^k. -/
def isqrt (n : Nat) : Nat → Nat → Nat
  | 0, r => r
  | k + 1, r => let r' := r + 2 ^ k; isqrt n k (if r' * r' ≤ n then r' else r)

/-! ### Exact results -/

/-- A real result: (−1)^neg × (n ÷ d) × 2^e. -/
structure Ratio where
  neg : Bool
  n : Nat
  d : Nat
  e : Int
  deriving DecidableEq, Repr

/-- A fixed-point number as a ratio. -/
def Ratio.ofFix (v : Int) : Ratio := ⟨v < 0, v.natAbs, 1, -200⟩

/-- 2^u, u in fixed point: the power of two outside, and the factor in [1, 2). -/
def pow2 (u : Int) : Int × Nat := (u / 2 ^ 200, (fixExp (fixMul (u % 2 ^ 200) fixLn2)).toNat)

/-- A magnitude m × 2^e with an even exponent. -/
def evenExp (m : Nat) (e : Int) : Nat × Int := if e % 2 = 0 then (m, e) else (2 * m, e - 1)

/-- x modulo 2, in fixed point, for a magnitude m × 2^e: exact. -/
def mod2 (m : Nat) (e : Int) : Int := fixOf m e % (2 * fixOne)

/-- sin(π r) for r in [0, 2). -/
def sinPiFix (r : Int) : Int :=
  let half (q : Int) : Int := fixSin (fixMul fixPi (if fixOne < 2 * q then fixOne - q else q))
  if r < fixOne then half r else -(half (r - fixOne))

/-- The result of function `fn` at (−1)^s × m × 2^e, a finite value that is not zero (R376). -/
def sfuReal (fn : Nat) (s : Bool) (m : Nat) (e : Int) : Ratio :=
  let x := if s then -(fixOf m e) else fixOf m e
  match fn with
  | 0 => let p := pow2 x; ⟨false, p.2, 1, p.1 - 200⟩
  | 1 =>
    let k := Nat.log2 m
    let y := fixDiv (m - 2 ^ k : Int) (m + 2 ^ k : Int)
    Ratio.ofFix (((k : Int) + e) * fixOne + fixDiv (2 * fixAtanh y) fixLn2)
  | 2 => ⟨s, 1, m, -e⟩
  | 3 =>
    let q := evenExp m e
    ⟨false, isqrt (2 ^ 600 / q.1) 310 0, 1, -300 - q.2 / 2⟩
  | 4 =>
    let q := evenExp m e
    ⟨false, isqrt (q.1 * 2 ^ 400) 220 0, 1, q.2 / 2 - 200⟩
  | 5 => let r := Ratio.ofFix (sinPiFix (mod2 m e)); { r with neg := r.neg != s }
  | 6 => Ratio.ofFix (sinPiFix ((mod2 m e + fixOne / 2) % (2 * fixOne)))
  | 7 =>
    let p := pow2 (fixDiv (2 * fixOf m e) fixLn2)
    let a := p.2 * 2 ^ p.1.toNat
    ⟨s, a - 2 ^ 200, a + 2 ^ 200, 0⟩
  | 8 =>
    let p := pow2 (fixDiv x fixLn2)
    let a := p.2 * 2 ^ p.1.toNat
    ⟨false, a, 2 ^ (200 + (-p.1).toNat) + a, 0⟩
  | _ => let z := fixOf m e; ⟨s, (fixErf (fixMul z z)).toNat * m, 1, e - 200⟩

/-! ### Bounds (R376) -/

/-- |x| < k × 2^g? -/
def magLt (m : Nat) (e : Int) (k : Nat) (g : Int) : Bool := decide (scaleNat m (e - g) < scaleNat k (g - e))

/-- The error allowed, in units in the last place, and whether 2^−24 is allowed too. -/
def sfuBound (fn : Nat) (s : Bool) (m : Nat) (e : Int) : Nat × Bool :=
  match fn with
  | 0 => (if s && !magLt m e 126 0 && m * 2 ^ e.toNat ≠ 126 * 2 ^ (-e).toNat then 1 else 2, false)
  | 1 => if magLt m e 1 (-1) || !magLt m e 2 0 then (1, false) else (2, true)
  | 2 => (1, false)
  | 4 => (1, false)
  | 5 | 6 => (2, true)
  | 9 => (if magLt m e 1 (-12) then 1 else 2, false)
  | _ => (2, false)

/-- Does a value keep the bound on its error? -/
def Ratio.near (y : Ratio) (ulps : Nat) (abs : Bool) (v : Num) : Bool :=
  match v with
  | .fin t c f =>
    if y.n = 0 then decide (c = 0)
    else
      let g := min f y.e
      let diff := (signed t c f g * y.d - signed y.neg y.n y.e g).natAbs
      let u := max (ilog2 y.n y.d + y.e) (-126) - 23
      let within (k : Nat) (h : Int) : Bool := leScaled diff g (k * y.d) h
      within (ulps * 2 ^ 40 + 1) (u - 40) || (abs && within 1 (-24))
  | _ => false

/-- The code of the real number rounded to nearest. -/
def Ratio.round (y : Ratio) : Nat := (fmtOf tagF32).encodeRatio 0 false y.neg y.n y.d y.e

/-- A result within the bound: the free value where it keeps the bound, else the nearest code. -/
def sfuApprox (fn : Nat) (s : Bool) (m : Nat) (e : Int) (code : Nat) : Nat :=
  let y := sfuReal fn s m e
  let b := sfuBound fn s m e
  let c := (Config.sfu fn (BitVec.ofNat 32 code)).toNat
  if y.near b.1 b.2 ((fmtOf tagF32).decode c) then c else y.round

/-! ### The functions -/

/-- Is m × 2^e a power of two; a power of four? -/
def isPow2 (m : Nat) : Bool := m == 2 ^ Nat.log2 m
def isPow4 (m : Nat) (e : Int) : Bool := isPow2 m && ((Nat.log2 m : Int) + e) % 2 == 0
/-- Is a magnitude an integer; half an odd integer? -/
def isInteger (m : Nat) (e : Int) : Bool := decide (0 ≤ e) || m % 2 ^ (-e).toNat == 0
def isHalf (m : Nat) (e : Int) : Bool := !isInteger m e && isInteger m (e + 1)
/-- Is √x a binary32 value? -/
def rootExact (m : Nat) (e : Int) : Bool :=
  let q := evenExp m e
  let r := isqrt q.1 40 0
  r * r == q.1

/-- The code of 1.0 with a sign. -/
def oneCode (neg : Bool) : Nat := if neg then 0xBF800000 else 0x3F800000

/-- The function at a finite value that is not zero, where its result is exact; `none` where it is approximated. -/
def sfuExact (fn : Nat) (s : Bool) (m : Nat) (e : Int) (code : Nat) : Option Nat :=
  let sign := if s then 0x80000000 else 0
  match fn with
  | 0 =>
    if s && !magLt m e 150 0 && m * 2 ^ e.toNat ≠ 150 * 2 ^ (-e).toNat then some 0
    else if !s && !magLt m e 128 0 then some 0x7F800000
    else if isInteger m e && (!s || magLt m e 126 0 || m * 2 ^ e.toNat = 126 * 2 ^ (-e).toNat) then some (sfuReal fn s m e).round
    else none
  | 1 => if s then some 0x7FC00000 else if isPow2 m then some ((fmtOf tagF32).encode 0 false (.fin ((Nat.log2 m : Int) + e < 0) ((Nat.log2 m : Int) + e).natAbs 0)) else none
  | 2 =>
    if magLt m e 1 (-128) || (isPow2 m && (Nat.log2 m : Int) + e = -128) then some (sign + 0x7F800000)
    else if isPow2 m then some (sfuReal fn s m e).round else none
  | 3 => if s then some 0x7FC00000 else if isPow4 m e then some ((fmtOf tagF32).encode 0 false (.fin false 1 (-((Nat.log2 m : Int) + e) / 2))) else none
  | 4 => if s then some 0x7FC00000 else if rootExact m e then some (sfuReal fn s m e).round else none
  | 5 => if isInteger m e then some sign else if isHalf m e then some (oneCode (s != decide (fixOne ≤ mod2 m e))) else none
  | 6 => if isInteger m e then some (oneCode (mod2 m e != 0)) else if isHalf m e then some 0 else none
  | 7 => if magLt m e 1 (-12) then some code else if !magLt m e 10 0 then some (oneCode s) else none
  | 8 =>
    if s && !magLt m e 104 0 && m * 2 ^ e.toNat ≠ 104 * 2 ^ (-e).toNat then some 0
    else if !s && !magLt m e 18 0 then some (oneCode false) else none
  | _ => if !magLt m e 4 0 then some (oneCode s) else none

/-- NaN, infinities and zeros (R377): the codes for NaN, +∞, −∞, +0 and −0. -/
def sfuSpecial (fn : Nat) : Nat × Nat × Nat × Nat × Nat :=
  let nan := 0x7FC00000
  let inf := 0x7F800000
  let one := 0x3F800000
  match fn with
  | 0 => (nan, inf, 0, one, one)
  | 1 => (nan, inf, nan, 0xFF800000, 0xFF800000)
  | 2 => (nan, 0, 0x80000000, inf, 0xFF800000)
  | 3 => (nan, 0, nan, inf, 0xFF800000)
  | 4 => (nan, inf, nan, 0, 0x80000000)
  | 5 => (nan, nan, nan, 0, 0x80000000)
  | 6 => (nan, nan, nan, one, one)
  | 7 | 9 => (nan, one, 0xBF800000, 0, 0x80000000)
  | _ => (nan, one, 0, 0x3F000000, 0x3F000000)

/-- The special function `fn` at a binary32 code. TANH, ERF and SINPI change sign with their operand, and COSPI does not,
so the free value is that of the magnitude. -/
def sfuCode (fn code : Nat) : Nat :=
  let sp := sfuSpecial fn
  match (fmtOf tagF32).decode code with
  | .nan => sp.1
  | .inf neg => if neg then sp.2.2.1 else sp.2.1
  | .fin s 0 _ => if s then sp.2.2.2.2 else sp.2.2.2.1
  | .fin s m e =>
    match sfuExact fn s m e code with
    | some c => c
    | none =>
      let mag := code % 2 ^ 31
      if fn = 7 || fn = 9 || fn = 5 then
        let c := sfuApprox fn false m e mag
        if s then (if c < 2 ^ 31 then c + 2 ^ 31 else c - 2 ^ 31) else c
      else if fn = 6 then sfuApprox fn false m e mag
      else sfuApprox fn s m e code

end Sys2Proof.Machine
end

