-- ==== Sys2Proof/Machine/Vector.lean ====
section
/-!
DEFINITION. Classes 100 and 101: vector tiles and predicates (R357 to R381). A tile is read as its value sequence (R357) and
written whole under the writing predicate (R360).
Also log entries 99 (the first element of a scan), 100 (VSEL on FP64 tiles).
-/

namespace Sys2Proof.Machine

/-! ### The value sequence (R357) -/

/-- The `n` fields of `w` bits of a word, the lowest first. -/
def splitWord (w : Nat) : Nat → Nat → List Nat
  | 0, _ => []
  | n + 1, x => x % 2 ^ w :: splitWord w n (x / 2 ^ w)

/-- The number whose fields of `w` bits these are. -/
def joinWord (w : Nat) : List Nat → Nat
  | [] => 0
  | x :: rest => x % 2 ^ w + 2 ^ w * joinWord w rest

/-- The 64-bit values of pairs of elements. -/
def pairUp : List Word → List Nat
  | lo :: hi :: rest => (lo.toNat + 2 ^ 32 * hi.toNat) :: pairUp rest
  | _ => []

/-- The codes of elements under a tag. -/
def unpack (tag : BitVec 4) (es : List Word) : List Nat :=
  if tag == tagF64 then pairUp es
  else es.flatMap (fun e => splitWord (widthOf tag) (perElem tag) e.toNat)

/-- Lists of `n` entries each, up to `k` of them. -/
def chunks {α : Type} (n : Nat) : Nat → List α → List (List α)
  | 0, _ => []
  | k + 1, l => l.take n :: chunks n k (l.drop n)

/-- 1,024 elements from codes under a tag; missing values are zero. -/
def pack (tag : BitVec 4) (vs : List Nat) : List Word :=
  if tag == tagF64 then
    (chunks 1 512 vs).flatMap (fun c => let v := c.headD 0; [BitVec.ofNat 32 v, BitVec.ofNat 32 (v / 2 ^ 32)])
  else (chunks (perElem tag) 1024 vs).map (fun c => BitVec.ofNat 32 (joinWord (widthOf tag) c))

/-- A tile's values. -/
def VTile.values (t : VTile) : List Nat := unpack t.tag t.elems
/-- A tile of values. -/
def VTile.ofValues (tag : BitVec 4) (vs : List Nat) : VTile := ⟨tag, pack tag vs⟩

/-- Element (r, c) of a tile. -/
def VTile.at (t : VTile) (r c : Nat) : Word := t.elems.getD (64 * r + c) 0

/-- A tile from its elements by row and column. -/
def VTile.build (tag : BitVec 4) (f : Nat → Nat → Word) : VTile :=
  ⟨tag, (List.range 1024).map (fun e => f (e / 64) (e % 64))⟩

/-! ### Writing (R360) -/

/-- The bit of a predicate that governs element `e` of a tile with this tag. -/
def governs (tag : BitVec 4) (p : BitVec 1024) (e : Nat) : Bool := p.getLsbD (if tag == tagF64 then e / 2 * 2 else e)

/-- The elements of `new` where the predicate holds, those of `old` elsewhere. -/
def mergeElems (tag : BitVec 4) (p : BitVec 1024) : Nat → List Word → List Word → List Word
  | e, n :: new, o :: old => (if governs tag p e then n else o) :: mergeElems tag p (e + 1) new old
  | _, new, _ => new

/-- Latencies (R361): forms with FP64 take 16 bundles more. -/
def vlat (base : Nat) (f64 : Bool) : Nat := if f64 then base + 16 else base

/-- Write a tile under the writing predicate: with one other than P0 the destination's tag must be the tag written. -/
def writeTile (lat : Nat) (vd : VReg) (t : VTile) (p : PReg) (s : State) : Eff State :=
  if p = 0 then .ok (s.write lat (.v vd t))
  else
    let old := s.src.regs.vec vd
    if old.tag = t.tag then
      .ok (s.write lat (.v vd ⟨t.tag, mergeElems t.tag (s.src.regs.pred p) 0 t.elems old.elems⟩))
    else raise tFormat s

/-- Write a predicate under the writing predicate; `f64` makes the even column's bit govern the pair. -/
def writePred (lat : Nat) (pd : PReg) (v : BitVec 1024) (p : PReg) (f64 : Bool) (s : State) : Eff State :=
  let old := s.src.regs.pred pd
  let m := s.src.regs.pred p
  let m := if f64 then
      let even := m &&& BitVec.ofNat 1024 (joinWord 2 (List.replicate 512 1))
      even ||| (even <<< 1)
    else m
  .ok (s.write lat (.p pd ((v &&& m) ||| (old &&& ~~~m))))

/-- The bits of a predicate from a list, the first element's first. -/
def predOf (bs : List Bool) : BitVec 1024 := BitVec.ofNat 1024 (joinWord 1 (bs.map Bool.toNat))

/-- Go on only if a tile carries a tag. -/
def hasTag (t : VTile) (tag : BitVec 4) (s : State) : Eff Unit := need (t.tag == tag) tFormat s

/-! ### Elementwise (R362 to R366) -/

/-- The rounding mode in force (R211). -/
def State.rm (s : State) : BitVec 2 := s.src.status.rm

/-- An arithmetic operation of two tiles. -/
def varith (op : VOp) (f : BitVec 4) (vd va vb : VReg) (p : PReg) (s : State) : Eff State := do
  userOnly s
  let a := s.src.regs.vec va
  let b := s.src.regs.vec vb
  hasTag a f s
  hasTag b f s
  writeTile (vlat 20 (f == tagF64)) vd (.ofValues f (List.zipWith (fun x y => valueOp f s.rm op x y 0) a.values b.values)) p s

/-- `VFMA` and `VFMS`. -/
def vfused (op : VOp) (f : BitVec 4) (vd va vb vc : VReg) (p : PReg) (s : State) : Eff State := do
  userOnly s
  let a := s.src.regs.vec va
  let b := s.src.regs.vec vb
  let c := s.src.regs.vec vc
  hasTag a f s
  hasTag b f s
  hasTag c f s
  writeTile (vlat 20 (f == tagF64)) vd
    (.ofValues f (List.zipWith (fun x yz => valueOp f s.rm op x yz.1 yz.2) a.values (b.values.zip c.values))) p s

/-- `VABS` and `VNEG`. -/
def vunary (op : VOp) (f : BitVec 4) (vd va : VReg) (p : PReg) (s : State) : Eff State := do
  userOnly s
  let a := s.src.regs.vec va
  hasTag a f s
  writeTile (vlat 20 (f == tagF64)) vd (.ofValues f (a.values.map (fun x => valueOp f s.rm op x 0 0))) p s

/-- `VAND`, `VOR` and `VXOR` on INT32 tiles. -/
def vbitwise (op : Word → Word → Word) (vd va vb : VReg) (p : PReg) (s : State) : Eff State := do
  userOnly s
  let a := s.src.regs.vec va
  let b := s.src.regs.vec vb
  hasTag a tagI32 s
  hasTag b tagI32 s
  writeTile 20 vd ⟨tagI32, List.zipWith op a.elems b.elems⟩ p s

/-- The shifts of R363: left, logically right, arithmetically right. -/
inductive ShiftOp | left | logical | arithmetic
  deriving DecidableEq, Repr

/-- A shift of a `w`-bit value by `k` below `w`. -/
def shiftValue (w : Nat) (op : ShiftOp) (x k : Nat) : Nat :=
  match op with
  | .left => x * 2 ^ k % 2 ^ w
  | .logical => x / 2 ^ k
  | .arithmetic => ofInt w (intOf w x / 2 ^ k)

/-- `VSHL`, `VSHR` and `VSRA`: by a tile of counts, or by a constant. -/
def vshift (op : ShiftOp) (f : BitVec 4) (vd va : VReg) (cnt : ShiftCount) (p : PReg) (s : State) : Eff State := do
  userOnly s
  let w := widthOf f
  let a := s.src.regs.vec va
  hasTag a f s
  match cnt with
  | .tile vb => do
    let b := s.src.regs.vec vb
    hasTag b f s
    writeTile 20 vd (.ofValues f (List.zipWith (fun x k => shiftValue w op x (k % w)) a.values b.values)) p s
  | .const k => do
    need (k.toNat < w) tIllegal s
    writeTile 20 vd (.ofValues f (a.values.map (fun x => shiftValue w op x k.toNat))) p s

/-- A bit for each element, set where a test holds for every value of the element; the pair of an FP64 value alike. -/
def elementBits (tag : BitVec 4) (tests : List Bool) : List Bool :=
  if tag == tagF64 then tests.flatMap (fun b => [b, b])
  else (chunks (perElem tag) 1024 tests).map (fun c => c.all id)

/-- `VCMP` (R364). -/
def vcmp (rel : BitVec 3) (f : BitVec 4) (pd : PReg) (va vb : VReg) (p : PReg) (s : State) : Eff State := do
  userOnly s
  let a := s.src.regs.vec va
  let b := s.src.regs.vec vb
  hasTag a f s
  hasTag b f s
  writePred (vlat 20 (f == tagF64)) pd (predOf (elementBits f (List.zipWith (valueRel f rel) a.values b.values))) p
    (f == tagF64) s

/-- `VSEL` (R365). -/
def vsel (vd va vb : VReg) (sel : PReg) (s : State) : Eff State := do
  userOnly s
  let a := s.src.regs.vec va
  let b := s.src.regs.vec vb
  need (a.tag == b.tag) tFormat s
  .ok (s.write 20 (.v vd ⟨a.tag, mergeElems tagI32 (s.src.regs.pred sel) 0 a.elems b.elems⟩))

/-- `VMOV` (R365). -/
def vmov (vd va : VReg) (p : PReg) (s : State) : Eff State := do
  userOnly s
  writeTile 20 vd (s.src.regs.vec va) p s

/-- The elements of a splat (R366). -/
def splatTile (f : BitVec 4) (lo hi : Word) : VTile :=
  VTile.build f (fun _ c =>
    if f == tagF64 then (if c % 2 = 0 then lo else hi)
    else if f == tagBf16 then lo.extractLsb' 0 16 ++ lo.extractLsb' 0 16
    else if f == tagI8 then BitVec.ofNat 32 (joinWord 8 (List.replicate 4 lo.toNat))
    else lo)

/-- `VSPLAT` (R366): an FP64 splat reads a pair. -/
def vsplat (f : BitVec 4) (vd : VReg) (ds : DReg) (p : PReg) (s : State) : Eff State := do
  userOnly s
  let lo ← single s ds
  let hi ← if f == tagF64 then single s (ds + 1) else .ok 0
  writeTile (vlat 20 (f == tagF64)) vd (splatTile f lo hi) p s

/-- `VIOTA` (R366). -/
def viota (m : BitVec 2) (vd : VReg) (p : PReg) (s : State) : Eff State := do
  userOnly s
  need (m != 3) tIllegal s
  writeTile 20 vd (VTile.build tagI32 (fun r c => BitVec.ofNat 32 (if m = 0 then 64 * r + c else if m = 1 then r else c))) p s

/-! ### Conversion and quantisation (R367 to R370) -/

/-- The values of a tile with this tag. -/
def valuesOf (tag : BitVec 4) : Nat := if tag == tagF64 then 512 else 1024 * perElem tag

/-- `VCVT` (R367). -/
def vcvt (t : BitVec 4) (vd va : VReg) (p : PReg) (s : State) : Eff State := do
  userOnly s
  let a := s.src.regs.vec va
  need (a.tag != tagScale && a.tag != tagIdx2) tFormat s
  writeTile (vlat 20 (t == tagF64 || a.tag == tagF64)) vd
    (.ofValues t ((a.values.take (valuesOf t)).map (convert a.tag t s.rm s.src.status.satnan))) p s

/-- `VQUANT` (R368). -/
def vquant (t : BitVec 4) (vd vc va : VReg) (s : State) : Eff State := do
  userOnly s
  need (vd != vc) tIllegal s
  let a := s.src.regs.vec va
  need (a.tag == tagF32 || a.tag == tagBf16) tFormat s
  let blocks := (chunks 32 (valuesOf a.tag / 32) a.values).map (quantise a.tag t)
  .ok ((s.write 28 (.v vd (.ofValues t (blocks.flatMap (·.1))))).write 28 (.v vc (.ofValues tagScale (blocks.map (·.2)))))

/-- `VDEQ` (R369). -/
def vdeq (vd va vb : VReg) (p : PReg) (s : State) : Eff State := do
  userOnly s
  let a := s.src.regs.vec va
  let b := s.src.regs.vec vb
  need (a.tag == tagE4m3 || a.tag == tagE5m2 || a.tag == tagFp4) tFormat s
  hasTag b tagScale s
  let scales := b.values.flatMap (List.replicate 32)
  writeTile 20 vd (.ofValues tagF32 (List.zipWith (dequantise a.tag s.rm) (a.values.take 1024) scales)) p s

/-- `VCLASS` (R370). -/
def vclass (pd : PReg) (va : VReg) (m : BitVec 4) (p : PReg) (s : State) : Eff State := do
  userOnly s
  let a := s.src.regs.vec va
  need (a.tag != tagScale && a.tag != tagIdx2) tFormat s
  writePred 20 pd (predOf (elementBits a.tag (a.values.map (fun x => m.getLsbD (codeClass a.tag x))))) p (a.tag == tagF64) s

/-- `PAND`, `POR` and `PXOR` (R371). -/
def plogic (op : BitVec 1024 → BitVec 1024 → BitVec 1024) (pd pa pb p : PReg) (s : State) : Eff State := do
  userOnly s
  writePred 20 pd (op (s.src.regs.pred pa) (s.src.regs.pred pb)) p false s

/-- `PNOT` (R371). -/
def pnot (pd pa p : PReg) (s : State) : Eff State := do
  userOnly s
  writePred 20 pd (~~~(s.src.regs.pred pa)) p false s

/-! ### Axis operations (R372 to R375) -/

/-- A move of elements along rows or columns: `src` gives the place each element comes from. -/
def vmove (lat : Nat) (ok : VTile → Bool) (src : BitVec 4 → Nat → Nat → Nat × Nat) (vd va : VReg) (p : PReg) (s : State) :
    Eff State := do
  userOnly s
  let a := s.src.regs.vec va
  need (ok a) tFormat s
  writeTile lat vd (VTile.build a.tag (fun r c => let q := src a.tag r c; a.at q.1 q.2)) p s

/-- An FP64 tile moves along rows by an even k only. -/
def evenF64 (k : BitVec 6) (a : VTile) : Bool := !(a.tag == tagF64 && k.getLsbD 0)

/-- combine of R373: its operation, and the format it works in. -/
def combineOp (op : BitVec 2) : VOp := if op = 0 then .add else if op = 1 then .max else .min

/-- A BF16 code as the FP32 code of its value. -/
def widen (x : Nat) : Nat := x * 2 ^ 16

/-- The format sums are formed in, and the values taken into it (R373). -/
def sumIn (f : BitVec 4) (op : BitVec 2) : BitVec 4 := if f == tagBf16 && op == 0 then tagF32 else f
def sumOf (f : BitVec 4) (op : BitVec 2) (xs : List Nat) : List Nat := if f == tagBf16 && op == 0 then xs.map widen else xs
/-- A result of a sum back in its format. -/
def sumBack (f : BitVec 4) (op rm : BitVec 2) (x : Nat) : Nat := if f == tagBf16 && op == 0 then convert tagF32 tagBf16 rm false x else x

/-- One round of the tree: neighbours combined. -/
def treeRound (g : Nat → Nat → Nat) : List Nat → List Nat
  | x :: y :: rest => g x y :: treeRound g rest
  | xs => xs

/-- The tree of R373 over 2^k values. -/
def tree (g : Nat → Nat → Nat) : Nat → List Nat → Nat
  | 0, xs => xs.headD 0
  | k + 1, xs => tree g k (treeRound g xs)

/-- Inclusive prefixes (R374). -/
def prefixes (g : Nat → Nat → Nat) : Option Nat → List Nat → List Nat
  | _, [] => []
  | none, x :: rest => x :: prefixes g (some x) rest
  | some y, x :: rest => let z := g y x; z :: prefixes g (some z) rest

/-- A line of values reduced: the same length, every value the result. -/
def reduceLine (f : BitVec 4) (op rm : BitVec 2) (xs : List Nat) : List Nat :=
  let g := fun x y => valueOp (sumIn f op) rm (combineOp op) x y 0
  List.replicate xs.length (sumBack f op rm (tree g (Nat.log2 xs.length) (sumOf f op xs)))

/-- A line of values scanned: no NaN's payload or sign reaches a result, the first one included (R207). -/
def scanLine (f : BitVec 4) (op rm : BitVec 2) (xs : List Nat) : List Nat :=
  let g := fun x y => valueOp (sumIn f op) rm (combineOp op) x y 0
  (prefixes g none (sumOf f op xs)).map (fun y => canonical f (sumBack f op rm y))

/-- The rows of a list, `n` long each, as columns. -/
def transposeLists : Nat → List (List Nat) → List (List Nat)
  | 0, _ => []
  | k + 1, rows => rows.map (·.headD 0) :: transposeLists k (rows.map List.tail)

/-- An operation on lines along rows, or down columns. -/
def vlines (base : Nat) (line : BitVec 4 → BitVec 2 → BitVec 2 → List Nat → List Nat) (down : Bool) (op : BitVec 2)
    (f : BitVec 4) (vd va : VReg) (p : PReg) (s : State) : Eff State := do
  userOnly s
  let a := s.src.regs.vec va
  hasTag a f s
  let n := valuesOf f / 16
  let rows := chunks n 16 a.values
  let out := if down then transposeLists 16 ((transposeLists n rows).map (line f op s.rm)) else rows.map (line f op s.rm)
  writeTile (vlat base (f == tagF64)) vd (.ofValues f out.flatten) p s

/-- `VTRN` (R375). -/
def vtrn (vd va : VReg) (s : State) : Eff State := do
  userOnly s
  let a := s.src.regs.vec va
  need (a.tag != tagF64) tFormat s
  .ok (s.write 36 (.v vd (VTile.build a.tag (fun r c => a.at (c % 16) (c / 16 * 16 + r)))))

/-- `VSFU` (R376). -/
def vsfu (fn : Nat) (vd va : VReg) (p : PReg) (s : State) : Eff State := do
  userOnly s
  let a := s.src.regs.vec va
  hasTag a tagF32 s
  writeTile 68 vd (.ofValues tagF32 (a.values.map (sfuCode fn))) p s

/-! ### Votes, compression and single elements (R378 to R381) -/

/-- `VANY` and `VALL` (R378). -/
def vote (f : BitVec 1024 → Bool) (c : CReg) (p : PReg) (s : State) : Eff State := do
  userOnly s
  .ok (s.write 28 (.c c (f (s.src.regs.pred p))))

/-- Tags that compression accepts (R379). -/
def compressible (tag : BitVec 4) : Bool := tag != tagF64 && tag != tagScale && tag != tagIdx2

/-- Does value `a` rank above `b` (R236)? -/
def ranksAbove (tag : BitVec 4) (a b : Nat) : Bool :=
  let mag (x : Num) : Num := match x with | .fin _ m e => .fin false m e | .inf _ => .inf false | .nan => .nan
  let x := mag (decodeTag tag a)
  let y := mag (decodeTag tag b)
  if y.isNan then false else x.isNan || y.lt x

/-- The place of the highest-ranked entry; ties go to the lower. -/
def topRank (tag : BitVec 4) : List (Nat × Nat) → Option (Nat × Nat)
  | [] => none
  | x :: rest => match topRank tag rest with
    | none => some x
    | some y => if ranksAbove tag y.2 x.2 then some y else some x

/-- The two kept places of a group, the lower first. -/
def keptPlaces (tag : BitVec 4) (group : List Nat) : Nat × Nat :=
  let xs := (List.range 4).zip group
  match topRank tag xs with
  | none => (0, 1)
  | some x => match topRank tag (xs.filter (fun e => e.1 != x.1)) with
    | none => (0, 1)
    | some y => (min x.1 y.1, max x.1 y.1)

/-- `VCOMPRESS` (R379). -/
def vcompress (vd vc va : VReg) (s : State) : Eff State := do
  userOnly s
  need (vd != vc) tIllegal s
  let a := s.src.regs.vec va
  need (compressible a.tag) tFormat s
  let groups := (chunks 4 (valuesOf a.tag / 4) a.values).map (fun g => (g, keptPlaces a.tag g))
  let kept := groups.flatMap (fun g => [g.1.getD g.2.1 0, g.1.getD g.2.2 0])
  let pairs := groups.map (fun g => g.2.1 + 4 * g.2.2)
  .ok ((s.write 24 (.v vd (.ofValues a.tag kept))).write 24
    (.v vc ⟨tagIdx2, (chunks 8 1024 pairs).map (fun c => BitVec.ofNat 32 (joinWord 4 c))⟩))

/-- A group of four from its kept values and its pair (R235): the later place wins where both are the same. -/
def expandGroup (v0 v1 pair : Nat) : List Nat :=
  (List.range 4).map (fun i => if i = pair / 4 % 4 then v1 else if i = pair % 4 then v0 else 0)

/-- `VEXPAND` (R380). -/
def vexpand (vd va vb : VReg) (p : PReg) (s : State) : Eff State := do
  userOnly s
  let a := s.src.regs.vec va
  let b := s.src.regs.vec vb
  need (compressible a.tag) tFormat s
  hasTag b tagIdx2 s
  let n := valuesOf a.tag / 4
  let pairs := (b.elems.flatMap (fun e => splitWord 4 8 e.toNat)).take n
  let kept := chunks 2 n a.values
  writeTile 24 vd (.ofValues a.tag (List.zipWith (fun k q => expandGroup (k.getD 0 0) (k.getD 1 0) q) kept pairs).flatten) p s

/-- `VEXTR` (R381). -/
def vextr (dd : DReg) (va : VReg) (row : BitVec 4) (col : BitVec 6) (s : State) : Eff State := do
  userOnly s
  .ok (s.write 24 (.d dd (Dom.single ((s.src.regs.vec va).at row.toNat col.toNat))))

/-- `VINSR` (R381). -/
def vinsr (vd : VReg) (ds : DReg) (row : BitVec 4) (col : BitVec 6) (s : State) : Eff State := do
  userOnly s
  let v ← single s ds
  let old := s.src.regs.vec vd
  .ok (s.write 20 (.v vd ⟨old.tag, old.elems.set (64 * row.toNat + col.toNat) v⟩))

/-! ### Meanings -/

/-- `VADD` (R362). -/
def execVadd (f : BitVec 4) (vd va vb : VReg) (p : PReg) (s : State) : Host.Outcome State Fault Refusal := syllable (varith .add f vd va vb p) s
/-- `VSUB` (R362). -/
def execVsub (f : BitVec 4) (vd va vb : VReg) (p : PReg) (s : State) : Host.Outcome State Fault Refusal := syllable (varith .sub f vd va vb p) s
/-- `VMUL` (R362). -/
def execVmul (f : BitVec 4) (vd va vb : VReg) (p : PReg) (s : State) : Host.Outcome State Fault Refusal := syllable (varith .mul f vd va vb p) s
/-- `VMIN` (R362). -/
def execVmin (f : BitVec 4) (vd va vb : VReg) (p : PReg) (s : State) : Host.Outcome State Fault Refusal := syllable (varith .min f vd va vb p) s
/-- `VMAX` (R362). -/
def execVmax (f : BitVec 4) (vd va vb : VReg) (p : PReg) (s : State) : Host.Outcome State Fault Refusal := syllable (varith .max f vd va vb p) s
/-- `VFMA` (R362). -/
def execVfma (f : BitVec 4) (vd va vb vc : VReg) (p : PReg) (s : State) : Host.Outcome State Fault Refusal := syllable (vfused .fma f vd va vb vc p) s
/-- `VFMS` (R362). -/
def execVfms (f : BitVec 4) (vd va vb vc : VReg) (p : PReg) (s : State) : Host.Outcome State Fault Refusal := syllable (vfused .fms f vd va vb vc p) s
/-- `VABS` (R362). -/
def execVabs (f : BitVec 4) (vd va : VReg) (p : PReg) (s : State) : Host.Outcome State Fault Refusal := syllable (vunary .abs f vd va p) s
/-- `VNEG` (R362). -/
def execVneg (f : BitVec 4) (vd va : VReg) (p : PReg) (s : State) : Host.Outcome State Fault Refusal := syllable (vunary .neg f vd va p) s
/-- `VAND` (R363). -/
def execVand (vd va vb : VReg) (p : PReg) (s : State) : Host.Outcome State Fault Refusal := syllable (vbitwise (· &&& ·) vd va vb p) s
/-- `VOR` (R363). -/
def execVor (vd va vb : VReg) (p : PReg) (s : State) : Host.Outcome State Fault Refusal := syllable (vbitwise (· ||| ·) vd va vb p) s
/-- `VXOR` (R363). -/
def execVxor (vd va vb : VReg) (p : PReg) (s : State) : Host.Outcome State Fault Refusal := syllable (vbitwise (· ^^^ ·) vd va vb p) s
/-- `VSHL` (R363). -/
def execVshl (f : BitVec 4) (vd va : VReg) (cnt : ShiftCount) (p : PReg) (s : State) : Host.Outcome State Fault Refusal := syllable (vshift .left f vd va cnt p) s
/-- `VSHR` (R363). -/
def execVshr (f : BitVec 4) (vd va : VReg) (cnt : ShiftCount) (p : PReg) (s : State) : Host.Outcome State Fault Refusal := syllable (vshift .logical f vd va cnt p) s
/-- `VSRA` (R363). -/
def execVsra (f : BitVec 4) (vd va : VReg) (cnt : ShiftCount) (p : PReg) (s : State) : Host.Outcome State Fault Refusal := syllable (vshift .arithmetic f vd va cnt p) s
/-- `VCMP` (R364). -/
def execVcmp (rel : BitVec 3) (f : BitVec 4) (pd : PReg) (va vb : VReg) (p : PReg) (s : State) : Host.Outcome State Fault Refusal := syllable (vcmp rel f pd va vb p) s
/-- `VSEL` (R365). -/
def execVsel (vd va vb : VReg) (sel : PReg) (s : State) : Host.Outcome State Fault Refusal := syllable (vsel vd va vb sel) s
/-- `VMOV` (R365). -/
def execVmov (vd va : VReg) (p : PReg) (s : State) : Host.Outcome State Fault Refusal := syllable (vmov vd va p) s
/-- `VSPLAT` (R366). -/
def execVsplat (f : BitVec 4) (vd : VReg) (ds : DReg) (p : PReg) (s : State) : Host.Outcome State Fault Refusal := syllable (vsplat f vd ds p) s
/-- `VIOTA` (R366). -/
def execViota (m : BitVec 2) (vd : VReg) (p : PReg) (s : State) : Host.Outcome State Fault Refusal := syllable (viota m vd p) s
/-- `VCVT` (R367). -/
def execVcvt (t : BitVec 4) (vd va : VReg) (p : PReg) (s : State) : Host.Outcome State Fault Refusal := syllable (vcvt t vd va p) s
/-- `VQUANT` (R368). -/
def execVquant (t : BitVec 4) (vd vc va : VReg) (s : State) : Host.Outcome State Fault Refusal := syllable (vquant t vd vc va) s
/-- `VDEQ` (R369). -/
def execVdeq (vd va vb : VReg) (p : PReg) (s : State) : Host.Outcome State Fault Refusal := syllable (vdeq vd va vb p) s
/-- `VCLASS` (R370). -/
def execVclass (pd : PReg) (va : VReg) (m : BitVec 4) (p : PReg) (s : State) : Host.Outcome State Fault Refusal := syllable (vclass pd va m p) s
/-- `PAND` (R371). -/
def execPand (pd pa pb : PReg) (p : PReg) (s : State) : Host.Outcome State Fault Refusal := syllable (plogic (· &&& ·) pd pa pb p) s
/-- `POR` (R371). -/
def execPor (pd pa pb : PReg) (p : PReg) (s : State) : Host.Outcome State Fault Refusal := syllable (plogic (· ||| ·) pd pa pb p) s
/-- `PXOR` (R371). -/
def execPxor (pd pa pb : PReg) (p : PReg) (s : State) : Host.Outcome State Fault Refusal := syllable (plogic (· ^^^ ·) pd pa pb p) s
/-- `PNOT` (R371). -/
def execPnot (pd pa : PReg) (p : PReg) (s : State) : Host.Outcome State Fault Refusal := syllable (pnot pd pa p) s
/-- `VROTR` (R372). -/
def execVrotr (vd va : VReg) (k : BitVec 6) (p : PReg) (s : State) : Host.Outcome State Fault Refusal := syllable (vmove 24 (evenF64 k) (fun _ r c => (r, (c + 64 - k.toNat) % 64)) vd va p) s
/-- `VROTC` (R372). -/
def execVrotc (vd va : VReg) (k : BitVec 6) (p : PReg) (s : State) : Host.Outcome State Fault Refusal := syllable (vmove 36 (fun _ => true) (fun _ r c => ((r + 16 - k.toNat % 16) % 16, c)) vd va p) s
/-- `VBCR` (R372). -/
def execVbcr (vd va : VReg) (k : BitVec 6) (p : PReg) (s : State) : Host.Outcome State Fault Refusal := syllable (vmove 24 (evenF64 k) (fun tag r c => (r, if tag == tagF64 then k.toNat + c % 2 else k.toNat)) vd va p) s
/-- `VBCC` (R372). -/
def execVbcc (vd va : VReg) (k : BitVec 6) (p : PReg) (s : State) : Host.Outcome State Fault Refusal := syllable (vmove 36 (fun _ => true) (fun _ _ c => (k.toNat, c)) vd va p) s
/-- `VREDR` (R373). -/
def execVredr (op : BitVec 2) (f : BitVec 4) (vd va : VReg) (p : PReg) (s : State) : Host.Outcome State Fault Refusal := syllable (vlines 28 reduceLine false op f vd va p) s
/-- `VREDC` (R373). -/
def execVredc (op : BitVec 2) (f : BitVec 4) (vd va : VReg) (p : PReg) (s : State) : Host.Outcome State Fault Refusal := syllable (vlines 40 reduceLine true op f vd va p) s
/-- `VSCANR` (R374). -/
def execVscanr (op : BitVec 2) (f : BitVec 4) (vd va : VReg) (p : PReg) (s : State) : Host.Outcome State Fault Refusal := syllable (vlines 28 scanLine false op f vd va p) s
/-- `VSCANC` (R374). -/
def execVscanc (op : BitVec 2) (f : BitVec 4) (vd va : VReg) (p : PReg) (s : State) : Host.Outcome State Fault Refusal := syllable (vlines 40 scanLine true op f vd va p) s
/-- `VTRN` (R375). -/
def execVtrn (vd va : VReg) (s : State) : Host.Outcome State Fault Refusal := syllable (vtrn vd va) s
/-- `VSFU_EXP2` (R376). -/
def execVsfuExp2 (vd va : VReg) (p : PReg) (s : State) : Host.Outcome State Fault Refusal := syllable (vsfu 0 vd va p) s
/-- `VSFU_LOG2` (R376). -/
def execVsfuLog2 (vd va : VReg) (p : PReg) (s : State) : Host.Outcome State Fault Refusal := syllable (vsfu 1 vd va p) s
/-- `VSFU_RCP` (R376). -/
def execVsfuRcp (vd va : VReg) (p : PReg) (s : State) : Host.Outcome State Fault Refusal := syllable (vsfu 2 vd va p) s
/-- `VSFU_RSQRT` (R376). -/
def execVsfuRsqrt (vd va : VReg) (p : PReg) (s : State) : Host.Outcome State Fault Refusal := syllable (vsfu 3 vd va p) s
/-- `VSFU_SQRT` (R376). -/
def execVsfuSqrt (vd va : VReg) (p : PReg) (s : State) : Host.Outcome State Fault Refusal := syllable (vsfu 4 vd va p) s
/-- `VSFU_SINPI` (R376). -/
def execVsfuSinpi (vd va : VReg) (p : PReg) (s : State) : Host.Outcome State Fault Refusal := syllable (vsfu 5 vd va p) s
/-- `VSFU_COSPI` (R376). -/
def execVsfuCospi (vd va : VReg) (p : PReg) (s : State) : Host.Outcome State Fault Refusal := syllable (vsfu 6 vd va p) s
/-- `VSFU_TANH` (R376). -/
def execVsfuTanh (vd va : VReg) (p : PReg) (s : State) : Host.Outcome State Fault Refusal := syllable (vsfu 7 vd va p) s
/-- `VSFU_SIGM` (R376). -/
def execVsfuSigm (vd va : VReg) (p : PReg) (s : State) : Host.Outcome State Fault Refusal := syllable (vsfu 8 vd va p) s
/-- `VSFU_ERF` (R376). -/
def execVsfuErf (vd va : VReg) (p : PReg) (s : State) : Host.Outcome State Fault Refusal := syllable (vsfu 9 vd va p) s
/-- `VANY` (R378). -/
def execVany (c : CReg) (p : PReg) (s : State) : Host.Outcome State Fault Refusal := syllable (vote (· != 0) c p) s
/-- `VALL` (R378). -/
def execVall (c : CReg) (p : PReg) (s : State) : Host.Outcome State Fault Refusal := syllable (vote (· == BitVec.allOnes 1024) c p) s
/-- `VCOMPRESS` (R379). -/
def execVcompress (vd vc va : VReg) (s : State) : Host.Outcome State Fault Refusal := syllable (vcompress vd vc va) s
/-- `VEXPAND` (R380). -/
def execVexpand (vd va vb : VReg) (p : PReg) (s : State) : Host.Outcome State Fault Refusal := syllable (vexpand vd va vb p) s
/-- `VEXTR` (R381). -/
def execVextr (dd : DReg) (va : VReg) (row : BitVec 4) (col : BitVec 6) (s : State) : Host.Outcome State Fault Refusal := syllable (vextr dd va row col) s
/-- `VINSR` (R381). -/
def execVinsr (vd : VReg) (ds : DReg) (row : BitVec 4) (col : BitVec 6) (s : State) : Host.Outcome State Fault Refusal := syllable (vinsr vd ds row col) s

end Sys2Proof.Machine
end

