-- ==== Sys2Proof/Machine/LoadStore.lean ====
section
/-!
DEFINITION. Class 010: loads and stores of every form (R334 to R340) and the wrap registers (R333). An access of the local
slice performs in the bundle; a remote store or split-phase load is a packet. Log entry: 27 (local accesses and classes).
-/

namespace Sys2Proof.Machine

/-! ### Sizes and values (R332) -/

/-- The bytes of a store. -/
def storeBytes : StoreSize → Nat
  | .b => 1
  | .h => 2
  | .w => 4
  | .d => 8

/-- The results a load writes: its value sign- or zero-extended, or a pair. -/
def loadResults (z : LoadSize) (dd : DReg) (bs : List Byte) : List Write :=
  let v := leNat bs
  let one (x : Word) : List Write := [.d dd (Dom.single x)]
  match z with
  | .b => one (BitVec.signExtend 32 (BitVec.ofNat 8 v))
  | .h => one (BitVec.signExtend 32 (BitVec.ofNat 16 v))
  | .w | .bu | .hu => one (BitVec.ofNat 32 v)
  | .d => [.d dd (Dom.single (BitVec.ofNat 32 v)), .d (dd + 1) (Dom.single (BitVec.ofNat 32 (v / 2 ^ 32)))]

/-- Send several results on their way. -/
def State.writes (s : State) (lat : Nat) (ws : List Write) : State := ws.foldl (fun s w => s.write lat w) s

/-- The bytes a store takes from its data register, or from a pair. -/
def storeData (s : State) (z : StoreSize) (ds : DReg) : Eff (List Byte) := do
  let lo ← single s ds
  let hi ← if z == .d then single s (ds + 1) else .ok 0
  .ok (leBytes (storeBytes z) (lo.toNat + 2 ^ 32 * hi.toNat))

/-- A pair, or one register, as a number of `n` bytes. -/
def dataOf (s : State) (wide : Bool) (r : DReg) : Eff (BitVec 64) := do
  let lo ← single s r
  let hi ← if wide then single s (r + 1) else .ok 0
  .ok (hi ++ lo)

/-! ### Loads (R334, R336) -/

/-- `LD` (R334): the local slice, six bundles. -/
def ld (z : LoadSize) (dd : DReg) (m : MemOp) (s : State) : Eff State := do
  let n := loadBytes z
  let (o, l, t) ← operand s m n n n .localOnly accRead
  orderWait t (ordClass m (s.desc m.bd)) l n
  atHome t l n false
  .ok ((o.apply t).writes 6 (loadResults z dd (t.load l n)))

/-- Store bytes: in the local slice at once, else as a packet (R334). -/
def storeOut (s : State) (cls : BitVec 4) (l : Loc) (bs : List Byte) : Eff State :=
  if l.near then do
    orderWait s cls l bs.length
    .ok (s.store l bs)
  else do
    routed s l true
    let (_, _, t) ← sendRequest s 1 0 cls l bs.length bs true false
    .ok t

/-- `ST` (R334). -/
def st (z : StoreSize) (ds : DReg) (m : MemOp) (s : State) : Eff State := do
  let bs ← storeData s z ds
  let n := storeBytes z
  let (o, l, t) ← operand s m n n n .all accWrite
  let u ← storeOut t (ordClass m (s.desc m.bd)) l bs
  .ok (o.apply u)

/-- A byte with nibbles replaced under a mask (R335). -/
def nibbles (old v : Byte) (mask : BitVec 2) : Byte :=
  (if mask.getLsbD 1 then v.extractLsb' 0 4 else old.extractLsb' 4 4)
    ++ (if mask.getLsbD 0 then v.extractLsb' 0 4 else old.extractLsb' 0 4)

/-- `STN` (R335). -/
def stn (ds : DReg) (m : MemOp) (mask : BitVec 2) (s : State) : Eff State := do
  notFw s
  let v ← single s ds
  let (o, l, t) ← operand s m 1 1 1 .all accWrite
  let cls := ordClass m (s.desc m.bd)
  let b : Byte := v.extractLsb' 0 4 ++ v.extractLsb' 0 4
  if l.near then do
    orderWait t cls l 1
    .ok (o.apply (t.store l [nibbles (t.byteKey l.key l.cell) b mask]))
  else do
    routed t l true
    let (_, _, u) ← sendRequest t 3 0 cls l 1 [b, BitVec.zeroExtend 8 mask] true false
    .ok (o.apply u)

/-- A split-phase load on its way, or waiting (R190, R336). -/
def State.addLdr (s : State) (l : Ldr) : State := s.modCtx (fun c => { c with ldrs := c.ldrs ++ [l] })

/-- Send the read of an `LDR`, or take its value from the local slice. -/
def ldrSend (s : State) (z : LoadSize) (dd : DReg) (k : EvNum) (cls : BitVec 4) (l : Loc) : Eff State := do
  let n := loadBytes z
  let e : Ldr := { size := z, dd := dd, ev := k, count := s.ctx.count, cls := cls, dst := 0, seq := 0 }
  if l.near then do
    orderWait s cls l n
    atHome s l n false
    .ok (s.addLdr { e with data := some (s.load l n) })
  else do
    routed s l false
    let (dst, q, t) ← sendRequest s 0 0 cls l n [] false false
    .ok (t.addLdr { e with dst := dst, seq := q })

/-- `LDR` (R336): a translation fault leaves the load waiting, and the bundle commits (R153). -/
def ldr (z : LoadSize) (dd : DReg) (m : MemOp) (k : EvNum) (s : State) : Eff State := do
  need (eventOk s k.toNat) tIllegal s
  let n := loadBytes z
  let d := s.desc m.bd
  let cls := ordClass m d
  let whole (t : State) : State := { t with issue := s.issue }
  match operand { s with issue := { s.issue with split := true } } m n n n .all accRead with
  | .ok (o, l, t) => do
    let u ← ldrSend (whole t) z dd k cls l
    .ok (o.apply u)
  | .error (.fault u) => do
    let o ← offsetOf s m n n
    dataBreak s ⟨0, 0, false, some (BitVec.ofNat 48 (d.base + o.off))⟩ n false
    .ok (o.apply (((whole u).modWaits (fun w => { w with fault := none })).addLdr
      { size := z, dd := dd, ev := k, count := s.ctx.count, cls := cls, dst := 0, seq := 0, fault := u.ctx.waits.fault
        bd := s.src.regs.desc m.bd, off := o.off }))
  | .error h => .error h

/-! ### Vector tiles (R337 to R339) -/

/-- Is a byte of an SRAM partition there, in a granule that the context may reach (R105, R147)? -/
def State.sramOpen (s : State) (kind : BitVec 2) (p : Nat) : Bool :=
  match s.sramCell false kind p with
  | some a => s.granuleOpen a
  | none => false

/-- Bytes of an SRAM partition, 16 at a time, so that a granule may change between them. -/
def sramRead (s : State) (kind : BitVec 2) : Nat → Nat → List Byte
  | 0, _ => []
  | n + 1, p => s.bytes ((s.sramCell false kind p).getD 0) 16 ++ sramRead s kind n (p + 16)

/-- Do the bytes hold no uncorrectable data? -/
def sramGood (s : State) (kind : BitVec 2) (n p : Nat) : Bool :=
  s.poison == [] || (List.range n).all (fun i => !s.poisoned ((s.sramCell false kind (p + 16 * i)).getD 0) 16)

/-- Write bytes of an SRAM partition, 16 at a time. -/
def sramWrite (kind : BitVec 2) : Nat → State → Nat → List Byte → State
  | 0, s, _, _ => s
  | n + 1, s, p, bs => sramWrite kind n (s.setBytes ((s.sramCell false kind p).getD 0) (bs.take 16)) (p + 16) (bs.drop 16)

/-- Words from bytes. -/
def wordsOf : Nat → List Byte → List Word
  | 0, _ => []
  | n + 1, bs => BitVec.ofNat 32 (leNat (bs.take 4)) :: wordsOf n (bs.drop 4)

/-- The bytes of words. -/
def bytesOfWords (ws : List Word) : List Byte := ws.flatMap (fun w => leBytes 4 w.toNat)

/-- The operand of `LDV` and `STV` (R337): its offset, its place, and the pitch and tag that Dp gives. -/
def tileOperand (m : MemOp) (dp : DReg) (load : Bool) (s : State) : Eff (Offset × Desc × Nat × BitVec 4) := do
  userOnly s
  let p ← single s dp
  let tag := p.extractLsb' 28 4
  need (!load || tag.toNat ≤ 9) tFormat s
  let pitch := if p.extractLsb' 0 28 = 0 then 256 else (p.extractLsb' 0 28).toNat
  let o ← offsetOf s m 256 256
  let d := s.desc m.bd
  need ((d.base + o.off) % 16 = 0 && pitch % 16 = 0) tAlign s
  need (Reach.localOnly.has d.kind && o.off + 15 * pitch + 256 ≤ d.len) tProt s
  need ((List.range 16).all (fun r => s.sramOpen d.kind (d.base + o.off + r * pitch) && s.sramOpen d.kind (d.base + o.off + r * pitch + 255)))
    tProt s
  let cls := ordClass m d
  orderWait s cls ⟨0, (s.sramCell false d.kind (d.base + o.off)).getD 0, true, none⟩ (15 * pitch + 256)
  .ok (o, d, pitch, tag)

/-- `LDV` (R337). -/
def ldv (v : VReg) (m : MemOp) (dp : DReg) (s : State) : Eff State := do
  let (o, d, pitch, tag) ← tileOperand m dp true s
  need ((List.range 16).all (fun r => sramGood s d.kind 16 (d.base + o.off + r * pitch))) tEccUncorr s
  let rows := (List.range 16).flatMap (fun r => sramRead s d.kind 16 (d.base + o.off + r * pitch))
  .ok ((o.apply s).write 22 (.v v ⟨tag, wordsOf 1024 rows⟩))

/-- `STV` (R337): rows in order, so that a later row's bytes are kept. -/
def stv (v : VReg) (m : MemOp) (dp : DReg) (s : State) : Eff State := do
  let (o, d, pitch, _) ← tileOperand m dp false s
  let es := (s.src.regs.vec v).elems
  .ok (o.apply ((List.range 16).foldl (fun t r =>
    sramWrite d.kind 16 t (d.base + o.off + r * pitch) (bytesOfWords ((es.drop (64 * r)).take 64))) s))

/-- The places of the elements of `GATHV` and `SCATV` (R338), all checked before any moves. -/
def gatherCells (m : MemOp) (vi : VReg) (s : State) : Eff (List Nat) := do
  userOnly s
  let ix := s.src.regs.vec vi
  hasTag ix tagI32 s
  let o ← offsetOf s m 4 4
  let d := s.desc m.bd
  need ((d.base + o.off) % 4 = 0) tAlign s
  need (Reach.localOnly.has d.kind) tProt s
  let places := ix.elems.map (fun i => o.off + 4 * i.toNat)
  need (places.all (fun p => p + 4 ≤ d.len && s.sramOpen d.kind (d.base + p))) tProt s
  let cells := places.map (fun p => (s.sramCell false d.kind (d.base + p)).getD 0)
  let cls := ordClass m d
  if cells.all (fun a => s.ctx.clearFor cls ⟨0, a, true, none⟩ 4 none false) then .ok cells else .error s.await

/-- `GATHV` (R338): vd keeps its tag. -/
def gathv (v : VReg) (m : MemOp) (vi : VReg) (s : State) : Eff State := do
  let cells ← gatherCells m vi s
  need (s.poison == [] || cells.all (fun a => !s.poisoned a 4)) tEccUncorr s
  .ok (s.write 22 (.v v ⟨(s.src.regs.vec v).tag, cells.map (fun a => BitVec.ofNat 32 (leNat (s.bytes a 4)))⟩))

/-- `SCATV` (R338): in row-major order, so that the later of two elements is kept. -/
def scatv (v : VReg) (m : MemOp) (vi : VReg) (s : State) : Eff State := do
  let cells ← gatherCells m vi s
  .ok ((cells.zip (s.src.regs.vec v).elems).foldl (fun t e => t.setBytes e.1 (leBytes 4 e.2.toNat)) s)

/-- A row of `LDVP` (R158, R339), 16 bytes at a time: its bytes, or `none` where its page is absent. -/
def probeRow (cls : BitVec 4) : Nat → Nat → State → Nat → Eff (Option (List Byte) × Nat × State)
  | 0, used, s, _ => .ok (some [], used, s)
  | n + 1, used, s, a => do
    need (a + 16 ≤ 2 ^ 48) tProt s
    match s.translate (agentPort s.cur) s.ctx.id.conf s.ctx.id.pasid (BitVec.ofNat 48 a) accRead with
    | .ok pa t => do
      let (bs, used, t) ← loadAt used t cls ⟨physKey pa, physCell pa, false, some (BitVec.ofNat 48 a)⟩ 16
      let (rest, used, t) ← probeRow cls n used t (a + 16)
      .ok (rest.map (bs ++ ·), used, t)
    | .prot t => raise tProt t
    | .fault c t => if c = 1 then .ok (none, used, t) else raise tProt t
    | .wait => .error (.stall s)

/-- The rows of `LDVP` from row `r` on. -/
def probeRows (d : Desc) (cls : BitVec 4) (off : Nat) : Nat → Nat → Nat → State → Eff (List (Option (List Byte)) × State)
  | 0, _, _, s => .ok ([], s)
  | n + 1, r, used, s => do
    let (row, used, t) ← probeRow cls 16 used s (d.base + off + 256 * r)
    let (rest, t) ← probeRows d cls off n (r + 1) used t
    .ok (row :: rest, t)

/-- What replay says of the rows, once all have been probed (R139, R140): which are absent, with the state after their
entries; or the first row, logged as resident, whose page is absent. -/
def probeLog : List (Option (List Byte)) → Nat → State → Eff (Except Nat (List Bool × State))
  | [], _, s => .ok (.ok ([], s))
  | row :: rest, r, s => do
    let (v, t) ← replayed 7 (if row.isNone then BitVec.allOnes 64 else 0) s
    if v = 0 && row.isNone then .ok (.error r)
    else do
      let x ← probeLog rest (r + 1) t
      .ok (x.map (fun y => ((v != 0) :: y.1, y.2)))

/-- The bytes of the tile that `LDVP` loads, and its absent rows: a row logged as resident whose page is absent waits for it,
and one logged as absent loads zeros. -/
def probe (d : Desc) (cls : BitVec 4) (off : Nat) (s : State) : Eff (List Byte × List Bool × State) := do
  let (rows, t) ← probeRows d cls off 16 0 0 s
  match ← probeLog rows 0 t with
  | .error r => .error (.fault (t.bundleFault (BitVec.ofNat 48 (d.base + off + 256 * r)) accRead 1 d.page))
  | .ok (absent, u) =>
    .ok ((rows.zip absent).flatMap (fun x => if x.2 then List.replicate 256 0 else x.1.getD []), absent, u)

/-- `LDVP` (R339). -/
def ldvp (v : VReg) (m : MemOp) (p : PReg) (s : State) : Eff State := do
  userOnly s
  let o ← offsetOf s m 256 256
  let d := s.desc m.bd
  need ((d.base + o.off) % 16 = 0) tAlign s
  need (Reach.memoryOnly.has d.kind && o.off + 4096 ≤ d.len) tProt s
  dataBreak s ⟨0, 0, false, some (BitVec.ofNat 48 (d.base + o.off))⟩ 4096 false
  let (bytes, absent, t) ← probe d (ordClass m d) o.off s
  let bits : BitVec 1024 := predOf (absent.flatMap (List.replicate 64))
  .ok (((t.dropGot).write 1 (.v v ⟨(s.src.regs.vec v).tag, wordsOf 1024 bytes⟩)).write 1 (.p p bits))

/-! ### Page requests (R158, R340) -/

/-- `PAGEREQ` (R340): a page that is not there is asked for, and nothing waits. -/
def pagereq (m : MemOp) (s : State) : Eff State := do
  notFw s
  let o ← offsetOf s m 1 1
  let d := s.desc m.bd
  need (o.off + 1 ≤ d.len) tProt s
  if !translated d.kind then .ok s
  else do
    need (d.base + o.off + 1 ≤ 2 ^ 48) tProt s
    let va := BitVec.ofNat 48 (d.base + o.off)
    match s.translate (agentPort s.cur) s.ctx.id.conf s.ctx.id.pasid va accRead with
    | .ok _ t => .ok t
    | .fault c t =>
      if t.mmu.faults.length < 1024 && t.fbRoom then
        .ok (t.fbWrite (faultRecord
          { index := none, pasid := t.ctx.id.pasid, va := va, region := t.ctx.id.region, node := agentNode t.cur
            access := accRead, cause := c, path := 6, page := d.page, joined := 0, stale := false, waiters := [] } 2 t.ptime))
      else .ok { t with mmu := { t.mmu with fbovf := true } }
    | .prot t => .ok t
    | .wait => .ok s

/-- Walk every page from `va` on, and install what is found. -/
def prefetchPages : Nat → State → Nat → Nat → State
  | 0, s, _, _ => s
  | k + 1, s, va, last =>
    if last < va || 2 ^ 48 ≤ va then s
    else
      let t := match s.translate (agentPort s.cur) s.ctx.id.conf s.ctx.id.pasid (BitVec.ofNat 48 va) accRead with
        | .ok _ t | .prot t | .fault _ t => t
        | .wait => s
      prefetchPages k t (va / 4096 * 4096 + 4096) last

/-- The far granules that a range touches are counted once each (R340). -/
def prefetchCounts : Nat → State → Nat → Nat → State
  | 0, s, _, _ => s
  | k + 1, s, va, last =>
    if last < va || 2 ^ 48 ≤ va then s
    else
      let t := match s.translate (agentPort s.cur) s.ctx.id.conf s.ctx.id.pasid (BitVec.ofNat 48 va) accRead with
        | .ok pa _ => s.countFar (physCell pa)
        | _ => s
      prefetchCounts k t (va / 65536 * 65536 + 65536) last

/-- `PREFETCH` (R340). -/
def prefetch (dn : DReg) (m : MemOp) (s : State) : Eff State := do
  let n ← single s dn
  let o ← offsetOf s m 1 1
  let d := s.desc m.bd
  need (o.off + 1 ≤ d.len) tProt s
  if !translated d.kind || n = 0 then .ok s
  else do
    need (d.base + o.off + 1 ≤ 2 ^ 48) tProt s
    let first := d.base + o.off
    let last := d.base + min (o.off + n.toNat) d.len - 1
    let t := prefetchPages ((last - first) / 4096 + 2) s first last
    .ok (if d.kind == kindFar then prefetchCounts ((last - first) / 65536 + 2) t first last else t)

/-! ### Wrap registers (R333) -/

/-- `WSET` (R333). -/
def wset (w : WReg) (m : MemOp) (dn : DReg) (s : State) : Eff State := do
  notFw s
  let n ← single s dn
  let o ← offsetOf s m 1 1
  need (o.off + 1 ≤ (s.desc m.bd).len && n != 0 && n.toNat % 8 = 0) tProt s
  .ok (s.write 1 (.w w (wrapBits (fit32 1 s o.off) n 0)))

/-! ### Meanings -/

/-- `LD` (R334). -/
def execLd (z : LoadSize) (dd : DReg) (m : MemOp) (s : State) : Host.Outcome State Fault Refusal := syllable (ld z dd m) s
/-- `ST` (R334). -/
def execSt (z : StoreSize) (ds : DReg) (m : MemOp) (s : State) : Host.Outcome State Fault Refusal := syllable (st z ds m) s
/-- `STN` (R335). -/
def execStn (ds : DReg) (m : MemOp) (mask : BitVec 2) (s : State) : Host.Outcome State Fault Refusal := syllable (stn ds m mask) s
/-- `LDR` (R336). -/
def execLdr (z : LoadSize) (dd : DReg) (m : MemOp) (k : EvNum) (s : State) : Host.Outcome State Fault Refusal := syllable (ldr z dd m k) s
/-- `LDV` (R337). -/
def execLdv (v : VReg) (m : MemOp) (dp : DReg) (s : State) : Host.Outcome State Fault Refusal := syllable (ldv v m dp) s
/-- `STV` (R337). -/
def execStv (v : VReg) (m : MemOp) (dp : DReg) (s : State) : Host.Outcome State Fault Refusal := syllable (stv v m dp) s
/-- `LDVP` (R339). -/
def execLdvp (v : VReg) (m : MemOp) (p : PReg) (s : State) : Host.Outcome State Fault Refusal := syllable (ldvp v m p) s
/-- `GATHV` (R338). -/
def execGathv (v : VReg) (m : MemOp) (vi : VReg) (s : State) : Host.Outcome State Fault Refusal := syllable (gathv v m vi) s
/-- `SCATV` (R338). -/
def execScatv (v : VReg) (m : MemOp) (vi : VReg) (s : State) : Host.Outcome State Fault Refusal := syllable (scatv v m vi) s
/-- `PAGEREQ` (R340). -/
def execPagereq (m : MemOp) (s : State) : Host.Outcome State Fault Refusal := syllable (pagereq m) s
/-- `PREFETCH` (R340). -/
def execPrefetch (dn : DReg) (m : MemOp) (s : State) : Host.Outcome State Fault Refusal := syllable (prefetch dn m) s
/-- `WSET` (R333). -/
def execWset (w : WReg) (m : MemOp) (dn : DReg) (s : State) : Host.Outcome State Fault Refusal := syllable (wset w m dn) s

end Sys2Proof.Machine
end

