-- ==== Sys2Proof/Machine/Engine.lean ====
section
/-!
DEFINITION. The engines of a control core (R183, R382 to R386, R405): what an engine word may end in, engine faults (R316,
R399), the lease (R196), the accesses of an engine, and the common words. Log entries: 31 (a matrix `HALT` waits for
nothing), 32 (engine accesses off the package), 33 (words of a body passed over).
-/

namespace Sys2Proof.Machine

/-! ### The engine in progress -/

namespace State

/-- The core of the engine in progress, and whether it is the copy engine. -/
def engAt (s : State) : Nat × Bool :=
  match s.cur with
  | .copy k => (k, true)
  | a => ((agentCore a).getD 0, false)

/-- The engine in progress. -/
def eng (s : State) : Engine := s.engine s.engAt.1 s.engAt.2
/-- Change the engine in progress. -/
def modEng (s : State) (f : Engine → Engine) : State := s.setEngine s.engAt.1 s.engAt.2 (f s.eng)

end State

/-! ### The lease (R196) -/

/-- The lease ends now. -/
def Lease.finish (l : Lease) (region : BitVec 12) (now : BitVec 64) : Lease :=
  if l.held then
    { l with held := false, words := 0, lastHolder := l.holder, past := (region, l.cycles now) :: l.past }
  else l

/-- Core `c` starts to wait for the lease, unless it waits already. -/
def Lease.await (l : Lease) (c : Nat) (now : BitVec 64) : Lease :=
  match Assoc.find? l.waitFrom c with
  | some _ => l
  | none => { l with waitFrom := Assoc.set l.waitFrom c now }

/-- Core `c` waits no longer. -/
def Lease.noWait (l : Lease) (c : Nat) (now : BitVec 64) : Lease :=
  { l with waited := Assoc.set l.waited c (l.waitedBy c now), waitFrom := Assoc.erase l.waitFrom c }

namespace State

/-- Change a tile's lease. -/
def modLease (s : State) (t : Nat) (f : Lease → Lease) : State := s.modTile t (fun x => { x with lease := f x.lease })
/-- Does core `k`'s matrix sequencer hold its tile's lease? -/
def holdsLease (s : State) (k : Nat) : Bool :=
  (s.tile (k / 4)).lease.held && (s.tile (k / 4)).lease.holder.toNat == k % 4
/-- The lease of core `k` ends, if it holds it (R196). -/
def freeLease (s : State) (k : Nat) : State :=
  if s.holdsLease k then s.modLease (k / 4) (fun l => l.finish (s.core k).user.id.region s.cycle) else s
/-- Core `k`'s matrix sequencer waits for the lease. -/
def awaitLease (s : State) (k : Nat) : State :=
  (s.setEngine k false { s.engine k false with state := .waitLease }).modLease (k / 4) (fun l => l.await (k % 4) s.cycle)

end State

/-! ### What an engine word ends in -/

/-- Why an engine word does not complete: an engine fault, or it stays as it stands in the state. -/
inductive EHalt
  | trap (code : Byte) (s : State)
  | hold (s : State)
  deriving DecidableEq, Repr

/-- The effect of an engine word. -/
abbrev EEff := Except EHalt

/-- An engine fault. -/
def eraise {α : Type} (code : Byte) (s : State) : EEff α := .error (.trap code s)
/-- Go on only if a condition holds; else an engine fault. -/
def eneed (b : Bool) (code : Byte) (s : State) : EEff Unit := if b then .ok () else eraise code s
/-- Go on only if a condition holds; else the word waits. -/
def ehold (b : Bool) (s : State) : EEff Unit := if b then .ok () else .error (.hold s)

/-- An engine fault (R316, R399, R417): the engine stops, its lease ends, and the trap is taken at the core's next bundle
boundary with SOURCE 1 or 2. -/
def State.engineFault (s : State) (k : Nat) (copy : Bool) (code : Byte) : State :=
  let s := s.setEngine k copy { s.engine k copy with state := .stopped }
  let s := if copy then s else (s.freeLease k).modLease (k / 4) (fun l => l.noWait (k % 4) s.cycle)
  s.defer (.user k) ⟨0, { code := code, source := if copy then 2 else 1 }, []⟩

/-- Run an engine word. -/
def engineWord (body : State → EEff State) (s : State) : Host.Outcome State Fault Refusal :=
  match body s with
  | .ok t => .next t
  | .error (.trap c t) => .next (t.engineFault t.engAt.1 t.engAt.2 c)
  | .error (.hold t) => .next t

/-- The word has completed: the next word of the stream is at `next`. -/
def State.wordAt (s : State) (next : Addr) : State :=
  s.modEng (fun e => { e with
    word := next, step := 0, inWord := none, ops := [], state := .running, counted := 0, sub := 0, got := [], dead := false })

/-- The word has completed; the stream goes on after it. -/
def State.wordDone (s : State) : State := s.wordAt (s.eng.word + 2)

/-! ### The stack (R382) -/

/-- Push a value; a ninth entry is STACK. -/
def epush (v : Word) (s : State) : EEff State := do
  eneed (s.eng.stack.length < 8) tStack s
  .ok (s.modEng (fun e => { e with stack := v :: e.stack }))

/-- The top `n` entries in push order. -/
def etop (n : Nat) (s : State) : EEff (List Word) := do
  eneed (n ≤ s.eng.stack.length) tStack s
  .ok (s.eng.stack.take n).reverse

/-- Drop `n` entries. -/
def State.edrop (s : State) (n : Nat) : State := s.modEng (fun e => { e with stack := e.stack.drop n })

/-- A launch word starts: its operands are popped and latched (R382). -/
def State.latch (s : State) (ops : List Word) : State :=
  (s.edrop ops.length).modEng (fun e => { e with
    inWord := some s.word, ops := ops, step := 0, sub := 0, state := .running, satnan := s.ctx.status.satnan })

/-! ### Accesses of an engine -/

/-- A translation fault of an engine (R153, R155, R417): the engine waits at its word and step. -/
def State.engineStalls (s : State) (va : Addr) (acc : BitVec 4) (cause : Byte) (page : BitVec 2) : State :=
  let c := s.ctx
  (s.raiseFault { index := none, pasid := c.id.pasid, va := va, region := c.id.region, node := agentNode s.cur
                  access := acc, cause := cause, path := pathOf s.cur, page := page, joined := 0, stale := false
                  waiters := [s.cur] }).modEng (fun e => { e with fault := some va })

/-- Translate for the engine in progress. -/
def etranslate (s : State) (va : Addr) (acc : BitVec 4) (page : BitVec 2) : EEff (Loc × State) :=
  match s.translate (agentPort s.cur) s.ctx.id.conf s.ctx.id.pasid va acc with
  | .ok pa t => .ok (⟨physKey pa, physCell pa, false, some va⟩, t)
  | .prot t => eraise tProt t
  | .fault c t => .error (.hold (t.engineStalls va acc c page))
  | .wait => .error (.hold s)

/-- The place of `size` bytes at an offset of a descriptor, for the engine (R146, R408). -/
def elocate (s : State) (d : Desc) (off size : Nat) (acc : BitVec 4) : EEff (Loc × State) := do
  eneed (off + size ≤ d.len) tProt s
  if translated d.kind then do
    eneed (d.base + off + size ≤ 2 ^ 48) tProt s
    etranslate s (BitVec.ofNat 48 (d.base + off)) acc d.page
  else
    match s.sramCell false d.kind (d.base + off), s.sramCell false d.kind (d.base + off + size - 1) with
    | some a, some _ => .ok (⟨0, a, false, none⟩, s)
    | _, _ => eraise tProt s

/-- Must an access of the engine wait for an earlier one of its own (R167)? Copies have no class (R175). -/
def Engine.clearFor (e : Engine) (cls : BitVec 4) (cell n : Nat) (dst : Option (BitVec 13)) (off : Bool) : Bool :=
  e.out.all (fun o => !o.blocks cls cell n (dst == some o.dst && o.cls == cls) off)

/-- Do the engine's earlier stores let it go on to bytes of the local share (R167, rules 1 and 2)? -/
def Engine.shareClear (e : Engine) : Bool := e.clearFor e.cls 0 0 none false

/-- While the engine waits for a posted write, the flushing read goes out (R179). -/
def State.engFlush (s : State) : State :=
  match needsFlush s.eng.out with
  | none => s
  | some o =>
    let (t, q) := s.inject (requestTo s 0 0 o.x o.cls ⟨0, o.addr, false, none⟩ 1 [])
    t.modEng (fun e => { e with out := e.out ++ [{ cls := o.cls, dst := o.dst, seq := q, x := o.x, addr := o.addr, len := 1, off := true, write := false }] })

/-- Every earlier launch word has completed: nothing is outstanding (R174, R405). -/
def edone (s : State) : EEff Unit := if s.eng.out = [] then .ok () else .error (.hold s.engFlush)

/-- Inject a request of the engine, or hold (R67, R68). -/
def esend (s : State) (p : Packet) (a : Access) : EEff State :=
  let h := s.injectHold s.cur s.ctx.id.region
  if h != 0 then .error (.hold (s.countHold s.cur h))
  else
    let (t, q) := s.inject p
    .ok (t.modEng (fun e => { e with out := e.out ++ [{ a with seq := q, dst := p.dst }] }))

/-- Read `n` bytes off the package, as `offRead` does for a context. -/
def eoffRead (used : Nat) (s : State) (x : Bool) (cls : BitVec 4) (l : Loc) (n : Nat) : EEff (List Byte × State) :=
  let have_ := s.eng.got.drop used
  if n ≤ have_.length then .ok (have_.take n, s)
  else
    let clear := s.modEng (fun e => { e with sent := false, reply := none })
    match s.eng.reply with
    | some (.data bs) => .error (.hold (clear.modEng (fun e => { e with got := e.got ++ bs })))
    | some (.trap c) => eraise c clear
    | none =>
      if s.eng.sent then .error (.hold s)
      else do
        let at_ : Loc := { l with cell := l.cell + have_.length }
        let m := unitLen at_.cell (n - have_.length)
        match routeTrap s at_ false with
        | some c => eraise c s
        | none => do
          ehold (x || s.eng.clearFor cls at_.cell m (some (s.homeNode at_.cell)) true) s.engFlush
          let t ← esend s (requestTo s 0 0 x cls at_ m [])
            { cls := cls, dst := 0, seq := 0, x := x, addr := at_.cell, len := m, off := true, write := false, held := true }
          .error (.hold (t.modEng (fun e => { e with sent := true })))

/-- Read `n` bytes at a place: at its home now, or off the package. -/
def eload (used : Nat) (s : State) (x : Bool) (cls : BitVec 4) (l : Loc) (n : Nat) : EEff (List Byte × Nat × State) :=
  if l.offPackage then do
    let (bs, t) ← eoffRead used s x cls l n
    .ok (bs, used + n, t)
  else do
    ehold (x || s.eng.clearFor cls l.cell n none false) s.engFlush
    match homeTrap s l n false with
    | some c => eraise c s
    | none => .ok (s.load l n, used, s.countFar l.cell)

/-- Read `n` bytes at an offset of a descriptor, span by span. -/
def espans (d : Desc) (x : Bool) (cls : BitVec 4) : Nat → Nat → State → Nat → Nat → EEff (List Byte × Nat × State)
  | 0, used, s, _, _ => .ok ([], used, s)
  | k + 1, used, s, off, n =>
    if n = 0 then .ok ([], used, s)
    else do
      let m := spanLen (d.base + off) n
      let (l, t) ← elocate s d off m accRead
      let (bs, used, t) ← eload used t x cls l m
      let (rest, used, t) ← espans d x cls k used t (off + m) (n - m)
      .ok (bs ++ rest, used, t)

/-- Read bytes at an offset of a descriptor. -/
def eread (d : Desc) (x : Bool) (cls : BitVec 4) (used : Nat) (s : State) (off n : Nat) : EEff (List Byte × Nat × State) :=
  espans d x cls (spanCount n) used s off n

/-- Nothing more is needed of what reads off the package brought. -/
def State.edropGot (s : State) : State := s.modEng (fun e => { e with got := [] })

/-! ### Common words (R383 to R385) -/

/-- `LIT`. -/
def ewLit (v : BitVec 12) (s : State) : EEff State := do
  let t ← epush (v.signExtend 32) s
  .ok t.wordDone

/-- `LITX`. -/
def ewLitx (v : BitVec 12) (s : State) : EEff State := do
  let xs ← etop 1 s
  let t ← epush (xs.getD 0 0 * 4096 + v.zeroExtend 32) (s.edrop 1)
  .ok t.wordDone

/-- `DUP`, `DROP`, `SWAP`, `OVER`: the top `n` entries, in push order, are replaced. -/
def ewStack (n : Nat) (f : List Word → List Word) (s : State) : EEff State := do
  let xs ← etop n s
  let st := (f xs).reverse ++ s.eng.stack.drop n
  eneed (st.length ≤ 8) tStack s
  .ok (s.modEng (fun e => { e with stack := st })).wordDone

/-- `PUSHD` (R384). -/
def ewPushd (r : DReg) (s : State) : EEff State := do
  let d := s.ctx.regs.dom r
  let t ← epush d.lo s
  eneed d.isSingle tUnresolved s
  .ok t.wordDone

/-- `PUSHB`. -/
def ewPushb (n : BdReg) (high : Bool) (s : State) : EEff State := do
  let b := s.ctx.regs.desc n
  let t ← epush (if high then (b.extractLsb' 112 16).zeroExtend 32 else b.extractLsb' 80 32) s
  .ok t.wordDone

/-- `JMP`. -/
def ewJmp (k : BitVec 10) (s : State) : EEff State := .ok (s.wordAt (s.eng.word + 2 * k.signExtend 48))

/-- Open a repeated body of `n` repetitions (R385, R306). -/
def openRep (n : Word) (bcast : Bool) (s : State) : EEff State :=
  let upd (e : Engine) : Engine := if bcast then
    { e with bcast := { e.bcast with armed := none, done := 0, active := n != 0 } } else e
  if n = 0 then .ok ((s.modEng upd).modEng (fun e => { e with skip := 1 })).wordDone
  else do
    eneed (s.eng.reps.length < 4) tStack s
    .ok ((s.modEng upd).modEng (fun e => { e with reps := ⟨e.word + 2, n, bcast⟩ :: e.reps })).wordDone

/-- `REP`: a broadcast count is taken once its start skew has passed. -/
def ewRep (s : State) : EEff State :=
  match s.eng.bcast.armed with
  | some n => do
    ehold s.eng.bcast.skewDone s
    openRep n true s
  | none => do
    let xs ← etop 1 s
    eneed (xs.getD 0 0 = 0 || s.eng.reps.length < 4) tStack s
    openRep (xs.getD 0 0) false (s.edrop 1)

/-- `ENDREP`. -/
def ewEndrep (s : State) : EEff State :=
  match s.eng.reps with
  | [] => eraise tIllegal s
  | r :: rest =>
    let s := if r.bcast then s.modEng (fun e => { e with bcast := { e.bcast with done := e.bcast.done + 1 } }) else s
    if r.left.toNat ≤ 1 then
      .ok (s.modEng (fun e => { e with reps := rest, bcast := if r.bcast then { e.bcast with active := false } else e.bcast })).wordDone
    else .ok ((s.modEng (fun e => { e with reps := { r with left := r.left - 1 } :: rest })).wordAt r.start)

/-- The lease ends with the stream that held it (R383). -/
def State.freeIfMatrix (s : State) : State := if s.engAt.2 then s else s.freeLease s.engAt.1

/-- `HALT` (R383, R405): a copy stream waits for its copies; the matrix sequencer's lease ends. -/
def ewHalt (s : State) : EEff State := do
  if s.engAt.2 then edone s
  .ok ((s.wordDone).modEng (fun e => { e with state := .idle })).freeIfMatrix

/-- `POST` (R174, R184): a count of 255 is EVENT_OVF. -/
def ewPost (k : EvNum) (s : State) : EEff State := do
  edone s
  eneed (s.ctx.regs.event k.toNat != 255) tEventOvf s
  .ok (s.modCtx (fun c => { c with regs := c.regs.setEvent k.toNat (c.regs.event k.toNat + 1) })).wordDone

/-- Does nothing that is served earlier wait for event `k`: the bundle stream, and for the copy stream the matrix stream
(R184)? -/
def State.firstToAwait (s : State) (k : Nat) : Bool :=
  let m := (s.core s.engAt.1).mat
  !s.ctx.awaitsEvent k && !(s.engAt.2 && m.state == .waitEvent && m.awaits == k)

/-- `AWAIT` (R184). -/
def ewAwait (k : EvNum) (s : State) : EEff State := do
  ehold (s.ctx.regs.event k.toNat != 0 && s.firstToAwait k.toNat)
    (s.modEng (fun e => { e with state := .waitEvent, awaits := k.toNat }))
  .ok (s.modCtx (fun c => { c with regs := c.regs.setEvent k.toNat (c.regs.event k.toNat - 1) })).wordDone

/-- `CLASS`. -/
def ewClass (s : State) : EEff State := .ok (s.modEng (fun e => { e with cls := classField s.word })).wordDone

/-- A word that is none (R270). -/
def ewIllegal (s : State) : EEff State := eraise tIllegal s

/-! ### Meanings -/

/-- `LIT`. -/
def execLit (v : BitVec 12) (s : State) : Host.Outcome State Fault Refusal := engineWord (ewLit v) s
/-- `LITX`. -/
def execLitx (v : BitVec 12) (s : State) : Host.Outcome State Fault Refusal := engineWord (ewLitx v) s
/-- `DUP`. -/
def execDup (s : State) : Host.Outcome State Fault Refusal := engineWord (ewStack 1 (fun xs => xs ++ xs)) s
/-- `DROP`. -/
def execDrop (s : State) : Host.Outcome State Fault Refusal := engineWord (ewStack 1 (fun _ => [])) s
/-- `SWAP`. -/
def execSwap (s : State) : Host.Outcome State Fault Refusal := engineWord (ewStack 2 List.reverse) s
/-- `OVER`. -/
def execOver (s : State) : Host.Outcome State Fault Refusal := engineWord (ewStack 2 (fun xs => xs ++ xs.take 1)) s
/-- `PUSHD` (R384). -/
def execPushd (n : DReg) (s : State) : Host.Outcome State Fault Refusal := engineWord (ewPushd n) s
/-- `PUSHB`. -/
def execPushb (n : BdReg) (high : Bool) (s : State) : Host.Outcome State Fault Refusal := engineWord (ewPushb n high) s
/-- `JMP`. -/
def execJmp (k : BitVec 10) (s : State) : Host.Outcome State Fault Refusal := engineWord (ewJmp k) s
/-- `REP` (R385). -/
def execRep (s : State) : Host.Outcome State Fault Refusal := engineWord ewRep s
/-- `ENDREP` (R385). -/
def execEndrep (s : State) : Host.Outcome State Fault Refusal := engineWord ewEndrep s
/-- `NOP` of an engine. -/
def execEngineNop (s : State) : Host.Outcome State Fault Refusal := engineWord (fun s => .ok s.wordDone) s
/-- `HALT`. -/
def execHalt (s : State) : Host.Outcome State Fault Refusal := engineWord ewHalt s
/-- `POST` of an engine (R184). -/
def execEnginePost (k : EvNum) (s : State) : Host.Outcome State Fault Refusal := engineWord (ewPost k) s
/-- `AWAIT` of an engine (R184). -/
def execEngineAwait (k : EvNum) (s : State) : Host.Outcome State Fault Refusal := engineWord (ewAwait k) s
/-- `CLASS`. -/
def execClassW (s : State) : Host.Outcome State Fault Refusal := engineWord ewClass s
/-- `ILLEGAL_ENGINE_WORD` (R270, R271). -/
def execIllegalEngineWord (s : State) : Host.Outcome State Fault Refusal := engineWord ewIllegal s

end Sys2Proof.Machine
end

