-- ==== Sys2Proof/Machine/Homes.lean ====
section
/-!
DEFINITION. Structures that live at a home and change there in one step: atomics (R39, R344), stage barrier words (R176,
R347), work deques (R114, R115, R350, R351). Gloss lists stand in `Gloss.lean`.
Also log entry 101 (a full deque).
-/

namespace Sys2Proof.Machine

/-! ### Atomics (R39) -/

/-- The signed value of a number of `w` bits. -/
def signedOf (w n : Nat) : Int := if n < 2 ^ (w - 1) then n else (n : Int) - (2 ^ w : Nat)

/-- The operations of R39: 0 ADD, 1 MIN, 2 MAX, 3 AND, 4 OR, 5 XOR, 6 SWAP on numbers of `w` bits. -/
def atomicNew (op w old x : Nat) : Nat :=
  match op with
  | 0 => (old + x) % 2 ^ w
  | 1 => if signedOf w x < signedOf w old then x else old
  | 2 => if signedOf w old < signedOf w x then x else old
  | 3 => old &&& x
  | 4 => old ||| x
  | 5 => old ^^^ x
  | _ => x

/-- An atomic of `n` bytes at its home: the old value, and the state. Operation 7 is CAS with compare `c` and swap `x`. -/
def State.atomic (s : State) (op n : Nat) (key : BitVec 8) (cell c x : Nat) : Nat × State :=
  let old := leNat (s.bytesKey key cell n)
  if op = 7 then (old, if old = c then s.setBytesKey key cell (leBytes n x) else s)
  else (old, s.setBytesKey key cell (leBytes n (atomicNew op (8 * n) old x)))

/-! ### Stage barrier words (R176, R347) -/

/-- A barrier word: FLAGS are bit 0 INIT, bit 1 EXACT, bit 2 OVER, bit 3 TIMEOUT. -/
structure BarWord where
  target : BitVec 64
  count : BitVec 64
  gen : Word
  flags : Word
  deriving DecidableEq, Repr

namespace BarWord

/-- From the word's bytes. -/
def ofBytes (b : List Byte) : BarWord :=
  ⟨BitVec.ofNat 64 (field b 0 8), BitVec.ofNat 64 (field b 8 8), BitVec.ofNat 32 (field b 16 4), BitVec.ofNat 32 (field b 20 4)⟩

/-- Bytes 0–23 of the word. -/
def bytes (w : BarWord) : List Byte :=
  leBytes 8 w.target.toNat ++ leBytes 8 w.count.toNat ++ leBytes 4 w.gen.toNat ++ leBytes 4 w.flags.toNat

/-- The flags. -/
def init (w : BarWord) : Bool := w.flags.getLsbD 0
def exact (w : BarWord) : Bool := w.flags.getLsbD 1
def isOver (w : BarWord) : Bool := w.flags.getLsbD 2

/-- Has generation `g` been reached (R176)? -/
def reached (w : BarWord) (g : Word) : Bool := decide ((w.gen - g).toNat < 2 ^ 31)

/-- Add `n` to the count (R176). -/
def add (w : BarWord) (n : BitVec 64) : BarWord :=
  let c := w.count + n
  if !w.init || w.target == 0 || w.isOver then { w with count := c }
  else if w.exact then
    if c = w.target then { w with gen := w.gen + 1, count := 0 }
    else if w.target.toNat < c.toNat then { w with count := c, flags := w.flags ||| 4 }
    else { w with count := c }
  else { w with gen := w.gen + BitVec.ofNat 32 (c.toNat / w.target.toNat), count := BitVec.ofNat 64 (c.toNat % w.target.toNat) }

end BarWord

namespace State

/-- The barrier word at a home. -/
def barWord (s : State) (key : BitVec 8) (cell : Nat) : BarWord := BarWord.ofBytes (s.bytesKey key cell 24)
/-- Replace a barrier word. -/
def setBarWord (s : State) (key : BitVec 8) (cell : Nat) (w : BarWord) : State := s.setBytesKey key cell w.bytes
/-- An addition to a barrier word (R176). -/
def barAdd (s : State) (key : BitVec 8) (cell : Nat) (n : BitVec 64) : State :=
  s.setBarWord key cell ((s.barWord key cell).add n)
/-- The initialisation of a barrier word (R176, R347): the generation stays, the reserved bytes are written zero. -/
def barInit (s : State) (key : BitVec 8) (cell : Nat) (target : BitVec 64) (exact : Bool) : State :=
  s.setBytesKey key cell ((BarWord.mk target 0 (s.barWord key cell).gen (if exact then 3 else 1)).bytes ++ leBytes 8 0)
/-- The timeout of a waiter for generation `g`, served at the home (R349): was TIMEOUT set? -/
def barTimeout (s : State) (key : BitVec 8) (cell : Nat) (g : Word) : Bool × State :=
  let w := s.barWord key cell
  if w.reached g then (false, s) else (true, s.setBarWord key cell { w with flags := w.flags ||| 8 })

/-! ### Work deques (R114, R115) -/

/-- TOP and BOTTOM. -/
def dqTop (s : State) (cell : Nat) : Word := BitVec.ofNat 32 (leNat (s.bytes cell 4))
def dqBottom (s : State) (cell : Nat) : Word := BitVec.ofNat 32 (leNat (s.bytes (cell + 4) 4))
/-- The items held. -/
def dqHeld (s : State) (cell : Nat) : Nat := (s.dqBottom cell - s.dqTop cell).toNat
/-- The cell of item `k`. -/
def dqItem (cell : Nat) (k : Word) : Nat := cell + 64 + 16 * (k.toNat % 128)

/-- Push an item at BOTTOM; `none` is FULL. -/
def dqPush (s : State) (cell : Nat) (item : List Byte) : Option State :=
  if 128 ≤ s.dqHeld cell then none
  else
    let b := s.dqBottom cell
    some ((s.setBytes (dqItem cell b) item).setBytes (cell + 4) (leBytes 4 (b + 1).toNat))

/-- Take the item at BOTTOM; `none` is EMPTY. With `one`, a range of several indices only gives its first (R115). -/
def dqPop (s : State) (cell : Nat) (one : Bool) : Option (List Byte × State) :=
  if s.dqHeld cell = 0 then none
  else
    let k := s.dqBottom cell - 1
    let item := s.bytes (dqItem cell k) 16
    let first := field item 8 4
    let count := field item 12 4
    if one && field item 0 1 == 1 && decide (1 < count) then
      some (item.take 12 ++ leBytes 4 1, s.setBytes (dqItem cell k + 8) (leBytes 4 (first + 1) ++ leBytes 4 (count - 1)))
    else some (item, s.setBytes (cell + 4) (leBytes 4 k.toNat))

/-- Take the item at TOP; `none` is EMPTY. -/
def dqSteal (s : State) (cell : Nat) : Option (List Byte × State) :=
  if s.dqHeld cell = 0 then none
  else
    let k := s.dqTop cell
    some (s.bytes (dqItem cell k) 16, s.setBytes cell (leBytes 4 (k + 1).toNat))

end State

end Sys2Proof.Machine
end

