-- ==== Sys2Proof/Machine/Gloss.lean ====
section
/-!
DEFINITION. Gloss lists (R224 to R230): the list's fields and checks, handles, the operations at the list's home, and the
evaluation of an element, with a reader of virtual addresses that its user supplies. SPR objects (R231, R232).
Log entries: 16 (lists and layers off the package), 37 (the list's fields are read again).
-/

namespace Sys2Proof.Machine

/-! ### The list (R224, R225) -/

/-- Fields of a list's header. -/
def glBase (b : List Byte) : Nat := field b 0 8
def glBscale (b : List Byte) : Nat := field b 8 8
def glRows (b : List Byte) : Nat := field b 16 3
def glFmt (b : List Byte) : BitVec 4 := BitVec.ofNat 4 (field b 19 1)
def glCols (b : List Byte) : Nat := field b 20 3
def glNstat (b : List Byte) : Byte := b.getD 23 0
def glN (b : List Byte) : Nat := (glNstat b).toNat % 16
def glRetired (b : List Byte) : Bool := (glNstat b).getLsbD 6
def glFolding (b : List Byte) : Bool := (glNstat b).getLsbD 7
def glPitch (b : List Byte) : Nat := field b 24 4
def glVersion (b : List Byte) : Word := BitVec.ofNat 32 (field b 28 4)

/-- Layer slot `i`: its 28 bytes. -/
def glSlot (b : List Byte) (i : Nat) : List Byte := (b.drop (32 + 28 * i)).take 28
def slKind (l : List Byte) : Nat := field l 0 1
def slFmt (l : List Byte) : Nat := field l 1 1
def slRank (l : List Byte) : Nat := field l 2 1
def slCoef (l : List Byte) : Nat := field l 4 4
def slAddr1 (l : List Byte) : Nat := field l 8 8
def slAddr2 (l : List Byte) : Nat := field l 16 8
def slDver (l : List Byte) : Word := BitVec.ofNat 32 (field l 24 4)

/-- Is a code a base format (R224)? -/
def glossFmtOk (f : Nat) : Bool := f == 1 || f == 3 || f == 4 || f == 5 || f == 6
/-- Is a tag FP8 or FP4, which block scales go with? -/
def scaledFmt (f : Nat) : Bool := 4 ≤ f && f ≤ 6

/-- A layer slot in use obeys R225. -/
def slotOk (l : List Byte) : Bool :=
  field l 3 1 == 0 && decide (slAddr1 l < 2 ^ 48) && decide (slAddr2 l < 2 ^ 48)
    && (if slKind l = 1 then glossFmtOk (slFmt l) && slRank l == 0 && slAddr2 l == 0
        else slKind l == 2 && (slFmt l == 1 || slFmt l == 3) && 1 ≤ slRank l && slRank l ≤ 32)

/-- Bytes of `n` elements of a format in one row. -/
def rowSize (fmt : BitVec 4) (n : Nat) : Nat := (n * widthOf fmt + 7) / 8

/-- What `GOPEN` finds wrong with a list (R226), in its order. -/
def listFault (b : List Byte) (prot ovf : Byte) : Option Byte :=
  let n := glN b
  if 8 < n then some ovf
  else if (glNstat b).extractLsb' 4 2 != 0 || !glossFmtOk (field b 19 1) || glVersion b == 0
      || !((List.range 8).all (fun i => if i < n then slotOk (glSlot b i) else (glSlot b i).all (· == 0)))
      || glRows b == 0 || glCols b == 0
      || decide (glPitch b < rowSize (glFmt b) (glCols b))
      || (glFmt b == 6 && glCols b % 2 == 1 && glPitch b % 2 == 1)
      || (glBscale b != 0 && !scaledFmt (field b 19 1))
      || decide (2 ^ 48 ≤ glBase b) || decide (2 ^ 48 ≤ glBscale b)
    then some prot
  else none

/-- VERSION advances (R225). -/
def nextVersion (v : Word) : Word := if v = 0xFFFFFFFF then 1 else v + 1
/-- Is version `v` later than `u`? -/
def laterVersion (v u : Word) : Bool := v != u && decide ((v - u).toNat < 2 ^ 31)

/-! ### Handles (R227) -/

/-- The bits of a handle. -/
def handleBits (list : Addr) (ver : Word) (n : Nat) : BitVec 256 := list ++ (ver ++ (BitVec.ofNat 4 n ++ (1#1 ++ 0#171)))
def hList (h : BitVec 256) : Addr := h.extractLsb' 208 48
def hVer (h : BitVec 256) : Word := h.extractLsb' 176 32
def hN (h : BitVec 256) : Nat := (h.extractLsb' 172 4).toNat
def hValid (h : BitVec 256) : Bool := h.getLsbD 171

/-- Does a load through the handle see layer slot `i`? -/
def visible (h : BitVec 256) (b : List Byte) (i : Nat) : Bool :=
  decide (i < hN h) && (slDver (glSlot b i) == 0 || laterVersion (slDver (glSlot b i)) (hVer h))

/-- The layers that a handle sees, in slot order. -/
def layersOf (h : BitVec 256) (b : List Byte) : List (List Byte) :=
  ((List.range 8).filter (visible h b)).map (glSlot b)

/-! ### Operations at the home (R228) -/

namespace State

/-- The 256 bytes of a list at its home. -/
def glList (s : State) (key : BitVec 8) (cell : Nat) : List Byte := s.bytesKey key cell 256

/-- `GATTACH` of a layer slot image; `none` is GLOSS_OVF. -/
def glAttach (s : State) (key : BitVec 8) (cell : Nat) (image : List Byte) : Option State :=
  let b := s.glList key cell
  let n := glN b
  if 8 ≤ n || glRetired b then none
  else
    let s := s.setBytesKey key (cell + 32 + 28 * n) (image.take 24 ++ leBytes 4 0)
    let s := s.setBytesKey key (cell + 23) [glNstat b + 1]
    some (s.setBytesKey key (cell + 28) (leBytes 4 (nextVersion (glVersion b)).toNat))

/-- `GDETACH` of a slot; `none` is a refusal. -/
def glDetach (s : State) (key : BitVec 8) (cell slot : Nat) : Option State :=
  let b := s.glList key cell
  if glN b ≤ slot || slDver (glSlot b slot) != 0 then none
  else
    let v := leBytes 4 (nextVersion (glVersion b)).toNat
    some ((s.setBytesKey key (cell + 32 + 28 * slot + 24) v).setBytesKey key (cell + 28) v)

/-- The start of a fold; `none` is a refusal. -/
def glFoldStart (s : State) (key : BitVec 8) (cell : Nat) : Option State :=
  let b := s.glList key cell
  if glFolding b || glRetired b then none else some (s.setBytesKey key (cell + 23) [glNstat b ||| 0x80])

/-- The finish of a fold (R230): the new list at `nkey`, `ncell` takes the layers attached since the snapshot of `n`
slots; the old list is retired. -/
def glFoldFinish (s : State) (key : BitVec 8) (cell n : Nat) (nkey : BitVec 8) (ncell : Nat) : State :=
  let b := s.glList key cell
  let kept := (((List.range 8).filter (fun i => decide (n ≤ i) && decide (i < glN b) && slDver (glSlot b i) == 0)).map (glSlot b))
  let slots := kept.flatMap (fun l => l.take 24 ++ leBytes 4 0)
  let s := s.setBytesKey nkey (ncell + 16) ((b.drop 16).take 3)
  let s := s.setBytesKey nkey (ncell + 20) ((b.drop 20).take 3 ++ [BitVec.ofNat 8 kept.length])
  let s := s.setBytesKey nkey (ncell + 28) (leBytes 4 (nextVersion (glVersion b)).toNat)
  let s := s.setBytesKey nkey (ncell + 32) (slots ++ List.replicate (224 - slots.length) 0)
  s.setBytesKey key (cell + 23) [(glNstat b &&& 0x7F) ||| 0x40]

/-- A fold is abandoned (R230). -/
def glFoldAbandon (s : State) (key : BitVec 8) (cell : Nat) : State :=
  s.setBytesKey key (cell + 23) [glNstat (s.glList key cell) &&& 0x7F]

end State

/-! ### SPR objects (R231, R232) -/

/-- A header's fields. -/
def sprRows (h : List Byte) : Nat := field h 0 4
def sprCols (h : List Byte) : Nat := field h 4 4
def sprFmt (h : List Byte) : Nat := field h 8 1
def sprCode (h : List Byte) : Nat := field h 9 1
def sprNslice (h : List Byte) : Nat := field h 12 4
def sprWoff (h : List Byte) : Nat := field h 16 8
def sprSoff (h : List Byte) : Nat := field h 24 8
def sprLoff (h : List Byte) : Nat := field h 32 8

/-- The reserved bytes of a header are zero (R232). -/
def sprClean (h : List Byte) : Bool := field h 10 2 == 0 && field h 40 24 == 0
/-- The header faults that stop a gloss load: CODE 1, an FMT outside R224, a non-zero reserved byte (R232). -/
def sprPlain (h : List Byte) : Bool := sprCode h == 0 && glossFmtOk (sprFmt h) && sprClean h

/-- The offset of index (t, row) in a slice's data, and the first bit of its value (R232). -/
def sprIndexOff (row t : Nat) : Nat := 4 * (16 * t + row % 16)
def sprValueBit (w width row t : Nat) : Nat := 512 * w + width * (16 * t + row % 16)

/-- A code that begins at a bit of a list of bytes; FP4 values may lie in one nibble. -/
def codeAt (bs : List Byte) (bit width : Nat) : Nat := leNat bs / 2 ^ (bit % 8) % 2 ^ width

/-! ### Evaluation (R229) -/

/-- Reads `n` bytes at a virtual address. -/
abbrev Reader (ε : Type) := State → Nat → Nat → Except ε (List Byte × State)

/-- Read one code of a format whose first bit lies `bit` bits after an address. -/
def readCode {ε : Type} (rd : Reader ε) (fmt : BitVec 4) (va bit : Nat) (s : State) : Except ε (Nat × State) := do
  let (bs, s) ← rd s (va + bit / 8) ((widthOf fmt + 7) / 8)
  .ok (codeAt bs bit (widthOf fmt), s)

/-- An FP32 code. -/
def rne32 (x : Num) : Nat := (fmtOf tagF32).encode 0 false x
/-- The value of an FP32 code. -/
def val32 (c : Nat) : Num := (fmtOf tagF32).decode c

/-- The base element (R222, R224): its FP32 code, its scale included. -/
def baseElement {ε : Type} (rd : Reader ε) (b : List Byte) (i j : Nat) (s : State) : Except ε (Nat × State) := do
  let fmt := glFmt b
  let (c, s) ← readCode rd fmt (glBase b + i * glPitch b) (j * widthOf fmt) s
  if glBscale b = 0 then .ok (rne32 (decodeTag fmt c), s)
  else do
    let (sc, s) ← rd s (glBscale b + 2 * (i * ((glCols b + 31) / 32) + j / 32)) 2
    .ok (rne32 ((decodeTag fmt c).mul (scaleValue (leNat sc % 1024))), s)

/-- The slots of a sparse layer's row from slot `t` on: the sum of the values at column `j`, if there are any. -/
def sparseSum {ε : Type} (rd : Reader ε) (fmt : BitVec 4) (data w row j : Nat) :
    Nat → Nat → Option Nat → State → Except ε (Option Nat × State)
  | 0, _, acc, s => .ok (acc, s)
  | n + 1, t, acc, s => do
    let (ib, s) ← rd s (data + sprIndexOff row t) 4
    if leNat ib = 0xFFFFFFFF then .ok (acc, s)
    else if leNat ib = j then do
      let (c, s) ← readCode rd fmt data (sprValueBit w (widthOf fmt) row t) s
      let v := rne32 (decodeTag fmt c)
      sparseSum rd fmt data w row j n (t + 1) (some (match acc with
        | some a => rne32 ((val32 a).add 0 (val32 v))
        | none => v)) s
    else sparseSum rd fmt data w row j n (t + 1) acc s

/-- d of a low-rank layer from index `k` on (R229). -/
def lowRank {ε : Type} (rd : Reader ε) (l : List Byte) (cols i j : Nat) : Nat → Nat → Nat → State → Except ε (Nat × State)
  | 0, _, d, s => .ok (d, s)
  | n + 1, k, d, s => do
    let fmt := BitVec.ofNat 4 (slFmt l)
    let size := widthOf fmt / 8
    let (ub, s) ← rd s (slAddr1 l + (i * slRank l + k) * size) size
    let (vb, s) ← rd s (slAddr2 l + (k * cols + j) * size) size
    lowRank rd l cols i j n (k + 1)
      (rne32 (((decodeTag fmt (leNat ub)).mul (decodeTag fmt (leNat vb))).add 0 (val32 d))) s

/-- v after one layer (R229). -/
def layerAdd {ε : Type} (rd : Reader ε) (l : List Byte) (cols i j v : Nat) (s : State) : Except ε (Nat × State) := do
  let coef := val32 (slCoef l)
  if slKind l = 1 then do
    let (h, s) ← rd s (slAddr1 l) 64
    if sprNslice h ≤ i / 16 then .ok (v, s)
    else do
      let (wb, s) ← rd s (slAddr1 l + sprWoff h + i / 16) 1
      let w := leNat wb
      if w = 0 then .ok (v, s)
      else do
        let (ob, s) ← rd s (slAddr1 l + sprSoff h + 8 * (i / 16)) 8
        let (t, s) ← sparseSum rd (BitVec.ofNat 4 (sprFmt h)) (slAddr1 l + leNat ob) w i j w 0 none s
        match t with
        | some t => .ok (rne32 ((val32 v).add 0 (coef.mul (val32 t))), s)
        | none => .ok (v, s)
  else do
    let (d, s) ← lowRank rd l cols i j (slRank l) 0 0 s
    .ok (rne32 ((val32 v).add 0 (coef.mul (val32 d))), s)

/-- v after several layers. -/
def layersAdd {ε : Type} (rd : Reader ε) (cols i j : Nat) : List (List Byte) → Nat → State → Except ε (Nat × State)
  | [], v, s => .ok (v, s)
  | l :: rest, v, s => do
    let (v, s) ← layerAdd rd l cols i j v s
    layersAdd rd cols i j rest v s

/-- Element (i, j) of the tensor as a handle sees it: an FP32 code (R229). -/
def glossElement {ε : Type} (rd : Reader ε) (h : BitVec 256) (b : List Byte) (i j : Nat) (s : State) : Except ε (Nat × State) := do
  let (v, s) ← baseElement rd b i j s
  layersAdd rd (glCols b) i j (layersOf h b) v s

/-- Elements (i, j) to (i, j + n − 1). -/
def glossRow {ε : Type} (rd : Reader ε) (h : BitVec 256) (b : List Byte) (i : Nat) : Nat → Nat → State → Except ε (List Nat × State)
  | 0, _, s => .ok ([], s)
  | n + 1, j, s => do
    let (v, s) ← glossElement rd h b i j s
    let (rest, s) ← glossRow rd h b i n (j + 1) s
    .ok (v :: rest, s)

/-- The first header fault among the sparse layers a handle sees. -/
def layerHeaders {ε : Type} (rd : Reader ε) : List (List Byte) → State → Except ε (Bool × State)
  | [], s => .ok (true, s)
  | l :: rest, s => do
    if slKind l = 1 then do
      let (h, s) ← rd s (slAddr1 l) 64
      if sprPlain h then layerHeaders rd rest s else .ok (false, s)
    else layerHeaders rd rest s

/-- The bytes of a row of codes of a format (R206). -/
def packCodes (fmt : BitVec 4) (cs : List Nat) : List Byte :=
  if widthOf fmt = 4 then
    (List.range ((cs.length + 1) / 2)).map (fun i => BitVec.ofNat 8 (cs.getD (2 * i) 0 + 16 * cs.getD (2 * i + 1) 0))
  else cs.flatMap (fun c => leBytes (widthOf fmt / 8) c)

end Sys2Proof.Machine
end

