-- ==== Sys2Proof/Machine/Lookup.lean ====
section
/-!
DEFINITION. Class 011: the lookup group (R352 to R355), which exists on lookup cores only: gathering table rows into the
1 MiB buffer, removing repeated indices, pooling rows, and handing rows to another home.
Log entry: 30 (what overlaps in the buffer).
Also log entry 106 (LPOOL of one row).
-/

namespace Sys2Proof.Machine

/-! ### The buffer (R200) -/

/-- The lookup core in progress. -/
def State.lookupNo (s : State) : Nat := match s.cur with | .lookup n => n | _ => 0

/-- An offset into the buffer: a multiple of 16, and a range within 1 MiB. -/
def bufferRange (s : State) (r : DReg) (n : Nat) : Eff Nat := do
  let o ← single s r
  need (o.toNat % 16 = 0) tAlign s
  need (o.toNat + n ≤ 2 ^ 20) tProt s
  .ok o.toNat

/-- Bytes of the buffer. -/
def bufferRead (s : State) (off n : Nat) : Eff (List Byte) := do
  need (!s.poisoned (bufferCell s.lookupNo off) n) tEccUncorr s
  .ok (s.bytes (bufferCell s.lookupNo off) n)

/-- Write bytes of the buffer. -/
def State.bufferWrite (s : State) (off : Nat) (bs : List Byte) : State := s.setBytes (bufferCell s.lookupNo off) bs

/-! ### `LGATHER` (R352) -/

/-- Fetch the rows that indices name, each distinct index once, and write each position; `seen` holds the rows fetched. -/
def gatherRows (d : Desc) (dst bytes rows : Nat) : List Word → Nat → List (Word × List Byte) → Nat → State → Eff State
  | [], _, _, _, s => .ok s
  | i :: rest, j, seen, used, s =>
    if rows ≤ i.toNat then
      gatherRows d dst bytes rows rest (j + 1) seen used (s.bufferWrite (dst + j * bytes) (List.replicate bytes 0))
    else match seen.find? (fun e => e.1 == i) with
      | some e => gatherRows d dst bytes rows rest (j + 1) seen used (s.bufferWrite (dst + j * bytes) e.2)
      | none => do
        descBreak s d (i.toNat * bytes) bytes false
        let (bs, used, s) ← loadRange d false 15 used s (i.toNat * bytes) bytes
        gatherRows d dst bytes rows rest (j + 1) ((i, bs) :: seen) used (s.bufferWrite (dst + j * bytes) bs)

/-- The mask of the indices outside the table. -/
def gatherMask (rows : Nat) (ix : List Word) : Word :=
  BitVec.ofNat 32 ((ix.zipIdx).foldl (fun m e => if rows ≤ e.1.toNat then m + 2 ^ e.2 else m) 0)

/-- The registers from `k` on. -/
def regsFrom (k : DReg) (n : Nat) : List DReg := (List.range n).map (fun i => k + BitVec.ofNat 6 i)

/-- `LGATHER` (R352). -/
def lgather (dd : DReg) (m : MemOp) (n : BitVec 3) (s : State) : Eff State := do
  lookupOnly s
  let ix ← singles s (regsFrom m.off (n.toNat + 1))
  let bytes := 16 * m.imm.toNat
  let dst ← bufferRange s dd (bytes * (n.toNat + 1))
  let d := s.desc m.bd
  let rows := d.len / bytes
  let t ← gatherRows d dst bytes rows ix 0 [] 0 s
  .ok (t.dropGot.write 1 (.d dd (Dom.single (gatherMask rows ix))))

/-! ### `LDEDUP` (R353) -/

/-- The distinct values in the order of their first occurrence. -/
def distinct : List Word → List Word → List Word
  | [], _ => []
  | v :: rest, seen => if seen.contains v then distinct rest seen else v :: distinct rest (v :: seen)

/-- `LDEDUP` (R353). -/
def ldedup (dd : DReg) (dk : DReg) (n : BitVec 3) (s : State) : Eff State := do
  lookupOnly s
  let vs ← singles s (regsFrom dk (n.toNat + 1))
  let kept := distinct vs []
  .ok (s.writes 2 ((kept.zipIdx).map (fun e => Write.d (dk + BitVec.ofNat 6 e.2) (Dom.single e.1))
    ++ [.d dd (Dom.single (BitVec.ofNat 32 kept.length))]))

/-! ### `LPOOL` (R354) -/

/-- Combine the values of one column, the first row's first. -/
def poolColumn (op : BitVec 2) (col : List Nat) : Nat :=
  let f := fmtOf tagF32
  match col.map (canonical tagF32) with
  | [] => 0
  | x :: rest =>
    if op = 2 then rest.foldl (fun a b => floatOp f 0 .max a b 0) x
    else
      let sum := rest.foldl (fun a b => floatOp f 0 .add a b 0) x
      if op = 0 then sum
      else match f.decode sum with
        | .fin neg m e => f.encodeRatio 0 false neg m col.length e
        | y => f.encode 0 false y

/-- `LPOOL` (R354): every read precedes every write. -/
def lpool (op : BitVec 2) (dd ds : DReg) (rows : BitVec 4) (rsz : BitVec 20) (s : State) : Eff State := do
  lookupOnly s
  let bytes := 16 * rsz.toNat
  let n := rows.toNat + 1
  let dst ← bufferRange s dd bytes
  let src ← bufferRange s ds (bytes * n)
  let bs ← bufferRead s src (bytes * n)
  let ws := wordsOf (4 * rsz.toNat * n) bs
  let out := (List.range (4 * rsz.toNat)).map (fun c =>
    BitVec.ofNat 32 (poolColumn op ((List.range n).map (fun r => (ws.getD (r * (4 * rsz.toNat) + c) 0).toNat))))
  .ok (s.bufferWrite dst (bytesOfWords out))

/-! ### `LHAND` (R355) -/

/-- The payload of a WRB packet: data, and the barrier word's address at the destination in bytes 56–63 (R61). -/
def wrbData (bs : List Byte) (bar : Loc) : List Byte :=
  bs ++ List.replicate (56 - bs.length) 0 ++ leBytes 8 (packetAddr bar.key bar.cell).toNat

/-- Send one class-exempt write of an agent (R60, R62, R175): its bytes are counted on a barrier word, by the home where
the word is at the data's home, else by the agent once they have performed. -/
def sendExempt (s : State) (l : Loc) (bs : List Byte) (bar : Option Loc) : State × Access :=
  let here := match bar with | some b => s.homeNode b.cell == s.homeNode l.cell && !payloadAddressed l.cell | none => false
  let p := match bar with
    | some b => if here then requestTo s 2 0 true 0 l bs.length (wrbData bs b) else requestTo s 1 0 true 0 l bs.length bs
    | none => requestTo s 1 0 true 0 l bs.length bs
  let (s, q) := s.inject p
  (s, { cls := 0, dst := p.dst, seq := q, x := true, addr := l.cell, len := bs.length, off := l.offPackage, write := true
        bar := if here then none else bar.map (fun b => (b.key, b.cell)) })

/-- Where chunk `i` goes, from the destination's start (R355): row r, chunk c XOR (r mod 2^ρ). -/
def chunkOff (rot i : Nat) : Nat := 256 * (i / 16) + 16 * ((i % 16) ^^^ (i / 16 % 2 ^ rot))

/-- Send the chunks from the `i`-th on; an injection hold leaves the rest to the next issue. -/
def handChunks (d : Desc) (off src rot : Nat) (bar : Loc) : Nat → Nat → State → Eff State
  | 0, _, s => .ok s
  | n + 1, i, s => do
    let s := s.modWaits (fun w => { w with sentChunks := i })
    let (l, t) ← locate s false d (off + chunkOff rot i) 16 accWrite
    routed t l true
    let h := t.injectHold t.cur t.ctx.id.region
    if h != 0 then .error (.stall (t.countHold t.cur h))
    else do
      let bs ← bufferRead t (src + 16 * i) 16
      let (t, a) := sendExempt t l bs (some bar)
      handChunks d off src rot bar n (i + 1) (t.modCtx (fun c => { c with out := c.out ++ [a] }))

/-- `LHAND` (R355). -/
def lhand (ds : DReg) (m : MemOp) (dw : DReg) (s : State) : Eff State := do
  lookupOnly s
  let len := (m.imm.extractLsb' 0 16).toNat
  let rot := (m.imm.extractLsb' 16 4).toNat
  let src ← bufferRange s ds (16 * len)
  let off ← single s m.off
  let w ← single s dw
  let d := s.desc m.bd
  need ((d.base + off.toNat) % 16 = 0 && (rot = 0 || off.toNat % 256 = 0) && (d.base + w.toNat) % 32 = 0) tAlign s
  need (d.kind != kindLocal && off.toNat + 16 * len ≤ d.len) tProt s
  descBreak s d off.toNat (16 * len) true
  descBreak s d w.toNat 32 true
  let (bar, t) ← locate s false d w.toNat 32 accAtomic
  need (!bar.offPackage) tProt t
  let i := t.ctx.waits.sentChunks
  let t ← handChunks d off.toNat src rot bar (len - i) i t
  .ok (t.modWaits (fun w => { w with sentChunks := 0 }))

/-! ### Meanings -/

/-- `LGATHER` (R352). -/
def execLgather (dd : DReg) (m : MemOp) (n : BitVec 3) (s : State) : Host.Outcome State Fault Refusal := syllable (lgather dd m n) s
/-- `LDEDUP` (R353). -/
def execLdedup (dd : DReg) (_scope : BitVec 3) (dk : DReg) (n : BitVec 3) (s : State) : Host.Outcome State Fault Refusal :=
  syllable (ldedup dd dk n) s
/-- `LPOOL` (R354). -/
def execLpool (op : BitVec 2) (dd : DReg) (_scope : BitVec 3) (ds : DReg) (rows : BitVec 4) (rsz : BitVec 20) (s : State) :
    Host.Outcome State Fault Refusal := syllable (lpool op dd ds rows rsz) s
/-- `LHAND` (R355). -/
def execLhand (ds : DReg) (m : MemOp) (dw : DReg) (s : State) : Host.Outcome State Fault Refusal := syllable (lhand ds m dw) s

end Sys2Proof.Machine
end

