-- ==== Sys2Proof/Machine/Copy.lean ====
section
/-!
DEFINITION. The copy stream (R405 to R417): selectors, packets and their counting, `COPY`, `COPY2`, `MCAST`, `FILL`,
`BARANN`, `GLD` and `DECOMP` with the prefix code of R233 and R234.
Log entries: 32 (off the package), 40 (the header of a decoded object), 41 (a decoder's length limit).
-/

namespace Sys2Proof.Machine

/-! ### Operands (R406 to R408) -/

/-- The fields of SEL (R406). -/
def selSbd (w : Word) : BdReg := w.extractLsb' 8 4
def selDbd (w : Word) : BdReg := w.extractLsb' 4 4
def selBbd (w : Word) : BdReg := w.extractLsb' 0 4
def selRing (w : Word) : Bool := w.getLsbD 12

/-- SEL has zero where the word's row leaves a field unused, in reserved bits, and in BBD and RING without B. -/
def selOk (w : Word) (sbd dbd b : Bool) : Bool :=
  w.extractLsb' 13 19 == 0 && (sbd || selSbd w == 0) && (dbd || selDbd w == 0) && (b || (selBbd w == 0 && !selRing w))

/-- The value of the `i`-th operand, in push order. -/
def op (ops : List Word) (i : Nat) : Nat := (ops.getD i 0).toNat

/-- Does a range lie within a descriptor, and within the partition it names (R408)? A range of no bytes lies anywhere. -/
def rangeOk (s : State) (d : Desc) (off n : Nat) : Bool :=
  n = 0 || (off + n ≤ d.len && (if translated d.kind then decide (d.base + off + n ≤ 2 ^ 48)
    else (s.sramCell false d.kind (d.base + off)).isSome && (s.sramCell false d.kind (d.base + off + n - 1)).isSome))

/-- The checks of a barrier word's offset, the last operand of a word with B. -/
def barOk (s : State) (b : Bool) (ops : List Word) (i : Nat) : EEff Unit :=
  if b then do
    eneed (op ops i % 32 = 0) tAlign s
    eneed (rangeOk s (s.desc (selBbd (ops.getD 0 0))) (op ops i) 32) tProt s
  else .ok ()

/-- The barrier word of a copy word in progress, if it counts. -/
def barLoc (b : Bool) (ops : List Word) (i : Nat) (s : State) : EEff (Option Loc × State) :=
  if b then do
    let (l, t) ← elocate s (s.desc (selBbd (ops.getD 0 0))) (op ops i) 32 accAtomic
    eneed (!l.offPackage) tProt t
    .ok (some l, t)
  else .ok (none, s)

/-! ### Packets (R409) -/

/-- The bytes that one packet to a place may carry, of `n` up to the next 64-byte boundary of its address. -/
def runLen (s : State) (l : Loc) (bar : Option Loc) (n : Nat) : Nat :=
  let here := match bar with | some b => s.homeNode b.cell == s.homeNode l.cell | none => false
  min (min (64 - l.cell % 64) n) (if here || payloadAddressed l.cell then 56 else 64)

/-- The copy datapath of the tile has taken a step of the sequencer in progress (R199). -/
def State.servedCopy (s : State) : State :=
  match agentCore s.cur with
  | some k => s.modTile (k / 4) (fun t => { t with copyTurn := BitVec.ofNat 2 k })
  | none => s

/-- Inject one packet of the copy in progress, or hold. -/
def copyPacket (s : State) (l : Loc) (bar : Option Loc) (bs : List Byte) : EEff State :=
  match routeTrap s l true with
  | some c => eraise c s
  | none =>
    let h := s.injectHold s.cur s.ctx.id.region
    if h != 0 then .error (.hold (s.countHold s.cur h))
    else
      let (t, a) := sendExempt s l bs bar
      .ok ((t.modEng (fun e => { e with out := e.out ++ [a] })).servedCopy)

/-- Count bytes of the step index; those of a word with B are also counted on its barrier word. -/
def State.stepped (s : State) (n : Nat) (b : Bool) : State :=
  s.modEng (fun e => { e with
    step := e.step + BitVec.ofNat 32 n, sub := 0, counted := if b then e.counted + BitVec.ofNat 64 n else e.counted })

/-- A moving word's bytes from its step index on: `place b` gives the destination's offset and the bytes left in its row,
`bytes b n` reads `n` of them. -/
def moveRuns (dst : Desc) (bar : Option Loc) (place : Nat → Nat × Nat) (bytes : Nat → Nat → State → EEff (List Byte × State)) :
    Nat → State → EEff State
  | 0, s => .ok s
  | n + 1, s => do
    let b := s.eng.step.toNat
    let (off, left) := place b
    if left = 0 then .ok s
    else do
      let (l, t) ← elocate s dst off 1 accWrite
      let m := runLen t l bar left
      let (bs, t) ← bytes b m t
      let t ← copyPacket t l bar bs
      moveRuns dst bar place bytes n (t.edropGot.stepped m bar.isSome)

/-- Bytes of a row-major block: rows of `rowb`, byte `b` of all lies at `off + r × pitch + c`. -/
def blockPlace (off nrow rowb pitch b : Nat) : Nat × Nat :=
  if nrow * rowb ≤ b then (0, 0) else (off + b / rowb * pitch + b % rowb, rowb - b % rowb)

/-- Read a run of a source block. -/
def blockRead (d : Desc) (off rowb pitch b n : Nat) (s : State) : EEff (List Byte × State) := do
  let (bs, _, t) ← eread d true 0 0 s (off + b / rowb * pitch + b % rowb) n
  .ok (bs, t)

/-- Start a word with its operands unless it is in progress. -/
def startWord (n : Nat) (check : List Word → State → EEff Unit) (s : State) : EEff State :=
  if s.eng.inWord.isSome then .ok s
  else do
    let xs ← etop n s
    check xs s
    .ok (s.latch xs)

/-! ### `COPY`, `COPY2`, `FILL` (R411, R413) -/

/-- The checks of a block of rows under a descriptor. -/
def blockOk (s : State) (d : Desc) (off nrow rowb pitch : Nat) : Bool :=
  nrow = 0 || rowb = 0 || (List.range nrow).all (fun r => rangeOk s d (off + r * pitch) rowb)

/-- `COPY`: one row. -/
def ewCopy (s : State) : EEff State := do
  let b := copyCounts s.word
  let t ← startWord (if b then 5 else 4) (fun ops s => do
    let sel := ops.getD 0 0
    eneed (selOk sel true true b) tProt s
    eneed (rangeOk s (s.desc (selSbd sel)) (op ops 1) (op ops 3)) tProt s
    eneed (rangeOk s (s.desc (selDbd sel)) (op ops 2) (op ops 3)) tProt s
    barOk s b ops 4) s
  let ops := t.eng.ops
  let sel := ops.getD 0 0
  let (bar, t) ← barLoc b ops 4 t
  let t ← moveRuns (t.desc (selDbd sel)) bar (blockPlace (op ops 2) 1 (op ops 3) 0)
    (blockRead (t.desc (selSbd sel)) (op ops 1) (op ops 3) 0) (op ops 3) t
  .ok t.wordDone

/-- `COPY2`: rows with pitches. -/
def ewCopy2 (s : State) : EEff State := do
  let b := copyCounts s.word
  let t ← startWord (if b then 8 else 7) (fun ops s => do
    let sel := ops.getD 0 0
    eneed (selOk sel true true b) tProt s
    eneed (blockOk s (s.desc (selSbd sel)) (op ops 1) (op ops 3) (op ops 4) (op ops 5)) tProt s
    eneed (blockOk s (s.desc (selDbd sel)) (op ops 2) (op ops 3) (op ops 4) (op ops 6)) tProt s
    barOk s b ops 7) s
  let ops := t.eng.ops
  let sel := ops.getD 0 0
  let (bar, t) ← barLoc b ops 7 t
  let t ← moveRuns (t.desc (selDbd sel)) bar (blockPlace (op ops 2) (op ops 3) (op ops 4) (op ops 6))
    (blockRead (t.desc (selSbd sel)) (op ops 1) (op ops 4) (op ops 5)) (op ops 3 * op ops 4) t
  .ok t.wordDone

/-- `FILL`: byte `i` takes byte i mod 4 of PAT. -/
def ewFill (s : State) : EEff State := do
  let t ← startWord 4 (fun ops s => do
    let sel := ops.getD 0 0
    eneed (selOk sel false true false) tProt s
    eneed (rangeOk s (s.desc (selDbd sel)) (op ops 1) (op ops 2)) tProt s) s
  let ops := t.eng.ops
  let pat := leBytes 4 (op ops 3)
  let t ← moveRuns (t.desc (selDbd (ops.getD 0 0))) none (blockPlace (op ops 1) 1 (op ops 2) 0)
    (fun b n s => .ok ((List.range n).map (fun i => pat.getD ((b + i) % 4) 0), s)) (op ops 2) t
  .ok t.wordDone

/-! ### `MCAST` (R412, R74) -/

/-- The tiles of the partition that the bound region draws on, in tile-number order. -/
def State.partitionTiles (s : State) : List Nat := ((s.partition s.ctx.id.region).map (· / 96)).eraseDups

/-- The tiles that a mask selects. -/
def maskTiles (s : State) (lo hi : Nat) : List Nat :=
  ((s.partitionTiles).zipIdx).filterMap (fun e => if (hi * 2 ^ 32 + lo) / 2 ^ e.2 % 2 = 1 then some e.1 else none)

/-- A place at an offset of a tile's share. -/
def State.shareLoc (s : State) (tile p : Nat) : Option Loc :=
  (granuleCell (shareOf (s.partition s.ctx.id.region) tile) p).map (fun a => ⟨0, a, false, none⟩)

/-- Send a run to every selected tile from the `sub`-th on. -/
def castRun (tiles : List Nat) (off : Nat) (boff : Option Nat) (bs : List Byte) : Nat → State → EEff State
  | 0, s => .ok s
  | n + 1, s =>
    match tiles[s.eng.sub]? with
    | none => .ok s
    | some t =>
      match s.shareLoc t off with
      | none => eraise tProt s
      | some l => do
        let bar := boff.bind (s.shareLoc t)
        let u ← copyPacket s l bar bs
        castRun tiles off boff bs n (u.modEng (fun e => { e with sub := e.sub + 1 }))

/-- The runs of an `MCAST` from its step index on. -/
def castRuns (src : Desc) (soff doff len : Nat) (tiles : List Nat) (boff : Option Nat) : Nat → State → EEff State
  | 0, s => .ok s
  | n + 1, s => do
    let b := s.eng.step.toNat
    if len ≤ b then .ok s
    else do
      let m := min (min (64 - (doff + b) % 64) (len - b)) (if boff.isSome then 56 else 64)
      let (bs, t) ← blockRead src soff len 0 b m s
      let t ← castRun tiles (doff + b) boff bs (tiles.length + 1) t
      castRuns src soff doff len tiles boff n (t.edropGot.stepped m boff.isSome)

/-- `MCAST`. -/
def ewMcast (s : State) : EEff State := do
  let b := copyCounts s.word
  let t ← startWord (if b then 7 else 6) (fun ops s => do
    let sel := ops.getD 0 0
    eneed (selOk sel true false b) tProt s
    eneed (rangeOk s (s.desc (selSbd sel)) (op ops 1) (op ops 3)) tProt s
    eneed ((op ops 5 * 2 ^ 32 + op ops 4) < 2 ^ s.partitionTiles.length) tProt s
    let share (t : Nat) : Nat := (shareOf (s.partition s.ctx.id.region) t).length * granuleBytes
    let tiles := maskTiles s (op ops 4) (op ops 5)
    eneed (tiles.all (fun t => op ops 2 + op ops 3 ≤ share t)) tProt s
    if b then do
      eneed (op ops 6 % 32 = 0) tAlign s
      eneed (tiles.all (fun t => op ops 6 + 32 ≤ share t)) tProt s
    else .ok ()) s
  let ops := t.eng.ops
  let tiles := maskTiles t (op ops 4) (op ops 5)
  let t ← if tiles = [] then .ok t else
    castRuns (t.desc (selSbd (ops.getD 0 0))) (op ops 1) (op ops 2) (op ops 3) tiles (if b then some (op ops 6) else none) (op ops 3) t
  .ok t.wordDone

/-! ### `BARANN` (R414) -/

/-- `BARANN`: when every earlier word has completed, the word is initialised at its home. -/
def ewBarann (s : State) : EEff State := do
  edone s
  let ops ← etop 4 s
  let sel := ops.getD 0 0
  eneed (sel.extractLsb' 4 28 == 0) tProt s
  eneed (op ops 1 % 32 = 0) tAlign s
  eneed ((ops.getD 3 0).extractLsb' 1 31 == 0) tProt s
  let (l, t) ← elocate s (s.desc (selBbd sel)) (op ops 1) 32 accWrite
  eneed (!l.offPackage) tProt t
  match homeTrap t l 32 true with
  | some c => eraise c t
  | none => .ok ((t.barInit l.key l.cell (BitVec.ofNat 64 (op ops 2)) ((ops.getD 3 0).getLsbD 0)).edrop 4).wordDone

/-! ### Packets of a row or slice (R415, R416) -/

/-- Send a list of segments (offset and bytes) from the `sub`-th byte on. -/
def sendSegs (dst : Desc) (bar : Option Loc) : Nat → List (Nat × List Byte) → State → EEff State
  | 0, _, s => .ok s
  | n + 1, segs, s => do
    match segs with
    | [] => .ok s
    | (_, []) :: rest => sendSegs dst bar n rest s
    | (off, bs) :: rest => do
      let (l, t) ← elocate s dst off 1 accWrite
      let m := runLen t l bar bs.length
      let t ← copyPacket t l bar (bs.take m)
      sendSegs dst bar n ((off + m, bs.drop m) :: rest) (t.modEng (fun e => { e with sub := e.sub + m }))

/-- The segments after the first `n` bytes. -/
def dropSegs : Nat → List (Nat × List Byte) → List (Nat × List Byte)
  | _, [] => []
  | n, (off, bs) :: rest => if bs.length ≤ n then dropSegs (n - bs.length) rest else (off + n, bs.drop n) :: rest

/-- The bytes of segments. -/
def segBytes (segs : List (Nat × List Byte)) : Nat := (segs.map (·.2.length)).sum

/-- Send one row or slice whole; then the step index is one more. -/
def sendUnit (dst : Desc) (bar : Option Loc) (segs : List (Nat × List Byte)) (s : State) : EEff State := do
  let t ← sendSegs dst bar (2 * segBytes segs + segs.length + 1) (dropSegs s.eng.sub segs) s
  .ok (t.edropGot.modEng (fun e => { e with
    step := e.step + 1, sub := 0, counted := if bar.isSome then e.counted + BitVec.ofNat 64 (segBytes segs) else e.counted }))

/-! ### `GLD` (R415) -/

/-- Read a virtual address for a gloss load; what lies off the package raises PROT. -/
def glossRead : Nat → State → Nat → Nat → EEff (List Byte × State)
  | 0, s, _, _ => .ok ([], s)
  | k + 1, s, va, n =>
    if n = 0 then .ok ([], s)
    else do
      eneed (va < 2 ^ 48) tProt s
      let m := spanLen va n
      let (l, t) ← etranslate s (BitVec.ofNat 48 va) accRead 0
      eneed (!l.offPackage) tProt t
      let (bs, _, t) ← eload 0 t true 0 l m
      let (rest, t) ← glossRead k t (va + m) (n - m)
      .ok (bs ++ rest, t)

/-- The reader of a gloss load. -/
def glossReader : Reader EHalt := fun s va n => glossRead (spanCount n) s va n

/-- The rows of a `GLD` from its step index on. -/
def gldRows (m : GldMods) (ops : List Word) (lst : List Byte) (dst : Desc) (bar : Option Loc) : Nat → State → EEff State
  | 0, s => .ok s
  | n + 1, s => do
    let r := s.eng.step.toNat
    if op ops 3 ≤ r then .ok s
    else do
      let (vs, t) ← glossRow glossReader s.eng.handle lst (op ops 1 + r) (op ops 4) (op ops 2) s
      let bytes := packCodes m.t (vs.map (convert tagF32 m.t 0 t.eng.satnan))
      let t ← sendUnit dst bar [(op ops 5 + r * op ops 6, bytes)] t
      gldRows m ops lst dst bar n t

/-- What the selector, the handle and the tile's sizes of a `GLD` must be (R415). -/
def gldTile (m : GldMods) (ops : List Word) (s : State) : Bool :=
  selOk (ops.getD 0 0) false true m.b && hValid (s.ctx.regs.gloss m.h) && op ops 3 != 0 && op ops 4 != 0
    && !(m.t == 6 && op ops 4 % 2 == 1)

/-- The checks of a `GLD`'s destination and of its barrier word (R415). -/
def gldCheck (m : GldMods) (ops : List Word) (s : State) : EEff Unit := do
  let size := rowSize m.t (op ops 4)
  eneed (op ops 5 % 16 = 0 && op ops 6 % 16 = 0) tAlign s
  eneed (size ≤ op ops 6) tProt s
  eneed (blockOk s (s.desc (selDbd (ops.getD 0 0))) (op ops 5) (op ops 3) size (op ops 6)) tProt s
  barOk s m.b ops 7

/-- A `GLD` starts (R415): the checks of its operands in push order, among them those of the list and of the layers' headers; it
latches the handle and the list's fields. -/
def gldStart (m : GldMods) (s : State) : EEff State := do
  let ops ← etop (if m.b then 8 else 7) s
  eneed (gldTile m ops s) tProt s
  let h := s.ctx.regs.gloss m.h
  let (lst, t) ← glossReader s (hList h).toNat 256
  let (ok, t) ← layerHeaders glossReader (layersOf h lst) t
  eneed (ok && op ops 1 + op ops 3 ≤ glRows lst && op ops 2 + op ops 4 ≤ glCols lst) tProt t
  gldCheck m ops t
  .ok ((t.latch ops).modEng (fun e => { e with handle := h, glist := lst }))

/-- `GLD`. -/
def ewGld (s : State) : EEff State := do
  let m := GldMods.ofWord s.word
  let t ← if s.eng.inWord.isNone then gldStart m s else .ok s
  let ops := t.eng.ops
  let (bar, t) ← barLoc m.b ops 7 t
  let t ← gldRows m ops t.eng.glist (t.desc (selDbd (ops.getD 0 0))) bar (op ops 3) t
  .ok t.wordDone

/-! ### `DECOMP` (R233, R234, R416) -/

/-- The canonical codes of a length table, as (symbol, length, code); `none` where it is in error (R234). -/
def canonicalCodes (len : List Nat) : Option (List (Nat × Nat × Nat)) :=
  let count (l : Nat) : Nat := (len.filter (· == l)).length
  let rec firsts : Nat → Nat → Nat → Option (List (Nat × Nat))
    | 0, _, _ => some []
    | n + 1, l, code =>
      if 2 ^ l < code + count l then none
      else (firsts n (l + 1) ((code + count l) * 2)).map ((l, code) :: ·)
  if len.any (fun l => 12 < l) then none
  else (firsts 12 1 0).map (fun fs =>
    (len.zipIdx).filterMap (fun e =>
      if e.1 = 0 then none
      else some (e.2, e.1, ((fs.find? (fun f => f.1 == e.1)).map (·.2)).getD 0
        + ((len.take e.2).filter (· == e.1)).length)))

/-- The bits of bytes, from bit 7 of the first byte on. -/
def bitsOf (bs : List Byte) : List Bool := bs.flatMap (fun b => (List.range 8).map (fun i => b.getLsbD (7 - i)))
/-- The number of a list of bits, most significant first. -/
def bitsNat (bs : List Bool) : Nat := bs.foldl (fun n b => 2 * n + b.toNat) 0

/-- One symbol from a stream of bits. -/
def nextSymbol (codes : List (Nat × Nat × Nat)) (bits : List Bool) : Option (Nat × List Bool) :=
  (codes.find? (fun c => c.2.1 ≤ bits.length && bitsNat (bits.take c.2.1) == c.2.2)).map (fun c => (c.1, bits.drop c.2.1))

/-- The indices of one row: at most `n` more after `prev` (R233). -/
def decodeRow (codes : List (Nat × Nat × Nat)) (cols : Nat) : Nat → Int → List Bool → Option (List Nat × List Bool)
  | 0, _, bits => some ([], bits)
  | n + 1, prev, bits =>
    match nextSymbol codes bits with
    | none => none
    | some (254, rest) => some ([], rest)
    | some (sym, rest) =>
      let d := if sym = 255 then (if 32 ≤ rest.length then some (bitsNat (rest.take 32), rest.drop 32) else none)
        else some (sym, rest)
      match d with
      | none => none
      | some (delta, rest) =>
        let ix := prev + 1 + delta
        if (cols : Int) ≤ ix then none
        else (decodeRow codes cols n ix rest).map (fun r => (ix.toNat :: r.1, r.2))

/-- The rows of a slice; what is left must be padding to the byte. -/
def decodeRows (codes : List (Nat × Nat × Nat)) (cols w : Nat) : Nat → List Bool → Option (List (List Nat))
  | 0, bits => if bits.length < 8 && bits.all (! ·) then some [] else none
  | n + 1, bits =>
    match decodeRow codes cols w (-1) bits with
    | none => none
    | some (row, rest) => (decodeRows codes cols w n rest).map (row :: ·)

/-- The index area of a plain slice (R232). -/
def indexArea (w : Nat) (rows : List (List Nat)) : List Byte :=
  (List.range w).flatMap (fun t => (List.range 16).flatMap (fun r =>
    leBytes 4 (match (rows.getD r [])[t]? with | some i => i | none => 0xFFFFFFFF)))

/-- Bytes up to the next multiple of 16. -/
def pad16 (n : Nat) : Nat := (n + 15) / 16 * 16
/-- The bytes of a plain slice of width `w`. -/
def plainSlice (fmt : BitVec 4) (w : Nat) : Nat := 64 * w + rowSize fmt (16 * w)

/-- Where each slice lies in the output, and the output's end (R416). -/
def slicePlaces (fmt : BitVec 4) : Nat → List Nat → List Nat × Nat
  | at_, [] => ([], at_)
  | at_, w :: rest =>
    let at_ := pad16 at_
    let r := slicePlaces fmt (at_ + plainSlice fmt w) rest
    (at_ :: r.1, r.2)

/-- What a `DECOMP` has read before its first step. -/
structure Spr where
  head : List Byte
  widths : List Nat
  codes : List (Nat × Nat × Nat)
  soff : Nat
  deriving DecidableEq, Repr

/-- The start of the slice table of the output, and of its slices. -/
def Spr.outTable (p : Spr) : Nat := 64 + pad16 p.widths.length
def Spr.fmt (p : Spr) : BitVec 4 := BitVec.ofNat 4 (sprFmt p.head)
def Spr.places (p : Spr) : List Nat × Nat := slicePlaces p.fmt (p.outTable + 8 * p.widths.length) p.widths

/-- Read the header, the width table and the length table (R231, R234, R416); a fault there raises PROT. -/
def readSpr (d : Desc) (soff : Nat) (s : State) : EEff (Spr × Nat × State) := do
  let (h, used, t) ← eread d true 0 0 s soff 64
  eneed (sprCode h = 1 && glossFmtOk (sprFmt h) && sprClean h && sprNslice h = (sprRows h + 15) / 16
    && sprWoff h % 16 = 0 && sprSoff h % 16 = 0 && sprLoff h % 16 = 0) tProt t
  let (wb, used, t) ← eread d true 0 used t (soff + sprWoff h) (sprNslice h)
  let (lb, used, t) ← eread d true 0 used t (soff + sprLoff h) 256
  match canonicalCodes (lb.map (·.toNat)) with
  | none => eraise tProt t
  | some codes => .ok (⟨h, wb.map (·.toNat), codes, sprSoff h⟩, used, t)

/-- Decode slice `i` (R233): its segment of the output; `none` is a decode error. -/
def decodeSlice (d : Desc) (p : Spr) (soff i used : Nat) (s : State) : EEff (Option (List Byte) × State) := do
  let w := p.widths.getD i 0
  if w = 0 then .ok (some [], s)
  else do
    let (ob, used, t) ← eread d true 0 used s (soff + p.soff + 8 * i) 8
    let at_ := soff + leNat ob
    let (nb, used, t) ← eread d true 0 used t at_ 4
    let n := leNat nb
    let (cs, used, t) ← eread d true 0 used t (at_ + 4) n
    match decodeRows p.codes (sprCols p.head) w 16 (bitsOf cs) with
    | none => .ok (none, t)
    | some rows => do
      let (vs, _, t) ← eread d true 0 used t (soff + pad16 (leNat ob + 4 + n)) (rowSize p.fmt (16 * w))
      .ok (some (indexArea w rows ++ vs), t)

/-- The header, width table and slice table of the output. -/
def Spr.front (p : Spr) (doff : Nat) : List (Nat × List Byte) :=
  [(doff, p.head.take 9 ++ [0] ++ ((p.head.drop 10).take 6) ++ leBytes 8 64 ++ leBytes 8 p.outTable ++ leBytes 8 0
      ++ (p.head.drop 40).take 24),
   (doff + 64, p.widths.map (fun w => BitVec.ofNat 8 w)),
   (doff + p.outTable, p.places.1.flatMap (leBytes 8))]

/-- The slices from the step index on; the first goes with the header. -/
def decompSlices (d dst : Desc) (p : Spr) (soff doff used : Nat) (bar : Option Loc) : Nat → State → EEff State
  | 0, s => .ok s
  | n + 1, s => do
    let i := s.eng.step.toNat
    if max 1 p.widths.length ≤ i then .ok s
    else do
      let (out, t) ← decodeSlice d p soff i used s
      match out with
      | none => eraise tProt (t.modEng (fun e => { e with dead := true }))
      | some bs => do
        let segs := (if i = 0 then p.front doff else []) ++ [(doff + p.places.1.getD i 0, bs)]
        let t ← sendUnit dst bar segs t
        decompSlices d dst p soff doff used bar n t

/-- `DECOMP`. -/
def ewDecomp (s : State) : EEff State := do
  let b := copyCounts s.word
  let fresh := s.eng.inWord.isNone
  let ops ← if fresh then etop (if b then 4 else 3) s else .ok s.eng.ops
  let sel := ops.getD 0 0
  let src := s.desc (selSbd sel)
  let dst := s.desc (selDbd sel)
  if fresh then do
    eneed (selOk sel true true b) tProt s
    eneed (op ops 1 % 16 = 0 && op ops 2 % 16 = 0) tAlign s
    barOk s b ops 3
  let (p, used, t) ← readSpr src (op ops 1) s
  eneed (rangeOk s dst (op ops 2) p.places.2) tProt s
  let t := if fresh then t.latch ops else t
  let (bar, t) ← barLoc b ops 3 t
  let t ← decompSlices src dst p (op ops 1) (op ops 2) used bar (p.widths.length + 1) t
  .ok t.wordDone

/-! ### Meanings -/

/-- `COPY` (R411). -/
def execCopy (s : State) : Host.Outcome State Fault Refusal := engineWord ewCopy s
/-- `COPY2` (R411). -/
def execCopy2 (s : State) : Host.Outcome State Fault Refusal := engineWord ewCopy2 s
/-- `MCAST` (R412). -/
def execMcast (s : State) : Host.Outcome State Fault Refusal := engineWord ewMcast s
/-- `FILL` (R413). -/
def execFill (s : State) : Host.Outcome State Fault Refusal := engineWord ewFill s
/-- `BARANN` (R414). -/
def execBarann (s : State) : Host.Outcome State Fault Refusal := engineWord ewBarann s
/-- `GLD` (R415). -/
def execGld (s : State) : Host.Outcome State Fault Refusal := engineWord ewGld s
/-- `DECOMP` (R416). -/
def execDecomp (s : State) : Host.Outcome State Fault Refusal := engineWord ewDecomp s

end Sys2Proof.Machine
end

