-- ==== Sys2Proof/Machine/EngineControl.lean ====
section
/-!
DEFINITION. Class 110: engine control (R420 to R422) and the gloss instructions (R423 to R426).
Log entries: 16 (gloss lists off the package), 38 (the fold's barrier word), 39 (an engine stopped by `ESTOP`).
-/

namespace Sys2Proof.Machine

/-! ### `ESTART`, `ESTOP`, `ESTAT` -/

/-- Start an engine at a word (R420): an armed `LOOPB` count and a matrix window are kept. -/
def Engine.started (e : Engine) (word : Addr) : Engine :=
  { e with state := .running, word := word, step := 0, cls := 15, stack := [], reps := [], ops := [], inWord := none
           dead := false, fault := none, resolved := none, sub := 0, skip := 0, sent := false, reply := none, got := []
           counted := 0, bcast := { e.bcast with active := false } }

/-- The start address of an engine in the active bank. -/
def Core.startOf (c : Core) (copy : Bool) : Addr := if copy then c.active.cstart else c.active.mstart

/-- `ESTART`. -/
def estart (copy : Bool) (da : DReg) (s : State) : Eff State := do
  userOnly s
  let n ← single s da
  match agentCore s.cur with
  | none => raise tIllegal s
  | some k =>
    let e := s.engine k copy
    let start := s.setEngine k copy (e.started ((s.core k).startOf copy + BitVec.ofNat 48 (2 * n.toNat)))
    match e.state with
    | .idle => do
      need (n != 0xFFFFFFFF) tIllegal s
      .ok start
    | .stopped =>
      if n != 0xFFFFFFFF then .ok start
      else do
        need (!e.dead) tIllegal s
        .ok (s.setEngine k copy { e with state := .running, fault := none, resolved := none })
    | _ => raise tIllegal s

/-- An engine that `ESTOP` has stopped (R421): what it sent is still outstanding. -/
def Engine.halted (e : Engine) : Engine :=
  { e with state := .idle, step := 0, stack := [], reps := [], ops := [], inWord := none, dead := false, fault := none
           resolved := none, sub := 0, skip := 0, sent := false, reply := none, got := [], counted := 0
           bcast := { e.bcast with armed := none, active := false } }

/-- Is a piece, row or slice of the word in progress sent in part? A stop never divides it (R417). -/
def Engine.within (e : Engine) : Bool := e.state == .running && e.inWord.isSome && e.fault.isNone && e.sub != 0

/-- `ESTOP`: it waits until the engine is between pieces and every access of the engine has performed. -/
def estop (copy : Bool) (s : State) : Eff State := do
  userOnly s
  match agentCore s.cur with
  | none => raise tIllegal s
  | some k =>
    if (s.engine k copy).state == .idle && (s.engine k copy).out = [] then .ok s
    else if (s.engine k copy).within then .error (.stall s)
    else
      let t := s.setEngine k copy (s.engine k copy).halted
      let t := if copy then t else (t.freeLease k).modLease (k / 4) (fun l => l.noWait (k % 4) s.cycle)
      let u := { { t with cur := if copy then .copy k else .matrix k }.engFlush with cur := s.cur }
      if (t.engine k copy).out = [] then .ok t else .error (.stall u)

/-- The code of an engine's STATE (R203). -/
def EngineState.code : EngineState → Nat
  | .idle => 0
  | .running => 1
  | .waitEvent => 2
  | .waitLease => 3
  | .stopped => 4

/-- `ESTAT` (R422). -/
def estat (dd : DReg) (copy : Bool) (item : BitVec 3) (s : State) : Eff State := do
  userOnly s
  match agentCore s.cur with
  | none => raise tIllegal s
  | some k =>
    let e := s.engine k copy
    let v : Word := match item.toNat with
      | 0 => e.word.extractLsb' 0 32
      | 1 => e.step
      | 2 => BitVec.ofNat 32 e.state.code
      | 3 => e.bcast.done
      | _ => BitVec.ofNat 32 e.stack.length
    .ok (s.write 1 (.d dd (Dom.single v)))

/-! ### Gloss instructions -/

/-- The place of a gloss list at a virtual address, for an access that its home performs in one step (class 15). -/
def listAt (s : State) (va : Nat) (acc : BitVec 4) (page : BitVec 2) : Eff (Loc × State) := do
  match s.translate (agentPort s.cur) s.ctx.id.conf s.ctx.id.pasid (BitVec.ofNat 48 va) acc with
  | .ok pa t =>
    let l : Loc := ⟨physKey pa, physCell pa, false, some (BitVec.ofNat 48 va)⟩
    need (!l.offPackage) tProt t
    orderWait t 15 l 256
    atHome t l 256 false
    .ok (l, t)
  | .prot t => raise tProt t
  | .fault c t => .error (.fault (t.bundleFault (BitVec.ofNat 48 va) acc c page))
  | .wait => .error (.stall s)

/-- The address of a list that an instruction names, of a kind that is translated; within LEN. -/
def listAddr (s : State) (bd : BdReg) (off n : Nat) : Eff Nat := do
  let d := s.desc bd
  need (translated d.kind && off + n ≤ d.len && d.base + off + n ≤ 2 ^ 48) tProt s
  .ok (d.base + off)

/-- `GOPEN` (R423, R226). -/
def gopen (g : GReg) (bd : BdReg) (da : DReg) (imm : BitVec 20) (s : State) : Eff State := do
  userOnly s
  let o ← offsetOf s (operandM bd da imm) 256 256
  let va ← listAddr s bd o.off 256
  need (va % 256 = 0) tProt s
  let (l, t) ← listAt s va accRead (s.desc bd).page
  let b := t.glList l.key l.cell
  let t := t.countFar l.cell
  match listFault b tProt tGlossOvf with
  | some c => raise c t
  | none => .ok (t.write 1 (.g g (handleBits (BitVec.ofNat 48 va) (glVersion b) (glN b))))

/-- The handle of a register, which must be open. -/
def openHandle (s : State) (g : GReg) : Eff (BitVec 256) := do
  let h := s.src.regs.gloss g
  need (hValid h) tProt s
  .ok h

/-- A layer slot image in its container obeys R225 (R424). -/
def imageOk (c : List Byte) : Bool := slotOk (c.take 28) && slDver c == 0 && field c 28 4 == 0

/-- `GATTACH` (R424). -/
def gattach (g : GReg) (bd : BdReg) (da : DReg) (imm : BitVec 20) (s : State) : Eff State := do
  userOnly s
  let o ← offsetOf s (operandM bd da imm) 32 32
  need (((s.desc bd).base + o.off) % 32 = 0) tAlign s
  let h ← openHandle s g
  let (c, t) ← loadHeld s bd o.off 32 32
  need (imageOk c) tProt t
  released t deviceScope
  let (l, t) ← listAt t (hList h).toNat accAtomic 0
  match t.glAttach l.key l.cell (c.take 28) with
  | some u => .ok (u.countFar l.cell)
  | none => raise tGlossOvf (t.countFar l.cell)

/-- `GDETACH` (R425). -/
def gdetach (c : CReg) (g : GReg) (slot : BitVec 3) (s : State) : Eff State := do
  userOnly s
  let h ← openHandle s g
  released s deviceScope
  let (l, t) ← listAt s (hList h).toNat accAtomic 0
  match t.glDetach l.key l.cell slot.toNat with
  | some u => .ok ((u.countFar l.cell).write 1 (.c c false))
  | none => .ok ((t.countFar l.cell).write 1 (.c c true))

/-- The prepared header of a fold's new list (R230, R426): zero but for BASE, BSCALE, PITCH and FMT. -/
def preparedOk (b : List Byte) (tag : BitVec 4) : Bool :=
  glFmt b == tag && field b 19 1 == tag.toNat && (glBscale b != 0) == scaledFmt tag.toNat
    && field b 16 3 == 0 && field b 20 4 == 0 && field b 28 4 == 0 && (b.drop 32).all (· == 0)

/-- `GFOLD` (R426). -/
def gfold (c : CReg) (g : GReg) (bda : BdReg) (da : DReg) (bdb : BdReg) (db : DReg) (tag : BitVec 4) (s : State) : Eff State := do
  userOnly s
  let a ← single s da
  let b ← single s db
  let da_ := s.desc bda
  let db_ := s.desc bdb
  need ((da_.base + a.toNat) % 256 = 0 && (db_.base + b.toNat) % 32 = 0) tAlign s
  let h ← openHandle s g
  let nva ← listAddr s bda a.toNat 256
  need (nva != (hList h).toNat) tProt s
  let (nl, t) ← listAt s nva (accRead ||| accWrite) da_.page
  need (preparedOk (t.glList nl.key nl.cell) tag) tProt t
  let (bar, t) ← locate t false db_ b.toNat 32 accAtomic
  need (!bar.offPackage) tProt t
  released t deviceScope
  let (l, t) ← listAt t (hList h).toNat accAtomic 0
  match t.glFoldStart l.key l.cell with
  | none => .ok ((t.countFar l.cell).write 1 (.c c true))
  | some u =>
    let f : Fold := { home := u.homeNode l.cell, old := physAddr l.key l.cell, snap := h, newVa := BitVec.ofNat 48 nva
                      bar := physAddr bar.key bar.cell, tag := tag, pasid := u.ctx.id.pasid, region := u.ctx.id.region
                      conf := u.ctx.id.conf, core := (agentCore u.cur).getD 0, index := u.instanceIndex }
    .ok (({ u with folds := u.folds ++ [f] }.countFar l.cell).write 1 (.c c false))

/-! ### Meanings -/

/-- `ESTART` (R420). -/
def execEstart (copy : Bool) (da : DReg) (s : State) : Host.Outcome State Fault Refusal := syllable (estart copy da) s
/-- `ESTOP` (R421). -/
def execEstop (copy : Bool) (s : State) : Host.Outcome State Fault Refusal := syllable (estop copy) s
/-- `ESTAT` (R422). -/
def execEstat (dd : DReg) (copy : Bool) (item : BitVec 3) (s : State) : Host.Outcome State Fault Refusal := syllable (estat dd copy item) s
/-- `GOPEN` (R423). -/
def execGopen (g : GReg) (bd : BdReg) (da : DReg) (imm : BitVec 20) (s : State) : Host.Outcome State Fault Refusal :=
  syllable (gopen g bd da imm) s
/-- `GATTACH` (R424). -/
def execGattach (g : GReg) (bd : BdReg) (da : DReg) (imm : BitVec 20) (s : State) : Host.Outcome State Fault Refusal :=
  syllable (gattach g bd da imm) s
/-- `GDETACH` (R425). -/
def execGdetach (c : CReg) (g : GReg) (slot : BitVec 3) (s : State) : Host.Outcome State Fault Refusal := syllable (gdetach c g slot) s
/-- `GFOLD` (R426). -/
def execGfold (c : CReg) (g : GReg) (bda : BdReg) (da : DReg) (bdb : BdReg) (db : DReg) (tag : BitVec 4) (s : State) :
    Host.Outcome State Fault Refusal := syllable (gfold c g bda da bdb db tag) s

end Sys2Proof.Machine
end

