-- ==== Sys2Proof/Machine/Sync.lean ====
section
/-!
DEFINITION. Class 011: atomics, acquire, release and fences (R344 to R346), barrier words (R347 to R349) and work deques
(R350, R351). What a bundle waits for performs at its home in the step. Log entries: 14, 16, 29 (replay off the package).
Also log entry 98 (path capability is read from the routes).
-/

namespace Sys2Proof.Machine

/-! ### Atomics (R344, R45, R52) -/

/-- The bit of a path capability that an operation needs (R44). -/
def capBit (op : Nat) (wide : Bool) : Nat := (if op = 7 then 2 else if 3 ≤ op then 1 else 0) + (if wide then 3 else 0)

/-- The path capability of an off-package place: the copy in the entry that translates it (R45, R52), or what stands for the
path itself where no entry carries one. -/
def State.capWord (s : State) (l : Loc) : BitVec 64 :=
  let copy := l.va.bind (fun va => (s.tlbFind (agentPort s.cur) s.ctx.id.pasid va accAtomic).bind (·.route))
  match copy with
  | some r => r.2
  | none => ((s.pathOfCell l.cell).map s.pathWord).getD 0

/-- May the operation be sent (R45)? Not where it is known and clear, and no AtomicOp stands for it on PCIe (R52). -/
def pathAdmits (s : State) (l : Loc) (op : Nat) (wide : Bool) : Bool :=
  let w := s.capWord l
  let i := capBit op wide
  !(physRegion l.cell == .pcie && 1 ≤ op && op ≤ 5) && !((w.getLsbD 62 || w.getLsbD (40 + i)) && !w.getLsbD (48 + i))

/-- A replayed operation waits for its home to hold what was logged; its 2^24 cycles count from when it began to (R140). -/
def State.replayWaits (s : State) : State :=
  s.modWaits (fun w => { w with replay := true, since := if w.replay then w.since else s.cycle })

/-- What replay says of an interlocked operation that would give `v` (R139, R140): it goes on, waits for its home, or
diverges. -/
def replayGate (kind : Byte) (v : BitVec 64) (s : State) : Eff State :=
  if s.replayMode == 2 then do
    match ← s.replayNext kind with
    | some (x, t) => if x == v then .ok (t.modWaits (fun w => { w with replay := false })) else .error (.stall s.replayWaits)
    | none => raise tReplayDiverge s
  else s.record kind v

/-- In replay an off-package atomic is sent only once its home holds the logged old value (R140): that is read there first,
and kept in `waits.got` until the atomic is answered. -/
def offReplay (s : State) (cls : BitVec 4) (l : Loc) (n : Nat) : Eff State :=
  if s.replayMode != 2 || s.ctx.waits.got != [] then .ok s
  else do
    match ← s.replayNext 1 with
    | none => raise tReplayDiverge s
    | some (x, _) => do
      let (bs, t) ← offPackage s 0 0 cls l n [] false
      if leNat bs = x.toNat then .ok (t.modWaits (fun w => { w with got := bs, replay := false }))
      else .error (.stall t.replayWaits)

/-- An atomic operation (R344): `cmp` is a CAS's compare value. -/
def atomicOp (op : Nat) (wide : Bool) (dd : DReg) (m : AtomOp) (ds : DReg) (s : State) : Eff State := do
  notFw s
  let x ← dataOf s wide ds
  let c ← if op = 7 then dataOf s wide dd else .ok 0
  let n := if wide then 8 else 4
  let mem := atomMem m
  let cls := ordClass mem (s.desc m.bd)
  let (_, l, t) ← operand s mem n n n .all accAtomic
  if m.order.getLsbD 1 then released t (if l.offPackage then systemScope else m.scope)
  let result (v : Nat) (t : State) : State := t.writes 1 (loadResults (if wide then .d else .w) dd (leBytes n v))
  if l.offPackage then do
    routed t l true
    need (pathAdmits t l op wide || t.ctx.waits.sent || t.ctx.waits.reply.isSome) tAtomicPath t
    let t ← offReplay t cls l n
    let (bs, t) ← offPackage t 4 (BitVec.ofNat 4 op) cls l n
      ((if op = 7 then leBytes n c.toNat else []) ++ leBytes n x.toNat) true
    let t := t.dropGot
    let old := BitVec.ofNat 64 (leNat bs)
    let (y, u) ← replayed 1 old t
    need (y == old) tReplayDiverge t
    .ok (result old.toNat u)
  else do
    orderWait t cls l n
    atHome t l n false
    let (old, _) := t.atomic op n l.key l.cell c.toNat x.toNat
    let t ← replayGate 1 (BitVec.ofNat 64 old) t
    .ok (result old ((t.atomic op n l.key l.cell c.toNat x.toNat).2.countFar l.cell))

/-! ### Acquire, release, fences (R345, R346) -/

/-- `LDA` (R345). -/
def lda (wide : Bool) (dd : DReg) (m : MemOp) (s : State) : Eff State := do
  notFw s
  let n := if wide then 8 else 4
  let (_, l, t) ← operand s m n n n .all accRead
  let (bs, _, t) ← loadAt 0 t (ordClass m (s.desc m.bd)) l n
  .ok (t.dropGot.writes 1 (loadResults (if wide then .d else .w) dd bs))

/-- `STL` (R345). -/
def stl (wide : Bool) (ds : DReg) (m : MemOp) (s : State) : Eff State := do
  notFw s
  let x ← dataOf s wide ds
  let n := if wide then 8 else 4
  let (_, l, t) ← operand s m n n n .all accWrite
  released t m.scope
  storeOut t (ordClass m (s.desc m.bd)) l (leBytes n x.toNat)

/-- `FENCE` (R346). -/
def fence (scope : BitVec 3) (mask : BitVec 16) (s : State) : Eff State := do
  notFw s
  fencing s mask scope
  .ok s

/-! ### Barrier words (R348, R349) -/

/-- The operand of a barrier instruction: 32 bytes, aligned; off the package there is no barrier word (log entry 16). -/
def barOperand (m : MemOp) (acc : BitVec 4) (s : State) : Eff (Loc × State) := do
  let (_, l, t) ← operand s m 32 32 32 .all acc
  need (!l.offPackage) tProt t
  .ok (l, t)

/-- `BARWINIT` (R348). -/
def barwinit (dt : DReg) (m : MemOp) (exact : Bool) (s : State) : Eff State := do
  notFw s
  let target ← dataOf s true dt
  let (l, t) ← barOperand m accWrite s
  if l.near then do
    orderWait t 15 l 32
    .ok (t.barInit l.key l.cell target exact)
  else do
    let (_, _, t) ← sendRequest t 6 1 15 l 9 (leBytes 8 target.toNat ++ [if exact then 1 else 0]) true false
    .ok t

/-- `BARWADD` (R348). -/
def barwadd (dn : DReg) (m : AtomOp) (s : State) : Eff State := do
  notFw s
  let n ← single s dn
  let (l, t) ← barOperand (atomMem m) accAtomic s
  let cls := ordClass (atomMem m) (s.desc m.bd)
  if m.order == 2 then released t m.scope
  if l.near then do
    orderWait t cls l 32
    .ok (t.barAdd l.key l.cell (BitVec.zeroExtend 64 n))
  else do
    let (_, _, t) ← sendRequest t 5 0 cls l 8 (leBytes 8 n.toNat) true false
    .ok t

/-- A read of a barrier word that the bundle waits for (R349). -/
def barRead (m : MemOp) (s : State) : Eff (Loc × BarWord × State) := do
  let (l, t) ← barOperand m accRead s
  orderWait t 15 l 32
  atHome t l 32 false
  .ok (l, t.barWord l.key l.cell, t.countFar l.cell)

/-- The context goes on waiting for a generation; the time of a wait counts from its first issue. -/
def State.barWaits (s : State) (l : Loc) (g limit : Word) : State :=
  s.modWaits (fun w => { w with barrier := true, gen := g, wordKey := l.key, word := l.cell, limit := limit
                                since := if w.barrier then w.since else s.cycle })

/-- The timeout that a wait runs under (R140, R349): its own, none in a replay of a satisfied wait; `none` where the wait
was logged as timed out. -/
def barLimit (limit : Word) (s : State) : Eff (Option Word) :=
  if limit != 0 && s.replayMode == 2 then do
    match ← s.replayNext 8 with
    | some (v, _) => .ok (if v = 0 then some 0 else none)
    | none => raise tReplayDiverge s
  else .ok (some limit)

/-- `BARWWAIT` (R349). -/
def barwwait (dg : DReg) (m : MemOp) (dt : DReg) (s : State) : Eff State := do
  notFw s
  let g ← single s dg
  let limit ← single s dt
  let (l, w, t) ← barRead m s
  match ← barLimit limit t with
  | none => raise tBarrierTimeout s
  | some lim => do
    need (!t.ctx.waits.timedOut) tBarrierTimeout s
    if w.reached g then do
      let t := t.modWaits (fun w => { w with barrier := false })
      if limit = 0 then .ok t
      else do
        let (_, t) ← replayed 8 0 t
        .ok t
    else do
      need (!w.isOver) tBarrierOver s
      .error (.stall (s.barWaits l g lim))

/-- `BARWTRY` (R349). -/
def barwtry (dg : DReg) (m : MemOp) (c : CReg) (s : State) : Eff State := do
  notFw s
  let g ← single s dg
  let (_, w, t) ← barRead m s
  need (w.reached g || !w.isOver) tBarrierOver s
  .ok (t.write 1 (.c c (w.reached g)))

/-! ### Work deques (R350, R351) -/

/-- The register D(4q + i). -/
def quadReg (q : BitVec 4) (i : Nat) : DReg := BitVec.ofNat 6 (4 * q.toNat + i)

/-- The operand of a deque instruction, and the order it keeps. -/
def dqOperand (m : MemOp) (s : State) : Eff (Loc × State) := do
  let (_, l, t) ← operand s m 64 64 64 .sramOnly accAtomic
  orderWait t 15 l 2112
  atHome t l 2112 false
  .ok (l, t)

/-- `WQPUSH` (R350): a release. -/
def wqpush (q : BitVec 4) (m : MemOp) (c : CReg) (s : State) : Eff State := do
  let k ← single s (quadReg q 0)
  let a ← single s (quadReg q 1)
  let b ← single s (quadReg q 2)
  need (1 ≤ k.toNat && k.toNat ≤ 3) tProt s
  let (l, t) ← dqOperand m s
  released t deviceScope
  match t.dqPush l.cell (leBytes 8 k.toNat ++ leBytes 4 a.toNat ++ leBytes 4 b.toNat) with
  | some u => .ok (u.write 1 (.c c false))
  | none => .ok (t.write 1 (.c c true))

/-- What replay says of taking `got` from a deque (R140): the two entries are those of the item, or EMPTY was logged. -/
def dqReplay (got : Option (List Byte × State)) (s : State) : Eff (Option (List Byte × State)) :=
  do
    match ← s.replayNext 2 with
    | none => raise tReplayDiverge s
    | some (v, t) => do
      match ← t.replayNext 3 with
      | none => raise tReplayDiverge s
      | some (w, t) =>
        if v = 0 then .ok none
        else match got with
          | some (item, _) =>
            if leBytes 8 v.toNat ++ leBytes 8 w.toNat == item then
              .ok (some (item, t.modWaits (fun w => { w with replay := false })))
            else .error (.stall s.replayWaits)
          | none => .error (.stall s.replayWaits)

/-- Take an item with one of the deque operations (R351). -/
def wqtake (take : State → Nat → Option (List Byte × State)) (q : BitVec 4) (m : MemOp) (c : CReg) (s : State) : Eff State := do
  let (l, t) ← dqOperand m s
  let results (item : List Byte) (t : State) : State :=
    (((t.write 1 (.d (quadReg q 0) (Dom.single (BitVec.ofNat 32 (field item 0 1))))).write 1
      (.d (quadReg q 1) (Dom.single (BitVec.ofNat 32 (field item 8 4))))).write 1
      (.d (quadReg q 2) (Dom.single (BitVec.ofNat 32 (field item 12 4))))).write 1 (.c c false)
  let emptied (t : State) : State := t.write 1 (.c c true)
  if t.replayMode == 2 then do
    match ← dqReplay (take t l.cell) t with
    | none => do
      let (_, t) ← replayed 2 0 t
      let (_, t) ← replayed 3 0 t
      .ok (emptied t)
    | some (item, u) => .ok (results item (((take u l.cell).map (·.2)).getD u))
  else
    match take t l.cell with
    | none => do
      let t ← t.record 2 0
      let t ← t.record 3 0
      .ok (emptied t)
    | some (item, u) => do
      let u ← u.record 2 (BitVec.ofNat 64 (field item 0 8))
      let u ← u.record 3 (BitVec.ofNat 64 (field item 8 8))
      .ok (results item u)

/-! ### Meanings -/

/-- `AMO.ADD` (R344). -/
def execAmoAdd (w : Bool) (dd : DReg) (m : AtomOp) (ds : DReg) (s : State) : Host.Outcome State Fault Refusal := syllable (atomicOp 0 w dd m ds) s
/-- `AMO.MIN` (R344). -/
def execAmoMin (w : Bool) (dd : DReg) (m : AtomOp) (ds : DReg) (s : State) : Host.Outcome State Fault Refusal := syllable (atomicOp 1 w dd m ds) s
/-- `AMO.MAX` (R344). -/
def execAmoMax (w : Bool) (dd : DReg) (m : AtomOp) (ds : DReg) (s : State) : Host.Outcome State Fault Refusal := syllable (atomicOp 2 w dd m ds) s
/-- `AMO.AND` (R344). -/
def execAmoAnd (w : Bool) (dd : DReg) (m : AtomOp) (ds : DReg) (s : State) : Host.Outcome State Fault Refusal := syllable (atomicOp 3 w dd m ds) s
/-- `AMO.OR` (R344). -/
def execAmoOr (w : Bool) (dd : DReg) (m : AtomOp) (ds : DReg) (s : State) : Host.Outcome State Fault Refusal := syllable (atomicOp 4 w dd m ds) s
/-- `AMO.XOR` (R344). -/
def execAmoXor (w : Bool) (dd : DReg) (m : AtomOp) (ds : DReg) (s : State) : Host.Outcome State Fault Refusal := syllable (atomicOp 5 w dd m ds) s
/-- `AMO.SWAP` (R344). -/
def execAmoSwap (w : Bool) (dd : DReg) (m : AtomOp) (ds : DReg) (s : State) : Host.Outcome State Fault Refusal := syllable (atomicOp 6 w dd m ds) s
/-- `CAS` (R344). -/
def execCas (w : Bool) (dd : DReg) (m : AtomOp) (ds : DReg) (s : State) : Host.Outcome State Fault Refusal := syllable (atomicOp 7 w dd m ds) s
/-- `LDA` (R345). -/
def execLda (w : Bool) (dd : DReg) (m : MemOp) (s : State) : Host.Outcome State Fault Refusal := syllable (lda w dd m) s
/-- `STL` (R345). -/
def execStl (w : Bool) (ds : DReg) (m : MemOp) (s : State) : Host.Outcome State Fault Refusal := syllable (stl w ds m) s
/-- `FENCE` (R346). -/
def execFence (scope : BitVec 3) (mask : BitVec 16) (s : State) : Host.Outcome State Fault Refusal := syllable (fence scope mask) s
/-- `BARWINIT` (R348). -/
def execBarwinit (dt : DReg) (m : MemOp) (exact : Bool) (s : State) : Host.Outcome State Fault Refusal := syllable (barwinit dt m exact) s
/-- `BARWADD` (R348). -/
def execBarwadd (dn : DReg) (m : AtomOp) (s : State) : Host.Outcome State Fault Refusal := syllable (barwadd dn m) s
/-- `BARWWAIT` (R349). -/
def execBarwwait (dg : DReg) (m : MemOp) (dt : DReg) (s : State) : Host.Outcome State Fault Refusal := syllable (barwwait dg m dt) s
/-- `BARWTRY` (R349). -/
def execBarwtry (dg : DReg) (m : MemOp) (c : CReg) (s : State) : Host.Outcome State Fault Refusal := syllable (barwtry dg m c) s
/-- `WQPUSH` (R350). -/
def execWqpush (q : BitVec 4) (m : MemOp) (c : CReg) (s : State) : Host.Outcome State Fault Refusal := syllable (wqpush q m c) s
/-- `WQPOP` (R351). -/
def execWqpop (q : BitVec 4) (m : MemOp) (c : CReg) (s : State) : Host.Outcome State Fault Refusal :=
  syllable (wqtake (fun s a => s.dqPop a false) q m c) s
/-- `WQPOP.ONE` (R351). -/
def execWqpopOne (q : BitVec 4) (m : MemOp) (c : CReg) (s : State) : Host.Outcome State Fault Refusal :=
  syllable (wqtake (fun s a => s.dqPop a true) q m c) s
/-- `WQSTEAL` (R351). -/
def execWqsteal (q : BitVec 4) (m : MemOp) (c : CReg) (s : State) : Host.Outcome State Fault Refusal :=
  syllable (wqtake State.dqSteal q m c) s

end Sys2Proof.Machine
end

