-- ==== Sys2Proof/Machine/Linnor.lean ====
section
/-!
DEFINITION. Linnor links (R32 to R49): packets and flits as bytes, the CRC, what a port takes in and sends, go-back-N, the
message ring (R97), and requests that the mesh brings to a port. Log entries: 42 (empty slots), 44 (the FEC of a flit),
45 (retraining), 46 (requests of the port).
Also log entries 110 (the ACK of an idle flit), 111 (the CRC of a flit), 114 (the retry limit).
-/

namespace Sys2Proof.Machine

/-! ### Packets as bytes (R37, R38) -/

/-- The header slot of a packet. -/
def lnHeader (p : LinnorPacket) : BitVec 128 :=
  p.kind ++ (p.dst ++ (p.src ++ (p.tag ++ (p.len ++ (p.op ++ (0#28 ++ p.addr))))))

/-- A packet without its data, from its header slot. -/
def lnOfHeader (b : BitVec 128) : LinnorPacket :=
  { kind := b.extractLsb' 124 4, dst := b.extractLsb' 114 10, src := b.extractLsb' 104 10, tag := b.extractLsb' 92 12
    len := b.extractLsb' 84 8, op := b.extractLsb' 80 4, addr := b.extractLsb' 0 52, data := [] }

/-- The data bytes a packet carries: a CAS has two operands (R39). -/
def lnDataLen (p : LinnorPacket) : Nat :=
  match p.kind.toNat with
  | 1 | 2 | 5 | 6 | 8 => p.len.toNat + 1
  | 4 => if p.op = 7 then 2 * (p.len.toNat + 1) else p.len.toNat + 1
  | _ => 0

/-- The slots a packet takes. -/
def lnSlots (p : LinnorPacket) : Nat := 1 + (lnDataLen p + 15) / 16

/-- A packet as the bytes of its slots. -/
def lnBytes (p : LinnorPacket) : List Byte :=
  let n := lnDataLen p
  leBytes 16 (lnHeader p).toNat ++ (p.data.take n ++ List.replicate (16 * (lnSlots p - 1) - (p.data.take n).length) 0)

/-- Is a kind on the response channel? -/
def lnResponse (kind : BitVec 4) : Bool := kind == 1 || kind == 3 || kind == 5 || kind == 7 || kind == 9

/-- The whole packets at the front of slots received, and the slots left; an empty slot is passed over. -/
def lnParse : Nat → List Byte → List LinnorPacket × List Byte
  | 0, bs => ([], bs)
  | n + 1, bs =>
    if bs.length < 16 then ([], bs)
    else
      let h := BitVec.ofNat 128 (field bs 0 16)
      if h = 0 then lnParse n (bs.drop 16)
      else
        let p := lnOfHeader h
        if bs.length < 16 * lnSlots p then ([], bs)
        else
          let (ps, rest) := lnParse n (bs.drop (16 * lnSlots p))
          ({ p with data := (bs.drop 16).take (lnDataLen p) } :: ps, rest)

/-! ### Flits (R33, R34) -/

/-- One bit of CRC-64. -/
def crcBit (c : BitVec 64) : BitVec 64 := if c.getLsbD 63 then (c <<< 1) ^^^ 0x42F0E1EBA9EA3693 else c <<< 1
/-- One byte of CRC-64. -/
def crcByte (c : BitVec 64) (b : Byte) : BitVec 64 :=
  crcBit (crcBit (crcBit (crcBit (crcBit (crcBit (crcBit (crcBit (c ^^^ (b ++ 0#56)))))))))
/-- CRC-64 over bytes: initial value all ones, result inverted (R33). -/
def crc64 (bs : List Byte) : BitVec 64 := ~~~(bs.foldl crcByte (BitVec.allOnes 64))

/-- The header of a flit (R34). -/
structure FlitHeader where
  seq : BitVec 12
  ack : BitVec 12
  ackv : Bool
  kind : BitVec 3
  creq : Byte
  crsp : Byte
  deriving DecidableEq, Repr

/-- The header word. -/
def FlitHeader.word (h : FlitHeader) : BitVec 64 :=
  h.seq ++ (h.ack ++ (BitVec.ofBool h.ackv ++ (h.kind ++ (h.creq ++ (h.crsp ++ 0#20)))))
/-- The fields of a header word. -/
def FlitHeader.ofWord (w : BitVec 64) : FlitHeader :=
  { seq := w.extractLsb' 52 12, ack := w.extractLsb' 40 12, ackv := w.getLsbD 39, kind := w.extractLsb' 36 3
    creq := w.extractLsb' 28 8, crsp := w.extractLsb' 20 8 }

/-- The 256 bytes of a flit; the FEC parity is free (log entry 44). -/
def flitBytes (h : FlitHeader) (slots : List Byte) (seed : Nat) : List Byte :=
  let body := leBytes 8 h.word.toNat ++ (slots ++ List.replicate (224 - slots.length) 0)
  body ++ leBytes 8 (crc64 body).toNat ++ (List.range 16).map (fun i => (Config.freeWord 4 (16 * seed + i)).extractLsb' 0 8)

/-! ### Ports -/

namespace State

/-- Replace a port. -/
def setPort (s : State) (p : Nat) (x : LnPort) : State :=
  { s with links := { s.links with ports := Assoc.set s.links.ports p x } }
/-- Change a port. -/
def modPort (s : State) (p : Nat) (f : LnPort → LnPort) : State := s.setPort p (f (s.lnPort p))

/-- Happenings that follow at once, in order. -/
def pushAll (s : State) (xs : List (Instr × Input)) : State :=
  { s with sched := xs.map (fun x => .happen x.1 x.2) ++ s.sched }

/-- Put a packet among those a port is to send. -/
def lnSend (s : State) (p : Nat) (x : LinnorPacket) : State :=
  s.modPort p (fun q => { q with sendq := q.sendq ++ [⟨lnResponse x.kind, x⟩] })

end State

/-- Take packets from the queue, each when the credits of its channel hold all its slots, until `n` bytes are there; the
packets of a channel stay in order (R36). -/
def lnPack (n : Nat) : List LnSlot → LnPort → Bool → Bool → LnPort
  | [], q, _, _ => q
  | x :: rest, q, stopReq, stopRsp =>
    let k := lnSlots x.pkt
    let room := if x.response then !stopRsp && decide (k ≤ q.crsp) else !stopReq && decide (k ≤ q.creq)
    if q.rest.length < n && room then
      let q := if x.response then { q with crsp := q.crsp - k } else { q with creq := q.creq - k }
      lnPack n rest { q with rest := q.rest ++ lnBytes x.pkt } stopReq stopRsp
    else lnPack n rest { q with sendq := q.sendq ++ [x] } (stopReq || !x.response) (stopRsp || x.response)

/-- The bytes of a flit on lane `i` of its port: they are dealt alternately to lanes 0 and 1 (R32). -/
def onLane (i : Nat) (bs : List Byte) : List Byte := (bs.zipIdx.filter (fun e => e.2 % 2 == i)).map (·.1)
/-- The flit that two lanes bring. -/
def fromLanes : List Byte → List Byte → List Byte
  | a :: as, b :: bs => a :: b :: fromLanes as bs
  | as, [] => as
  | [], bs => bs
/-- What a port puts on one of its lanes. -/
def LnPort.lane (q : LnPort) (i : Nat) : List Byte := onLane i q.wire

/-- The header a port sends: what it has received in order, and the credits it returns. R34 says what ACK is in kinds 000 and 010;
the model sets ACKV once a data flit has been received in order, in every kind (DESIGN CHOICE, log entry 110). -/
def LnPort.header (q : LnPort) (kind : BitVec 3) : FlitHeader :=
  { seq := q.next, ack := if kind = 2 then q.expect else q.expect - 1, ackv := kind == 2 || q.acked, kind := kind
    creq := BitVec.ofNat 8 (min 255 q.retReq), crsp := BitVec.ofNat 8 (min 255 q.retRsp) }

/-- Send one flit that carries no packets. -/
def LnPort.sendBare (q : LnPort) (kind : BitVec 3) (seed : Nat) : LnPort :=
  { q with wire := flitBytes (q.header kind) [] seed, retReq := q.retReq - 255, retRsp := q.retRsp - 255 }

/-- Send a data flit, held in the replay buffer; with a full buffer, or nothing to send, an idle flit (R35). -/
def LnPort.sendData (q : LnPort) (seed : Nat) : LnPort :=
  let packed := lnPack 224 q.sendq { q with sendq := [] } false false
  if 256 ≤ q.replay.length || packed.rest = [] then q.sendBare 1 seed
  else
    let bs := flitBytes (packed.header 0) (packed.rest.take 224) seed
    { packed with wire := bs, rest := packed.rest.drop 224, replay := packed.replay ++ [(packed.next, bs)]
                  next := packed.next + 1, retReq := packed.retReq - 255, retRsp := packed.retRsp - 255 }

/-- Resend flits; each is counted (R35). -/
def LnPort.resend (q : LnPort) (fs : List (BitVec 12 × List Byte)) (now : BitVec 64) : LnPort :=
  { q with wire := fs.flatMap (·.2), resent := if fs = [] then q.resent else (now, fs.length) :: q.resent }

/-- Resent flits of the last second. -/
def LnPort.resentNow (q : LnPort) (now : BitVec 64) : Nat :=
  ((q.resent.filter (fun e => (now - e.1).toNat < 1000000000)).map (·.2)).sum

/-- A port over its retry limit is reported at once (R35). -/
def State.checkRetry (s : State) (p : Nat) : State :=
  if Config.retryLimit ≤ (s.lnPort p).resentNow s.ptime then s.push .retryLimitExceeded { n := p } else s

/-- What is not older than the sequence number `seq` in a replay buffer. -/
def replayFrom (seq : BitVec 12) (fs : List (BitVec 12 × List Byte)) : List (BitVec 12 × List Byte) :=
  fs.filter (fun f => (f.1 - seq).toNat < 2048)

/-! ### Receiving -/

/-- The happening that a received packet is (R38). -/
def lnHappening (kind : BitVec 4) : Instr :=
  match kind.toNat with
  | 0 => .linnorRd | 1 => .linnorRdrsp | 2 => .linnorWr | 3 => .linnorWrack | 4 => .linnorAtom | 5 => .linnorAtomrsp
  | 6 => .linnorMsg | 7 => .linnorMsgack | 8 => .linnorWake | 9 => .linnorErr | _ => .linnorReservedKind

/-- Accept the slots of a data flit: whole packets arrive in order, and the slots they took are given back (R36). -/
def State.lnAccept (s : State) (p : Nat) (slots : List Byte) : State :=
  let q := s.lnPort p
  let (ps, rest) := lnParse 100 (q.part ++ slots)
  let back (rsp : Bool) : Nat := ((ps.filter (fun x => lnResponse x.kind == rsp)).map lnSlots).sum
  (s.setPort p { q with part := rest, expect := q.expect + 1, missing := false, acked := true, asks := 0
                        retReq := q.retReq + back false, retRsp := q.retRsp + back true }).pushAll
    (ps.map (fun x => (lnHappening x.kind, { n := p, lpkt := some x })))

/-- A flit is lost: the port asks for the sequence number it expects, once (R35). -/
def State.lnMissing (s : State) (p : Nat) : State :=
  s.modPort p (fun q =>
    if q.missing then q
    else { q.sendBare 2 s.fresh with missing := true, asks := 1, askedAt := s.ptime })

/-- The credits and the acknowledgement of a flit that is not discarded (R34, R36). -/
def State.lnTake (s : State) (p : Nat) (h : FlitHeader) : State :=
  s.modPort p (fun q =>
    { q with creq := q.creq + h.creq.toNat, crsp := q.crsp + h.crsp.toNat
             replay := if h.ackv && h.kind.toNat ≤ 1 then replayFrom (h.ack + 1) q.replay else q.replay })

/-- A flit arrives: `bs` are its bytes 0–239 as the FEC gives them, `ok` whether the FEC corrected it (R33, R35). While a flit is
missing, data and idle flits are discarded up to it. An idle flit that carries a later number shows that a data flit is missing. -/
def linnorFlitReceive (p : Nat) (ok : Bool) (bs : List Byte) (s : State) : State :=
  if !s.lnUp p then s
  else
    let h := FlitHeader.ofWord (BitVec.ofNat 64 (field bs 0 8))
    if !ok || field bs 232 8 != (crc64 (bs.take 232)).toNat || bs.length < 240 || 4 ≤ h.kind.toNat then s.lnMissing p
    else
      let q := s.lnPort p
      let later := h.seq != q.expect && decide ((h.seq - q.expect).toNat < 2048)
      match h.kind.toNat with
      | 0 => if h.seq = q.expect then (s.lnTake p h).lnAccept p ((bs.drop 8).take 224) else if later then s.lnMissing p else s
      | 1 => if h.seq = q.expect then (if q.missing then s else s.lnTake p h) else if later then s.lnMissing p else s
      | 2 => (s.lnTake p h).push .linnorRetryRequest { n := p, m := h.ack.toNat }
      | _ => (s.lnTake p h).push .linnorRetrain { n := p }

/-- `LINNOR_FLIT_TRANSMIT` (R35): a port sends a flit of a kind. -/
def linnorFlitTransmit (p : Nat) (k : FlitKind) (s : State) : State :=
  if !s.lnUp p then s
  else s.modPort p (fun q => match k with
    | .data => q.sendData s.fresh
    | .idle => q.sendBare 1 s.fresh
    | .retryRequest => { q.sendBare 2 s.fresh with missing := true, asks := q.asks + 1, askedAt := s.ptime }
    | .retrainRequest => q.sendBare 3 s.fresh)

/-- `LINNOR_RETRY_REQUEST` (R35): resend from the named sequence onward. -/
def linnorRetryRequest (p : Nat) (seq : BitVec 12) (s : State) : State :=
  if !s.lnUp p then s
  else (s.modPort p (fun q => q.resend (replayFrom seq q.replay) s.ptime)).checkRetry p

/-- `RETRY_REQUEST_TIMEOUT` (R35): after 2 µs without the flit the receiver asks again, the eighth time for a retraining. -/
def retryRequestTimeout (p : Nat) (s : State) : State :=
  let q := s.lnPort p
  if !s.lnUp p || !q.missing || (s.ptime - q.askedAt).toNat < 2000 then s
  else if 8 ≤ q.asks then (s.modPort p (fun q => q.sendBare 3 s.fresh)).push .linnorRetrain { n := p }
  else s.modPort p (fun q => { q.sendBare 2 s.fresh with asks := q.asks + 1, askedAt := s.ptime })

/-- `LINNOR_RETRAIN` (R35): the port resumes from its oldest unacknowledged flit. -/
def linnorRetrain (p : Nat) (s : State) : State :=
  if !s.lnUp p then s
  else (s.modPort p (fun q => { q.resend q.replay s.ptime with missing := false, asks := 0 })).checkRetry p

/-! ### The message ring (R47, R97) -/

/-- Enter a message: `none` where the ring is full or disabled. -/
def State.msgPut (s : State) (src : BitVec 10) (data : List Byte) : Option State :=
  let m := s.mgmt
  let size := 2 ^ m.msgsize.toNat
  if !m.msgen || size ≤ (m.msgtail - m.msghead).toNat then none
  else
    let base := m.msgbase.extractLsb' 0 52
    let at_ := physCell base + 256 * (m.msgtail.toNat % size)
    let entry := leBytes 2 src.toNat ++ [BitVec.ofNat 8 (data.length - 1)] ++ List.replicate 5 0
      ++ (data ++ List.replicate (248 - data.length) 0)
    let t := s.setBytesKey (physKey base) at_ entry
    let t := { t with mgmt := { t.mgmt with msgtail := m.msgtail + 1 } }
    some (if m.msgtail = m.msghead then t.sendMsi m.msgmsi else t)

/-! ### Requests of the mesh at a port (R38, R42, R43) -/

/-- A new request to another device. -/
def State.lnIssue (s : State) (p : Nat) (pkt : LinnorPacket) (orig : Option Packet) : State :=
  let t := s.links.nextTag
  let pkt := { pkt with tag := t, src := s.links.self }
  let s := { s with links := { s.links with
    nextTag := t + 1
    reqs := Assoc.set s.links.reqs t.toNat { port := p, pkt := pkt, orig := orig, since := s.ptime, sentAt := s.ptime } } }
  s.lnSend p pkt

/-- The port that takes a request for a device among those of a node's group: the one that the address spreads it to (R43), or
one of the route's at that node. -/
def State.lnPortFor (s : State) (d : BitVec 10) (node : BitVec 13) (a : Nat) : Option Nat :=
  let all := lnSpread (s.lnRoute d.toNat (fun _ => true)) a
  if all.any (fun p => portNode p == node) then all else lnSpread (s.lnRoute d.toNat (fun p => portNode p == node)) a

/-- The address at the destination of a window (R42). -/
def windowAddr (w : BitVec 64) (cell : Nat) : BitVec 52 := w.extractLsb' 31 22 ++ BitVec.ofNat 30 cell

end Sys2Proof.Machine
end

