-- ==== Sys2Proof/Machine/Mesh.lean ====
section
/-!
DEFINITION. The swash mesh (R57 to R75): the cycle of a router, ejection and reassembly, what a home does with each kind of
request, requests that leave the package, and what a response does to the agent that waits for it.
Log entries: 16 (structures off the package), 46 (requests of a port), 47 (routers step one at a time), 48 (a nibble write
off the package).
Also log entry 122 (the snapshot of a fold that arrives as a packet).
-/

namespace Sys2Proof.Machine

/-! ### Nodes (R58, R59, R78) -/

/-- What attaches at a node. -/
inductive NodeKind
  | core (k : Nat)
  | sram (tile : Nat)
  | copy (tile : Nat)
  | slice (stack j : Nat)
  | lookup (n : Nat)
  /-- A Linnor port group or an endpoint of the system die: its packets carry their address in the payload (R62). -/
  | outer
  | nothing
  deriving DecidableEq, Repr

/-- The die, router index and sub-port of a node. -/
def nodeDie (n : BitVec 13) : Nat := n.toNat / 2048
def nodeRouter (n : BitVec 13) : Nat := n.toNat % 2048 / 8
def nodeSub (n : BitVec 13) : Nat := n.toNat % 8

/-- What a node is. -/
def nodeKind (n : BitVec 13) : NodeKind :=
  let die := nodeDie n
  let x := nodeRouter n % 18
  let y := nodeRouter n / 18
  let sub := nodeSub n
  if die = 2 then (if systemNodes.contains n then .outer else .nothing)
  else if die = 3 || 10 ≤ y then .nothing
  else if 1 ≤ x && x ≤ 16 && 1 ≤ y && y ≤ 8 then
    let t := die * 128 + (y - 1) * 16 + (x - 1)
    if sub < 4 then .core (4 * t + sub) else if sub = 4 then .sram t else if sub = 5 then .copy t else .nothing
  else if (y = 0 || y = 9) && 1 ≤ x && x ≤ 12 then
    let st := die * 6 + (if y = 0 then 0 else 3) + (x - 1) / 4
    let j := (x - 1) % 4
    if sub < 4 then .slice st (4 * j + sub) else if sub < 6 then .lookup (8 * st + 2 * j + (sub - 4)) else .nothing
  else if (y = 0 || y = 9) && 13 ≤ x && x ≤ 16 && sub = 0 then .outer
  else .nothing

/-- The key ID and cell that an address field names at a node (R62, R144): the inverse of `packetAddr`. -/
def fieldHome (node : BitVec 13) (a : BitVec 40) : BitVec 8 × Nat :=
  match nodeKind node with
  | .sram t => (0, sliceCell t ((a.extractLsb' 0 23).toNat % sliceBytes))
  | .slice st j =>
    let l := (a.extractLsb' 0 32).toNat
    (a.extractLsb' 32 8, (st * 2 ^ 36 + l / 256 * 4096 + j * 256 + l % 256))
  | _ => (0, sramBase + 0x60000000)

/-- The key ID and cell that a request names, and its operands: at a Linnor port group or on the system die the address
stands before them. -/
def pktHome (p : Packet) : BitVec 8 × Nat :=
  if nodeKind p.dst = .outer then
    let a := BitVec.ofNat 52 (field p.data 0 8)
    (physKey a, physCell a)
  else fieldHome p.dst p.addr
def pktBody (p : Packet) : List Byte := if nodeKind p.dst = .outer then p.data.drop 8 else p.data

/-! ### The flit (R60) -/

/-- The header of a packet, one 128-bit value. -/
def packetHeader (p : Packet) : BitVec 128 :=
  p.kind ++ BitVec.ofBool p.x ++ p.cls ++ p.dst ++ p.src ++ p.seq ++ p.region ++ p.stamp ++ p.op ++ p.len ++ p.addr
    ++ BitVec.ofBool p.fw

/-- The 80 bytes of a packet on a link: its header, and the payload filled up with zeros. -/
def packetFlit (p : Packet) : List Byte :=
  leBytes 16 (packetHeader p).toNat ++ p.data.take 64 ++ List.replicate (64 - p.data.length) 0

/-- The packet of a header and its payload; poison travels beside the flit (R65). -/
def ofFlit (poison : Bool) (bs : List Byte) : Packet :=
  let h := BitVec.ofNat 128 (field bs 0 16)
  { kind := h.extractLsb' 124 4, x := h.getLsbD 123, cls := h.extractLsb' 119 4, dst := h.extractLsb' 106 13
    src := h.extractLsb' 93 13, seq := h.extractLsb' 81 12, region := h.extractLsb' 69 12, stamp := h.extractLsb' 51 18
    op := h.extractLsb' 47 4, len := h.extractLsb' 41 6, addr := h.extractLsb' 1 40, fw := h.getLsbD 0, poison := poison
    data := (bs.drop 16).take 64 }

/-- The age of a packet as it is reported. -/
def State.reportedAge (s : State) (p : Packet) : Nat := min 4095 (s.stampNow - p.stamp).toNat

/-! ### Answers (R61, R63, R64) -/

/-- A response to a request: X = 1, with the request's class and sequence number. -/
def State.respond (s : State) (p : Packet) (kind op : BitVec 4) (addr : Nat) (data : List Byte) : State :=
  { s with mesh := { s.mesh with pending := s.mesh.pending ++
      [{ kind := kind, x := true, cls := p.cls, dst := p.src, src := p.dst, seq := p.seq, region := p.region
         stamp := s.stampNow, op := op, len := BitVec.ofNat 6 (data.length - 1), addr := BitVec.ofNat 40 addr, fw := p.fw
         poison := false, data := data }] } }

/-- The NACK statuses of R64. -/
def nackPartition : BitVec 4 := 1
def nackPoison : BitVec 4 := 2
def nackPath : BitVec 4 := 3
def nackGone : BitVec 4 := 4

/-- Refuse a request. -/
def State.nack (s : State) (p : Packet) (status : BitVec 4) : State := s.respond p 0xB status 0 []

/-- Why a home does not perform a request (R27, R64, R65, R73, R161). -/
def homeNack (s : State) (p : Packet) (key : BitVec 8) (cell n : Nat) (write : Bool) : Option (BitVec 4) :=
  if !s.inService cell then some nackGone
  else if p.poison && 4 ≤ p.kind.toNat then some nackPoison
  else if keyed cell && !Assoc.get false s.security.keys key.toNat then some nackPoison
  else if physRegion cell == .sram && !p.fw && !s.admits p.region (Assoc.get 0 s.dist.owners ((cell - sramBase) / granuleBytes))
    then some nackPartition
  else if !write && s.poisoned cell n then some nackPoison
  else none

/-! ### Requests that leave the package (R38 to R45, R52) -/

/-- Does an address lie off the package (R179)? -/
def offCell (cell : Nat) : Bool := physRegion cell == .linnor || physRegion cell == .pcie

/-- A request through the Linnor aperture: sent to the window's device, or refused (R42, R43). -/
def toLinnor (s : State) (p : Packet) (cell : Nat) : State :=
  let w := s.window cell
  let d := w.extractLsb' 53 10
  let write := p.kind != 0
  if !w.getLsbD 63 || (write && w.getLsbD 1) || !(Assoc.get 0 s.links.route d.toNat).getLsbD 63 then s.nack p nackPartition
  else match s.lnPortFor d p.dst cell with
    | none => s.nack p nackPartition
    | some port =>
      if !s.lnUp port then s.nack p nackGone
      else
        let go (kind op : BitVec 4) (len : Nat) (data : List Byte) : State :=
          s.lnIssue port { kind := kind, dst := d, src := 0, tag := 0, len := BitVec.ofNat 8 (len - 1), op := op
                           addr := windowAddr w cell, data := data } (some p)
        let n := p.len.toNat + 1
        match p.kind.toNat with
        | 0 => go 0 0 n []
        | 1 => go 2 0 n ((pktBody p).take n)
        | 3 => if (pktBody p).getD 1 0 = 3 then go 2 0 1 ((pktBody p).take 1) else s.nack p nackPartition
        | 4 => go 4 p.op n (pktBody p)
        | _ => s.nack p nackPartition

/-- The AtomicOp of an operation (R52). -/
def atomicOpOf (op : BitVec 4) : Option (BitVec 2) :=
  match op.toNat with
  | 0 => some 0 | 6 => some 1 | 7 => some 2 | _ => none

/-- A free tag of a PCIe port, of 10 bits (R51). Tags are kept with their port before them. -/
def State.pcieFreeTag (s : State) (port : Nat) : Option Nat :=
  let key (i : Nat) : Nat := port * 1024 + (s.links.pcieTag + i) % 1024
  ((List.range 1024).find? (fun i => (Assoc.find? s.links.pcie (key i)).isNone)).map key

/-- A PCIe port sends a request that waits for its completion. -/
def State.pcieSend (s : State) (tag port cell n : Nat) (atomic : Option (BitVec 2)) (data : List Byte) (orig : Option Packet)
    (flushes : List Packet) : State :=
  { s with links := { s.links with
    pcieTag := (tag + 1) % 1024
    pcie := Assoc.set s.links.pcie tag
      { req := { port := port, pasid := none, addr := BitVec.ofNat 64 cell, write := false, atomic := atomic, len := n, data := data }
        orig := orig, flushes := flushes } } }

/-- The package reads on a port whose posted writes it must know performed (R152, R179): an address of the first of them. -/
def State.pcieFlush (s : State) (port : Nat) : State :=
  match Assoc.get [] s.links.posted port, s.pcieFreeTag port with
  | p :: ps, some t => { s with links := { s.links with posted := Assoc.set s.links.posted port [] } }.pcieSend t port (pktHome p).2 1
      none [] none (p :: ps)
  | _, _ => s

/-- A request through a PCIe window: a write is posted, a read or an AtomicOp waits for its completion, and a completed
read flushes the writes posted before it (R179). With no tag free the port takes the packet up later. -/
def toPcie (s : State) (p : Packet) (cell : Nat) : State :=
  let port := (cell - 0xD0000000000) / 2 ^ 38
  let n := p.len.toNat + 1
  let posted := Assoc.get [] s.links.posted port
  let post := { s with links := { s.links with posted := Assoc.set s.links.posted port (posted ++ [p]) } }
  let send (s : State) (atomic : Option (BitVec 2)) (data : List Byte) (flushes : List Packet) : State :=
    match s.pcieFreeTag port with
    | some t => s.pcieSend t port cell n atomic data (some p) flushes
    | none => { s with links := { s.links with pcieWait := s.links.pcieWait ++ [p] } }
  if !s.inService cell then s.nack p nackGone
  else match p.kind.toNat with
    | 0 => if (s.pcieFreeTag port).isNone then send s none [] []
        else send { s with links := { s.links with posted := Assoc.set s.links.posted port [] } } none [] posted
    | 1 => post
    | 3 => if (pktBody p).getD 1 0 = 3 then post else s.nack p nackPartition
    | 4 => match atomicOpOf p.op with
      | some a => send s (some a) (pktBody p) []
      | none => s.nack p nackPath
    | _ => s.nack p nackPartition

/-- Serve a request: off the package it is passed on; else the home refuses it, or `f` performs it at key ID and cell. -/
def serve (p : Packet) (n : Nat) (write : Bool) (s : State) (f : BitVec 8 → Nat → State → State) : State :=
  let (key, cell) := pktHome p
  if physRegion cell == .linnor then toLinnor s p cell
  else if physRegion cell == .pcie then toPcie s p cell
  else match homeNack s p key cell n write with
    | some c => s.nack p c
    | none => (f key cell s).countFar cell

/-! ### Reads, writes, atomics, barrier additions (R61, R62) -/

/-- `MESH_RD`. -/
def meshRd (p : Packet) (s : State) : State :=
  let n := p.len.toNat + 1
  serve p n false s (fun key cell s => s.respond p 8 0 0 (s.bytesKey key cell n))

/-- Data of a write land at their home, as poisoned data where the packet is poisoned (R65). -/
def landData (s : State) (p : Packet) (key : BitVec 8) (cell : Nat) (bs : List Byte) : State :=
  let t := s.setBytesKey key cell bs
  if p.poison then t.setPoison cell bs.length else t

/-- `MESH_WR`. -/
def meshWr (p : Packet) (s : State) : State :=
  let bs := (pktBody p).take (p.len.toNat + 1)
  serve p bs.length true s (fun key cell s => (landData s p key cell bs).respond p 9 0 0 [])

/-- `MESH_WRB`: the bytes perform, and then they are counted. -/
def meshWrb (p : Packet) (s : State) : State :=
  let bs := (pktBody p).take (p.len.toNat + 1)
  serve p bs.length true s (fun key cell s =>
    let (bkey, bcell) := fieldHome p.dst (BitVec.ofNat 40 (field p.data 56 8))
    ((landData s p key cell bs).barAdd bkey bcell (BitVec.ofNat 64 bs.length)).respond p 9 0 0 [])

/-- `MESH_WRN`. -/
def meshWrn (p : Packet) (s : State) : State :=
  serve p 1 true s (fun key cell s =>
    (landData s p key cell [nibbles (s.byteKey key cell) ((pktBody p).getD 0 0) (((pktBody p).getD 1 0).extractLsb' 0 2)]).respond p 9 0 0 [])

/-- `MESH_AMO`. -/
def meshAmo (p : Packet) (s : State) : State :=
  let n := p.len.toNat + 1
  let b := pktBody p
  let op := p.op.toNat
  serve p n false s (fun key cell s =>
    if 8 ≤ op then s.nack p nackPath
    else
      let (old, t) := s.atomic op n key cell (if op = 7 then field b 0 n else 0) (if op = 7 then field b n n else field b 0 n)
      t.respond p 0xA 0 0 (leBytes n old))

/-- `MESH_BADD`. -/
def meshBadd (p : Packet) (s : State) : State :=
  serve p 32 false s (fun key cell s => (s.barAdd key cell (BitVec.ofNat 64 (field (pktBody p) 0 8))).respond p 9 0 0 [])

/-! ### Home operations (R63) -/

/-- The answer of a home operation. -/
def State.hopr (s : State) (p : Packet) (status : BitVec 4) (data : List Byte) : State := s.respond p 0xC status 0 data

/-- `HOP_BINIT`. -/
def hopBinit (p : Packet) (s : State) : State :=
  serve p 32 true s (fun key cell s =>
    (s.barInit key cell (BitVec.ofNat 64 (field (pktBody p) 0 8)) (((pktBody p).getD 8 0).getLsbD 0)).hopr p 0 [])
/-- `HOP_BREAD`. -/
def hopBread (p : Packet) (s : State) : State :=
  serve p 24 false s (fun key cell s => s.hopr p 0 (s.bytesKey key cell 24))
/-- `HOP_BTIMEOUT`. -/
def hopBtimeout (p : Packet) (s : State) : State :=
  serve p 24 false s (fun key cell s =>
    let (set, t) := s.barTimeout key cell (BitVec.ofNat 32 (field (pktBody p) 0 4))
    t.hopr p (if set then 1 else 0) (t.bytesKey key cell 24))
/-- `HOP_WQPUSH`. -/
def hopWqpush (p : Packet) (s : State) : State :=
  serve p 16 true s (fun _ cell s => match s.dqPush cell ((pktBody p).take 16) with
    | some t => t.hopr p 0 []
    | none => s.hopr p 1 [])
/-- The answer of a pop or a steal. -/
def State.taken (s : State) (p : Packet) (r : Option (List Byte × State)) : State :=
  match r with
  | some (item, t) => t.hopr p 0 item
  | none => s.hopr p 1 []
/-- `HOP_WQPOP`. -/
def hopWqpop (p : Packet) (s : State) : State :=
  serve p 16 false s (fun _ cell s => s.taken p (s.dqPop cell (((pktBody p).getD 0 0).getLsbD 0)))
/-- `HOP_WQSTEAL`. -/
def hopWqsteal (p : Packet) (s : State) : State := serve p 16 false s (fun _ cell s => s.taken p (s.dqSteal cell))
/-- `HOP_GREAD`: the list as it is now, in four answers. -/
def hopGread (p : Packet) (s : State) : State :=
  serve p 256 false s (fun key cell s =>
    let b := s.glList key cell
    (List.range 4).foldl (fun t i => t.respond p 0xC 0 (64 * i) ((b.drop (64 * i)).take 64)) s)
/-- `HOP_GATTACH`. -/
def hopGattach (p : Packet) (s : State) : State :=
  serve p 256 false s (fun key cell s => match s.glAttach key cell ((pktBody p).take 28) with
    | some t => t.hopr p 0 []
    | none => s.hopr p 1 [])
/-- `HOP_GDETACH`. -/
def hopGdetach (p : Packet) (s : State) : State :=
  serve p 256 false s (fun key cell s => match s.glDetach key cell ((pktBody p).getD 0 0).toNat with
    | some t => t.hopr p 0 []
    | none => s.hopr p 1 [])
/-- `HOP_GFOLD`: the snapshot is the list as it is at the start (R228, R230). -/
def hopGfold (p : Packet) (s : State) : State :=
  serve p 256 false s (fun key cell s =>
    let b := s.glList key cell
    let x := pktBody p
    match s.glFoldStart key cell with
    | none => s.hopr p 1 []
    | some t =>
      let k := match nodeKind p.src with | .core k => k | _ => 0
      let f : Fold := { home := p.dst, old := physAddr key cell, snap := handleBits 0 (glVersion b) (glN b)
                        newVa := BitVec.ofNat 48 (field x 0 8), bar := BitVec.ofNat 52 (field x 8 8)
                        tag := BitVec.ofNat 4 (field x 16 1), pasid := BitVec.ofNat 20 (field x 20 4), region := p.region
                        conf := (match s.region p.region with | some g => g.conf | none => false), core := k
                        index := (s.core k).index }
      { t with folds := t.folds ++ [f] }.hopr p 0 [])

/-- A notice of the counter at a cell, which has reached `v` (R155, R160): written where there is room. The message names no key
ID; the record's is that under which the granule's first unit was last written (log entry 128). -/
def State.notice (s : State) (node : BitVec 13) (cell : Nat) (v : Byte) : State :=
  let g := 0x10000000000 + (cell - physCell (s.mmu.cntbase.extractLsb' 0 52)) * 65536
  let f : OpenFault := { index := none, pasid := 0, va := 0, region := 0, node := node, access := 0, cause := v
                         path := 0, page := 0, joined := 0, stale := false, waiters := [] }
  if s.fbRoom then s.fbWrite (recordBytes (physAddr (Assoc.get 0 s.unitKey (g / 64)) g).toNat f 3 s.ptime) else { s with mmu := { s.mmu with fbovf := true } }

/-- `HOP_CNTINC`. -/
def hopCntinc (p : Packet) (s : State) : State :=
  serve p 1 false s (fun key cell s =>
    let v := s.byteKey key cell
    let v' := if v = 255 then v else v + 1
    let t := s.setByteKey key cell v'
    (if v != v' && v' == s.mmu.thresh then t.notice p.dst cell v' else t).hopr p 0 [])

/-- A packet of a reserved kind or operation: discarded, with a machine check (R61, R63). -/
def discarded (p : Packet) (s : State) : State := s.machineCheck p.dst

/-! ### Requests from outside for places off the package (R51, R53) -/

/-- What the outside asked for is answered: the bytes, or an error. -/
def State.answerOutside (s : State) (ok : Bool) (bs : List Byte) : State :=
  { s with mgmt := { s.mgmt with answer := bs, answerOk := ok } }

/-- A PCIe port sends the next request for what is left: within an aligned 64 bytes, and of a write at most 56 (R62). -/
def State.outerSend (s : State) (o : OuterReq) : State :=
  let cell := physCell o.pa
  let m := if o.op.isSome then o.left else if o.write then min 56 (unitLen cell o.left) else unitLen cell o.left
  let (t, q) := s.inject
    { kind := if o.op.isSome then 4 else if o.write then 1 else 0, x := true, cls := 0, dst := s.homeNode cell, src := pcieNode o.port
      seq := 0, region := 0, stamp := s.stampNow, op := o.op.getD 0, len := BitVec.ofNat 6 (m - 1), addr := 0, fw := false
      poison := false, data := leBytes 8 o.pa.toNat ++ (if o.op.isSome then o.data else o.data.take m) }
  { t with links := { t.links with outer := t.links.outer ++ [{ o with seq := q, sent := m }] } }

/-- A PCIe port has the answer to such a request: it asks for the rest, or answers the outside. -/
def State.outerAnswered (s : State) (p : Packet) : State :=
  match s.links.outer.find? (fun o => pcieNode o.port == p.dst && o.seq == p.seq) with
  | none => s
  | some o =>
    let s := { s with links := { s.links with outer := s.links.outer.erase o } }
    if p.kind = 0xB || p.poison then s.answerOutside false []
    else if o.left ≤ o.sent then s.answerOutside true (o.got ++ p.data)
    else s.outerSend { o with pa := o.pa + BitVec.ofNat 52 o.sent, left := o.left - o.sent, data := o.data.drop o.sent, got := o.got ++ p.data }

/-! ### Answers arrive (R62, R64) -/

/-- The agents that send from a node. -/
def agentsAt (node : BitVec 13) (fw : Bool) : List Agent :=
  match nodeKind node with
  | .core k => if fw then [.fw k] else [.user k, .matrix k]
  | .copy t => [.copy (4 * t), .copy (4 * t + 1), .copy (4 * t + 2), .copy (4 * t + 3)]
  | .lookup n => [.lookup n]
  | _ => []

namespace State

/-- What an agent has sent and not yet had answered. -/
def outOf (s : State) : Agent → List Access
  | .matrix k => (s.engine k false).out
  | .copy k => (s.engine k true).out
  | a => (s.ctxOf a).out

/-- Replace what an agent has outstanding. -/
def setOut (s : State) (a : Agent) (xs : List Access) : State :=
  match a with
  | .matrix k => s.setEngine k false { s.engine k false with out := xs }
  | .copy k => s.setEngine k true { s.engine k true with out := xs }
  | a => s.modCtxOf a (fun c => { c with out := xs })

/-- Give the answer of an interlocked request to its agent. -/
def setReply (s : State) (a : Agent) (r : Reply) : State :=
  match a with
  | .matrix k => s.setEngine k false { s.engine k false with reply := some r }
  | .copy k => s.setEngine k true { s.engine k true with reply := some r }
  | a => s.modCtxOf a (fun c => { c with waits := { c.waits with reply := some r } })

end State

/-- Does an answer belong to an access (R62)? -/
def Access.answeredBy (o : Access) (p : Packet) : Bool := o.dst == p.src && o.cls == p.cls && o.seq == p.seq

/-- The agent and the access that an answer belongs to. -/
def State.findAccess (s : State) (p : Packet) : Option (Agent × Access) :=
  (agentsAt p.dst p.fw).findSome? (fun a => ((s.outOf a).find? (·.answeredBy p)).map (fun o => (a, o)))

/-- The access is answered. -/
def State.answered (s : State) (a : Agent) (o : Access) : State := s.setOut a ((s.outOf a).erase o)

/-- Does a context have an `LDR` that an answer belongs to? -/
def Ldr.answeredBy (l : Ldr) (p : Packet) : Bool :=
  l.dst == p.src && l.cls == p.cls && l.seq == p.seq && l.data.isNone && l.fault.isNone

/-- An access has failed with a trap (R64): precisely at a bundle that waits, after commit for a committed bundle and an
`LDR` (R192 in a handler), as an engine fault for an engine. -/
def State.accessFails (s : State) (a : Agent) (o : Access) (p : Packet) (code : Byte) : State :=
  let s := s.answered a o
  if o.held then s.setReply a (.trap code)
  else match a with
    | .matrix k => (s.setEngine k false { s.engine k false with dead := true }).engineFault k false code
    | .copy k => (s.setEngine k true { s.engine k true with dead := true }).engineFault k true code
    | a =>
      let n := (((s.ctxOf a).ldrs.find? (·.answeredBy p)).map (·.count)).getD o.count
      (s.modCtxOf a (fun c => { c with ldrs := c.ldrs.filter (fun l => !l.answeredBy p) })).report a n code

/-- The trap of a NACK status (R64). -/
def nackTrap (status : BitVec 4) : Byte :=
  match status.toNat with
  | 1 => tProt | 3 => tAtomicPath | _ => tEccUncorr

/-- `MESH_RDD`. -/
def meshRdd (p : Packet) (s : State) : State :=
  match s.findAccess p with
  | none => s.outerAnswered p
  | some (a, o) =>
    if p.poison then s.accessFails a o p tEccUncorr
    else
      let t := s.answered a o
      if o.held then t.setReply a (.data p.data)
      else match a with
        | .matrix _ | .copy _ => t
        | a => t.modCtxOf a (fun c => { c with ldrs := c.ldrs.map (fun l =>
            if l.answeredBy p then { l with data := some p.data } else l) })

/-- `MESH_WACK`: the bytes of a copy packet whose barrier word lies elsewhere are added now (R177). -/
def meshWack (p : Packet) (s : State) : State :=
  match s.findAccess p with
  | none => s.outerAnswered p
  | some (a, o) =>
    let t := s.answered a o
    match o.bar with
    | none => t
    | some (key, cell) =>
      let u := { t with cur := a }
      let (u, q) := u.inject (requestTo u 5 0 true 0 ⟨key, cell, false, none⟩ 8 (leBytes 8 o.len))
      { u.setOut a (u.outOf a ++ [{ cls := 0, dst := u.homeNode cell, seq := q, x := true, addr := cell, len := 8, off := false
                                    write := true }]) with cur := s.cur }

/-- `MESH_AMOR`. -/
def meshAmor (p : Packet) (s : State) : State :=
  match s.findAccess p with
  | none => s.outerAnswered p
  | some (a, o) =>
    let t := s.answered a o
    if o.held then t.setReply a (.data p.data) else t

/-- `MESH_NACK`. -/
def meshNack (p : Packet) (s : State) : State :=
  match s.findAccess p with
  | none => s.outerAnswered p
  | some (a, o) => s.accessFails a o p (nackTrap p.op)

/-- `MESH_HOPR`. -/
def meshHopr (p : Packet) (s : State) : State :=
  match s.findAccess p with
  | none => s
  | some (a, o) =>
    let t := s.answered a o
    if o.held then t.setReply a (.data p.data) else t

/-! ### Routing (R66, R69) -/

/-- The width of a die's grid. -/
def dieWidth (die : Nat) : Nat := if die = 2 then 2 else 18

/-- The router that a packet makes for in die `die`: its destination's, or the bridge router of its row. -/
def segmentTarget (die : Nat) (p : Packet) : Nat :=
  let e := nodeDie p.dst
  if e = die then nodeRouter p.dst
  else
    let y := nodeRouter p.dst / dieWidth e
    let x := if die = 1 then 0 else if die = 2 then 1 else if e = 2 then 0 else 17
    x + dieWidth die * y

/-- The die and router that face a bridge router, for a packet. -/
def facing (die idx : Nat) (p : Packet) : Nat × Nat :=
  let y := idx / dieWidth die
  if die = 0 then (if nodeDie p.dst = 2 then (2, 1 + 2 * y) else (1, 18 * y)) else (0, if die = 1 then 17 + 18 * y else 18 * y)

/-- The output ports of a router, in the order N, E, S, W, with the routers they lead to; rows count from the north. -/
def routerPorts (die idx : Nat) : List (Nat × Nat) :=
  let w := dieWidth die
  let x := idx % w
  let y := idx / w
  (if 0 < y then [(0, idx - w)] else []) ++ (if x + 1 < w then [(1, idx + 1)] else [])
    ++ (if y + 1 < 10 then [(2, idx + w)] else []) ++ (if 0 < x then [(3, idx - 1)] else [])

/-- The distance between two routers. -/
def routerDist (die a b : Nat) : Nat :=
  let w := dieWidth die
  (a % w - b % w) + (b % w - a % w) + (a / w - b / w) + (b / w - a / w)

/-- The free port a packet takes productively: in x before y. -/
def productive (die idx target : Nat) (free : List (Nat × Nat)) : Option (Nat × Nat) :=
  let ok := free.filter (fun q => routerDist die q.2 target < routerDist die idx target)
  (ok.find? (fun q => q.1 % 2 == 1)).or ok.head?

/-- Does packet `p` rank above `q`: an earlier stamp, or the lower source? -/
def outranks (now : BitVec 18) (p q : Packet) : Bool :=
  let a := (now - p.stamp).toNat
  let b := (now - q.stamp).toNat
  b < a || (a == b && p.src.toNat < q.src.toNat)

/-- Put a flit among those in order of rank. -/
def rankInsert (now : BitVec 18) (f : Flit) : List Flit → List Flit
  | [] => [f]
  | g :: rest => if outranks now g.pkt f.pkt then g :: rankInsert now f rest else f :: g :: rest

/-- How far ahead of the expected number of its stream a packet is (R72). -/
def State.ahead (s : State) (p : Packet) : Nat := (p.seq - Assoc.get 0 s.mesh.expect (streamKey p.src p.region p.cls p.dst)).toNat

/-- Do a die's routers run (R28, R30)? -/
def dieRoutes (s : State) (die : Nat) : Bool :=
  die == 2 || !s.fences.dies.getLsbD die || (die == 0 && s.boot.transit)

/-- The bridge routers that face a router. -/
def facers (die idx : Nat) : List (Nat × Nat) :=
  let w := dieWidth die
  let x := idx % w
  let y := idx / w
  if die = 2 then (if x = 1 then [(0, 18 * y)] else [])
  else if die = 1 then (if x = 0 then [(0, 17 + 18 * y)] else [])
  else (if x = 0 then [(2, 1 + 2 * y)] else []) ++ (if x = 17 then [(1, 18 * y)] else [])

namespace State

/-- What a router has done on a plane. -/
def routerRun (s : State) (die idx plane : Nat) : RouterRun := Assoc.get {} s.mesh.runs ((die * 256 + idx) * 4 + plane)
def setRouterRun (s : State) (die idx plane : Nat) (r : RouterRun) : State :=
  { s with mesh := { s.mesh with runs := Assoc.set s.mesh.runs ((die * 256 + idx) * 4 + plane) r } }

/-- Flits that arrive at a router on a plane by a cycle of it. -/
def arrivals (s : State) (die idx plane cycle : Nat) : List Flit :=
  s.mesh.flits.filter (fun f => f.die.toNat == die && f.router == idx && f.plane.toNat == plane && decide (f.at_ ≤ cycle))

/-- Packets that have crossed to a router on a plane. -/
def crossed (s : State) (die idx plane : Nat) : List Flit :=
  s.mesh.crossing.filter (fun f => f.die.toNat == die && f.router == idx && f.plane.toNat == plane)

/-- Put a flit on a mesh link's far end. -/
def addFlit (s : State) (f : Flit) : State := { s with mesh := { s.mesh with flits := s.mesh.flits ++ [f] } }

end State

/-- May a router do its next cycle on a plane: has everything been sent that can reach it in that cycle, on its links and across
a bridge near it, and has the plane below had the cycle (R67)? -/
def routerReady (s : State) (die idx plane : Nat) : Bool :=
  let c := (s.routerRun die idx plane).cycles
  let near (r : Nat × Nat) : List (Nat × Nat) := (routerPorts r.1 r.2).map (fun q => (r.1, q.2))
  let here := (die, idx) :: near (die, idx)
  let across := here.flatMap (fun r => facers r.1 r.2)
  (here ++ across ++ (facers die idx).flatMap near).all (fun r => !dieRoutes s r.1 || decide (c ≤ (s.routerRun r.1 r.2 plane).cycles))
    && (plane = 0 || decide (c < (s.routerRun die idx (plane - 1)).cycles))

/-- Does a destination accept a packet that is offered to it (R72, R73)? -/
def endpointTakes (s : State) (p : Packet) : Bool := p.x || s.ahead p ≤ 64

/-- Has the router that faces a bridge an output port left in cycle `c` (R69)? Where it has done the cycle, the ports left
over say so; else its arrivals, less those that end there, and the packets that have crossed to it take one each. -/
def crossingRoom (s : State) (die idx plane c : Nat) : Bool :=
  let run := s.routerRun die idx plane
  if c < run.cycles then run.free != []
  else
    let arr := s.arrivals die idx plane c
    let ends := arr.filter (fun f => nodeDie f.pkt.dst == die && nodeRouter f.pkt.dst == idx && endpointTakes s f.pkt)
    decide (arr.length - min 2 ends.length + (s.crossed die idx plane).length < (routerPorts die idx).length)

/-- Is a packet for a unit of a fenced die, or on a die beyond it, answered at the bridge (R27)? -/
def deadEnd (s : State) (die : Nat) (p : Packet) : Bool :=
  !dieRoutes s die || (nodeDie p.dst == die && die != 2 && s.fences.dies.getLsbD die)

/-- Is a packet that stands at its segment target taken there: by its endpoint (R72), or across the bridge (R69)? -/
def takenHere (s : State) (die idx plane : Nat) (p : Packet) : Bool :=
  if nodeDie p.dst = die then endpointTakes s p
  else
    let (d, r) := facing die idx p
    deadEnd s d p
      || (decide (s.dieCount d < (if d = 2 then 256 else 2048)) && crossingRoom s d r plane (s.routerRun die idx plane).cycles)

/-- The answer that a packet lost with a fenced die leaves behind (R27, R29): a request's, and that of an answer not yet given. -/
def lostAnswer (s : State) (p : Packet) : List Packet :=
  if p.kind.toNat < 8 then (({ s with mesh := { s.mesh with pending := [] } }).nack p nackGone).mesh.pending
  else [{ p with kind := 0xB, op := nackGone, len := 0, data := [], poison := false }]

/-- A packet enters a die at a router in its cycle `c`: it ends there, or takes a port left free, a productive one if there is one
(R66). -/
def enterAt (die idx plane c : Nat) (free : List (Nat × Nat)) (ej : Nat) (s : State) (p : Packet) :
    Option (List (Nat × Nat) × Nat × State) :=
  if nodeDie p.dst = die && nodeRouter p.dst = idx && ej ≠ 0 && endpointTakes s p then
    some (free, ej - 1, { s with mesh := { s.mesh with offered := s.mesh.offered ++ [p] } })
  else match (productive die idx (segmentTarget die p) free).or free.head? with
    | some q => some (free.erase q, ej, s.addFlit ⟨BitVec.ofNat 2 die, q.2, BitVec.ofNat 2 plane, p, c + 1⟩)
    | none => none

/-- A packet that has crossed a bridge enters at the facing router: now, where that router has done this cycle; else with its
cycle. -/
def crossTo (die idx plane c : Nat) (s : State) (p : Packet) : State :=
  let run := s.routerRun die idx plane
  match (if c < run.cycles then enterAt die idx plane c run.free run.eject s p else none) with
  | some (free, ej, t) => t.setRouterRun die idx plane { run with free := free, eject := ej }
  | none => { s with mesh := { s.mesh with crossing := s.mesh.crossing ++ [⟨BitVec.ofNat 2 die, idx, BitVec.ofNat 2 plane, p, c⟩] } }

/-- Take a packet at its segment target: offer it to its endpoint, or send it across the bridge with a new stamp. -/
def takeHere (s : State) (die idx plane : Nat) (p : Packet) : State :=
  if nodeDie p.dst = die then { s with mesh := { s.mesh with offered := s.mesh.offered ++ [p] } }
  else
    let (d, r) := facing die idx p
    if deadEnd s d p then
      { s with mesh := { s.mesh with pending := s.mesh.pending ++ (if p.kind.toNat < 8 then lostAnswer s p else []) } }
    else crossTo d r plane (s.routerRun die idx plane).cycles s { p with stamp := s.stampNow }

/-- The first loop of R66 in cycle `c`: eject or cross, go a productive way, or lose. -/
def routeArrivals (die idx plane c : Nat) :
    List Flit → List (Nat × Nat) → Nat → State → List Flit × List (Nat × Nat) × Nat × State
  | [], free, ej, s => ([], free, ej, s)
  | f :: rest, free, ej, s =>
    let target := segmentTarget die f.pkt
    if target = idx && ej ≠ 0 && takenHere s die idx plane f.pkt then
      routeArrivals die idx plane c rest free (ej - 1) (takeHere s die idx plane f.pkt)
    else match productive die idx target free with
      | some q => routeArrivals die idx plane c rest (free.erase q) ej (s.addFlit { f with router := q.2, at_ := c + 1 })
      | none =>
        let (losers, r) := routeArrivals die idx plane c rest free ej s
        (f :: losers, r)

/-- The second loop of R66: losers take what is free in the order N, E, S, W. There are no more arrivals than ports; from a state
in which there are, a loser without a port stays. -/
def deflect (c : Nat) : List Flit → List (Nat × Nat) → State → List (Nat × Nat) × State
  | [], free, s => (free, s)
  | f :: rest, [], s => deflect c rest [] (s.addFlit { f with at_ := c + 1 })
  | f :: rest, q :: free, s => deflect c rest free (s.addFlit { f with router := q.2, at_ := c + 1 })

/-- The packets that have crossed to a router enter there after its arrivals (R69). -/
def enterCrossed (die idx plane c : Nat) : List Flit → List (Nat × Nat) → Nat → State → List (Nat × Nat) × Nat × State
  | [], free, ej, s => (free, ej, s)
  | f :: rest, free, ej, s =>
    match enterAt die idx plane c free ej { s with mesh := { s.mesh with crossing := s.mesh.crossing.erase f } } f.pkt with
    | some (free, ej, t) => enterCrossed die idx plane c rest free ej t
    | none => enterCrossed die idx plane c rest free ej s

/-- The core whose hold counter counts a packet (R68). For the shared copy datapath of a tile it is the first core of the tile
bound to the packet's region (DESIGN CHOICE, log entry 130). -/
def holdCore (s : State) (p : Packet) : Option Nat :=
  match nodeKind p.src with
  | .core k => some k
  | .copy t => [4 * t, 4 * t + 1, 4 * t + 2, 4 * t + 3].find? (fun k => (s.core k).user.id.region == p.region)
  | _ => none

/-- The router at which a packet enters the mesh: its source's; for an answer that stands in for a unit of a fenced die, the bridge
router that faces that die on the way to its destination. -/
def entryAt (s : State) (p : Packet) : Nat × Nat :=
  let d := nodeDie p.src
  if d = 2 || !s.fences.dies.getLsbD d then (d, nodeRouter p.src)
  else
    let y := nodeRouter p.src / 18
    if d = 1 && dieRoutes s 0 then (0, 17 + 18 * y)
    else if d = 0 && nodeDie p.dst = 1 then (1, 18 * y) else (2, 1 + 2 * y)

/-- Does a die hold as many packets as local injection may fill it with (R67)? -/
def dieFull (s : State) (die : Nat) : Bool := decide ((if die = 2 then 224 else 1792) ≤ s.dieCount die)

/-- The packets of a source that have been injected and have not ended. -/
def State.sentFrom (s : State) (src : BitVec 13) : Nat :=
  ((s.mesh.flits ++ s.mesh.crossing).filter (fun f => f.pkt.src == src)).length
    + ((s.mesh.offered ++ s.mesh.held).filter (fun q => q.src == src)).length

/-- May a packet that waits at its router be injected (R67)? A source that is not of a tile's agents keeps to 64 packets; the
agents of a tile were held before the packet was made. A stream injects once a cycle. -/
def mayInject (s : State) (die : Nat) (streams : List Nat) (p : Packet) : Bool :=
  !dieFull s die && (p.x || !streams.contains (streamKey p.src p.region p.cls p.dst))
    && (State.isTileAgent p.src || decide (s.sentFrom p.src < 64))

/-- The packets that wait at a router. -/
def State.waitingAt (s : State) (die idx : Nat) : List Packet := s.mesh.pending.filter (fun p => entryAt s p == (die, idx))

/-- The injection of R66, of the oldest packet that may be injected; with the stream that it was of. -/
def injectAt (die idx plane c : Nat) (streams : List Nat) (free : List (Nat × Nat)) (ej : Nat) (s : State) :
    List (Nat × Nat) × Nat × List Nat × State :=
  match (s.waitingAt die idx).find? (mayInject s die streams) with
  | none => (free, ej, streams, s)
  | some p0 =>
    let accepted := { s with mesh := { s.mesh with pending := s.mesh.pending.erase p0 } }
    let p := { p0 with stamp := s.stampNow }
    let streams' := if p.x then streams else streams ++ [streamKey p.src p.region p.cls p.dst]
    if nodeDie p.dst ≠ die && segmentTarget die p = idx && ej ≠ 0 && takenHere s die idx plane p then
      (free, ej - 1, streams', takeHere accepted die idx plane p)
    else match enterAt die idx plane c free ej accepted p with
      | some (free, ej, t) => (free, ej, streams', t)
      | none => (free, ej, streams, s)

/-- The cores with a packet that no plane has taken in this cycle count the hold, once each (R68). -/
def countHolds (die idx : Nat) (streams : List Nat) (s : State) : State :=
  let late := (s.waitingAt die idx).filter (fun p => p.x || !streams.contains (streamKey p.src p.region p.cls p.dst))
  let cause : BitVec 2 := if dieFull s die then 2 else 3
  (late.filterMap (holdCore s)).eraseDups.foldl (fun t k => t.countHold (.user k) cause) s

/-- Uncorrectable errors of arrivals (R65): one in the payload poisons the packet; one in the header loses it. -/
def meetErrors (errs : List (Nat × Bool)) (arr : List Flit) : List Flit :=
  (arr.zip (List.range arr.length)).filterMap (fun e =>
    if errs.contains (e.2, true) then none
    else if errs.contains (e.2, false) then some { e.1 with pkt := { e.1.pkt with poison := true } }
    else some e.1)

/-- `ROUTER_CYCLE` (R66): the next cycle of a router on a plane, once its neighbours have come as far. -/
def routerCycle (die idx plane : Nat) (errs : List (Nat × Bool)) (s : State) : State :=
  if 3 ≤ die || dieWidth die * 10 ≤ idx || 4 ≤ plane || !dieRoutes s die || !routerReady s die idx plane then s
  else
    let c := (s.routerRun die idx plane).cycles
    let arr := (s.arrivals die idx plane c).foldl (fun xs f => rankInsert s.stampNow f xs) []
    let lost := decide ((meetErrors errs arr).length < arr.length)
    let s := { s with mesh := { s.mesh with flits := s.mesh.flits.filter (fun f => !arr.contains f) } }
    let (losers, free, ej, s) := routeArrivals die idx plane c (meetErrors errs arr) (routerPorts die idx) 2 s
    let (free, s) := deflect c losers free s
    let (free, ej, s) := enterCrossed die idx plane c (s.crossed die idx plane) free ej s
    let before := if plane = 0 then [] else (s.routerRun die idx (plane - 1)).streams
    let (free, ej, streams, s) := injectAt die idx plane c before free ej s
    let s := s.setRouterRun die idx plane { cycles := c + 1, free := free, eject := ej, streams := streams }
    let s := if plane = 3 then countHolds die idx streams s else s
    if lost && die < 2 then s.push .runtimeFence { unit := some (.die die), cause := .headerError } else s

/-! ### Ejection and reassembly (R72) -/

/-- The happening that performing a packet is. -/
def meshHappening (p : Packet) : Instr :=
  match p.kind.toNat with
  | 0 => .meshRd | 1 => .meshWr | 2 => .meshWrb | 3 => .meshWrn | 4 => .meshAmo | 5 => .meshBadd
  | 6 => (match p.op.toNat with
    | 1 => .hopBinit | 2 => .hopBread | 3 => .hopBtimeout | 4 => .hopWqpush | 5 => .hopWqpop | 6 => .hopWqsteal
    | 7 => .hopGread | 8 => .hopGattach | 9 => .hopGdetach | 10 => .hopGfold | 11 => .hopCntinc | _ => .hopReserved)
  | 8 => .meshRdd | 9 => .meshWack | 10 => .meshAmor | 11 => .meshNack | 12 => .meshHopr
  | _ => .meshReservedKind

/-- The stream of a packet. -/
def pktStream (p : Packet) : Nat := streamKey p.src p.region p.cls p.dst

/-- The buffered packets of a stream whose turn has come, in sequence. -/
def drainHeld (key : Nat) : Nat → State → List Packet × State
  | 0, s => ([], s)
  | n + 1, s =>
    match s.mesh.held.find? (fun p => pktStream p == key && s.ahead p == 0) with
    | none => ([], s)
    | some p =>
      let s := { s with mesh := { s.mesh with
        held := s.mesh.held.erase p, expect := Assoc.set s.mesh.expect key (Assoc.get 0 s.mesh.expect key + 1) } }
      let (ps, s) := drainHeld key n s
      (p :: ps, s)

/-- A packet that its destination does not take goes back among its router's arrivals, on the first plane where no link brings
one; it waits where every plane is full. -/
def State.refused (s : State) (p : Packet) : State :=
  let die := nodeDie p.dst
  let idx := nodeRouter p.dst
  let at_ (plane : Nat) : Nat := (s.routerRun die idx plane).cycles
  match (List.range 4).find? (fun plane => routerReady s die idx plane
      && decide ((s.arrivals die idx plane (at_ plane)).length < (routerPorts die idx).length)) with
  | some plane => s.addFlit ⟨BitVec.ofNat 2 die, idx, BitVec.ofNat 2 plane, p, at_ plane⟩
  | none => { s with mesh := { s.mesh with offered := s.mesh.offered ++ [p] } }

/-- `PACKET_EJECT`: the `k`-th packet offered to its destination is performed, buffered, or refused and deflected. -/
def packetEject (k : Nat) (s : State) : State :=
  match s.mesh.offered[k]? with
  | none => s
  | some p =>
    let s := { s with mesh := { s.mesh with offered := s.mesh.offered.eraseIdx k } }
    let perform (q : Packet) : Instr × Input := (meshHappening q, { pkt := some q })
    if p.x then s.pushAll [perform p]
    else if s.ahead p = 0 then
      let key := pktStream p
      let s := { s with mesh := { s.mesh with expect := Assoc.set s.mesh.expect key (p.seq + 1) } }
      let (ps, s) := drainHeld key 64 s
      s.pushAll ((p :: ps).map perform)
    else if s.ahead p ≤ 64 then { s with mesh := { s.mesh with held := s.mesh.held ++ [p] } }
    else s.refused p

/-! ### Meanings -/

/-- A happening that carries a packet. -/
def withPacket (f : Packet → State → State) (s : State) : Host.Outcome State Fault Refusal :=
  match s.inp.pkt with
  | some p => .next (f p s)
  | none => .next s

/-- `ROUTER_CYCLE` (R66): die `inp.n`, router `inp.m`, plane `inp.k`. -/
def execRouterCycle (s : State) : Host.Outcome State Fault Refusal := .next (routerCycle s.inp.n s.inp.m s.inp.k s.inp.errs s)
/-- `PACKET_EJECT` (R72): the packet `inp.n` of those offered. -/
def execPacketEject (s : State) : Host.Outcome State Fault Refusal := .next (packetEject s.inp.n s)
/-- `MESH_RD` (R61). -/
def execMeshRd (s : State) : Host.Outcome State Fault Refusal := withPacket meshRd s
/-- `MESH_WR` (R61). -/
def execMeshWr (s : State) : Host.Outcome State Fault Refusal := withPacket meshWr s
/-- `MESH_WRB` (R62). -/
def execMeshWrb (s : State) : Host.Outcome State Fault Refusal := withPacket meshWrb s
/-- `MESH_WRN` (R61). -/
def execMeshWrn (s : State) : Host.Outcome State Fault Refusal := withPacket meshWrn s
/-- `MESH_AMO` (R62). -/
def execMeshAmo (s : State) : Host.Outcome State Fault Refusal := withPacket meshAmo s
/-- `MESH_BADD` (R176). -/
def execMeshBadd (s : State) : Host.Outcome State Fault Refusal := withPacket meshBadd s
/-- `HOP_BINIT` (R63). -/
def execHopBinit (s : State) : Host.Outcome State Fault Refusal := withPacket hopBinit s
/-- `HOP_BREAD` (R63). -/
def execHopBread (s : State) : Host.Outcome State Fault Refusal := withPacket hopBread s
/-- `HOP_BTIMEOUT` (R349). -/
def execHopBtimeout (s : State) : Host.Outcome State Fault Refusal := withPacket hopBtimeout s
/-- `HOP_WQPUSH` (R63). -/
def execHopWqpush (s : State) : Host.Outcome State Fault Refusal := withPacket hopWqpush s
/-- `HOP_WQPOP` (R115). -/
def execHopWqpop (s : State) : Host.Outcome State Fault Refusal := withPacket hopWqpop s
/-- `HOP_WQSTEAL` (R115). -/
def execHopWqsteal (s : State) : Host.Outcome State Fault Refusal := withPacket hopWqsteal s
/-- `HOP_GREAD` (R63). -/
def execHopGread (s : State) : Host.Outcome State Fault Refusal := withPacket hopGread s
/-- `HOP_GATTACH` (R228). -/
def execHopGattach (s : State) : Host.Outcome State Fault Refusal := withPacket hopGattach s
/-- `HOP_GDETACH` (R228). -/
def execHopGdetach (s : State) : Host.Outcome State Fault Refusal := withPacket hopGdetach s
/-- `HOP_GFOLD` (R228). -/
def execHopGfold (s : State) : Host.Outcome State Fault Refusal := withPacket hopGfold s
/-- `HOP_CNTINC` (R160). -/
def execHopCntinc (s : State) : Host.Outcome State Fault Refusal := withPacket hopCntinc s
/-- `HOP_RESERVED` (R63). -/
def execHopReserved (s : State) : Host.Outcome State Fault Refusal := withPacket discarded s
/-- `MESH_RESERVED_KIND` (R61). -/
def execMeshReservedKind (s : State) : Host.Outcome State Fault Refusal := withPacket (fun p s => discarded p s) s
/-- `MESH_RDD` (R61). -/
def execMeshRdd (s : State) : Host.Outcome State Fault Refusal := withPacket meshRdd s
/-- `MESH_WACK` (R61). -/
def execMeshWack (s : State) : Host.Outcome State Fault Refusal := withPacket meshWack s
/-- `MESH_AMOR` (R61). -/
def execMeshAmor (s : State) : Host.Outcome State Fault Refusal := withPacket meshAmor s
/-- `MESH_NACK` (R64). -/
def execMeshNack (s : State) : Host.Outcome State Fault Refusal := withPacket meshNack s
/-- `MESH_HOPR` (R63). -/
def execMeshHopr (s : State) : Host.Outcome State Fault Refusal := withPacket meshHopr s

end Sys2Proof.Machine
end

