-- ==== Sys2Proof/Machine/Window.lean ====
section
/-!
DEFINITION. The management window (R79 to R81): what each register reads, and what a write does by its fields' access codes
(R7, R8), including the happenings that writes cause; idle and wake (R98 to R100); the host's BARs (R53, R80).
Log entries: 49 (writes of an enabled queue), 50 (cores are gated in one step).
Also log entries 108 (application cores), 112 (OUTSTANDING of a PASID).
-/

namespace Sys2Proof.Machine

/-! ### Words -/

/-- The number of bits set. -/
def bitCount {w : Nat} (b : BitVec w) : Nat := ((List.range w).filter (b.getLsbD ·)).length

namespace State

/-- A queue context. -/
def queue (s : State) (q : Nat) : Queue := Assoc.get {} s.lfe.queues q
/-- Replace a queue context. -/
def setQueue (s : State) (q : Nat) (x : Queue) : State :=
  { s with lfe := { s.lfe with queues := Assoc.set s.lfe.queues q x } }
/-- Change a queue context. -/
def modQueue (s : State) (q : Nat) (f : Queue → Queue) : State := s.setQueue q (f (s.queue q))

/-- Units in service (R81): their bits are set and they are not fenced. -/
def dieOut (s : State) (die : Nat) : Bool := s.fences.dies.getLsbD die
def tileUp (s : State) (t : Nat) : Bool := s.boot.tiles.getLsbD t && !s.fences.tiles.getLsbD t && !s.dieOut (tileDie t)
def stackUp (s : State) (x : Nat) : Bool := s.boot.hbm.getLsbD x && !s.fences.hbms.getLsbD x && !s.dieOut (x / 6)
def linkUp (s : State) (p : Nat) : Bool := s.boot.links.getLsbD p && !s.fences.lports.getLsbD p && !s.dieOut (p / 32)
def pcieUp (s : State) (p : Nat) : Bool := s.boot.pcie.getLsbD p && !s.fences.pports.getLsbD p
/-- How many of `n` units are in service. -/
def countUp (n : Nat) (up : Nat → Bool) : Nat := ((List.range n).filter up).length

/-- `READYMAP` (R26). -/
def readymap (s : State) : BitVec 64 :=
  BitVec.ofBool s.boot.replreq ++ (BitVec.ofBool s.boot.alldone ++ (0#38 ++ (BitVec.ofBool s.boot.osready
    ++ (s.boot.pcie ++ (s.boot.meshUp ++ (s.boot.hbm ++ (0#4 ++ BitVec.ofBool s.boot.fwok)))))))

/-- MGMTSTAT (R81). -/
def mgmtstat (s : State) : BitVec 64 :=
  let nst := countUp 12 s.stackUp
  BitVec.ofBool s.boot.replreq ++ (BitVec.ofBool s.boot.halted ++ (0#14 ++ (BitVec.ofNat 16 (countUp 256 s.tileUp)
    ++ (BitVec.ofNat 8 nst ++ (BitVec.ofNat 8 (8 * nst) ++ (BitVec.ofNat 8 (countUp 64 s.linkUp)
    ++ (BitVec.ofNat 4 (countUp 4 s.pcieUp) ++ 0#4)))))))

end State

/-- LQCTL (R82). -/
def Queue.ctl (q : Queue) : BitVec 64 :=
  BitVec.ofBool q.v ++ (BitVec.ofBool q.stop ++ (q.prio ++ (q.size ++ (q.pasid ++ (q.err ++ 0#24)))))

/-- The code of an idle STATE (R98). -/
def IdleState.code : IdleState → BitVec 2
  | .running => 0 | .entering => 1 | .idle => 2 | .waking => 3

/-- The code of a PASID's STATE (R101). -/
def PasidState.code : PasidState → BitVec 2
  | .free => 0 | .active => 1 | .quiescing => 3

/-- OUTSTANDING (R101): the accesses of a PASID that wait on a walk that has faulted; a STALE fault does not count. -/
def State.outstanding (s : State) (pasid : BitVec 20) : Nat :=
  ((s.mmu.faults.filter (fun f => f.pasid == pasid && !f.stale)).map (·.waiters.length)).sum

/-- The 32 bytes of a journal record (R25). -/
def JournalRec.bytes (r : JournalRec) : List Byte :=
  leBytes 8 r.time.toNat ++ [r.step, r.outcome] ++ leBytes 2 r.inst.toNat ++ [r.policy, r.attempt]
    ++ leBytes 2 r.detail.toNat ++ leBytes 4 r.start.toNat ++ List.replicate 12 0

/-- The register at an offset of the window. -/
def mgmtRead (s : State) (off : Nat) : BitVec 64 :=
  let m := s.mgmt
  let u := s.mmu
  let ln (base n : Nat) (f : Assoc (BitVec 64)) : BitVec 64 := if (off - base) / 8 < n then Assoc.get 0 f ((off - base) / 8) else 0
  if off = 0 then s.readymap
  else if off < 0x28 then s.boot.tiles.extractLsb' (64 * (off / 8 - 1)) 64
  else if off = 0x28 then s.boot.links
  else if off = 0x30 then s.mgmtstat
  else if off = 0x38 then m.bar2
  else if off < 0x1000 then ln 0x40 64 s.links.cap
  else if off = 0x1000 then BitVec.zeroExtend 64 s.links.self
  else if off < 0x1100 then ln 0x1008 16 s.links.exp
  else if off < 0x1300 then ln 0x1100 64 s.links.wakectl
  else if off < 0x4000 then ln 0x1300 64 s.links.wakepat
  else if off < 0x8000 then ln 0x4000 2048 s.links.win
  else if off < 0xA000 then ln 0x8000 1024 s.links.route
  else if off < 0x10000 then ln 0xA000 1024 s.links.portmask
  else if off < 0x20000 then
    let q := s.queue ((off - 0x10000) / 64)
    (match off % 64 with
      | 0 => q.ctl | 8 => BitVec.zeroExtend 64 q.base | 16 => BitVec.zeroExtend 64 q.tail
      | 24 => BitVec.zeroExtend 64 q.head | 32 => q.irq | _ => 0)
  else if off < 0x100000 then
    (match off - 0x20000 with
      | 0x00 => BitVec.zeroExtend 64 u.selected
      | 0x08 => (s.pasidState u.selected).code ++ (0#30 ++ BitVec.ofNat 32 (s.outstanding u.selected))
      | 0x10 => BitVec.ofBool m.idleEn ++ (0#31 ++ m.idleDelay)
      | 0x18 => 0#56 ++ (m.idleCause ++ (0#2 ++ m.idle.code))
      | 0x20 => m.msgbase
      | 0x28 => BitVec.ofBool m.msgen ++ (0#11 ++ (m.msgsize ++ (0#11 ++ m.msgmsi)))
      | 0x30 => BitVec.zeroExtend 64 m.msghead
      | 0x38 => BitVec.zeroExtend 64 m.msgtail
      | 0x100 => u.fbbase
      | 0x108 => BitVec.ofBool u.fben ++ (BitVec.ofBool u.fbovf ++ (0#10 ++ (u.fbsize ++ (0#11 ++ u.fbmsi))))
      | 0x110 => BitVec.zeroExtend 64 u.fbhead
      | 0x118 => BitVec.zeroExtend 64 u.fbtail
      | 0x128 => u.cntbase
      | 0x130 => BitVec.ofBool u.cnten ++ (0#47 ++ (u.thresh ++ (0#3 ++ u.epoch)))
      | _ => 0)
  else
    let rec_ := (off - 0x100000) / 32
    if rec_ < 4096 then (match Assoc.find? s.boot.journal rec_ with
      | some r => BitVec.ofNat 64 (field r.bytes (off % 32) 8)
      | none => 0) else 0

/-! ### Writes -/

/-- The bits `mask` of a value. -/
def masked (mask v : BitVec 64) : BitVec 64 := v &&& mask
/-- The writable bits of LQIRQ and of the MSI fields laid out like it (R82). -/
def msiBits (v : BitVec 64) : BitVec 37 := (v &&& 0x1F000007FF).extractLsb' 0 37

/-- A write of LQCTL (R82): a change of V has a happening of its own; the other fields are set only while V is 0. -/
def writeLqctl (q : Nat) (v : BitVec 64) (s : State) : State :=
  let c := s.queue q
  if c.v then (if v.getLsbD 63 then s else s.push .lqctlDisable { n := q })
  else if v.getLsbD 63 then s.push .lqctlEnable { n := q, value := v }
  else s.setQueue q { c with prio := v.extractLsb' 58 4, size := v.extractLsb' 52 6, pasid := v.extractLsb' 32 20 }

/-- A write of a queue context's register: it waits behind a write that waits (R82). -/
def writeQueue (q reg : Nat) (v : BitVec 64) (s : State) : State :=
  if (s.queue q).waiting ≠ [] then s.modQueue q (fun c => { c with waiting := c.waiting ++ [(reg, v)] })
  else match reg with
  | 0 => writeLqctl q v s
  | 8 => if (s.queue q).v then s else s.modQueue q (fun c => { c with base := v.extractLsb' 0 48 })
  | 16 => s.push .lqtailDoorbell { n := q, value := v }
  | 24 => if (s.queue q).v then s else s.modQueue q (fun c => { c with head := v.extractLsb' 0 32 })
  | 32 => if (s.queue q).v then s else s.modQueue q (fun c => { c with irq := masked (0x8000000000000000 ||| 0x1F000007FF) v })
  | _ => s

/-- A write of IDLECTL (R98, R99). -/
def writeIdlectl (v : BitVec 64) (s : State) : State :=
  let t := { s with mgmt := { s.mgmt with idleEn := v.getLsbD 63, idleDelay := v.extractLsb' 0 32 } }
  if !v.getLsbD 63 && s.mgmt.idle == .idle then t.push .idlectlWakeWrite { value := v }
  else if v.getLsbD 62 then t.push .idleNow {} else t

/-- A write of PASIDCMD (R101). -/
def writePasidcmd (v : BitVec 64) (s : State) : State :=
  let i : Input := { pasid := v.extractLsb' 0 20, bytes := s.inp.bytes }
  match (v.extractLsb' 62 2).toNat with
  | 0 => s.push .pasidStatusSelect i
  | 1 => s.push .pasidTeardown i
  | 2 => s.push .pasidActivate i
  | _ => s

/-- A write of FBRESOLVE (R154). -/
def writeResolve (v : BitVec 64) (s : State) : State :=
  let i : Input := { value := v &&& 0xFFFFFFFF }
  match (v.extractLsb' 62 2).toNat with
  | 1 => s.push .fbresolveRetry i
  | 2 => s.push .fbresolvePage i
  | 3 => s.push .fbresolveProt i
  | _ => s

/-- A write of a register of the page at 0x002_0000. -/
def writeControl (reg : Nat) (v : BitVec 64) (s : State) : State :=
  let m (f : Mgmt → Mgmt) : State := { s with mgmt := f s.mgmt }
  let u (f : Mmu → Mmu) : State := { s with mmu := f s.mmu }
  match reg with
  | 0x00 => writePasidcmd v s
  | 0x10 => writeIdlectl v s
  | 0x20 => m (fun x => { x with msgbase := masked 0x000FFFFFFFFFF000 v })
  | 0x28 => m (fun x => { x with msgen := v.getLsbD 63, msgsize := v.extractLsb' 48 4, msgmsi := msiBits v })
  | 0x30 => m (fun x => { x with msghead := v.extractLsb' 0 32 })
  | 0x100 => u (fun x => { x with fbbase := masked 0x000FFFFFFFFFF000 v })
  | 0x108 => (u (fun x => { x with
      fben := v.getLsbD 63, fbovf := x.fbovf && !v.getLsbD 62, fbsize := v.extractLsb' 48 4, fbmsi := msiBits v })).push
      .faultRecordDeferred {}
  | 0x110 => (u (fun x => { x with fbhead := v.extractLsb' 0 32 })).push .faultRecordDeferred {}
  | 0x120 => writeResolve v s
  | 0x128 => u (fun x => { x with cntbase := masked 0x000FFFFFFFE00000 v })
  | 0x130 => u (fun x => { x with cnten := v.getLsbD 63, thresh := v.extractLsb' 8 8, epoch := v.extractLsb' 0 5 })
  | _ => s

/-- `REGISTER_WRITE` (R7): an aligned 8-byte write at an offset of the window. -/
def mgmtWrite (off : Nat) (v : BitVec 64) (s : State) : State :=
  let l (f : Links → Links) : State := { s with links := f s.links }
  if off = 0x38 then { s with mgmt := { s.mgmt with bar2 := masked 0x800FFFFFC0000000 v } }
  else if off < 0x1000 then s
  else if off = 0x1000 then l (fun x => { x with self := v.extractLsb' 0 10 })
  else if off < 0x1088 then l (fun x => { x with exp := Assoc.set x.exp ((off - 0x1008) / 8) (masked 0xFFFFFFFFC03FFFFF v) })
  else if 0x1100 ≤ off && off < 0x1300 then
    let p := (off - 0x1100) / 8
    let w := masked 0xBFFFFFFF00000000 v ||| masked 0x4000000000000000 (Assoc.get 0 s.links.wakectl p)
    l (fun x => { x with wakectl := Assoc.set x.wakectl p w })
  else if 0x1300 ≤ off && off < 0x1500 then l (fun x => { x with wakepat := Assoc.set x.wakepat ((off - 0x1300) / 8) v })
  else if 0x4000 ≤ off && off < 0x8000 then
    l (fun x => { x with win := Assoc.set x.win ((off - 0x4000) / 8) (masked 0xFFFFFFFF80000002 v) })
  else if 0x8000 ≤ off && off < 0xA000 then
    l (fun x => { x with route := Assoc.set x.route ((off - 0x8000) / 8) (masked 0xC0FFFF0000000000 v) })
  else if 0xA000 ≤ off && off < 0xC000 then l (fun x => { x with portmask := Assoc.set x.portmask ((off - 0xA000) / 8) v })
  else if 0x10000 ≤ off && off < 0x20000 then writeQueue ((off - 0x10000) / 64) (off % 64) v s
  else if 0x20000 ≤ off && off < 0x21000 then writeControl (off - 0x20000) v s
  else s

/-! ### Idle and wake (R98 to R100) -/

/-- Set the idle STATE. -/
def State.idleTo (s : State) (x : IdleState) : State := { s with mgmt := { s.mgmt with idle := x } }

/-- A wake begins, or goes further, and restores every unfenced core. -/
def State.wakeAll (s : State) (cause : BitVec 4) : State :=
  match s.mgmt.idle with
  | .idle => { s with mgmt := { s.mgmt with idle := .waking, idleCause := cause, gated := false, restored := [] } }
  | .entering => { s with mgmt := { s.mgmt with idle := .running, gated := false, restored := [] } }
  | .waking | .running => { s with mgmt := { s.mgmt with gated := false, restored := [] } }

/-- `IDLE_NOW`: ignored while a region exists (R100). -/
def idleNow (s : State) : State := if s.regions = [] && s.mgmt.idle == .running then s.idleTo .entering else s
/-- `IDLE_DELAY_EXPIRY`: EN is 1, and nothing to do has been seen for DELAY µs. -/
def idleDelayExpiry (s : State) : State :=
  if s.mgmt.idle == .running && s.mgmt.idleEn && !s.hasWork
      && decide (1000 * s.mgmt.idleDelay.toNat ≤ (s.ptime - s.mgmt.quietAt).toNat) then s.idleTo .entering else s
/-- `IDLE_ENTERED`: every control core is gated. -/
def idleEntered (s : State) : State :=
  if s.mgmt.idle == .entering then { s with mgmt := { s.mgmt with idle := .idle, gated := true, restored := [] } } else s
/-- `IDLECTL_WAKE_WRITE`. -/
def idlectlWakeWrite (v : BitVec 64) (s : State) : State :=
  if !v.getLsbD 63 && s.mgmt.idle == .idle then s.wakeAll 3 else s
/-- `WAKE_COMPLETE`: the first restored core reports ready. -/
def wakeComplete (k : Nat) (s : State) : State :=
  if s.mgmt.idle == .waking && !s.coreGated k then s.idleTo .running else s

/-! ### Accesses from outside (R27, R46, R51, R53) -/

/-- Why an access of `n` bytes from outside the package is not performed: 2 an address it may not reach, 5 data or units
that do not answer. It belongs to no region. -/
def outerRefuse (s : State) (key : BitVec 8) (cell n : Nat) (write : Bool) : Option (BitVec 4) :=
  if physRegion cell != .hbm && physRegion cell != .sram && physRegion cell != .far then some 2
  else match homeNack s { kind := 0, x := true, cls := 0, dst := 0, src := 0, seq := 0, region := 0, stamp := 0, op := 0, len := 0
                          addr := 0, fw := false, poison := false, data := [] } key cell n write with
    | none => none
    | some c => if c = nackPartition then some 2 else some 5

/-- A PCIe/CXL port. -/
def State.pciePort (s : State) (p : Nat) : PciePort := Assoc.get {} s.links.pports p
/-- The port that is in service as the package's endpoint, if one is (R50, R53). -/
def State.endpointPort (s : State) : Option Nat :=
  (List.range 4).find? (fun p => s.pcieUp p && (s.pciePort p).mode == .endpoint)

/-- Read or write bytes at a physical address for what stands behind a PCIe port: off the package the port sends requests of its
own, to another port (R51) or into the Linnor aperture. -/
def outerAccess (port : Nat) (pa : BitVec 52) (write : Option (List Byte)) (n : Nat) (s : State) : State :=
  let (key, cell) := (physKey pa, physCell pa)
  let m := match write with | some bs => bs.length | none => n
  if offCell cell && 0 < m then s.outerSend { port := port, pa := pa, write := write.isSome, left := m, data := write.getD [] }
  else match outerRefuse s key cell m write.isSome with
  | some _ => s.answerOutside false []
  | none =>
    match write with
    | some bs => ((s.setBytesKey key cell bs).countFar cell).answerOutside true []
    | none => (s.countFar cell).answerOutside true (s.bytesKey key cell n)

/-- A read of the window: one of LQCTL is held back while a write that clears its V waits (R82). -/
def windowRead (off : Nat) (s : State) : State :=
  let q := (off - 0x10000) / 64
  if 0x10000 ≤ off && off < 0x20000 && off % 64 = 0 && (s.queue q).waiting ≠ [] then
    s.modQueue q (fun c => { c with waiting := c.waiting ++ [(64, 0)] })
  else s.answerOutside true (leBytes 8 (mgmtRead s off).toNat)

/-- `BAR0_ACCESS` (R53, R80): behind the endpoint's port the host reads the window; of its writes only those of MSGHEAD and IDLECTL
count. -/
def bar0Access (off : Nat) (write : Option (BitVec 64)) (s : State) : State :=
  if s.endpointPort.isNone || off % 8 ≠ 0 then s.answerOutside false []
  else match write with
    | none => windowRead off s
    | some v => if off = 0x20030 || off = 0x20010 then mgmtWrite off v (s.answerOutside true []) else s.answerOutside true []

/-- The physical address of an offset of BAR2 (R53, R81). -/
def State.bar2Place (s : State) (off : Nat) : Option (BitVec 52) :=
  if !s.mgmt.bar2.getLsbD 63 || 2 ^ 30 ≤ off then none else some (s.mgmt.bar2.extractLsb' 30 22 ++ BitVec.ofNat 30 off)

/-- `BAR2_ACCESS` (R53, R81). -/
def bar2Access (off n : Nat) (write : Option (List Byte)) (s : State) : State :=
  match s.endpointPort, s.bar2Place off with
  | some port, some pa => outerAccess port pa write n s
  | _, _ => s.answerOutside false []

/-! ### Meanings -/

/-- `REGISTER_WRITE` (R7): offset `inp.n` of the window, value `inp.value`; the application cores write it. -/
def execRegisterWrite (s : State) : Host.Outcome State Fault Refusal :=
  .next (if s.inp.n % 8 = 0 then mgmtWrite s.inp.n s.inp.value (s.answerOutside true []) else s.answerOutside false [])
/-- `MGMT_WINDOW_BAD_ACCESS` (R79): an error, no effect. -/
def execMgmtWindowBadAccess (s : State) : Host.Outcome State Fault Refusal := .next (s.answerOutside false [])
/-- `BAR0_ACCESS` (R80): offset `inp.n`, written value `inp.write`. -/
def execBar0Access (s : State) : Host.Outcome State Fault Refusal := .next (bar0Access s.inp.n s.inp.write s)
/-- `BAR2_ACCESS` (R53): offset `inp.n`, `inp.m` bytes, a write of `inp.bytes` where `inp.flag`. -/
def execBar2Access (s : State) : Host.Outcome State Fault Refusal :=
  .next (bar2Access s.inp.n s.inp.m (if s.inp.flag then some s.inp.bytes else none) s)
/-- `IDLE_NOW` (R98). -/
def execIdleNow (s : State) : Host.Outcome State Fault Refusal := .next (idleNow s)
/-- `IDLE_DELAY_EXPIRY` (R98). -/
def execIdleDelayExpiry (s : State) : Host.Outcome State Fault Refusal := .next (idleDelayExpiry s)
/-- `IDLE_ENTERED` (R98). -/
def execIdleEntered (s : State) : Host.Outcome State Fault Refusal := .next (idleEntered s)
/-- `IDLECTL_WAKE_WRITE` (R99): the value `inp.value` written. -/
def execIdlectlWakeWrite (s : State) : Host.Outcome State Fault Refusal := .next (idlectlWakeWrite s.inp.value s)
/-- `WAKE_COMPLETE` (R99): core `inp.n` reports ready. -/
def execWakeComplete (s : State) : Host.Outcome State Fault Refusal := .next (wakeComplete s.inp.n s)

end Sys2Proof.Machine
end

