-- ==== Sys2Proof/Machine/Regions.lean ====
section
/-!
DEFINITION. Regions (R103 to R109, R116): the submission of a control block, the resources of a child, completion, and the
end of a fault domain. Log entries: 21 (a submitted control block), 53 (placement of carved resources), 55 (the
distributor's additions), 56 (the grains of a region that shares its parent's SRAM).
Also log entries 109 (where the firmware area stands), 115 (a fault that belongs to no region).
-/

namespace Sys2Proof.Machine

/-! ### Parts of a region -/

/-- The code of a region's STATE (R103). -/
def RegionState.code : RegionState → Byte
  | .new => 0 | .queued => 1 | .running => 2 | .preempted => 3 | .done => 4 | .faulted => 5 | .rejected => 6

namespace State

/-- Replace a region. -/
def setRegion (s : State) (r : BitVec 12) (g : Region) : State := { s with regions := Assoc.set s.regions r.toNat g }
/-- Change a region, if it exists. -/
def modRegion (s : State) (r : BitVec 12) (f : Region → Region) : State :=
  match s.region r with
  | some g => s.setRegion r (f g)
  | none => s
/-- Change the counters of a region. -/
def modLife (s : State) (r : BitVec 12) (f : RegionLife → RegionLife) : State := s.setLife r (f (s.life r))

/-- Set a region's STATE, in the distributor and in its control block. -/
def setRegionState (s : State) (r : BitVec 12) (x : RegionState) : State :=
  (s.modRegion r (fun g => { g with state := x })).writeRcb r 4 [x.code]

/-- The regions of a subtree, its top included. -/
def subtree (s : State) (r : BitVec 12) : List (BitVec 12) :=
  (s.regions.map (fun e => BitVec.ofNat 12 e.1)).filter (fun x => s.isAncestor 9 r x)

/-- Is a region ID still named by a launch that has not completed, or by a core's configuration bank (R91, R93)? -/
def idInUse (s : State) (r : BitVec 12) : Bool :=
  s.lfe.launches.any (fun l => l.2.region == r) || s.cores.any (fun c => c.2.active.region == r || c.2.shadow.region == r)

/-- The lowest free region ID (R103): one that no region has and that nothing of an ended one still names, while there is
such; else the lowest that no region has. -/
def freeRegionId (s : State) : Option (BitVec 12) :=
  let free := ((List.range 4096).filter (fun i => i ≠ 0 && (Assoc.find? s.regions i).isNone)).map (BitVec.ofNat 12)
  (free.find? (fun r => !s.idInUse r)).or free.head?

/-- `n` bytes of the firmware area of HBM (R103, R127), on a 4 KiB boundary. -/
def allocArea (s : State) (n : Nat) : BitVec 52 × State :=
  (BitVec.ofNat 52 (Config.firmwareArea.toNat * 4096 + s.dist.areaUsed),
    { s with dist := { s.dist with areaUsed := s.dist.areaUsed + (n + 4095) / 4096 * 4096 } })

/-- The nearest region at or above `r` that is a fault domain (R109). -/
def faultDomain (s : State) : Nat → BitVec 12 → BitVec 12
  | 0, r => r
  | n + 1, r => match s.region r with
    | some g => if g.fdom || g.parent == 0 then r else faultDomain s n g.parent
    | none => r

/-! #### The resources a region may use (R104) -/

/-- Does a carved budget withhold a tile or a core from a region: has a region of its tree carved it that is neither the region nor
an ancestor of it (R104)? `bit` is the budget's bit in `Region.carved`. -/
def withheld (s : State) (bit : Nat) (has : Region → List Nat) (r : BitVec 12) (x : Nat) : Bool :=
  match s.region r with
  | none => true
  | some g => s.regions.any (fun e => e.2.root == g.root && e.2.carved.getLsbD bit && (has e.2).contains x
      && !s.isAncestor 10 (BitVec.ofNat 12 e.1) r)

/-- The tiles and the cores that a region may use now. -/
def usableTiles (s : State) (r : BitVec 12) : List Nat :=
  match s.region r with
  | none => []
  | some g => g.tiles.filter (fun t => !s.withheld 0 Region.tiles r t)
def usableCores (s : State) (r : BitVec 12) : List Nat :=
  match s.region r with
  | none => []
  | some g => g.cores.filter (fun k => !s.withheld 1 Region.cores r k && !s.withheld 0 Region.tiles r (k / 4))

/-- The cores between which a region's indices are divided: those it may use, or all it has where it may use none. -/
def workCores (s : State) (r : BitVec 12) : List Nat :=
  match s.region r with
  | none => []
  | some g => if s.usableCores r = [] then g.cores else s.usableCores r

/-- The region whose own granules a region draws on: itself, else its nearest ancestor that has some. -/
def partitionOwner (s : State) : Nat → BitVec 12 → BitVec 12
  | 0, r => r
  | n + 1, r => match s.region r with
    | some g => if g.granules = [] && g.parent != 0 then State.partitionOwner s n g.parent else r
    | none => r

/-- The granules of a tile that a region's children may still carve: the highest addresses first. -/
def freeGranules (s : State) (r : BitVec 12) (t : Nat) : List Nat :=
  ((shareOf (s.partition r) t).filter (fun x => Assoc.get 0 s.dist.owners x == s.partitionOwner 10 r)).reverse

end State

/-! ### Cores of a region (R116) -/

/-- The cores that a budget of `cores` takes on `tiles`, from those each tile offers: one more on the first tiles. -/
def splitCores (tiles : List Nat) (cores : Nat) (offer : Nat → List Nat) : Option (List Nat) :=
  let t := tiles.length
  if t = 0 then none
  else
    let more := if cores % t = 0 then t else cores % t
    let up := (cores + t - 1) / t
    let picks := (tiles.zipIdx).map (fun e => ((offer e.1), if e.2 < more then up else up - 1))
    if picks.all (fun p => decide (p.2 ≤ p.1.length)) then some (picks.flatMap (fun p => p.1.take p.2)) else none

/-- The granules that a budget of `n` takes on `tiles` (R105): ⌊n ÷ T⌋ each, one more on the first ones; from the front of
what each offers. -/
def splitGranules (tiles : List Nat) (n : Nat) (offer : Nat → List Nat) : Option (List Nat) :=
  let t := tiles.length
  if t = 0 then none
  else
    let picks := (tiles.zipIdx).map (fun e => (offer e.1, n / t + if e.2 < n % t then 1 else 0))
    if picks.all (fun p => decide (p.2 ≤ p.1.length)) then some (picks.flatMap (fun p => p.1.take p.2)) else none

/-- What a child runs on, from what its parent may still give: `nt` tiles, `nc` cores and `ng` granules where it carves them, else
the parent's. The budgets are spread as a grant's are; where the tiles do not offer that, any that they offer are taken, and `none`
says that they do not offer enough (R104, R107). -/
def childPlace (tiles cores : List Nat) (grans : Nat → List Nat) (p : Region) (nt nc ng : Option Nat) :
    Option (List Nat × List Nat × List Nat) :=
  let coresOf (t : Nat) : List Nat := cores.filter (fun k => k / 4 == t)
  let most (f : Nat → Nat) (n : Nat) : List Nat :=
    (tiles.foldl (fun acc t => acc.takeWhile (fun u => f t ≤ f u) ++ [t] ++ acc.dropWhile (fun u => f t ≤ f u)) []).take n
  let on (ts : List Nat) : Option (List Nat × List Nat × List Nat) :=
    let cs := match nc with
      | none => some p.cores
      | some n => (splitCores ts n coresOf).or
          (if n ≤ (ts.flatMap coresOf).length then some ((ts.flatMap coresOf).take n) else none)
    let gs := match ng with
      | none => some []
      | some n => (splitGranules ts n grans).or
          (if n ≤ (ts.flatMap grans).length then some ((ts.flatMap grans).take n) else none)
    match cs, gs with
    | some c, some g => some (ts, c, g)
    | _, _ => none
  match nt with
  | none => (on tiles).map (fun x => (p.tiles, x.2))
  | some n =>
    if tiles.length < n then none
    else (on (tiles.take n)).or ((on (most (fun t => (coresOf t).length) n)).or (on (most (fun t => (grans t).length) n)))

/-- Numbers in rising order, without repeats. -/
def sortNats (xs : List Nat) : List Nat :=
  xs.foldl (fun acc x => (acc.takeWhile (· < x)) ++ (if acc.contains x then [] else [x]) ++ (acc.dropWhile (· < x))) []

/-! ### Grains and deques (R114, R116, R118) -/

namespace State

/-- The deque of a core for a region: in the first 16 KiB of its tile's share (R106). -/
def dequeCell (s : State) (r : BitVec 12) (k : Nat) : Option Nat :=
  granuleCell (shareOf (s.partition r) (k / 4)) (4096 * (k % 4))

end State

/-- A RANGE item (R114). -/
def rangeItem (first count : Nat) : List Byte := [1] ++ List.replicate 7 0 ++ leBytes 4 first ++ leBytes 4 count

/-- A range cut into grains of `g` indices. -/
def cutGrains (r : BitVec 12) (die g : Nat) : Nat → Nat → Nat → List Grain
  | 0, _, _ => []
  | n + 1, first, left =>
    if left = 0 then []
    else { region := r, state := 0, die := BitVec.ofNat 1 die, first := BitVec.ofNat 32 first
           count := BitVec.ofNat 32 (min g left) } :: cutGrains r die g n (first + g) (left - g)

/-- The grains of a region's index range: divided between the dies by their cores, cut on each (R116). -/
def regionGrains (r : BitVec 12) (g : Region) (cores : List Nat) : List Grain :=
  let c := cores.length
  let c0 := (cores.filter (fun k => tileDie (k / 4) == 0)).length
  let n := g.count.toNat
  if c = 0 then []
  else
    let n0 := n * c0 / c
    let size := max 1 ((n + 8 * c - 1) / (8 * c))
    cutGrains r 0 size n0 g.first.toNat n0 ++ cutGrains r 1 size (n - n0) (g.first.toNat + n0) (n - n0)

/-- Deal one grain to a core's deque: it becomes DEALT, unless the deque is full. -/
def dealOne (r : BitVec 12) (k : Nat) (s : State) (g : Grain) : State :=
  match (s.dequeCell r k).bind (fun c => (s.setGrain g 1).dqPush c (rangeItem g.first.toNat g.count.toNat)) with
  | some t => t
  | none => s

/-- Deal a die's PENDING grains round-robin over its cores of the region, at most 8 a core; each core's are pushed with the
highest first. -/
def dealOut (s : State) (r : BitVec 12) (die : Nat) : State :=
  let cores := (s.workCores r).filter (fun k => tileDie (k / 4) == die)
  let n := cores.length
  let dealt := (s.dist.grains.filter (fun x => x.region == r && x.die.toNat == die && x.state == 0)).take (8 * n)
  (cores.zipIdx).foldl (fun t e =>
    (((dealt.zipIdx).filter (fun x => x.2 % n == e.2)).map (·.1)).reverse.foldl (dealOne r e.1) t) s

/-- A die's cores of a region start with empty deques (R116), and its grains are dealt. -/
def dealDie (s : State) (r : BitVec 12) (die : Nat) : State :=
  let cores := (s.workCores r).filter (fun k => tileDie (k / 4) == die)
  dealOut (cores.foldl (fun t k => match t.dequeCell r k with
    | some c => t.setBytes c (leBytes 8 0)
    | none => t) s) r die

/-- A region's grains are cut; with SRAM of its own they are dealt, else they wait at the distributors (log entry 56). -/
def State.place (s : State) (r : BitVec 12) : State :=
  match s.region r with
  | none => s
  | some g =>
    let gs := regionGrains r g (s.workCores r)
    let s := gs.foldl (fun t x => t.journalGrain x 0) s
    let s := { s with dist := { s.dist with grains := s.dist.grains ++ gs } }
    if g.granules = [] then s else dealDie (dealDie s r 0) r 1

/-! ### Bind records (R121) -/

/-- A bind record (R121). -/
structure Bind where
  slot : Nat
  kind : Nat
  region : BitVec 12
  index : Word
  addr : BitVec 52
  deriving DecidableEq, Repr

/-- The cell of a core's bind record. -/
def bindCell (k i : Nat) : Nat := storeCell (k / 4) (4096 * (k % 4) + 32 * i)

/-- The armed bind records of a core, the lowest slot first. -/
def State.armed (s : State) (k : Nat) : List Bind :=
  (List.range 4).filterMap (fun i =>
    let b := s.bytes (bindCell k i) 32
    if field b 0 1 = 1 then some
      { slot := i, kind := field b 1 1, region := bitsAt 12 b 2 2, index := bitsAt 32 b 8 4, addr := bitsAt 52 b 16 8 }
    else none)

/-! ### Submission (R104, R107) -/

/-- Overridden fields and their reserved bits are legal (R103, R107 code 1). -/
def rcbOk (b : List Byte) : Bool :=
  let ovr := BitVec.ofNat 16 (field b 6 2)
  let t := field b 12 2
  let c := field b 14 2
  let sr := field b 16 4
  let share (i n : Nat) : Bool := !ovr.getLsbD i || (1 ≤ n && n ≤ 16)
  field b 6 2 < 2 ^ 9 && field b 8 1 < 16 && field b 9 1 < 8 && field b 20 4 == 0 && (b.drop 98).all (· == 0)
    && share 5 (field b 10 1) && share 6 (field b 11 1)
    && (!ovr.getLsbD 2 || (1 ≤ t && t ≤ 256 && ovr.getLsbD 3 && ovr.getLsbD 4))
    && (!ovr.getLsbD 3 || (1 ≤ c && (!ovr.getLsbD 2 || c ≤ 4 * t)))
    && (!ovr.getLsbD 4 || (sr % granuleBytes == 0 && (!ovr.getLsbD 2 || sr ≤ sliceBytes * t)))
    && field b 32 8 < 2 ^ 48 && field b 40 8 < 2 ^ 48 && field b 48 8 < 2 ^ 48 && field b 64 8 < 2 ^ 48

/-- What a child runs on, taken from its parent: its tiles, cores and granules of its own; `none` is code 3. -/
def carve (s : State) (pid : BitVec 12) (p : Region) (b : List Byte) : Option (List Nat × List Nat × List Nat) :=
  let ovr := BitVec.ofNat 16 (field b 6 2)
  let want (i n : Nat) : Option Nat := if ovr.getLsbD i then some n else none
  (childPlace (s.usableTiles pid) (s.usableCores pid) (s.freeGranules pid) p (want 2 (field b 12 2)) (want 3 (field b 14 2))
    (want 4 (field b 16 4 / granuleBytes))).map (fun x => (x.1, sortNats x.2.1, sortNats x.2.2))

/-- The code of R107 that refuses a control block, or the region it makes, without its ID. -/
def validate (s : State) (pid : BitVec 12) (p : Region) (rcb : BitVec 52) (b : List Byte) : Except Byte Region :=
  let ovr := BitVec.ofNat 16 (field b 6 2)
  let flags := BitVec.ofNat 8 (field b 9 1)
  let prio := BitVec.ofNat 4 (field b 8 1)
  let low (i at_ own : Nat) : Nat := if ovr.getLsbD i then min (field b at_ 1) own else own
  if !rcbOk b then .error 1
  else match carve s pid p b with
    | none => .error 3
    | some (tiles, cores, gran) =>
      if 8 ≤ p.depth then .error 4
      else if s.freeRegionId.isNone then .error 5
      else if ovr.getLsbD 1 && ((flags.getLsbD 1 && !p.debug) || (flags.getLsbD 2 && !p.conf)) then .error 6
      else .ok
        { rcb := rcb, pasid := p.pasid, parent := pid, root := p.root, depth := p.depth + 1, state := .queued
          prio := if ovr.getLsbD 0 && prio.toNat < p.prio.toNat then prio else p.prio
          fdom := if ovr.getLsbD 1 then flags.getLsbD 0 else p.fdom
          debug := if ovr.getLsbD 1 then flags.getLsbD 1 else p.debug
          conf := if ovr.getLsbD 1 then flags.getLsbD 2 else p.conf
          mxshare := low 5 10 p.mxshare, swshare := low 6 11 p.swshare, tiles := tiles, cores := cores
          tileBudget := if ovr.getLsbD 2 then field b 12 2 else p.tileBudget
          coreBudget := if ovr.getLsbD 3 then field b 14 2 else p.coreBudget
          sramBudget := if ovr.getLsbD 4 then field b 16 4 else p.sramBudget
          carved := ovr.extractLsb' 2 3, granules := gran
          first := BitVec.ofNat 32 (field b 24 4), count := BitVec.ofNat 32 (field b 28 4)
          entry := if ovr.getLsbD 7 then BitVec.ofNat 48 (field b 32 8) else p.entry
          args := if ovr.getLsbD 8 then BitVec.ofNat 48 (field b 40 8) else p.args }

/-- One more child of a region (R103). -/
def State.addChild (s : State) (r : BitVec 12) : State :=
  let n := (s.life r).children + 1
  (s.modLife r (fun l => { l with children := n })).writeRcb r 84 (leBytes 4 n.toNat)

/-- `SPAWN_VALIDATE` (R104, R107): region `pid` submits the control block at `rcb`. -/
def spawnValidate (pid : BitVec 12) (rcb : BitVec 52) (s : State) : State :=
  let key := physKey rcb
  let at_ := physCell rcb
  let s := s.countFar at_
  let b := s.bytesKey key at_ 128
  match s.region pid with
  | none => s
  | some p =>
    if field b 4 1 ≠ 0 || p.ending.isSome then s
    else match validate s pid p rcb b with
      | .error c => s.unitStore key (at_ + 4) [6, c]
      | .ok g =>
        let r := (s.freeRegionId).getD 0
        let pl := s.life pid
        let s := { s with dist := { s.dist with owners := g.granules.foldl (fun m x => Assoc.set m x r) s.dist.owners } }
        let s := (s.setRegion r g).setLife r
          { donebw := BitVec.ofNat 48 (field b 48 8), doneadd := BitVec.ofNat 64 (field b 56 8)
            fltbw := BitVec.ofNat 48 (field b 64 8), save := pl.save, pool := 0, live := g.count, group := pl.group
            bank := pl.bank, arglen := pl.arglen, started := s.dist.nextOrder }
        let (pool, s) := s.allocArea (384 * (g.count.toNat + 1))
        let s := s.modLife r (fun l => { l with pool := pool })
        let s := s.unitStore key at_ (leBytes 2 r.toNat ++ leBytes 2 pid.toNat)
        let s := s.unitStore key (at_ + 72) (leBytes 8 pl.save.toNat ++ leBytes 4 g.count.toNat ++ leBytes 4 0)
        let s := ((s.addChild pid).setRegionState r .queued).place r
        if g.count = 0 then s.push .regionCompletion { n := r.toNat } else s

/-! ### Ends (R108, R109) -/

namespace State

/-- A child of a region has ended; with nothing left the region completes. -/
def childEnded (s : State) (r : BitVec 12) : State :=
  match s.region r with
  | none => s
  | some _ =>
    let l := s.life r
    let n := l.children - 1
    let s := (s.setLife r { l with children := n }).writeRcb r 84 (leBytes 4 n.toNat)
    if l.live == 0 && n == 0 then s.push .regionCompletion { n := r.toNat } else s

/-- A region's own granules go back: to the region its parent draws on, or to nobody from a root. -/
def releaseGranules (s : State) (r : BitVec 12) : State :=
  match s.region r with
  | none => s
  | some g =>
    let heir := s.partitionOwner 10 g.parent
    let back (m : Assoc (BitVec 12)) (x : Nat) : Assoc (BitVec 12) :=
      if Assoc.get 0 m x == r then (if g.parent = 0 then Assoc.erase m x else Assoc.set m x heir) else m
    { s with dist := { s.dist with owners := g.granules.foldl back s.dist.owners } }

/-- The distributor forgets a region. -/
def dropRegion (s : State) (r : BitVec 12) : State :=
  { s with regions := Assoc.erase s.regions r.toNat, lives := Assoc.erase s.lives r.toNat
           dist := { s.dist with grains := s.dist.grains.filter (fun g => g.region != r) } }

/-- The launch of a root region has ended: done (0), or faulted with a cause. -/
def launchEnded (s : State) (n : Nat) (cause : Byte) : State :=
  match Assoc.find? s.lfe.launches n with
  | some l => { s with lfe := { s.lfe with launches := Assoc.set s.lfe.launches n { l with ended := some cause } } }.push
      .launchCompletion { n := n }
  | none => s

end State

/-- The addition to a DONEBW or FLTBW word, and then the end of a child of `a.parent`: an address whose translation faults waits;
one that is refused, has no word to add to, or lies off the package counts nothing (log entry 55). -/
def State.advance (s : State) (a : BarAdd) : State :=
  if a.va = 0 then s.childEnded a.parent
  else match s.translate .lfe a.conf a.pasid a.va accAtomic with
    | .ok pa t =>
      let (key, cell) := (physKey pa, physCell pa)
      if offCell cell || !t.inService cell || (keyed cell && !Assoc.get false t.security.keys key.toNat) || t.poisoned cell 24 then
        t.childEnded a.parent
      else ((t.barAdd key cell a.n).countFar cell).childEnded a.parent
    | .prot t => t.childEnded a.parent
    | .fault c t =>
      let t := t.raiseFault { index := none, pasid := a.pasid, va := a.va, region := a.parent, node := lfeNode, access := accAtomic
                              cause := c, path := 5, page := 0, joined := 0, stale := false, waiters := [] }
      { t with dist := { t.dist with adds := t.dist.adds ++ [a] } }
    | .wait => s.childEnded a.parent

/-- `REGION_COMPLETION` (R108): a root's DONEBW is its launch's affair (R94). -/
def regionCompletion (r : BitVec 12) (s : State) : State :=
  match s.region r with
  | none => s
  | some g =>
    let l := s.life r
    if l.live != 0 || l.children != 0 || g.state == .preempted || g.ending.isSome then s
    else
      let s := ((s.setRegionState r .done).releaseGranules r).dropRegion r
      let s := { s with folds := s.folds.map (fun f => if f.region == r && f.ended == 0 then { f with ended := 1 } else f) }
      if g.parent = 0 then (match l.launch with | some n => s.launchEnded n 0 | none => s)
      else s.advance { conf := g.conf, pasid := g.pasid, va := l.donebw, n := l.doneadd, parent := g.parent }

/-! #### A fault domain ends -/

/-- A context that is stopped: its task, and all it has outstanding, is gone. -/
def Ctx.stop (c : Ctx) : Ctx := { c.free with ldrs := [], out := [] }

/-- The user context and the engines of a core stop. -/
def State.stopCore (s : State) (k : Nat) : State :=
  let s := (s.freeLease k).modLease (k / 4) (fun l => l.noWait (k % 4) s.cycle)
  s.modCore k (fun c => { c with
    user := c.user.stop, mat := {}, cpy := {}, index := none, engHeld := false
    quill := { c.quill with flush := c.quill.flush || c.quill.fifo != [] || c.quill.part != [] }
    fw := { c.fw with waits := { c.fw.waits with idle := false } } })

/-- Bind records that name one of some regions are withdrawn (R121). -/
def clearBinds (rs : List (BitVec 12)) (k : Nat) (s : State) : State :=
  (List.range 4).foldl (fun t i =>
    let a := storeCell (k / 4) (4096 * (k % 4) + 32 * i)
    if t.byte a == 1 && rs.contains (BitVec.ofNat 12 (leNat (t.bytes (a + 2) 2))) then t.setBytes a [0] else t) s

/-- The items of a region's deques are discarded. -/
def clearDeques (r : BitVec 12) (s : State) : State :=
  match s.region r with
  | none => s
  | some g => if g.granules = [] then s else g.cores.foldl (fun t k => match t.dequeCell r k with
    | some c => t.setBytes (c + 4) (t.bytes c 4)
    | none => t) s

/-- What a context has outstanding for continuations of regions that end is discarded. -/
def Ctx.dropConts (recs : List (BitVec 52)) (c : Ctx) : Ctx :=
  { c with ldrs := c.ldrs.filter (fun l => match l.slotOf with | some x => !recs.contains x | none => true) }

/-- Everything that runs for some regions stops (R109 step 1). -/
def stopRegions (rs : List (BitVec 12)) (s : State) : State :=
  let cores := (s.cores.filter (fun e => e.2.user.running && rs.contains e.2.user.id.region)).map (·.1)
  let park := (s.cores.filter (fun e => match e.2.parked with | some p => rs.contains p.ctx.id.region | none => false)).map (·.1)
  let lks := (s.lookups.filter (fun e => rs.contains e.2.bank.region)).map (·.1)
  let bound := sortNats (rs.flatMap (fun r => match s.region r with | some g => g.cores | none => []))
  let recs := rs.flatMap (fun r => (s.life r).conts.map (·.1))
  let s := cores.foldl (fun t k => t.stopCore k) s
  let s := park.foldl (fun t k => t.modCore k (fun c => { c with parked := none })) s
  let s := lks.foldl (fun t n => t.setLookup n {}) s
  let s := if recs = [] then s else
    { s with cores := s.cores.map (fun e => (e.1, { e.2 with user := e.2.user.dropConts recs }))
             lookups := s.lookups.map (fun e => (e.1, { e.2 with ctx := e.2.ctx.dropConts recs })) }
  let s := rs.foldl (fun t r => t.modLife r (fun l => { l with conts := [] })) s
  let s := bound.foldl (fun t k => clearBinds rs k t) s
  rs.foldl (fun t r => clearDeques r t) s

/-- Has the traffic of some regions left the mesh and the links: every request of theirs has been answered (R75, R109 step 2)? -/
def State.quiet (s : State) (rs : List (BitVec 12)) : Bool :=
  s.packets.all (fun p => !rs.contains p.region)
    && s.links.reqs.all (fun e => match e.2.orig with | some p => !rs.contains p.region | none => true)
    && s.links.pcie.all (fun e => match e.2.orig with | some p => !rs.contains p.region | none => true)
    && s.links.pcieWait.all (fun p => !rs.contains p.region)

/-- Steps 3 to 5 of the end of the fault domain of `r` (R109). -/
def finishDomain (r : BitVec 12) (g : Region) (e : EndCause) (s : State) : State :=
  let l := s.life r
  let tree := s.subtree r
  let s := (tree.reverse).foldl (fun t x => t.releaseGranules x) s
  let s := tree.foldl (fun t x => t.setRegionState x .faulted) s
  let s := s.writeRcb r 5 [e.cause]
  let s := s.writeRcb r 88 (leBytes 8 e.pc.toNat ++ leBytes 2 e.core)
  let s := tree.foldl (fun t x => t.dropRegion x) s
  if g.parent = 0 then (match l.launch with | some n => s.launchEnded n e.cause | none => s)
  else match s.region g.parent with
    | some p => s.advance { conf := p.conf, pasid := p.pasid, va := (s.life g.parent).fltbw, n := 1, parent := g.parent }
    | none => s

/-- The end under way of a domain is completed once its traffic has drained. -/
def drainDomain (r : BitVec 12) (s : State) : State :=
  match s.region r with
  | none => s
  | some g => match g.ending with
    | none => s
    | some e => if e.top == r && s.quiet (s.subtree r) then finishDomain r g e s else s

/-- The whole subtree of `r` takes an end. -/
def State.markEnding (s : State) (r : BitVec 12) (e : EndCause) : State :=
  (s.subtree r).foldl (fun t x => t.modRegion x (fun g => { g with ending := some e })) s

/-- A fault domain ends (R109), with a cause, the address and the core of the fault. Of two faults in one cycle that of the lower
core names the cause, and the end of an ancestor takes the place of one that is under way. -/
def endDomain (r : BitVec 12) (cause : Byte) (pc : Addr) (core : Nat) (s : State) : State :=
  match s.region r with
  | none => s
  | some g =>
    let e : EndCause := { top := r, cause := cause, pc := pc, core := core, at_ := s.cycle }
    match g.ending with
    | some o => if o.at_ == s.cycle && decide (core < o.core) then s.markEnding o.top { e with top := o.top } else s
    | none =>
      let tree := s.subtree r
      let gone := s.folds.filter (fun f => tree.contains f.region && f.ended == 0)
      let s := { s with
        folds := s.folds.map (fun f => if tree.contains f.region && f.ended == 0 then { f with ended := 2 } else f)
        dist := { s.dist with adds := s.dist.adds.filter (fun a => !tree.contains a.parent) } }
      let s := drainDomain r ((stopRegions tree s).markEnding r e)
      s.pushAll (gone.map (fun f => (.foldAbandon, { n := f.home.toNat })))

/-- `REGION_FAULT` (R109, R315): the fault of region `r`, or the completion of its end once its traffic has drained. A fault that
belongs to no region stops the context it arose in. -/
def regionFault (r : BitVec 12) (cause : Byte) (pc : Addr) (core : Nat) (who : Agent) (s : State) : State :=
  match s.region r with
  | some g => match g.ending with
    | some e => drainDomain e.top (if cause = 0 then s else endDomain r cause pc core s)
    | none => endDomain (s.faultDomain 9 r) cause pc core s
  | none => s.modCtxOf who (fun c => { c with running := false })

/-! ### Meanings -/

/-- `SPAWN_VALIDATE` (R104): parent `inp.n`, the control block's physical address `inp.value`. -/
def execSpawnValidate (s : State) : Host.Outcome State Fault Refusal :=
  .next (spawnValidate (BitVec.ofNat 12 s.inp.n) (s.inp.value.extractLsb' 0 52) s)
/-- `REGION_COMPLETION` (R108): region `inp.n`. -/
def execRegionCompletion (s : State) : Host.Outcome State Fault Refusal := .next (regionCompletion (BitVec.ofNat 12 s.inp.n) s)
/-- `REGION_FAULT` (R109): region `inp.n`, cause `inp.value` (0 where a domain's end under way is completed), address `inp.addr`, core `inp.m`, context `inp.who`. -/
def execRegionFault (s : State) : Host.Outcome State Fault Refusal :=
  .next (regionFault (BitVec.ofNat 12 s.inp.n) (s.inp.value.extractLsb' 0 8) (s.inp.addr.getD 0) s.inp.m s.inp.who s)

end Sys2Proof.Machine
end

