-- ==== Sys2Proof/Machine/Launch.lean ====
section
/-!
DEFINITION. The launch front end (R82 to R96): launch queues and operator records, the root region of a launch, its grant
(R116, R125), the shadow configuration banks, and completion. Log entries: 57 (order of the checks of a record), 58 (what
the LFE meets at a home), 59 (a queue disabled while its record's fault is open), 60 (no free region ID), 61 (free tiles),
62 (header values of too many bits).
Also log entries 120 (the launch record of a rejected launch), 125 (a fenced record and a clear of V).
-/

namespace Sys2Proof.Machine

/-! ### Accesses of the LFE (R86, R153) -/

/-- What an access of the LFE meets. -/
inductive LfeAccess
  | ok (key : BitVec 8) (cell : Nat) (s : State)
  /-- A replayable fault: the state has its record. -/
  | fault (s : State)
  /-- Refused under R149 or R162, or by the home. -/
  | refused
  /-- The PASID is not ACTIVE. -/
  | wait
  deriving DecidableEq, Repr

/-- An access of the LFE to `n` bytes, which lie in one page. -/
def State.lfeAt (s : State) (pasid : BitVec 20) (va : Addr) (n : Nat) (acc : BitVec 4) : LfeAccess :=
  match s.translate .lfe false pasid va acc with
  | .ok pa t =>
    let (key, cell) := (physKey pa, physCell pa)
    if offCell cell || !t.inService cell || (keyed cell && !Assoc.get false t.security.keys key.toNat)
        || (acc != accWrite && t.poisoned cell n) then .refused
    else .ok key cell t
  | .prot _ => .refused
  | .wait => .wait
  | .fault c t => .fault (t.raiseFault { index := none, pasid := pasid, va := va, region := 0, node := lfeNode, access := acc
                                         cause := c, path := 5, page := 0, joined := 0, stale := false, waiters := [] })

/-- How a sequence of accesses for a record ends early: in a fault at an address, refused, or waiting. -/
inductive LfeStop
  | fault (va : Addr) (s : State)
  | refused
  | wait
  /-- An error of R82. -/
  | err (code : Byte)
  deriving DecidableEq, Repr

/-- The place of an access, or why there is none. -/
def lfeCell (s : State) (pasid : BitVec 20) (va : Addr) (n : Nat) (acc : BitVec 4) :
    Except LfeStop (BitVec 8 × Nat × State) :=
  match s.lfeAt pasid va n acc with
  | .ok key cell t => .ok (key, cell, t)
  | .fault t => .error (.fault va t)
  | .refused => .error .refused
  | .wait => .error .wait

/-- Read `n` bytes, page by page; `k` bounds the pages. -/
def lfeRead (pasid : BitVec 20) : Nat → State → Addr → Nat → Except LfeStop (List Byte × State)
  | 0, s, _, _ => .ok ([], s)
  | k + 1, s, va, n =>
    if n = 0 then .ok ([], s)
    else do
      let m := spanLen va.toNat n
      let (key, cell, t) ← lfeCell s pasid va m accRead
      let (rest, u) ← lfeRead pasid k (t.countFar cell) (va + BitVec.ofNat 48 m) (n - m)
      .ok (t.bytesKey key cell m ++ rest, u)

/-- Write bytes, page by page; `k` bounds the pages. -/
def lfeWriteIn (pasid : BitVec 20) : Nat → State → Addr → List Byte → Except LfeStop State
  | 0, s, _, _ => .ok s
  | k + 1, s, va, bs =>
    if bs = [] then .ok s
    else do
      let m := spanLen va.toNat bs.length
      let (key, cell, t) ← lfeCell s pasid va m accWrite
      lfeWriteIn pasid k ((t.setBytesKey key cell (bs.take m)).countFar cell) (va + BitVec.ofNat 48 m) (bs.drop m)

/-- Write at most 8 bytes, which lie in two pages at most. -/
def lfeWrite (s : State) (pasid : BitVec 20) (va : Addr) (bs : List Byte) : Except LfeStop State := lfeWriteIn pasid 2 s va bs

/-! ### Operator records (R85) -/

namespace OpRec

/-- Reserved bytes and bits, and KIND. -/
def clean (b : List Byte) : Bool :=
  field b 0 2 ≤ 3 && field b 2 1 < 16 && field b 3 1 < 16 && field b 28 4 == 0 && field b 50 6 == 0 && field b 68 4 == 0
    && (b.drop 96).all (· == 0)
/-- The fields that a LAUNCH checks. -/
def ranges (b : List Byte) : Bool :=
  let t := field b 40 2
  let c := field b 42 2
  field b 8 8 % 64 == 0 && field b 8 8 < 2 ^ 48 && 1 ≤ field b 36 4 && 1 ≤ t && t ≤ 256 && 1 ≤ c && c ≤ 4 * t
    && field b 44 4 % granuleBytes == 0 && field b 44 4 ≤ sliceBytes * t
    && 1 ≤ field b 48 1 && field b 48 1 ≤ 16 && 1 ≤ field b 49 1 && field b 49 1 ≤ 16
def kind (b : List Byte) : Nat := field b 0 2
def fence (b : List Byte) : Bool := (b.getD 2 0).getLsbD 0
def irq (b : List Byte) : Bool := (b.getD 2 0).getLsbD 1
def debug (b : List Byte) : Bool := (b.getD 2 0).getLsbD 2
def conf (b : List Byte) : Bool := (b.getD 2 0).getLsbD 3
def prio (b : List Byte) : Nat := field b 3 1 % 16
def header (b : List Byte) : Addr := BitVec.ofNat 48 (field b 8 8)
def args (b : List Byte) : Addr := BitVec.ofNat 48 (field b 16 8)
def arglen (b : List Byte) : Nat := field b 24 4
def tiles (b : List Byte) : Nat := field b 40 2
def cores (b : List Byte) : Nat := field b 42 2
def sram (b : List Byte) : Nat := field b 44 4
/-- ARGS, WAITBW, DONEBW and LREC are virtual addresses: their bits [63:48] are dropped (DESIGN CHOICE, log entry 62). -/
def waitbw (b : List Byte) : Addr := BitVec.ofNat 48 (field b 56 8)
def waitgen (b : List Byte) : Word := BitVec.ofNat 32 (field b 64 4)
def donebw (b : List Byte) : Addr := BitVec.ofNat 48 (field b 72 8)
def doneadd (b : List Byte) : BitVec 64 := BitVec.ofNat 64 (field b 80 8)
def lrec (b : List Byte) : Addr := BitVec.ofNat 48 (field b 88 8)

end OpRec

namespace State

/-- The virtual address of a queue's record at LQHEAD (R83). -/
def recordVa (s : State) (q : Nat) : Addr :=
  let c := s.queue q
  c.base + BitVec.ofNat 48 (128 * (c.head.toNat % 2 ^ c.size.toNat))

/-- Write an operator record's STATUS and, of a LAUNCH with a launch record, its copy, where they can be written. -/
def writeStatus (s : State) (pasid : BitVec 20) (rec_ : Addr) (lrec : Addr) (state err : Byte) : State :=
  let put (s : State) (va : Addr) : State := match lfeWrite s pasid va [state, err, 0, 0] with | .ok t => t | .error _ => s
  let s := put s (rec_ + 4)
  if lrec = 0 then s else put s (lrec + 56)

/-- An error of a queue (R84): ERR and STOP are set, LQHEAD stays, STATUS is 4 where the record can be written. -/
def queueError (s : State) (q : Nat) (code : Byte) : State :=
  let c := s.queue q
  let lrec : Addr := match lfeRead c.pasid 2 s (s.recordVa q) 128 with
    | .ok (b, _) => if OpRec.clean b && OpRec.kind b == 1 then OpRec.lrec b else 0
    | .error _ => 0
  let s := s.writeStatus c.pasid (s.recordVa q) lrec 4 code
  s.modQueue q (fun c => { c with err := code, stop := true, held := false, bytes := [], fault := none, fenced := false,
                                  lrecWait := false, lrecSkip := false, fetched := false })

/-- What stops a record's accesses acts on its queue: the queue waits, or ends in an error. -/
def queueStop (s : State) (q : Nat) (x : LfeStop) : State :=
  match x with
  | .fault va t => t.modQueue q (fun c => { c with fault := some va })
  | .refused => s.queueError q 6
  | .wait => s
  | .err c => s.queueError q c

/-- LQHEAD passes a record; its MSI is sent where it asks for one. -/
def passRecord (s : State) (q : Nat) (irq : Bool) : State :=
  let c := s.queue q
  let s := s.setQueue q { c with head := c.head + 1, held := false, bytes := [], fenced := false, lrecSkip := false, fetched := false }
  if irq && c.irq.getLsbD 63 then s.sendMsi (c.irq.extractLsb' 0 37) else s

/-- A NOP, WAIT or SIGNAL record is done: STATUS, then LQHEAD. -/
def recordDone (s : State) (q : Nat) (b : List Byte) : State :=
  match lfeWrite s (s.queue q).pasid (s.recordVa q + 4) [2, 0, 0, 0] with
  | .ok t => t.passRecord q (OpRec.irq b)
  | .error x => s.queueStop q x

/-- Are earlier launches of a queue still under way (R87)? -/
def queueBusy (s : State) (q : Nat) : Bool := s.lfe.launches.any (fun l => l.2.queue.toNat == q)

end State

/-! ### The program header (R88 to R90) -/

/-- A buffer entry's descriptor; `none` is ERR 2. `val` is the argument value it names. -/
def bufEntry (e : List Byte) (val : Nat) (sram arglen : Nat) : Option BufDesc :=
  let base := field e 0 8
  let len := field e 8 8
  let src := field e 16 1
  let addr := if src = 1 then val else base
  if 2 < src || 3 < field e 17 1 || 3 < field e 18 1 || 15 < field e 19 1 || !(e.drop 20).all (· == 0)
      || (src == 1 && arglen < base + 8) || (src == 2 && sram < base + len)
      || 2 ^ 48 ≤ addr || 2 ^ 40 ≤ len then none
  else some { base := BitVec.ofNat 48 addr, len := BitVec.ofNat 40 len, page := BitVec.ofNat 2 (field e 17 1)
              kind := BitVec.ofNat 2 (field e 18 1), cls := BitVec.ofNat 4 (field e 19 1) }

/-- The header's first 64 bytes are legal. -/
def headerOk (h : List Byte) : Bool :=
  field h 0 4 == 0x50483743 && field h 4 2 == 1 && field h 6 1 ≤ 15 && field h 7 1 == 0

/-- Read the buffer entries of a header, and the argument values that they name. -/
def lfeBuffers (pasid : BitVec 20) (b : List Byte) : Nat → State → Nat → Except LfeStop (List BufDesc × State)
  | 0, s, _ => .ok ([], s)
  | k + 1, s, i => do
    let (e, s) ← lfeRead pasid 2 s (OpRec.header b + BitVec.ofNat 48 (64 + 32 * i)) 32
    let base := field e 0 8
    let (v, s) ← if field e 16 1 = 1 && base + 8 ≤ OpRec.arglen b
      then lfeRead pasid 3 s (OpRec.args b + BitVec.ofNat 48 base) 8 else .ok ([], s)
    match bufEntry e (leNat v) (OpRec.sram b) (OpRec.arglen b) with
    | none => .error (.err 2)
    | some d => do
      let (ds, s) ← lfeBuffers pasid b k s (i + 1)
      .ok (d :: ds, s)

/-- BD15: the argument block, HBM or far as its translation finds (R90); an empty block is of kind HBM and is not translated (DESIGN
CHOICE, log entry 139). -/
def lfeArgs (s : State) (pasid : BitVec 20) (b : List Byte) : Except LfeStop (BufDesc × State) := do
  let d : BufDesc := { base := OpRec.args b, len := BitVec.ofNat 40 (OpRec.arglen b), page := 0, kind := kindHbm, cls := 15 }
  if OpRec.arglen b = 0 then .ok (d, s)
  else
    let (_, cell, t) ← lfeCell s pasid (OpRec.args b) 1 accRead
    .ok ({ d with kind := if physRegion cell == .hbm then kindHbm else kindFar }, t)

/-- Read a program header and make the configuration bank of a launch, but for the region's number (R88 to R91). ENTRY, MSTART
and CSTART are virtual addresses: their bits [63:48] are dropped (DESIGN CHOICE, log entry 62). -/
def lfeHeader (s : State) (c : Queue) (b : List Byte) : Except LfeStop (BankImage × State) := do
  let (h, s) ← lfeRead c.pasid 2 s (OpRec.header b) 64
  if !headerOk h then .error (.err 2)
  else
    let n := field h 6 1
    let (ds, s) ← lfeBuffers c.pasid b n s 0
    let (d15, s) ← lfeArgs s c.pasid b
    let empty : BufDesc := { base := 0, len := 0, page := 0, kind := 0, cls := 0 }
    .ok ({ entry := BitVec.ofNat 48 (field h 8 8), mstart := BitVec.ofNat 48 (field h 16 8)
           cstart := BitVec.ofNat 48 (field h 24 8), region := 0, pasid := c.pasid
           prio := BitVec.ofNat 4 (min (OpRec.prio b) c.prio.toNat), debug := OpRec.debug b, conf := OpRec.conf b
           bds := ds ++ List.replicate (15 - n) empty ++ [d15], events := (h.drop 32).take 32 }, s)

/-! ### The root region of a launch (R86, R103, R105) -/

/-- Bytes of one context image (R201). -/
def ctxSize : Nat := 0x30000
/-- Bytes of a save area for a budget: its directory, an image and a park slot a core and for each lookup core that a tree may
be given, the SRAM, and the copy records and the swash record behind them (R127). -/
def saveBytes (cores sram : Nat) : Nat := 4096 + (cores + 96) * (2 * ctxSize + 4096) + sram + 2 ^ 20

/-- The bytes of a root's control block (R103). -/
def rootRcb (r : BitVec 12) (b : List Byte) (prio : Nat) (entry : Addr) (save : BitVec 52) : List Byte :=
  leBytes 2 r.toNat ++ leBytes 2 0 ++ [RegionState.code .queued, 0] ++ leBytes 2 0x1FF
    ++ [BitVec.ofNat 8 prio, BitVec.ofNat 8 (1 + (if OpRec.debug b then 2 else 0) + (if OpRec.conf b then 4 else 0))]
    ++ (b.drop 48).take 2 ++ (b.drop 40).take 8 ++ leBytes 4 0 ++ (b.drop 32).take 8
    ++ leBytes 8 entry.toNat ++ (b.drop 16).take 8 ++ (b.drop 72).take 16 ++ leBytes 8 0 ++ leBytes 8 save.toNat
    ++ leBytes 4 (field b 36 4) ++ List.replicate 44 0

/-- A LAUNCH record takes effect: its root region exists and the launch waits for WAITBW or its grant. -/
def createLaunch (s : State) (q : Nat) (b : List Byte) (bank : BankImage) (r : BitVec 12) : State :=
  let c := s.queue q
  let group := BitVec.ofNat 32 (q * 2 ^ 22 + c.head.toNat % 2 ^ 22)
  let (rcb, s) := s.allocArea 128
  let (area, s) := s.allocArea (saveBytes (OpRec.cores b) (OpRec.sram b))
  let key : BitVec 8 := if OpRec.conf b then (Assoc.find? s.security.tenants c.pasid.toNat).getD 0 else 0
  let save := physAddr key (physCell area)
  let count := BitVec.ofNat 32 (field b 36 4)
  let (pool, s) := s.allocArea (384 * (count.toNat + 1))
  let n := s.lfe.nextLaunch
  let bank := { bank with region := r }
  let g : Region :=
    { rcb := rcb, pasid := c.pasid, parent := 0, root := r, depth := 0, state := .queued, prio := bank.prio, fdom := true
      debug := bank.debug, conf := bank.conf, mxshare := field b 48 1, swshare := field b 49 1, tiles := [], cores := []
      tileBudget := OpRec.tiles b, coreBudget := OpRec.cores b, sramBudget := OpRec.sram b, carved := 7, granules := []
      first := BitVec.ofNat 32 (field b 32 4), count := count, entry := bank.entry, args := OpRec.args b }
  let life : RegionLife :=
    { donebw := OpRec.donebw b, doneadd := OpRec.doneadd b, save := save, pool := pool, live := count, group := group
      bank := bank, arglen := BitVec.ofNat 32 (OpRec.arglen b), launch := some n, started := s.dist.nextOrder }
  let l : Launch :=
    { queue := BitVec.ofNat 10 q, record := s.recordVa q, pasid := c.pasid, bytes := b, bank := bank, group := group
      region := r, stage := if OpRec.waitbw b = 0 then 1 else 0, order := s.dist.nextOrder }
  let s := (s.setRegion r g).setLife r life
  let s := s.setBytes (physCell rcb) (rootRcb r b bank.prio.toNat bank.entry save)
  { s with dist := { s.dist with nextOrder := s.dist.nextOrder + 1 }
           lfe := { s.lfe with launches := Assoc.set s.lfe.launches n l, nextLaunch := n + 1 } }

/-- Can the package as fenced grant a budget (R31, R105)? -/
def State.grantable (s : State) (b : List Byte) : Bool :=
  OpRec.tiles b ≤ State.countUp 256 s.tileUp && OpRec.tiles b ≤ OpRec.sram b / granuleBytes

/-- T_FETCH and STATUS 0 of a launch record (R96): a fault on it waits, and a launch record that cannot be written is
skipped (log entry 58). -/
def fetchTime (s : State) (q : Nat) (b : List Byte) : Except LfeStop State :=
  let c := s.queue q
  if OpRec.lrec b = 0 || c.lrecSkip then .ok s
  else match lfeWrite s c.pasid (OpRec.lrec b + 16) (leBytes 8 s.ptime.toNat) with
    | .error (.fault va t) => .error (.fault va (t.modQueue q (fun c => { c with lrecWait := true })))
    | .error .wait => .error .wait
    | .error _ => .ok s
    | .ok s => match lfeWrite s c.pasid (OpRec.lrec b + 56) [0, 0, 0, 0] with
      | .error (.fault va t) => .error (.fault va (t.modQueue q (fun c => { c with lrecWait := true })))
      | .error .wait => .error .wait
      | .error _ => .ok s
      | .ok s => .ok s

/-- A LAUNCH record is checked and takes effect (R85 to R90). -/
def takeLaunch (s : State) (q : Nat) (b : List Byte) : Except LfeStop State := do
  let c := s.queue q
  if !OpRec.ranges b then .error (.err 1)
  else
    let (bank, s) ← lfeHeader s c b
    if !s.grantable b then .error (.err 3)
    else match s.freeRegionId with
      | none => .error .wait
      | some r => do
        .ok ((createLaunch s q b bank r).setQueue q
          { s.queue q with head := c.head + 1, fenced := false, lrecSkip := false, fetched := false })

/-- What a LAUNCH at LQHEAD gets as soon as it is fetched: STATUS 0 and T_FETCH, once (R96). A record with FENCE is not taken up
before the launches it waits for have ended. -/
def beginRecord (s : State) (q : Nat) (b : List Byte) : Except LfeStop State := do
  let c := s.queue q
  if c.fetched || !OpRec.clean b || OpRec.kind b != 1 || (OpRec.fence b && s.queueBusy q) then .ok s
  else do
    let s ← lfeWrite s c.pasid (s.recordVa q + 4) [0, 0, 0, 0]
    let s ← fetchTime s q b
    .ok (s.modQueue q (fun c => { c with fetched := true }))

/-- The record at LQHEAD is checked and taken up. -/
def takeRecord (s : State) (q : Nat) (b : List Byte) : Except LfeStop State := do
  let c := s.queue q
  if !OpRec.clean b then .error (.err 1)
  else if OpRec.fence b && s.queueBusy q then .ok (s.setQueue q { c with fenced := true })
  else match OpRec.kind b with
    | 0 => .ok (s.recordDone q b)
    | 1 => takeLaunch s q b
    | 2 => .ok (s.setQueue q { c with held := true, bytes := b })
    | _ => .ok ((s.setQueue q { c with held := true, bytes := b }).push .signalRecord { n := q })

/-! ### Queues (R82) -/

/-- `LQCTL_ENABLE`. -/
def lqctlEnable (q : Nat) (v : BitVec 64) (s : State) : State :=
  let c := s.queue q
  let c := { c with prio := v.extractLsb' 58 4, size := v.extractLsb' 52 6, pasid := v.extractLsb' 32 20 }
  if c.size.toNat < 4 || 16 < c.size.toNat then s.setQueue q { c with err := 4 }
  else if s.pasidState c.pasid != .active then s.setQueue q { c with err := 5 }
  else s.setQueue q { c with v := true, stop := false, err := 0 }

/-- Is a fetch or check of a record in progress (R82)? A WAIT that has not ended is not. -/
def Queue.inProgress (c : Queue) : Bool :=
  if c.held then OpRec.kind c.bytes == 3 else c.fault.isSome

/-- V is cleared: LQHEAD stays at a WAIT that has not ended. -/
def queueOff (q : Nat) (s : State) : State :=
  s.modQueue q (fun c => { c with v := false, held := false, bytes := [], fault := none, fenced := false,
                                  lrecWait := false, lrecSkip := false, fetched := false })

/-- `LQCTL_DISABLE`: it is performed between two records (R82). -/
def lqctlDisable (q : Nat) (s : State) : State :=
  if (s.queue q).inProgress then s.modQueue q (fun c => { c with waiting := c.waiting ++ [(0, 0)] }) else queueOff q s

/-- `LQTAIL_DOORBELL` (R83, R99, R100). -/
def lqtailDoorbell (q : Nat) (v : BitVec 64) (s : State) : State :=
  (s.modQueue q (fun c => { c with tail := v.extractLsb' 0 32 })).wakeAll 1

/-- A register write that has waited is performed, or a read of LQCTL answered. -/
def lateWrite (q : Nat) (s : State) (w : Nat × BitVec 64) : State :=
  match w.1 with
  | 0 => if (s.queue q).v then (if w.2.getLsbD 63 then s else queueOff q s)
      else if w.2.getLsbD 63 then lqctlEnable q w.2 s else writeLqctl q w.2 s
  | 16 => lqtailDoorbell q w.2 s
  | 64 => s.answerOutside true (leBytes 8 (s.queue q).ctl.toNat)
  | r => writeQueue q r w.2 s

/-- The writes of a queue's registers that wait are performed once no record is in progress (R82). -/
def settleQueue (q : Nat) (s : State) : State :=
  let c := s.queue q
  if c.waiting = [] || c.inProgress then s
  else c.waiting.foldl (lateWrite q) (s.modQueue q (fun c => { c with waiting := [] }))

/-! ### Fetch (R83) -/

/-- May the LFE fetch a record of a queue? -/
def Queue.ready (c : Queue) : Bool := c.v && !c.stop && c.head != c.tail && !c.held && c.fault.isNone

/-- The queue to fetch from: the highest PRIO, and after the queue fetched last within it. -/
def State.nextQueue (s : State) : Option Nat :=
  let qs := s.lfe.queues.filter (fun e => e.2.ready && !(e.2.fenced && s.queueBusy e.1))
  let top := qs.foldl (fun m e => max m e.2.prio.toNat) 0
  let cand := (qs.filter (fun e => e.2.prio.toNat == top)).map (·.1)
  (match Assoc.find? s.lfe.lastQueue top with
    | some last => cand.find? (fun q => decide (last < q))
    | none => none).or cand.head?

/-- `LFE_RECORD_FETCH`. -/
def lfeRecordFetch (s : State) : State :=
  match s.nextQueue with
  | none => s
  | some q =>
    let s := { s with lfe := { s.lfe with lastQueue := Assoc.set s.lfe.lastQueue (s.queue q).prio.toNat q } }
    let stop (s : State) (x : LfeStop) : State := settleQueue q (s.queueStop q x)
    match lfeRead (s.queue q).pasid 2 s (s.recordVa q) 128 with
    | .error x => stop s x
    | .ok (b, s) => match beginRecord s q b with
      | .error x => stop s x
      | .ok s => match takeRecord s q b with
        | .error x => stop s x
        | .ok s => settleQueue q s

/-! ### WAIT and SIGNAL records, and the WAITBW of a launch (R86) -/

/-- Has a barrier word of a PASID reached a generation? -/
def lfeReached (s : State) (pasid : BitVec 20) (va : Addr) (g : Word) : Except LfeStop (Bool × State) := do
  if va = 0 then .ok (true, s)
  else
    let (key, cell, t) ← lfeCell s pasid va 24 accRead
    .ok ((t.barWord key cell).reached g, t.countFar cell)

/-- `WAIT_RECORD_SATISFIED`: the LFE reads the word of queue `q`'s WAIT record. -/
def waitRecord (q : Nat) (s : State) : State :=
  let c := s.queue q
  if !c.v || c.stop || !c.held || c.fault.isSome || OpRec.kind c.bytes != 2 then s
  else match lfeReached s c.pasid (OpRec.waitbw c.bytes) (OpRec.waitgen c.bytes) with
    | .ok (true, t) => settleQueue q (t.recordDone q c.bytes)
    | .ok (false, t) => t
    | .error x => settleQueue q (s.queueStop q x)

/-- The addition of a SIGNAL record. -/
def lfeAdd (s : State) (pasid : BitVec 20) (va : Addr) (n : BitVec 64) : Except LfeStop State := do
  if va = 0 then .ok s
  else
    let (key, cell, t) ← lfeCell s pasid va 32 accAtomic
    .ok ((t.barAdd key cell n).countFar cell)

/-- `SIGNAL_RECORD`: the addition, then STATUS, then LQHEAD. The place of STATUS is checked before the addition is made, which a STATUS
that cannot be written withholds (DESIGN CHOICE, log entry 138). -/
def signalRecord (q : Nat) (s : State) : State :=
  let c := s.queue q
  if !c.v || c.stop || !c.held || c.fault.isSome || OpRec.kind c.bytes != 3 then s
  else match lfeCell s c.pasid (s.recordVa q + 4) 4 accWrite with
    | .error x => settleQueue q (s.queueStop q x)
    | .ok (_, _, s) => match lfeAdd s c.pasid (OpRec.donebw c.bytes) (OpRec.doneadd c.bytes) with
      | .ok t => settleQueue q (t.recordDone q c.bytes)
      | .error x => settleQueue q (s.queueStop q x)

namespace State

/-- A launch. -/
def launch (s : State) (n : Nat) : Option Launch := Assoc.find? s.lfe.launches n
/-- Replace a launch. -/
def setLaunch (s : State) (n : Nat) (l : Launch) : State :=
  { s with lfe := { s.lfe with launches := Assoc.set s.lfe.launches n l } }
/-- A launch is forgotten. -/
def dropLaunch (s : State) (n : Nat) : State :=
  { s with lfe := { s.lfe with launches := Assoc.erase s.lfe.launches n } }

end State

/-- `LAUNCH_WAIT_SATISFIED`: the LFE reads the WAITBW of launch `n`. -/
def launchWait (n : Nat) (s : State) : State :=
  match s.launch n with
  | none => s
  | some l =>
    if l.stage != 0 || l.fault.isSome || l.ended.isSome || (match s.region l.region with | some g => g.ending.isSome | none => true) then s
    else match lfeReached s l.pasid (OpRec.waitbw l.bytes) (OpRec.waitgen l.bytes) with
      | .ok (true, t) =>
        { t.setLaunch n { l with stage := 1, order := t.dist.nextOrder } with
          dist := { t.dist with nextOrder := t.dist.nextOrder + 1 } }
      | .ok (false, t) => t
      | .error (.fault va t) => t.setLaunch n { l with fault := some va }
      | .error .wait => s
      | .error .refused | .error (.err _) => endDomain l.region tProt 0 0 s

/-! ### Grant (R93, R116, R125) -/

/-- Tiles held by root regions that are not pre-empted. -/
def State.heldTiles (s : State) (except_ : List (BitVec 12)) : List Nat :=
  (s.regions.filter (fun e => e.2.parent == 0 && e.2.state != .preempted && !except_.contains (BitVec.ofNat 12 e.1))).flatMap (·.2.tiles)

/-- The tiles a budget of `n` takes, when the tiles of some roots do not count as held: of one die where enough are free. -/
def State.pickTiles (s : State) (n : Nat) (except_ : List (BitVec 12)) : Option (List Nat) :=
  let held := s.heldTiles except_
  let free := (List.range 256).filter (fun t => s.tileUp t && !held.contains t)
  let d0 := free.filter (fun t => tileDie t == 0)
  let d1 := free.filter (fun t => tileDie t == 1)
  if n ≤ d0.length then some (d0.take n) else if n ≤ d1.length then some (d1.take n)
  else if n ≤ free.length then some (free.take n) else none

/-- Does another launch come first (R125)? -/
def State.launchBehind (s : State) (n : Nat) (l : Launch) : Bool :=
  s.lfe.launches.any (fun e => e.1 != n && e.2.stage == 1 && e.2.ended.isNone
    && (decide (l.bank.prio.toNat < e.2.bank.prio.toNat) || (e.2.bank.prio == l.bank.prio && decide (e.2.order < l.order))))

/-- The LFE writes the shadow banks of granted launches, in the order of the grants and of the cores; it passes no core
whose bank is not EMPTY (R91, R93). -/
def lfeBanks (s : State) : State :=
  let ls := (s.lfe.launches.filter (fun e => e.2.stage == 2 || e.2.stage == 3)).map (·.1)
  let sorted := ls.foldl (fun acc n =>
    let o (m : Nat) : Nat := match s.launch m with | some l => l.order | none => 0
    acc.takeWhile (fun m => o m < o n) ++ [n] ++ acc.dropWhile (fun m => o m < o n)) []
  let todo : List (Nat × Nat) := sorted.flatMap (fun n => match s.launch n with
    | some l => (match s.region l.region with
      | some g => (g.cores.filter (fun k => !l.banked.contains k)).map (fun k => (n, k))
      | none => [])
    | none => [])
  (todo.foldl (fun (acc : Bool × State) e =>
    if acc.1 then acc
    else match acc.2.launch e.1 with
      | none => acc
      | some l =>
        if (acc.2.core e.2).shadowState != .empty || (acc.2.core e.2).swapping then (true, acc.2)
        else (false, (acc.2.modCore e.2 (fun c => { c with shadow := l.bank, shadowState := .loading })).setLaunch e.1
          { l with banked := l.banked ++ [e.2] })) (false, s)).2

/-- A launch is granted its tiles: cores, granules, banks, grains. -/
def grantTiles (n : Nat) (l : Launch) (g : Region) (tiles : List Nat) (s : State) : State :=
  let all (k m : Nat) : List Nat := (List.range k).map (· + m)
  let cores := (splitCores tiles g.coreBudget (fun t => all 4 (4 * t))).getD []
  let gran := (splitGranules tiles (g.sramBudget / granuleBytes) (fun t => all 96 (96 * t))).getD []
  let s := s.setRegion l.region { g with tiles := tiles, cores := sortNats cores, granules := sortNats gran }
  let s := { s with dist := { s.dist with owners := gran.foldl (fun m x => Assoc.set m x l.region) s.dist.owners } }
  let s := (sortNats cores).zipIdx.foldl (fun t e => t.modCore e.1 (fun c => { c with rank := BitVec.ofNat 10 e.2 })) s
  let s := (s.setLaunch n { l with stage := 2 }).modLife l.region (fun x => { x with started := s.dist.nextOrder })
  lfeBanks ({ s with dist := { s.dist with nextOrder := s.dist.nextOrder + 1 } }.place l.region)

/-- The victims whose tiles would make a budget fit: roots of lower priority, the lowest first and then the latest
started (R125). -/
def State.victims (s : State) (prio : BitVec 4) (tiles : Nat) : List (BitVec 12) :=
  let roots := (s.regions.filter (fun e => e.2.parent == 0 && e.2.tiles != [] && e.2.state != .preempted
    && decide (e.2.prio.toNat < prio.toNat))).map (fun e => (BitVec.ofNat 12 e.1, e.2.prio.toNat))
  let before (x y : BitVec 12 × Nat) : Bool :=
    x.2 < y.2 || (x.2 == y.2 && decide ((s.life y.1).started < (s.life x.1).started))
  let order := roots.foldl (fun acc x => acc.takeWhile (fun y => before y x) ++ [x] ++ acc.dropWhile (fun y => before y x)) []
  let ids := order.map (·.1)
  match (List.range (ids.length + 1)).find? (fun m => (s.pickTiles tiles (ids.take m)).isSome) with
  | some m => ids.take m
  | none => []

/-- `LAUNCH_GRANT`. -/
def launchGrant (n : Nat) (s : State) : State :=
  match s.launch n with
  | none => s
  | some l =>
    match s.region l.region with
    | none => s
    | some g =>
      if l.stage != 1 || l.ended.isSome || g.ending.isSome || s.launchBehind n l then s
      else match s.pickTiles g.tileBudget [] with
        | some tiles => grantTiles n l g tiles s
        | none => (s.victims g.prio g.tileBudget).reverse.foldl (fun t r => t.push .preemptRequest { n := r.toNat }) s

/-! ### Shadow banks (R92, R93) -/

/-- `SHADOW_BANK_LOADED`. -/
def shadowBankLoaded (k : Nat) (s : State) : State :=
  if (s.core k).shadowState == .loading then s.modCore k (fun c => { c with shadowState := .loaded }) else s

/-- Has a core no work of its active operator left (R92): no task instance and no continuation, running, parked or bound to it (R121),
and idle sequencers? -/
def State.workless (s : State) (k : Nat) : Bool :=
  let c := s.core k
  !c.user.running && c.parked.isNone && c.enginesIdle
    && (s.armed k).all (fun b => match s.region b.region with | some g => g.root != c.active.region | none => true)

/-- `BANK_SWAP`. -/
def bankSwap (k : Nat) (s : State) : State :=
  let c := s.core k
  if c.shadowState == .loaded && s.workless k && !c.swapping then s.modCore k (fun c => { c with swapping := true }) else s

/-- `BANK_SWAP_DONE`: the LFE goes on with the banks that waited. -/
def bankSwapDone (k : Nat) (s : State) : State :=
  if (s.core k).swapping then
    lfeBanks (s.modCore k (fun c =>
      { c with active := c.shadow, shadow := BankImage.empty, shadowState := .empty, swapping := false }))
  else s

/-! ### The start of a launch (R95, R96) -/

/-- A write of the LFE to a launch record, where the operator record names one. -/
def lrecWrite (l : Launch) (off : Nat) (bs : List Byte) (s : State) : Except LfeStop State :=
  if OpRec.lrec l.bytes = 0 then .ok s else lfeWrite s l.pasid (OpRec.lrec l.bytes + BitVec.ofNat 48 off) bs

/-- One step of what the LFE writes as a launch starts: 0 the launch record's T_START, 1 its STATUS, 2 the operator record's
STATUS. -/
def startStep (l : Launch) (i : Nat) (s : State) : Except LfeStop State :=
  match i with
  | 0 => lrecWrite l 24 (leBytes 8 l.tstart.toNat) s
  | 1 => lrecWrite l 56 [1, 0, 0, 0] s
  | _ => lfeWrite s l.pasid (l.record + 4) [1, 0, 0, 0]

/-- The steps of a start from step `i` on, `k` of them: a fault waits, and a write that is refused is skipped. -/
def startFrom (n : Nat) (l : Launch) : Nat → Nat → State → State
  | 0, _, s => s.setLaunch n { l with starting := false, step := 0, fault := none }
  | k + 1, i, s =>
    match startStep l i s with
    | .ok t => startFrom n l k (i + 1) t
    | .error (.fault va t) => t.setLaunch n { l with starting := true, fault := some va, step := i }
    | .error _ => startFrom n l k (i + 1) s

/-! ### Completion (R94) -/

/-- One step of a completion: 0 the launch record's T_DONE, 1 its STATUS, 2 the operator record's STATUS, 3 DONEBW. -/
def completionStep (l : Launch) (i : Nat) (s : State) : Except LfeStop State :=
  let st : Byte := if l.ended = some 0 then 2 else 3
  match i with
  | 0 => lrecWrite l 32 (leBytes 8 s.ptime.toNat) s
  | 1 => lrecWrite l 56 [st, 0, 0, 0] s
  | 2 => lfeWrite s l.pasid (l.record + 4) [st, 0, 0, 0]
  | _ => lfeAdd s l.pasid (OpRec.donebw l.bytes) (OpRec.doneadd l.bytes)

/-- The steps of a completion from step `i` on, `k` of them; then the MSI. -/
def completeFrom (n : Nat) (l : Launch) : Nat → Nat → State → State
  | 0, _, s =>
    let c := s.queue l.queue.toNat
    let s := s.dropLaunch n
    if OpRec.irq l.bytes && c.irq.getLsbD 63 then s.sendMsi (c.irq.extractLsb' 0 37) else s
  | k + 1, i, s =>
    match completionStep l i s with
    | .ok t => completeFrom n l k (i + 1) t
    | .error (.fault va t) => t.setLaunch n { l with fault := some va, step := i }
    | .error _ => completeFrom n l k (i + 1) s

/-- `LAUNCH_COMPLETION`: nothing is written for a PASID that is being torn down (R101). -/
def launchCompletion (n : Nat) (s : State) : State :=
  match s.launch n with
  | none => s
  | some l =>
    if l.ended.isNone then s
    else if s.pasidState l.pasid != .active then s.dropLaunch n
    else if l.fault.isSome || l.starting then s
    else completeFrom n l (4 - l.step) l.step s

/-! ### Meanings -/

/-- `LQCTL_ENABLE` (R82): queue `inp.n`, the value `inp.value` written. -/
def execLqctlEnable (s : State) : Host.Outcome State Fault Refusal := .next (lqctlEnable s.inp.n s.inp.value s)
/-- `LQCTL_DISABLE` (R82): queue `inp.n`. -/
def execLqctlDisable (s : State) : Host.Outcome State Fault Refusal := .next (lqctlDisable s.inp.n s)
/-- `LQTAIL_DOORBELL` (R83): queue `inp.n`, the value `inp.value` written. -/
def execLqtailDoorbell (s : State) : Host.Outcome State Fault Refusal := .next (lqtailDoorbell s.inp.n s.inp.value s)
/-- `LFE_RECORD_FETCH` (R83). -/
def execLfeRecordFetch (s : State) : Host.Outcome State Fault Refusal := .next (lfeRecordFetch s)
/-- `WAIT_RECORD_SATISFIED` (R86): queue `inp.n`. -/
def execWaitRecordSatisfied (s : State) : Host.Outcome State Fault Refusal := .next (waitRecord s.inp.n s)
/-- `SIGNAL_RECORD` (R86): queue `inp.n`. -/
def execSignalRecord (s : State) : Host.Outcome State Fault Refusal := .next (signalRecord s.inp.n s)
/-- `LAUNCH_WAIT_SATISFIED` (R86): launch `inp.n`. -/
def execLaunchWaitSatisfied (s : State) : Host.Outcome State Fault Refusal := .next (launchWait s.inp.n s)
/-- `LAUNCH_GRANT` (R116): launch `inp.n`. -/
def execLaunchGrant (s : State) : Host.Outcome State Fault Refusal := .next (launchGrant s.inp.n s)
/-- `SHADOW_BANK_LOADED` (R92): core `inp.n`. -/
def execShadowBankLoaded (s : State) : Host.Outcome State Fault Refusal := .next (shadowBankLoaded s.inp.n s)
/-- `BANK_SWAP` (R92): core `inp.n`. -/
def execBankSwap (s : State) : Host.Outcome State Fault Refusal := .next (bankSwap s.inp.n s)
/-- `BANK_SWAP_DONE` (R92): core `inp.n`. -/
def execBankSwapDone (s : State) : Host.Outcome State Fault Refusal := .next (bankSwapDone s.inp.n s)
/-- `LAUNCH_COMPLETION` (R94): launch `inp.n`. -/
def execLaunchCompletion (s : State) : Host.Outcome State Fault Refusal := .next (launchCompletion s.inp.n s)

end Sys2Proof.Machine
end

