-- ==== Sys2Proof/Machine/Outside.lean ====
section
/-!
DEFINITION. What other devices ask of the C7 and answer it: Linnor requests and responses (R38 to R49), and the PCIe ports
(R51, R52, R179). Log entries: 46 (requests of a port), 51 (answers to Linnor packets), 52 (inbound requests of devices).
-/

namespace Sys2Proof.Machine

/-! ### Answers of the C7 (R38, R40) -/

/-- The statuses of ERR (R40). -/
def lnUnsupported : BitVec 4 := 1
def lnNotMapped : BitVec 4 := 2
def lnIdle : BitVec 4 := 3
def lnBusy : BitVec 4 := 4
def lnMalformed : BitVec 4 := 6

/-- Answer a request on the port it came by. -/
def State.lnReply (s : State) (port : Nat) (p : LinnorPacket) (kind op : BitVec 4) (data : List Byte) : State :=
  s.lnSend port { kind := kind, dst := p.src, src := s.links.self, tag := p.tag, len := BitVec.ofNat 8 (data.length - 1)
                  op := op, addr := 0, data := data }
/-- Answer with ERR. -/
def State.lnErr (s : State) (port : Nat) (p : LinnorPacket) (status : BitVec 4) : State := s.lnReply port p 9 status []

/-! ### Export entries (R46) -/

/-- Does an export entry cover a request? -/
def exportCovers (e : BitVec 64) (p : LinnorPacket) (n : Nat) (write : Bool) : Bool :=
  let base := (e.extractLsb' 0 22).toNat * 2 ^ 30
  let size := ((e.extractLsb' 30 12).toNat + 1) * 2 ^ 30
  e.getLsbD 63 && (!write || e.getLsbD 62) && (e.extractLsb' 52 10 ^^^ p.src) &&& e.extractLsb' 42 10 == 0
    && decide (base ≤ p.addr.toNat) && decide (p.addr.toNat + n ≤ base + size)

/-- Is a request admitted? -/
def exported (s : State) (p : LinnorPacket) (n : Nat) (write : Bool) : Bool :=
  s.links.exp.any (fun e => exportCovers e.2 p n write)

/-- An incoming request of `n` bytes: `bad` says that its header is malformed; admitted, it is performed by `f`. -/
def lnServe (port : Nat) (p : LinnorPacket) (n : Nat) (write bad : Bool) (s : State) (f : BitVec 8 → Nat → State → State) : State :=
  if p.dst != s.links.self then s.lnErr port p lnNotMapped
  else if s.mgmt.idle == .idle then s.lnErr port p lnIdle
  else if bad then s.lnErr port p lnMalformed
  else if !exported s p n write then s.lnErr port p lnNotMapped
  else
    let (key, cell) := (physKey p.addr, physCell p.addr)
    match outerRefuse s key cell n write with
    | some c => s.lnErr port p c
    | none => (f key cell s).countFar cell

/-- `LINNOR_RD`. -/
def linnorRd (port : Nat) (p : LinnorPacket) (s : State) : State :=
  let n := p.len.toNat + 1
  lnServe port p n false (256 < p.addr.toNat % 256 + n) s (fun key cell s => s.lnReply port p 1 0 (s.bytesKey key cell n))

/-- `LINNOR_WR`: acknowledged once it has performed. -/
def linnorWr (port : Nat) (p : LinnorPacket) (s : State) : State :=
  let bs := p.data.take (p.len.toNat + 1)
  lnServe port p bs.length true (256 < p.addr.toNat % 256 + bs.length) s (fun key cell s =>
    (s.setBytesKey key cell bs).lnReply port p 3 0 [])

/-- `LINNOR_ATOM` (R39). -/
def linnorAtom (port : Nat) (p : LinnorPacket) (s : State) : State :=
  let n := p.len.toNat + 1
  let op := p.op.toNat
  lnServe port p n true ((n ≠ 4 && n ≠ 8) || p.addr.toNat % n ≠ 0) s (fun key cell s =>
    if 8 ≤ op then s.lnErr port p lnUnsupported
    else if s.poisoned cell n then s.lnErr port p 5
    else
      let c := if op = 7 then field p.data 0 n else 0
      let x := if op = 7 then field p.data n n else field p.data 0 n
      let (old, t) := s.atomic op n key cell c x
      t.lnReply port p 5 0 (leBytes n old))

/-- A message is entered and acknowledged, or answered BUSY (R47). -/
def deliver (port : Nat) (p : LinnorPacket) (s : State) : State :=
  match s.msgPut p.src (p.data.take (p.len.toNat + 1)) with
  | some t => t.lnReply port p 7 0 []
  | none => s.lnErr port p lnBusy

/-- `LINNOR_MSG`. -/
def linnorMsg (port : Nat) (p : LinnorPacket) (s : State) : State :=
  if p.dst != s.links.self then s.lnErr port p lnNotMapped
  else if s.mgmt.idle == .idle then s.lnErr port p lnIdle
  else if 192 ≤ p.len.toNat then s.lnErr port p lnMalformed
  else deliver port p s

/-! ### Wake frames (R48, R49, R99, R100) -/

/-- Does a frame, which carries 8 to 64 bytes, match the filter of its port? -/
def wakeMatches (s : State) (port : Nat) (p : LinnorPacket) : Bool :=
  let c := Assoc.get 0 s.links.wakectl port
  let t := Assoc.get 0 s.links.wakepat port
  decide (8 ≤ p.len.toNat + 1) && decide (p.len.toNat + 1 ≤ 64) && c.getLsbD 63 && (c.extractLsb' 52 10 ^^^ p.src) &&& c.extractLsb' 42 10 == 0
    && (t.extractLsb' 32 32 ^^^ BitVec.ofNat 32 (field p.data 0 4)) &&& t.extractLsb' 0 32 == 0

/-- Is a frame held at a port? -/
def State.wakeHeld (s : State) (port : Nat) : Bool := (Assoc.get 0 s.links.wakectl port).getLsbD 62
/-- Hold a frame, or let go of it. -/
def State.setHeld (s : State) (port : Nat) (f : Option LinnorPacket) : State :=
  let c := Assoc.get 0 s.links.wakectl port &&& ~~~(1#64 <<< 62)
  { s.modPort port (fun q => { q with held := f }) with
    links := { (s.modPort port (fun q => { q with held := f })).links with
      wakectl := Assoc.set s.links.wakectl port (if f.isSome then c ||| (1#64 <<< 62) else c) } }
/-- The core that a port's filter restores. -/
def wakeCore (s : State) (port : Nat) : Nat := ((Assoc.get 0 s.links.wakectl port).extractLsb' 32 10).toNat

/-- Does a wake frame find every control core gated: in IDLE, or in the cycle in which another port's frame began the wake (R49)? -/
def State.allGated (s : State) : Bool :=
  s.mgmt.idle == .idle || (s.mgmt.idle == .waking && s.mgmt.gated && s.mgmt.wokeAt == s.cycle)

/-- `LINNOR_WAKE`. A matched frame whose CORE lies on a tile out of service is held and begins the wake too; no core is restored by
it (DESIGN CHOICE, log entry 132). -/
def linnorWake (port : Nat) (p : LinnorPacket) (s : State) : State :=
  let n := p.len.toNat + 1
  if p.dst != s.links.self then s.lnErr port p lnNotMapped
  else if s.allGated then
    if !wakeMatches s port p then s.lnErr port p lnIdle
    else if s.wakeHeld port then s.lnErr port p lnBusy
    else
      let k := wakeCore s port
      let t := s.setHeld port (some p)
      { t with mgmt := { t.mgmt with
        idle := .waking, idleCause := 2, wokeAt := s.cycle, restored := if t.tileUp (k / 4) then k :: t.mgmt.restored else t.mgmt.restored } }
  else if n < 8 || 64 < n then s.lnErr port p lnMalformed
  else if s.wakeHeld port && wakeMatches s port p then s.lnErr port p lnBusy
  else if s.mgmt.idle == .entering then
    deliver port p { s with mgmt := { s.mgmt with idle := .running, gated := false, restored := [] } }
  else deliver port p s

/-- `WAKE_REPLAY`: the restored core's firmware enters the held frame, acknowledges it and clears HELD; a full ring leaves
it held. -/
def wakeReplay (k port : Nat) (s : State) : State :=
  match (s.lnPort port).held with
  | none => s
  | some p =>
    if s.mgmt.idle == .idle || s.coreGated k || wakeCore s port ≠ k then s
    else match s.msgPut p.src (p.data.take (p.len.toNat + 1)) with
      | some t => (t.lnReply port p 7 0 []).setHeld port none
      | none => s

/-- `LINNOR_RESERVED_KIND`. -/
def linnorReserved (port : Nat) (p : LinnorPacket) (s : State) : State :=
  if p.dst != s.links.self then s.lnErr port p lnNotMapped else s.lnErr port p lnMalformed

/-! ### Answers to the C7 (R38, R40, R45) -/

/-- The request that an answer belongs to. -/
def State.lnReq (s : State) (p : LinnorPacket) : Option LnReq :=
  match Assoc.find? s.links.reqs p.tag.toNat with
  | some r => if p.dst == s.links.self && r.pkt.dst == p.src then some r else none
  | none => none
/-- The request is answered. -/
def State.lnDone (s : State) (r : LnReq) : State :=
  { s with links := { s.links with reqs := Assoc.erase s.links.reqs r.pkt.tag.toNat } }
/-- Answer the mesh packet that a request serves. -/
def State.lnAnswer (s : State) (r : LnReq) (kind op : BitVec 4) (data : List Byte) : State :=
  match r.orig with
  | some p => s.respond p kind op 0 data
  | none => s

/-- Learn about the route of an atomic request. -/
def State.lnLearn (s : State) (r : LnReq) (ok : Bool) : State :=
  if r.pkt.kind != 4 then s
  else
    s.learnPath r.pkt.dst.toNat (capBit r.pkt.op.toNat (r.pkt.len == 7)) ok

/-- `LINNOR_RDRSP`, `LINNOR_WRACK`, `LINNOR_ATOMRSP`: the mesh packet is answered with `kind`. -/
def linnorAnswered (kind : BitVec 4) (p : LinnorPacket) (s : State) : State :=
  match s.lnReq p with
  | some r => ((s.lnDone r).lnLearn r true).lnAnswer r kind 0 p.data
  | none => s

/-- `LINNOR_MSGACK`. -/
def linnorMsgack (p : LinnorPacket) (s : State) : State :=
  match s.lnReq p with
  | some r => s.lnDone r
  | none => s

/-- `LINNOR_ERR` (R40, R45). -/
def linnorErr (p : LinnorPacket) (s : State) : State :=
  match s.lnReq p with
  | none => s
  | some r =>
    match p.op.toNat with
    | 1 => ((s.lnDone r).lnLearn r false).lnAnswer r 0xB (if r.pkt.kind == 4 then nackPath else nackPartition) []
    | 3 | 4 => { s with links := { s.links with reqs := Assoc.set s.links.reqs p.tag.toNat { r with waiting := true } } }
    | 5 => (s.lnDone r).lnAnswer r 0xB nackPoison []
    | _ => (s.lnDone r).lnAnswer r 0xB nackPartition []

/-- `LINNOR_RESEND_TIMER`: 4 µs after it was sent last, a request answered IDLE or BUSY is sent again. -/
def linnorResend (tag : Nat) (s : State) : State :=
  match Assoc.find? s.links.reqs tag with
  | some r =>
    if r.waiting && 4000 ≤ (s.ptime - r.sentAt).toNat then
      { s with links := { s.links with reqs := Assoc.set s.links.reqs tag { r with waiting := false, sentAt := s.ptime } } }.lnSend
        r.port r.pkt
    else s
  | none => s

/-- `LINNOR_REQUEST_GIVEUP`: after 10 ms without a success the request is reported as ECC_UNCORR. -/
def linnorGiveup (tag : Nat) (s : State) : State :=
  match Assoc.find? s.links.reqs tag with
  | some r =>
    if r.waiting && 10000000 ≤ (s.ptime - r.since).toNat then (s.lnDone r).lnAnswer r 0xB nackPoison [] else s
  | none => s

/-! ### PCIe ports (R51, R52) -/

/-- An inbound request's place: at the endpoint's port an offset of BAR2; at another its PASID's translation, or why there is none.
A request without a PASID prefix belongs to PASID 0. -/
def inboundPlace (r : PcieRequest) (acc : BitVec 4) (s : State) : Option (BitVec 52 × State) :=
  let pasid := r.pasid.getD 0
  if (s.pciePort r.port).mode == .endpoint then (s.bar2Place r.addr.toNat).map (fun pa => (pa, s))
  else if s.pasidState pasid != .active || 2 ^ 48 ≤ r.addr.toNat then none
  else
    let va := BitVec.ofNat 48 r.addr.toNat
    match s.walk pasid va acc with
    | .leaf e t => some (e.translate va, t)
    | .prot _ | .fault _ _ => none

/-- `PCIE_INBOUND_REQUEST`: translated by the IOMMU and performed; what cannot be is answered with an abort (R27). An MSI-X message
of a device is an interrupt to the system cores. -/
def pcieInbound (r : PcieRequest) (s : State) : State :=
  if !s.pcieUp r.port then s
  else match r.msi with
    | some irq => if (s.pciePort r.port).mode == .endpoint then s.answerOutside false [] else s.sendMsi irq
    | none => match inboundPlace r (if r.write then accWrite else accRead) s with
      | none => s.answerOutside false []
      | some (pa, t) => outerAccess r.port pa (if r.write then some r.data else none) r.len t

/-- `PCIE_ATOMICOP_INBOUND` (R52): FetchAdd, Swap or CAS of 4 or 8 bytes at its home; a wider one is refused. -/
def pcieAtomic (r : PcieRequest) (s : State) : State :=
  if !s.pcieUp r.port then s
  else match r.atomic with
    | none => s.answerOutside false []
    | some a =>
      let n := r.len
      if (n ≠ 4 && n ≠ 8) || 3 ≤ a.toNat || r.addr.toNat % n ≠ 0 then s.answerOutside false []
      else match inboundPlace r accAtomic s with
        | none => s.answerOutside false []
        | some (pa, t) =>
          let (key, cell) := (physKey pa, physCell pa)
          let op := if a = 0 then 0 else if a = 1 then 6 else 7
          if offCell cell then
            t.outerSend { port := r.port, pa := pa, write := true, op := some (BitVec.ofNat 4 op), left := n, data := r.data }
          else match outerRefuse t key cell n false with
          | some _ => t.answerOutside false []
          | none =>
            let c := if a = 2 then field r.data 0 n else 0
            let x := if a = 2 then field r.data n n else field r.data 0 n
            let (old, u) := t.atomic op n key cell c x
            (u.countFar cell).answerOutside true (leBytes n old)

/-- `PCIE_COMPLETION` (R52, R179): `ok` is a successful completion, else Unsupported Request. Writes posted before the
request have performed. -/
def pcieCompletion (tag : Nat) (ok : Bool) (bs : List Byte) (s : State) : State :=
  match Assoc.find? s.links.pcie tag with
  | none => s
  | some o =>
    let port := o.req.port
    let s := { s with links := { s.links with pcie := Assoc.erase s.links.pcie tag } }
    let s := o.flushes.foldl (fun t p => t.respond p 9 0 0 []) s
    let s := match o.req.atomic, o.orig with
      | some a, some p =>
        let s := s.learnPath (1024 + port) (capBit (if a = 0 then 0 else if a = 1 then 6 else 7) (o.req.len == 8)) ok
        if ok then s.respond p 0xA 0 0 bs else s.nack p nackPath
      | none, some p => if ok then s.respond p 8 0 0 bs else s.nack p nackPartition
      | _, none => s
    match s.links.pcieWait.find? (fun p => ((pktHome p).2 - 0xD0000000000) / 2 ^ 38 == port) with
    | some p => toPcie { s with links := { s.links with pcieWait := s.links.pcieWait.erase p } } p (pktHome p).2
    | none => s

/-! ### Meanings -/

/-- A happening that carries a Linnor packet, at port `inp.n`. -/
def withLinnor (f : Nat → LinnorPacket → State → State) (s : State) : Host.Outcome State Fault Refusal :=
  match s.inp.lpkt with
  | some p => .next (f s.inp.n p s)
  | none => .next s
/-- A happening that carries a PCIe request. -/
def withPcie (f : PcieRequest → State → State) (s : State) : Host.Outcome State Fault Refusal :=
  match s.inp.req with
  | some r => .next (f r s)
  | none => .next s

/-- `LINNOR_FLIT_RECEIVE` (R32, R33, R35): port `inp.n`, the bytes that the FEC gives, `inp.bytes` of lane 0 and `inp.lane1` of
lane 1; `inp.flag` whether it could. -/
def execLinnorFlitReceive (s : State) : Host.Outcome State Fault Refusal :=
  .next (linnorFlitReceive s.inp.n s.inp.flag (fromLanes s.inp.bytes s.inp.lane1) s)
/-- `LINNOR_FLIT_TRANSMIT` (R35): port `inp.n`, kind `inp.flit`. -/
def execLinnorFlitTransmit (s : State) : Host.Outcome State Fault Refusal := .next (linnorFlitTransmit s.inp.n s.inp.flit s)
/-- `LINNOR_RETRY_REQUEST` (R35): port `inp.n`, sequence number `inp.m`. -/
def execLinnorRetryRequest (s : State) : Host.Outcome State Fault Refusal :=
  .next (linnorRetryRequest s.inp.n (BitVec.ofNat 12 s.inp.m) s)
/-- `RETRY_REQUEST_TIMEOUT` (R35): port `inp.n`. -/
def execRetryRequestTimeout (s : State) : Host.Outcome State Fault Refusal := .next (retryRequestTimeout s.inp.n s)
/-- `LINNOR_RETRAIN` (R35): port `inp.n`. -/
def execLinnorRetrain (s : State) : Host.Outcome State Fault Refusal := .next (linnorRetrain s.inp.n s)
/-- `LINNOR_RD` (R38, R46). -/
def execLinnorRd (s : State) : Host.Outcome State Fault Refusal := withLinnor linnorRd s
/-- `LINNOR_WR` (R38, R46). -/
def execLinnorWr (s : State) : Host.Outcome State Fault Refusal := withLinnor linnorWr s
/-- `LINNOR_ATOM` (R39, R46). -/
def execLinnorAtom (s : State) : Host.Outcome State Fault Refusal := withLinnor linnorAtom s
/-- `LINNOR_MSG` (R47). -/
def execLinnorMsg (s : State) : Host.Outcome State Fault Refusal := withLinnor linnorMsg s
/-- `LINNOR_WAKE` (R49). -/
def execLinnorWake (s : State) : Host.Outcome State Fault Refusal := withLinnor linnorWake s
/-- `LINNOR_RESERVED_KIND` (R38). -/
def execLinnorReservedKind (s : State) : Host.Outcome State Fault Refusal := withLinnor linnorReserved s
/-- `LINNOR_RDRSP` (R38). -/
def execLinnorRdrsp (s : State) : Host.Outcome State Fault Refusal := withLinnor (fun _ p s => linnorAnswered 8 p s) s
/-- `LINNOR_WRACK` (R38). -/
def execLinnorWrack (s : State) : Host.Outcome State Fault Refusal := withLinnor (fun _ p s => linnorAnswered 9 { p with data := [] } s) s
/-- `LINNOR_ATOMRSP` (R45). -/
def execLinnorAtomrsp (s : State) : Host.Outcome State Fault Refusal := withLinnor (fun _ p s => linnorAnswered 0xA p s) s
/-- `LINNOR_MSGACK` (R38). -/
def execLinnorMsgack (s : State) : Host.Outcome State Fault Refusal := withLinnor (fun _ p s => linnorMsgack p s) s
/-- `LINNOR_ERR` (R40). -/
def execLinnorErr (s : State) : Host.Outcome State Fault Refusal := withLinnor (fun _ p s => linnorErr p s) s
/-- `LINNOR_RESEND_TIMER` (R40): the request with tag `inp.n`. -/
def execLinnorResendTimer (s : State) : Host.Outcome State Fault Refusal := .next (linnorResend s.inp.n s)
/-- `LINNOR_REQUEST_GIVEUP` (R40): the request with tag `inp.n`. -/
def execLinnorRequestGiveup (s : State) : Host.Outcome State Fault Refusal := .next (linnorGiveup s.inp.n s)
/-- `WAKE_REPLAY` (R99): core `inp.n`, port `inp.m`. -/
def execWakeReplay (s : State) : Host.Outcome State Fault Refusal := .next (wakeReplay s.inp.n s.inp.m s)
/-- `PCIE_INBOUND_REQUEST` (R51). -/
def execPcieInboundRequest (s : State) : Host.Outcome State Fault Refusal := withPcie pcieInbound s
/-- `PCIE_ATS_PRI_REQUEST` (R51): Unsupported Request. -/
def execPcieAtsPriRequest (s : State) : Host.Outcome State Fault Refusal := .next (s.answerOutside false [])
/-- `PCIE_ATOMICOP_INBOUND` (R52). -/
def execPcieAtomicopInbound (s : State) : Host.Outcome State Fault Refusal := withPcie pcieAtomic s
/-- `PCIE_COMPLETION` (R52): tag `inp.n`, success `inp.flag`, data `inp.bytes`. -/
def execPcieCompletion (s : State) : Host.Outcome State Fault Refusal := .next (pcieCompletion s.inp.n s.inp.flag s.inp.bytes s)

end Sys2Proof.Machine
end

