-- ==== Sys2Proof/Machine/Bringup.lean ====
section
/-!
DEFINITION. Bring-up, the boot journal and its policies (R22 to R26), the thermal table and the core clock (R15), fences and
degraded operation (R28 to R31), the takeover of a distributor (R119), the I3C and boundary-scan ports (R55, R56) and the
seal's keys and reports (R31, R136, R161, R162). Log entries: 54 (the detail of a tile's failure), 78 (journal records), 79
(a failure under a kept alternative), 80 (steps end when every instance has), 81 (what a lost die's regions had dispatched),
82 (a lookup core's work), 83 (answers on I3C), 84 (a new key on old data).
Also log entries 113 (a failed instance is no reason for replacement), 121 (the number of the first start), 123 (a
tenant's binding), 124 (what a restart of the package keeps).
-/

namespace Sys2Proof.Machine

/-! ### Bits -/

/-- Set or clear one bit. -/
def bitOn {w : Nat} (b : BitVec w) (i : Nat) : BitVec w := b ||| (1#w <<< i)
def bitOff {w : Nat} (b : BitVec w) (i : Nat) : BitVec w := b &&& ~~~(1#w <<< i)

/-! ### The boot journal (R25) -/

namespace State

/-- Write a record; the summary table keeps the latest of each step instance. -/
def journalPut (s : State) (step outcome : Byte) (inst : Nat) (policy attempt : Byte) (detail : BitVec 16) : State :=
  let r : JournalRec :=
    { time := s.ptime, step := step, outcome := outcome, inst := BitVec.ofNat 16 inst, policy := policy, attempt := attempt
      detail := detail, start := s.boot.starts }
  { s with boot := { s.boot with
      journal := Assoc.set s.boot.journal s.boot.next.toNat r, next := s.boot.next + 1
      latest := if step.toNat ≤ 6 then Assoc.set s.boot.latest (step.toNat * 65536 + inst) r else s.boot.latest } }

/-- The latest record of a step instance. -/
def latest (s : State) (step inst : Nat) : Option JournalRec := Assoc.find? s.boot.latest (step * 65536 + inst)

/-- The detail of a record written while the package runs: the specification states none. -/
def freeDetail (s : State) : BitVec 16 := (Config.freeWord 5 (s.fresh * 2 ^ 64 + s.boot.next.toNat)).extractLsb' 0 16

/-! ### Steps and their instances (R22) -/

end State

/-- The instances of a step. -/
def stepCount : Nat → Nat
  | 0 => 1 | 1 => 12 | 2 => 256 | 3 => 2 | 4 => 64 | 5 => 4 | 6 => 1 | _ => 0
/-- Is a step optional? -/
def stepOptional (n : Nat) : Bool := n == 4 || n == 5

/-- The cores of a unit. -/
def unitCores : FenceUnit → List Nat
  | .tile n => [4 * n, 4 * n + 1, 4 * n + 2, 4 * n + 3]
  | .die d => (List.range 512).map (· + 512 * d)
  | _ => []
/-- The lookup cores of a unit. -/
def unitLookups : FenceUnit → List Nat
  | .stack n => (List.range 8).map (· + 8 * n)
  | .die d => (List.range 48).map (· + 48 * d)
  | _ => []

namespace State

/-- The contexts of a unit are gone. -/
def eraseUnit (s : State) (u : FenceUnit) : State :=
  { s with cores := (unitCores u).foldl (fun m k => Assoc.erase m k) s.cores
           lookups := (unitLookups u).foldl (fun m k => Assoc.erase m k) s.lookups }

/-- The bits of a compute die and of all its units clear, and its contexts are gone (R26, R28). -/
def clearDie (s : State) (d : Nat) : State :=
  let b := s.boot
  let tiles (v : BitVec 256) : BitVec 256 := (List.range 128).foldl (fun v i => bitOff v (128 * d + i)) v
  { s with
    boot := { b with
      meshUp := bitOff b.meshUp d, tiles := tiles b.tiles, tested := tiles b.tested
      hbm := (List.range 6).foldl (fun v i => bitOff v (6 * d + i)) b.hbm
      links := (List.range 32).foldl (fun v i => bitOff v (32 * d + i)) b.links }
    fences := { s.fences with dies := bitOn s.fences.dies d } }

/-- Take a compute die out of service because of its fabric (R30). -/
def outDie (s : State) (d : Nat) : State :=
  (if d = 0 then [0, 1] else [1]).foldl (fun t x => (t.clearDie x).eraseUnit (.die x)) s

/-- Is a step instance's unit out of service already? -/
def instanceOut (s : State) (n i : Nat) : Bool :=
  match n with
  | 1 => s.fences.hbms.getLsbD i || s.dieOut (i / 6)
  | 2 => s.fences.tiles.getLsbD i || s.dieOut (tileDie i)
  | 3 => s.dieOut i
  | 4 => s.fences.lports.getLsbD i || s.dieOut (i / 32)
  | 5 => s.fences.pports.getLsbD i
  | _ => false

/-- Take a step instance's unit out of service: a router fault of a tile takes its die (R22). -/
def outInstance (s : State) (n i : Nat) (detail : BitVec 16) : State :=
  match n with
  | 1 => { s with fences := { s.fences with hbms := bitOn s.fences.hbms i } }
  | 2 => if detail.getLsbD 0 then s.outDie (tileDie i) else { s with fences := { s.fences with tiles := bitOn s.fences.tiles i } }
  | 3 => s.outDie i
  | 4 => { s with fences := { s.fences with lports := bitOn s.fences.lports i } }
  | 5 => { s with fences := { s.fences with pports := bitOn s.fences.pports i } }
  | _ => s

/-- The start halts with both dies fenced, or a die without a stack (R23). -/
def haltCheck (s : State) : State :=
  let bare (d : Nat) : Bool := !s.dieOut d && (List.range 6).all (fun i => s.fences.hbms.getLsbD (6 * d + i))
  if s.fences.dies == 3 || bare 0 || bare 1 then { s with boot := { s.boot with halted := true } } else s

/-- A step instance is over. -/
def markDone (s : State) (i : Nat) : State := { s with boot := { s.boot with done := i :: s.boot.done } }

end State

/-- The alternative is in force for an instance: its policy is ALTER, or it passed under it (R24). -/
def JournalRec.altered (r : JournalRec) : Bool := r.policy == 2 || r.outcome == 2 || r.outcome == 4
/-- Is the instance skipped? -/
def JournalRec.skipped (r : JournalRec) : Bool := r.policy == 3
/-- Does it halt the start? -/
def JournalRec.halts (r : JournalRec) : Bool := r.policy == 4

/-- What the latest record of an instance asks before its step runs (R24): an instance whose unit is out, that is skipped,
or whose alternative is a fence does not run. -/
def applyPolicy (n i : Nat) (s : State) : State :=
  if s.boot.halted then s
  else if s.instanceOut n i then s.markDone i
  else match s.latest n i with
    | none => s
    | some r =>
      let fence (outcome policy : Byte) : State :=
        let t := s.outInstance n i r.detail
        (({ t with boot := { t.boot with replreq := true } }.journalPut (BitVec.ofNat 8 n) outcome i policy r.attempt
          r.detail).markDone i).haltCheck
      if r.halts then { s with boot := { s.boot with halted := true } }
      else if r.skipped then fence 3 3
      else if r.altered && 1 ≤ n && n ≤ 3 then fence 4 2
      else s

/-- A step begins. -/
def enterStep (n : Nat) (s : State) : State :=
  (List.range (stepCount n)).foldl (fun t i => applyPolicy n i t) { s with boot := { s.boot with stepNow := n, done := [] } }

/-- With every instance of a step over the next step begins. -/
def advance : Nat → State → State
  | 0, s => s
  | f + 1, s =>
    if s.boot.halted || 6 ≤ s.boot.stepNow || s.boot.done.length < stepCount s.boot.stepNow then s
    else advance f (enterStep (s.boot.stepNow + 1) s)

/-- `POWER_ON_RESET`: the package is as package reset leaves it; what package flash holds stays. -/
def powerOn (s : State) : State :=
  let b := s.boot
  advance 7 (enterStep 0 { State.reset with
    fresh := s.fresh, sched := s.sched, cur := s.cur
    boot := { journal := b.journal, next := b.next, latest := b.latest, starts := b.starts + 1, replreq := b.replreq } })

/-! ### A step instance ends (R22 to R26) -/

/-- The mesh of a die is usable: its tested tiles become ready and their firmware contexts run; in token-ring mode the first
T tiles get a token each (R19, R26, R193; which tiles the tokens start at is a DESIGN CHOICE, log entry 119). -/
def meshReady (d : Nat) (s : State) : State :=
  let ready := (List.range 128).map (· + 128 * d)
  let up := ready.filter (fun t => s.boot.tested.getLsbD t && !s.fences.tiles.getLsbD t)
  let s := { s with boot := { s.boot with
    meshUp := bitOn s.boot.meshUp d, tiles := up.foldl (fun b t => bitOn b t) s.boot.tiles }
                    mesh := { s.mesh with started := true } }
  let s := if Config.tokenRing then
      (ready.take (Config.tokens.toNat + 1)).foldl (fun t i => t.modTile i (fun x => { x with passing := 1 })) s
    else s
  let s := { s with dist := { s.dist with master := if s.dieOut 0 then 1 else 0 } }
  (up.flatMap (fun t => [4 * t, 4 * t + 1, 4 * t + 2, 4 * t + 3])).foldl (fun u k => u.modCore k (fun c =>
    { c with fw := { c.fw with running := true, pc := Config.firmwareEntry } })) s

/-- The rates of a mode, the highest first, in tenths of GT/s (R50). -/
def pcieRates : PcieMode → List Nat
  | .cxl => [640, 320, 160, 80]
  | _ => [1280, 640, 320, 160, 80, 50, 25]

/-- A port as it trains: what the package configuration record asks within the limits of R50, a CXL port not split in four and at
most one endpoint; under the alternative at the next lower rate (R22). -/
def State.portSetup (s : State) (i : Nat) (alt : Bool) (p : PciePort) : PciePort :=
  let other := (List.range 4).any (fun j => j != i && (s.pciePort j).mode == .endpoint)
  let mode := if p.mode == .endpoint && other then .root else p.mode
  { mode := mode, width := if mode == .cxl && p.width == .x4x4x4x4 then .x8x8 else p.width
    rate := (pcieRates mode).getD (if alt then 1 else 0) 0 }

/-- The function of a step instance that has passed accepts requests, and its bit is set (R26). -/
def passStep (n i : Nat) (alt : Bool) (byte : Byte) (s : State) : State :=
  let b := s.boot
  match n with
  | 0 => { s with boot := { b with fwok := true } }
  | 1 => { s with boot := { b with hbm := bitOn b.hbm i } }
  | 2 => { s with boot := { b with tested := bitOn b.tested i } }
  | 3 => meshReady i s
  | 4 =>
    let s := s.modPort i (fun q => { q with trained := true, half := alt, creq := 512, crsp := 512 })
    { s with boot := { b with links := bitOn b.links i }
             links := { s.links with cap := Assoc.set s.links.cap i (0x100 ||| BitVec.zeroExtend 64 byte) } }
  | 5 =>
    let port := s.portSetup i alt s.inp.pport
    let range := if s.inp.k = 0 || port.mode != .cxl then [] else [((s.inp.addr.getD 0).toNat, s.inp.k, i)]
    let known := match s.inp.write with
      | some w => Assoc.set s.links.pcieCap i (w &&& 0x40FF000000000000)
      | none => s.links.pcieCap
    { s with boot := { b with pcie := bitOn b.pcie i }
             links := { s.links with hdm := s.links.hdm ++ range, pports := Assoc.set s.links.pports i port, pcieCap := known } }
  | _ => { s with boot := { b with osready := true, alldone := true } }

/-- The policy written when an instance fails (R24): its latest record's policy decides. -/
def nextPolicy (n : Nat) (r : Option JournalRec) : Byte :=
  match r with
  | none => 1
  | some r => if r.altered then (if stepOptional n then 3 else 4) else if r.outcome == 1 then 2 else 1

/-- `BRINGUP_STEP_COMPLETE`: instance `i` of step `n` passes or fails, or finds no partner. -/
def stepComplete (n i : Nat) (passed : Bool) (detail : BitVec 16) (byte : Byte) (alone : Bool) (s : State) : State :=
  if s.boot.halted || n != s.boot.stepNow || stepCount n ≤ i || s.boot.done.contains i || s.boot.alldone then s
  else if alone && stepOptional n then advance 7 (s.markDone i)
  else
    let r := s.latest n i
    let attempt : Byte := match r with
      | some r => if r.outcome == 1 then r.attempt + 1 else 1
      | none => 1
    let alt := match r with | some r => r.altered | none => false
    if passed then
      advance 7 ((passStep n i alt byte (s.journalPut (BitVec.ofNat 8 n) (if alt then 2 else 0) i 0 attempt detail)).markDone i)
    else
      let s := ((s.journalPut (BitVec.ofNat 8 n) 1 i (nextPolicy n r) attempt detail).outInstance n i detail).haltCheck
      let s := if n = 0 || n = 6 then { s with boot := { s.boot with halted := true } } else s
      advance 7 (s.markDone i)

/-! ### Temperature and clock (R15, R16) -/

/-- The readings of a poll take the place of earlier ones. -/
def newReadings (now old : Assoc Int) : Assoc Int := now.foldl (fun m e => Assoc.set m e.1 e.2) old
/-- The highest tile reading. -/
def hottestOf (temps : Assoc Int) : Int :=
  match (temps.filter (fun e => e.1 < 256)).map (·.2) with
  | [] => 0
  | x :: xs => xs.foldl max x
/-- Has the time between two actions passed, in nanoseconds? -/
def State.passed (s : State) (since : Option (BitVec 64)) (nanos : Nat) : Bool :=
  match since with
  | some t => decide (nanos ≤ (s.ptime - t).toNat)
  | none => true

/-- `THERMAL_POLL`: every 100 µs the sensors of all tiles and stacks are read; at 110 °C the package turns itself off. -/
def thermalPoll (temps : Assoc Int) (s : State) : State :=
  if !s.passed s.mgmt.polledAt 100000 then s
  else
    let all := newReadings temps s.mgmt.temps
    let s := { s with mgmt := { s.mgmt with temps := all, hottest := hottestOf all, polledAt := some s.ptime } }
    if 110 ≤ hottestOf all then
      let s := s.journalPut 0xFF 5 0 0 0 s.freeDetail
      { s with boot := { s.boot with off := true } }
    else s

/-- `CLOCK_ADJUST_TICK`: by 100 MHz in 1 ms. -/
def clockTick (s : State) : State :=
  let m := s.mgmt
  if !s.passed m.clockAt 1000000 then s
  else if 95 ≤ m.hottest then { s with mgmt := { m with clock := max 1000 (m.clock - 100), clockAt := some s.ptime } }
  else if m.hottest < 90 then { s with mgmt := { m with clock := min 1900 (m.clock + 100), clockAt := some s.ptime } }
  else s

/-! ### Fences while running (R28 to R31) -/

namespace State

/-- Is a core's deque of a region not empty? -/
def dequeHolds (s : State) (r : BitVec 12) (k : Nat) : Bool :=
  match s.dequeCell r k with
  | some c => s.bytes c 4 != s.bytes (c + 4) 4
  | none => false

/-- The first of some cores on which a task instance or continuation of a region is dispatched: one that runs, is parked, or is
pre-empted with its tree. -/
def taskOn (s : State) (r : BitVec 12) (cores : List Nat) : Option Nat :=
  let kept : List Kept := match s.region r with
    | some g => ((s.life g.root).saved ++ (s.life g.root).savedParked).filter (fun p => !p.lookup && p.ctx.id.region == r)
    | none => []
  cores.find? (fun k =>
    ((s.core k).user.running && (s.core k).user.id.region == r)
      || (match (s.core k).parked with | some p => p.ctx.id.region == r | none => false)
      || kept.any (fun p => p.core == k))

/-- The first of some cores that holds work of a region: a task, or items of its own deque. -/
def workOn (s : State) (r : BitVec 12) (cores : List Nat) : Option Nat :=
  (s.taskOn r cores).or (cores.find? (fun k => match s.region r with
    | some g => g.granules != [] && g.cores.contains k && s.dequeHolds r k
    | none => false))

/-- The regions that had dispatched work on a unit, each with a core of it; `on` says which of the unit's cores, if any, holds a
region's. -/
def workOf (s : State) (u : FenceUnit) (on : BitVec 12 → List Nat → Option Nat) : List (BitVec 12 × Nat) :=
  s.regions.filterMap (fun e =>
    let r := BitVec.ofNat 12 e.1
    match on r (unitCores u) with
    | some k => some (r, k)
    | none => ((unitLookups u).find? (fun n => (s.lookup n).busy && (s.lookup n).bank.region == r)).map (fun n => (r, n)))

/-- A region no longer runs on some cores, nor holds granules on the tiles that are gone. -/
def withoutCores (s : State) (r : BitVec 12) (cores : List Nat) (goneTile : Nat → Bool) : State :=
  match s.region r with
  | none => s
  | some g =>
    let gone := g.granules.filter (fun x => goneTile (x / 96))
    let t := s.setRegion r { g with
      cores := g.cores.filter (fun k => !cores.contains k), tiles := g.tiles.filter (fun t => !goneTile t)
      granules := g.granules.filter (fun x => !goneTile (x / 96)) }
    { t with dist := { t.dist with owners := gone.foldl (fun m x => Assoc.erase m x) t.dist.owners } }

/-- Requests in flight through a Linnor port that is fenced are answered with an error (R27, R29). -/
def dropLinnor (s : State) (gone : Nat → Bool) : State :=
  (s.links.reqs.filter (fun e => gone e.2.port)).foldl (fun t e => (t.lnDone e.2).lnAnswer e.2 0xB nackGone []) s
/-- The same of a PCIe port, whose posted writes may never perform. -/
def dropPcie (s : State) (p : Nat) : State :=
  let rs := s.links.pcie.filter (fun e => e.2.req.port == p)
  let posted := Assoc.get [] s.links.posted p
  let s := { s with links := { s.links with pcie := s.links.pcie.filter (fun e => e.2.req.port != p)
                                            posted := Assoc.erase s.links.posted p } }
  let mine (x : Packet) : Bool := ((pktHome x).2 - 0xD0000000000) / 2 ^ 38 == p
  let waiting := s.links.pcieWait.filter mine
  let s := { s with links := { s.links with pcieWait := s.links.pcieWait.filter (fun x => !mine x) } }
  let s := rs.foldl (fun t e => (e.2.orig.toList ++ e.2.flushes).foldl (fun u x => u.nack x nackGone) t) s
  let s := waiting.foldl (fun t x => t.nack x nackGone) s
  let s := { s with links := { s.links with outer := s.links.outer.filter (fun o => o.port != p) } }
  posted.foldl (fun t x => t.nack x nackGone) s

end State

/-- The compute dies that a fence of die `d` takes (R30). -/
def fencedDies (d : Nat) : FenceCause → List Nat
  | .lostSystemBridge => [0, 1]
  | .lostDieBridge => [1]
  | .fabric => if d = 0 then [0, 1] else [1]
  | _ => if d = 0 then [0] else [1]

/-- Every region ends because no compute die is left (R30). -/
def endAll (s : State) : State :=
  s.pushAll ((s.regions.filter (fun e => e.2.parent == 0)).map (fun e => (.regionFault, { n := e.1, value := 0xFE })))

/-- Packets to a fenced die, and those in it, are lost: a request from elsewhere has the error response, and so has a request
whose answer was still in the die (R27, R29). What waits in a reassembly buffer for its order and came from the die is lost too. -/
def State.losePackets (s : State) (d : Nat) : State :=
  let m := s.mesh
  let lost (f : Flit) : Bool := f.die.toNat == d && !dieRoutes s d || nodeDie f.pkt.dst == d
  let at_ (p : Packet) : Bool := nodeDie p.dst == d
  let ends (p : Packet) : Bool := nodeDie p.dst == d || nodeDie p.src == d
  let gone := ((m.flits ++ m.crossing).filter lost).map (·.pkt) ++ (m.pending ++ m.held).filter ends ++ m.offered.filter at_
  let owed (p : Packet) : Bool := if p.kind.toNat < 8 then nodeDie p.src != d else nodeDie p.src == d && nodeDie p.dst != d
  { s with mesh := { m with
      flits := m.flits.filter (fun f => !lost f), crossing := m.crossing.filter (fun f => !lost f)
      offered := m.offered.filter (fun p => !at_ p), held := m.held.filter (fun p => !ends p)
      pending := m.pending.filter (fun p => !ends p) ++ (gone.filter owed).flatMap (lostAnswer s) } }

/-- Fence a compute die: its bits clear, the record is written, its units leave service. -/
def fenceDie (s : State) (d : Nat) : State :=
  let s := s.clearDie d
  let s := { s with boot := { s.boot with replreq := true } }
  let s := s.journalPut 0xFF 4 d 0 0 s.freeDetail
  (s.dropLinnor (fun p => p / 32 == d)).losePackets d

/-- `RUNTIME_FENCE` of compute dies. Bring-up halts where none is left (R23, R30). -/
def fenceDies (d : Nat) (c : FenceCause) (s : State) : State :=
  let new := (fencedDies d c).filter (fun x => !s.dieOut x)
  if new = [] then s
  else
    let fabric := c == .lostSystemBridge || c == .fabric
    let s := new.foldl fenceDie s
    let s := { s with boot := { s.boot with transit := s.dieOut 0 && !s.dieOut 1 && !(fabric && d = 0) } }
    let s := if s.boot.alldone then s else s.haltCheck
    if s.fences.dies == 3 then endAll (new.foldl (fun t x => t.eraseUnit (.die x)) s)
    else s.pushAll (new.map (fun x => (.distributorTakeover, { n := x })))

/-- The FENCE record of a unit, and what R31 says of every fence. -/
def fenceRecord (s : State) (n : Nat) : State :=
  let s := s.journalPut 0xFF 4 n 0 0 s.freeDetail
  { s with boot := { s.boot with replreq := true } }

/-- Work on a fenced tile or a stack's lookup cores is lost (R29, R109): each of its regions faults. -/
def loseWork (s : State) (u : FenceUnit) (goneTile : Nat → Bool) : State :=
  let work := s.workOf u s.workOn
  let s := s.eraseUnit u
  let s := (s.regions.map (·.1)).foldl (fun t r => t.withoutCores (BitVec.ofNat 12 r) (unitCores u) goneTile) s
  s.pushAll (work.map (fun e => (.regionFault, { n := e.1.toNat, m := e.2, value := 0xFE })))

/-- One hour, in nanoseconds of PTIME. -/
def hour : Nat := 3600000000000

/-- Does a report to the management core ask for a fence (R29)? An uncorrectable error is noted: a tile's second within an hour
fences it, and so does a stack's in the seventeenth row within an hour; a Linnor port is fenced for the flits it has resent. The
retries of a PCIe/CXL port, and the state of a bridge or of a die's fabric, are outside the model (log entry 131). -/
def fenceDue (u : FenceUnit) (row : Nat) (s : State) : Bool × State :=
  let recent (t : BitVec 64) : Bool := decide ((s.ptime - t).toNat ≤ hour)
  match u with
  | .tile n =>
    let again := match Assoc.find? s.fences.tileErr n with | some t => recent t | none => false
    (again, { s with fences := { s.fences with tileErr := Assoc.set s.fences.tileErr n s.ptime } })
  | .stack n =>
    let rows := ((Assoc.get [] s.fences.rowErr n).filter (fun e => recent e.2 && e.1 != row)) ++ [(row, s.ptime)]
    (decide (16 < rows.length), { s with fences := { s.fences with rowErr := Assoc.set s.fences.rowErr n rows } })
  | .linnorPort n => (decide (Config.retryLimit ≤ (s.lnPort n).resentNow s.ptime), s)
  | _ => (true, s)

/-- A fence of a unit (R28, R29): the bit clears, the record is written, the unit stops accepting requests. -/
def fenceUnit (u : FenceUnit) (c : FenceCause) (s : State) : State :=
  match u with
  | .tile n =>
    if 256 ≤ n || s.fences.tiles.getLsbD n || s.dieOut (tileDie n) then s
    else
      let s := fenceRecord { s with boot := { s.boot with tiles := bitOff s.boot.tiles n, tested := bitOff s.boot.tested n } } n
      loseWork { s with fences := { s.fences with tiles := bitOn s.fences.tiles n } } u (· == n)
  | .stack n =>
    if 12 ≤ n || s.fences.hbms.getLsbD n || s.dieOut (n / 6) then s
    else
      let s := fenceRecord { s with boot := { s.boot with hbm := bitOff s.boot.hbm n } } n
      let s := loseWork { s with fences := { s.fences with hbms := bitOn s.fences.hbms n } } u (fun _ => false)
      if s.boot.alldone then s else s.haltCheck
  | .linnorPort n =>
    if 64 ≤ n || s.fences.lports.getLsbD n || s.dieOut (n / 32) then s
    else
      let s := fenceRecord { s with boot := { s.boot with links := bitOff s.boot.links n } } n
      ({ s with fences := { s.fences with lports := bitOn s.fences.lports n } }).dropLinnor (· == n)
  | .pciePort n =>
    if 4 ≤ n || s.fences.pports.getLsbD n then s
    else
      let s := fenceRecord { s with boot := { s.boot with pcie := bitOff s.boot.pcie n } } n
      ({ s with fences := { s.fences with pports := bitOn s.fences.pports n } }).dropPcie n
  | .die d => if 2 ≤ d then s else fenceDies d c s

/-- `RUNTIME_FENCE` (R29): what the management core is told of a unit; it fences the unit if there is cause. -/
def runtimeFence (u : FenceUnit) (c : FenceCause) (row : Nat) (s : State) : State :=
  let (due, t) := fenceDue u row s
  if due then fenceUnit u c t else t

/-- `RETRY_LIMIT_EXCEEDED` (R29, R35): the port is fenced. -/
def retryLimitExceeded (p : Nat) (s : State) : State :=
  if Config.retryLimit ≤ (s.lnPort p).resentNow s.ptime then s.push .runtimeFence { unit := some (.linnorPort p), cause := .retryLimit }
  else s

/-! ### The surviving distributor (R119) -/

/-- New tiles, cores and granules for a region that has no core left, within its budget. -/
def newPlace (s : State) (g : Region) : Option (List Nat × List Nat × List Nat) :=
  let want (i n : Nat) : Option Nat := if g.carved.getLsbD i then some n else none
  let ng := g.sramBudget / granuleBytes
  let found := match s.region g.parent with
    | none => (s.pickTiles g.tileBudget []).bind (fun ts =>
        (splitCores ts g.coreBudget (fun t => (List.range 4).map (· + 4 * t))).bind (fun cs =>
          (splitGranules ts ng (fun t => (List.range 96).map (· + 96 * t))).map (fun xs => (ts, cs, xs))))
    | some p => childPlace (s.usableTiles g.parent) (s.usableCores g.parent) (s.freeGranules g.parent) p (want 0 g.tileBudget)
        (want 1 g.coreBudget) (want 2 ng)
  match found with
  | some (ts, cs, xs) => if cs = [] then none else some (ts, sortNats cs, sortNats xs)
  | none => none

/-- What the mirror on the survivor's side says of a grain last: its state (R118, R119). -/
def State.mirrorSays (s : State) (live : Nat) (x : Grain) : Option Nat :=
  ((if live = 0 then s.dist.journal0 else s.dist.journal1).reverse.find? (fun e =>
    field e 0 2 == x.region.toNat && field e 3 1 == x.die.toNat && field e 4 4 == x.first.toNat)).map (fun e => field e 2 1)

/-- The survivor takes a region over: the grains that the lost die's journal has PENDING are its own and are dealt, and a region
without cores is placed again or faults. -/
def takeRegion (lost live : Nat) (s : State) (r : BitVec 12) : State :=
  match s.region r with
  | none => s
  | some g0 =>
    let had := g0.cores != []
    let s := s.withoutCores r (unitCores (.die lost)) (fun t => tileDie t == lost)
    let own (x : Grain) : Grain :=
      if x.region == r && x.die.toNat == lost && s.mirrorSays live x == some 0 then { x with die := BitVec.ofNat 1 live } else x
    let s := { s with dist := { s.dist with grains := s.dist.grains.map own } }
    match s.region r with
    | none => s
    | some g =>
      if g.cores != [] || !had then (if g.granules = [] then s else dealOut s r live)
      else match newPlace s g with
        | none => endDomain (s.faultDomain 9 r) 0xFE 0 0 s
        | some (ts, cs, xs) =>
          let s := s.setRegion r { g with tiles := ts, cores := cs, granules := xs }
          let s := { s with dist := { s.dist with owners := xs.foldl (fun m x => Assoc.set m x r) s.dist.owners } }
          let s := cs.zipIdx.foldl (fun t e => t.modCore e.1 (fun c => { c with rank := BitVec.ofNat 10 e.2 })) s
          lfeBanks (if xs = [] then s else dealDie s r live)

/-- `DISTRIBUTOR_TAKEOVER`: compute die `lost` has been fenced and the other one survives. -/
def takeover (lost : Nat) (s : State) : State :=
  let live := 1 - lost
  if 2 ≤ lost || !s.dieOut lost || s.dieOut live then s
  else
    let s := { s with dist := { s.dist with term := s.dist.term + 1, master := BitVec.ofNat 1 live } }
    let s := (s.workOf (.die lost) s.taskOn).foldl (fun t e => match t.region e.1 with
      | some _ => endDomain (t.faultDomain 9 e.1) 0xFE 0 e.2 t
      | none => t) s
    let s := s.eraseUnit (.die lost)
    ((s.regions.filter (fun e => e.2.ending.isNone)).map (fun e => (BitVec.ofNat 12 e.1 : BitVec 12))).foldl
      (fun t r => takeRegion lost live t r) s

/-! ### I3C and boundary scan (R24, R31, R55, R56) -/

/-- `I3C_REQUEST`: a journal record, the highest tile reading and those of every tile and stack, or `READYMAP`. -/
def i3cRequest (q : I3cQuery) (s : State) : State :=
  match q with
  | .journal n => match Assoc.find? s.boot.journal n with
    | some r => s.answerOutside true r.bytes
    | none => s.answerOutside (decide (n < 4096)) (List.replicate 32 0)
  | .sensors => s.answerOutside true
    ((s.mgmt.hottest :: (List.range 268).map (Assoc.get 0 s.mgmt.temps)).flatMap (fun x => leBytes 4 (BitVec.ofInt 32 x).toNat))
  | .readymap => s.answerOutside true (leBytes 8 s.readymap.toNat)

/-- `I3C_SERVICE_COMMAND`: the entries of a step instance are cleared, and the request for replacement with them, whichever instance
is named (R31 leaves open whether records of other units keep it; DESIGN CHOICE, log entry 135). -/
def i3cService (n i : Nat) (s : State) : State :=
  { s with boot := { s.boot with
    journal := s.boot.journal.filter (fun e => !(e.2.step.toNat == n && e.2.inst.toNat == i))
    latest := Assoc.erase s.boot.latest (n * 65536 + i), replreq := false } }

/-! ### The seal -/

/-- Data written under another key than the one now installed for its key ID reads as what that key makes of it. -/
def newKey (s : State) (kid : BitVec 8) : State :=
  let units := (s.unitKey.filter (fun e => e.2 == kid)).map (·.1)
  units.foldl (fun t u => (List.range 64).foldl (fun v i =>
    v.setByte (u * 64 + i) ((Config.freeWord 6 (s.fresh * 2 ^ 44 + u * 64 + i)).extractLsb' 0 8)) t) s

/-- `SEAL_KEY_INSTALL` (R161, R162): a key is installed or removed; a tenant's is bound to its confidential PASID. -/
def sealKey (kid : BitVec 8) (install : Bool) (tenant : Option (BitVec 20)) (s : State) : State :=
  if kid = 0 then s
  else if install then
    let s := newKey s kid
    { s with security := { s.security with
        keys := Assoc.set s.security.keys kid.toNat true
        tenants := match tenant with
          | some p => Assoc.set s.security.tenants p.toNat kid
          | none => s.security.tenants } }
  else { s with security := { s.security with keys := Assoc.erase s.security.keys kid.toNat } }

/-- `SEAL_ATTESTATION` (R31): REPLREQ and the counts of tiles, stacks, lookup cores, Linnor and PCIe ports in service. -/
def attest (s : State) : State :=
  let nst := State.countUp 12 s.stackUp
  { s with security := { s.security with
    report := [s.boot.replreq.toNat, State.countUp 256 s.tileUp, nst, 8 * nst, State.countUp 64 s.linkUp
               , State.countUp 4 s.pcieUp] } }

/-! ### Meanings -/

/-- `POWER_ON_RESET` (R22). -/
def execPowerOnReset (s : State) : Host.Outcome State Fault Refusal := .next (powerOn s)
/-- `BRINGUP_STEP_COMPLETE` (R22 to R26): step `inp.n`, instance `inp.m`, passed `inp.flag`, detail `inp.value`, the link
partner's capability byte `inp.k`; `inp.int` not 0 says that a port detects no partner. Of a PCIe/CXL port, `inp.pport` is what the
configuration record asks of it (R50), `inp.k` the size of the far memory below a CXL port and `inp.addr` where its HDM decoder
places it (R54), 0 for none, and `inp.write` its AtomicOp capability where enumeration has read it, KNOWN and CAP as in R43. -/
def execBringupStepComplete (s : State) : Host.Outcome State Fault Refusal :=
  .next (stepComplete s.inp.n s.inp.m s.inp.flag (s.inp.value.extractLsb' 0 16) (BitVec.ofNat 8 s.inp.k) (s.inp.int != 0) s)
/-- `THERMAL_POLL` (R15): the readings `inp.temps`. -/
def execThermalPoll (s : State) : Host.Outcome State Fault Refusal := .next (thermalPoll s.inp.temps s)
/-- `CLOCK_ADJUST_TICK` (R15). -/
def execClockAdjustTick (s : State) : Host.Outcome State Fault Refusal := .next (clockTick s)
/-- `RUNTIME_FENCE` (R29): unit `inp.unit`, cause `inp.cause`. -/
def execRuntimeFence (s : State) : Host.Outcome State Fault Refusal :=
  match s.inp.unit with
  | some u => .next (runtimeFence u s.inp.cause s.inp.m s)
  | none => .next s
/-- `RETRY_LIMIT_EXCEEDED` (R35): port `inp.n`. -/
def execRetryLimitExceeded (s : State) : Host.Outcome State Fault Refusal := .next (retryLimitExceeded s.inp.n s)
/-- `DISTRIBUTOR_TAKEOVER` (R119): the lost compute die `inp.n`. -/
def execDistributorTakeover (s : State) : Host.Outcome State Fault Refusal := .next (takeover s.inp.n s)
/-- `I3C_REQUEST` (R55): `inp.query`. -/
def execI3cRequest (s : State) : Host.Outcome State Fault Refusal := .next (i3cRequest s.inp.query s)
/-- `I3C_SERVICE_COMMAND` (R24, R31): step `inp.n`, instance `inp.m`. -/
def execI3cServiceCommand (s : State) : Host.Outcome State Fault Refusal := .next (i3cService s.inp.n s.inp.m s)
/-- The instructions of the boundary-scan port (R56), as the model numbers them: BYPASS 0, SAMPLE 1, PRELOAD 2 and EXTEST 3, which
are the standard's mandatory ones, and the private instruction of debug access 4. -/
def jtagDebug : Nat := 4
/-- `JTAG_INSTRUCTION`: the mandatory instructions at all times; the private one only while debug access is open. What is not
admitted selects BYPASS. -/
def jtagInstruction (i : Nat) (s : State) : State :=
  { s with mgmt := { s.mgmt with jtag := if i < jtagDebug || (i == jtagDebug && s.mgmt.debugOpen) then i else 0 } }
/-- `JTAG_INSTRUCTION` (R56): instruction `inp.n`. -/
def execJtagInstruction (s : State) : Host.Outcome State Fault Refusal := .next (jtagInstruction s.inp.n s)
/-- `DEBUG_ACCESS_CHALLENGE` (R56): `inp.flag` says that the answer's signature is good. -/
def execDebugAccessChallenge (s : State) : Host.Outcome State Fault Refusal :=
  .next { s with mgmt := { s.mgmt with debugOpen := s.mgmt.debugOpen || s.inp.flag } }
/-- `SEAL_KEY_INSTALL` (R161, R162): key ID `inp.n`, install `inp.flag`; `inp.m` 1 for the tenant of PASID `inp.pasid`. -/
def execSealKeyInstall (s : State) : Host.Outcome State Fault Refusal :=
  .next (sealKey (BitVec.ofNat 8 s.inp.n) s.inp.flag (if s.inp.m = 1 then some s.inp.pasid else none) s)
/-- `SEAL_TRACE_KEY_INSTALL` (R136): PASID `inp.pasid`, the key's 32 bytes `inp.bytes`. -/
def execSealTraceKeyInstall (s : State) : Host.Outcome State Fault Refusal :=
  .next { s with security := { s.security with 
    traceKeys := Assoc.set s.security.traceKeys s.inp.pasid.toNat ((s.inp.bytes ++ List.replicate 32 0).take 32) } }
/-- `SEAL_ATTESTATION` (R31). -/
def execSealAttestation (s : State) : Host.Outcome State Fault Refusal := .next (attest s)

end Sys2Proof.Machine
end

