-- ==== Sys2Proof/Machine/Bundle.lean ====
section
/-!
DEFINITION. Fetching and issuing a bundle (R186, R187, R285, R317): the bytes of a bundle at the context's pc, the checks
that come before any syllable, and how a bundle of several syllables combines what its syllables do. Log entry 18.
Also log entries 90 (the firmware context's fetch), 103 (traps of level 8 below a point), 116 (traps while a request
off the package is in flight).
-/

namespace Sys2Proof.Machine

/-! ### Fetch -/

/-- What fetching gives. -/
inductive Fetched (α : Type)
  | got (x : α) (s : State)
  /-- The fetch faults: the state has the fault recorded (R153). -/
  | fault (s : State)
  /-- PROT or ECC_UNCORR on the fetch (level 2 of R317). -/
  | trap (code : Byte) (s : State)
  /-- The PASID is not ACTIVE. -/
  | wait
  deriving DecidableEq, Repr

/-- `n` bytes of program at a virtual address, for the agent in progress: they need X (R149). -/
def fetchBytes (s : State) (va : Addr) (n : Nat) : Fetched (List Byte) :=
  match s.translate (agentPort s.cur) s.ctx.id.conf s.ctx.id.pasid va accExec with
  | .ok pa t =>
    let l : Loc := ⟨physKey pa, physCell pa, false, some va⟩
    (match homeTrap t l n false with
      | some c => .trap c t
      | none => .got (t.load l n) (t.countFar l.cell))
  | .prot t => .trap tProt t
  | .fault c t => .fault (t.bundleFault va accExec c 0)
  | .wait => .wait

/-- The syllables of the bundle at `va`: up to the first with E set, at most `k`. -/
def fetchSyllables : Nat → State → Addr → Fetched (List (BitVec 64))
  | 0, s, _ => .got [] s
  | k + 1, s, va =>
    match fetchBytes s va 8 with
    | .got bs t =>
      let w := BitVec.ofNat 64 (leNat bs)
      if w.getLsbD 63 then .got [w] t
      else (match fetchSyllables k t (va + 8) with
        | .got ws u => .got (w :: ws) u
        | .fault u => .fault u
        | .trap c u => .trap c u
        | .wait => .wait)
    | .fault u => .fault u
    | .trap c u => .trap c u
    | .wait => .wait

/-! ### A bundle of several syllables -/

/-- The outcomes of exec that a bundle goes on from. -/
abbrev Exec := Instr → State → Host.Outcome State Fault Refusal

/-- Is an instruction a propagation point (R284)? -/
def isPoint : Instr → Bool
  | .prop | .ckpt | .dpick _ => true
  | _ => false

/-- The state in which a syllable runs inside a bundle. -/
def inSlot (s : State) (snap : Ctx) (len : Nat) (slot : Slot) (phase : Nat) : State :=
  { s with issue := { s.issue with snap := some snap, len := len, slot := slot.rank, inner := true, phase := phase
                                   trap := none, stall := 0 } }

/-- What a syllable does alone in state `s`, reading the snapshot. -/
def trial (ex : Exec) (snap : Ctx) (s : State) (len : Nat) (x : Slot × Instr) : Host.Outcome State Fault Refusal :=
  ex x.2 (inSlot s snap len x.1 0)

/-- The first trap of R317's order among a list of trials, below a level. -/
def bestTrap (below : Nat) : List State → Option (Nat × TrapReq)
  | [] => none
  | t :: rest =>
    match t.issue.trap, bestTrap below rest with
    | some x, some y => if x.1 < below then (if x.1 ≤ y.1 then some x else some y) else some y
    | some x, none => if x.1 < below then some x else none
    | none, y => y

/-- Run syllables one after another on one state, each reading the snapshot; stop at a trap. `.error` holds the state in
which the trap arose. -/
def runSlots (ex : Exec) (snap : Ctx) (len phase : Nat) :
    List (Slot × Instr) → State → Host.Outcome (State ⊕ (State × TrapReq)) Fault Refusal
  | [], s => .next (.inl s)
  | x :: rest, s =>
    match ex x.2 (inSlot s snap len x.1 (if isPoint x.2 then phase else 0)) with
    | .next t =>
      (match t.issue.trap with
        | some y => .next (.inr (t, y.2))
        | none => runSlots ex snap len phase rest t)
    | .fault f => .fault f
    | .refused r => .refused r

/-- The states that trials end in, if all do. -/
def trials (ex : Exec) (snap : Ctx) (s : State) (len : Nat) :
    List (Slot × Instr) → Host.Outcome (List State) Fault Refusal
  | [] => .next []
  | x :: rest =>
    match trial ex snap s len x with
    | .next t => (match trials ex snap s len rest with
        | .next ts => .next (t :: ts)
        | .fault f => .fault f
        | .refused r => .refused r)
    | .fault f => .fault f
    | .refused r => .refused r

/-- Take a trap that arose in `t`, from state `base`: only what the trap itself wrote is taken from `t`. -/
def trapFrom (base t : State) (q : TrapReq) : State :=
  (base.modCtx (fun c => { c with failinfo := t.ctx.failinfo })).takeTrap q

/-- The state among trials in which a trap arose. -/
def trapState (d : State) (q : TrapReq) (ts : List State) : State :=
  (ts.find? (fun t => (t.issue.trap.map (·.2)) == some q)).getD d

/-- The syllables perform from state `sp`, propagation points first (R285); where a trap of levels 8 to 10 arises, the
first of R317's order among all the syllables' is taken. -/
def perform (ex : Exec) (b : List (Slot × Instr)) (s sp : State) : Host.Outcome State Fault Refusal :=
  let len := b.length
  let points := b.filter (fun x => isPoint x.2)
  let others := b.filter (fun x => !isPoint x.2)
  match runSlots ex s.ctx len 2 (points ++ others) sp with
  | .fault f => .fault f
  | .refused r => .refused r
  | .next (.inl t) => .next (s.commit { t with issue := { t.issue with snap := none, inner := false } })
  | .next (.inr (t, q)) =>
    match trials ex s.ctx sp len others with
    | .fault f => .fault f
    | .refused r => .refused r
    | .next ts =>
      match bestTrap ((t.issue.trap.map (·.1)).getD 0) ts with
      | some (_, q') => .next (trapFrom sp (trapState sp q' ts) q')
      | none => .next (trapFrom sp t q)

/-- Issue a bundle of several syllables (R187, R285, R317). Page faults hold it first; then the checks of levels 4 to 7
of every syllable; then interlocks; then a level 8 trap in a slot below the propagation point; then the point's runs;
then every syllable performs, and the bundle commits whole or not at all. Narrowings of a point that has run stay. -/
def runBundle (ex : Exec) (b : List (Slot × Instr)) (s : State) : Host.Outcome State Fault Refusal :=
  let len := b.length
  match trials ex s.ctx s len b with
  | .fault f => .fault f
  | .refused r => .refused r
  | .next ts =>
    match ts.find? (fun t => t.issue.stall == 2) with
    | some t => .next { t with issue := {} }
    | none =>
      match bestTrap 320 ts with
      | some (_, q) => .next (trapFrom s (trapState s q ts) q)
      | none =>
        match ts.find? (fun t => t.issue.stall == 1) with
        | some t => .next { t with issue := {} }
        | none =>
          let points := b.filter (fun x => isPoint x.2)
          let before := (b.zip ts).filterMap (fun x =>
            if !isPoint x.1.2 && points.any (fun p => x.1.1.rank < p.1.rank) then some x.2 else none)
          match bestTrap 360 before with
          | some (_, q) => .next (trapFrom s (trapState s q before) q)
          | none =>
            match runSlots ex s.ctx len 1 points s with
            | .fault f => .fault f
            | .refused r => .refused r
            | .next (.inr (t, q)) => .next ({ t with issue := {} }.takeTrap q)
            | .next (.inl sp) => perform ex b s { sp with issue := { fixed := sp.issue.fixed } }

/-- The bundle at a context's pc that is not made of instructions raises ILLEGAL before any syllable commits (R186,
R254, R271). -/
def illegalBundle (s : State) : Eff State := raise tIllegal s

/-- `ILLEGAL_BUNDLE` (R271). -/
def execIllegalBundle (s : State) : Host.Outcome State Fault Refusal := syllable illegalBundle s

/-! ### A context's move -/

/-- Does a context issue nothing for now (R153, R311, R312, R320)? -/
def Ctx.waiting (c : Ctx) : Bool :=
  !c.running || c.waits.syscall || c.waits.fault.isSome
    || (c.waits.idle && (List.range 32).all (fun k => c.regs.event k == 0))

/-- Has the bundle at the pc done a part of its work, so that no boundary lies before it: it waits for the answer of an
interlocked request, or keeps what earlier ones brought or sent (R181)? -/
def Waits.midway (w : Waits) : Bool := w.sent || w.reply.isSome || w.got != [] || w.sentChunks != 0

/-- The first deferred trap, when it may be taken: at a boundary, and not in a handler. -/
def Ctx.firstDeferred (c : Ctx) : Option Deferred :=
  if c.status.intrap || c.waits.midway || !c.running || c.waits.syscall then none else c.deferred.head?

/-- The first trap of group 1 (R192, R317). It is taken ahead of a bundle that a page fault holds, and ends an `IDLE` (R312). -/
def Ctx.nextDeferred (c : Ctx) : Option Deferred := c.firstDeferred.filter (·.rank < 5)

/-- The DEBUG of a `BRK`, which is taken as that of an execute breakpoint of the next bundle would be (R317). -/
def Ctx.brkWaits (c : Ctx) : Option Deferred := c.firstDeferred.filter (·.rank == 5)

/-- The trap that the resolution of its page raises at the bundle (R153). A PAGE resolution raises none in a handler, whose
bundle issues again (R192, R315). -/
def Ctx.resolvedTrap (c : Ctx) : Option Byte := if c.status.intrap then c.waits.resolved.filter (· != tPage) else c.waits.resolved

/-- What a context does in its turn: a transfer that is due takes place; a trap of group 1 is taken; else the bundle at
its pc issues. -/
def contextMove (ex : Exec) (s : State) : Host.Outcome State Fault Refusal :=
  let c := s.ctx
  if c.running && c.due then ex .transferTakesPlace { s with inp := { who := s.cur } }
  else if c.nextDeferred.isSome then ex .deferredTrap { s with inp := { who := s.cur } }
  else if c.waiting then .next s
  else
    let s := if c.waits.idle then s.modCtx (fun c => { c with waits := { c.waits with idle := false } }) else s
    let s := if c.waits.resolved.isSome then s.modCtx (fun c => { c with waits := { c.waits with resolved := none } }) else s
    match c.resolvedTrap with
    | some code => .next (s.takeTrap { code := code })
    | none =>
      match fetchSyllables 4 s c.pc with
      | .fault t => .next t
      | .wait => .next s
      | .trap code t => .next (t.takeTrap { code := code })
      | .got ws t =>
        let h := if bkptOn t then bkptHits t (fun k => k == 0) c.pc 1 else 0
        if let some d := c.brkWaits then
          .next ((t.modCtx (fun c => { c with deferred := c.deferred.drop 1 })).takeTrap { d.req with bhit := h })
        else if h != 0 then .next (t.takeTrap { code := tDebug, bhit := h })
        else match decodeBundle ws with
          | some [x] => ex x.2 { t with issue := { len := 1, slot := x.1.rank } }
          | some b => runBundle ex b { t with issue := {} }
          | none => ex .illegalBundle t

end Sys2Proof.Machine
end

