-- ==== Sys2Proof/Machine/Image.lean ====
section
/-!
DEFINITION. The context image (R201 to R204, R403, R419): what is written for a context that is pre-empted or parked, and
what a restore reads back. Log entries: 63 (what the image has no place for), 64 (the LOOPB field and the order of levels).
Also log entry 117 (the window of a transfer that is not taken).
-/

namespace Sys2Proof.Machine

/-! ### Writing -/

/-- Bytes padded with zeros, or cut, to a size. -/
def pad (n : Nat) (bs : List Byte) : List Byte := (bs ++ List.replicate (n - bs.length) 0).take n

/-- The system registers of the image, in its order (R201). -/
def imageRegs : List SysReg :=
  [.status, .trapcode, .trappc, .trapvec, .failvec, .failinfo, .propbudget, .propstat, .propcount, .ckptdepth, .trailtop
  , .rflevel, .rfiter, .rfstate, .tracectl, .debugctl, .replayctl] ++ (List.range 8).map (fun i => .bkpt (BitVec.ofNat 3 i))

/-- A constraint store entry's bytes (R283). -/
def StoreEntry.bytes (e : StoreEntry) : List Byte :=
  leBytes 8 (e.opc ++ (e.dd ++ (e.da ++ (e.db ++ (0#6 ++ e.imm))))).toNat

/-- The watcher mask of a register. -/
def watchMask (store : List StoreEntry) (r : Nat) : Nat :=
  (store.zipIdx).foldl (fun m e => if e.1.watches (BitVec.ofNat 6 r) then m + 2 ^ e.2 else m) 0

/-- The value of a pending result in 16 bytes, or as a vector slot. -/
def Write.value : Write → List Byte
  | .d _ x => leBytes 16 x.word.toNat
  | .v _ x => x.elems.flatMap (fun e => leBytes 4 e.toNat)
  | .p _ x => leBytes 128 x.toNat
  | .c _ x => leBytes 16 (if x then 1 else 0)
  | .b _ x => leBytes 16 x.toNat
  | .w _ x => leBytes 16 x.toNat
  | .f _ x => leBytes 64 x.toNat
  | .g _ x => leBytes 32 x.toNat
  | .bd _ x => leBytes 16 x.toNat

/-- The tag of a vector value. -/
def Write.tag : Write → Nat
  | .v _ x => x.tag.toNat
  | _ => 0

/-- Results in flight by ascending DIST, in order of issue within one. -/
def sortPend (ps : List Pend) : List Pend :=
  ps.foldl (fun acc p => acc.takeWhile (fun q => q.dist ≤ p.dist) ++ [p] ++ acc.dropWhile (fun q => q.dist ≤ p.dist)) []

/-- The number of vector values before each result. -/
def vecSlots : Nat → List Pend → List (Nat × Pend)
  | _, [] => []
  | n, p :: rest => (n, p) :: vecSlots (if p.wr.isVec then n + 1 else n) rest

/-- A pending-write entry (R204). -/
def pendBytes (n : Nat) (p : Pend) : List Byte :=
  [BitVec.ofNat 8 p.wr.dest, BitVec.ofNat 8 p.dist, if p.wr.isVec then BitVec.ofNat 8 n else 0xFF
  , BitVec.ofNat 8 ((if p.frozen then 1 else 0) + 16 * p.wr.tag)]
    ++ leBytes 4 (p.slot % 4 + 4 * (p.count % 2 ^ 30)) ++ (if p.wr.isVec then leBytes 16 0 else p.wr.value.take 16) ++ leBytes 8 0

/-- An engine state block (R203); `ops` are its bytes 96 to 255. -/
def engineBytes (e : Engine) (ops : List Byte) : List Byte :=
  leBytes 8 e.word.toNat ++ leBytes 4 e.step.toNat ++ [BitVec.ofNat 8 e.stack.length, BitVec.zeroExtend 8 e.cls, BitVec.ofNat 8 e.state.code, 0]
    ++ pad 32 (e.stack.reverse.flatMap (fun w => leBytes 4 w.toNat))
    ++ pad 40 (e.reps.reverse.flatMap (fun l => leBytes 6 l.start.toNat ++ leBytes 4 l.left.toNat))
    ++ leBytes 4 ((e.bcast.armed.getD e.bcast.done).toNat) ++ leBytes 4 e.bcast.skew.toNat
    ++ pad 160 ops

/-- The latched operands, the deepest first. -/
def opsBytes (e : Engine) : List Byte := pad 32 (e.ops.flatMap (fun w => leBytes 4 w.toNat))

/-- The matrix sequencer's OPSTATE (R403). -/
def matOpstate (e : Engine) : List Byte :=
  pad 20 ((e.window.getD []).flatMap (fun w => leBytes 4 w.toNat)) ++ [if e.window.isSome then 1 else 0, 0, 0, 0] ++ opsBytes e
    ++ [BitVec.ofNat 8 e.ops.length, BitVec.ofNat 8 ((if e.satnan then 1 else 0) + (if e.fault.isSome then 2 else 0))]

/-- The FLAGS of a copy word: bit 1 B, bit 2 SATNAN latched (R419). -/
def copyFlags (e : Engine) (b : Bool) : Nat := (if b then 2 else 0) + (if e.satnan then 4 else 0)

/-- The copy sequencer's OPSTATE (R419). -/
def cpyOpstate (e : Engine) (b : Bool) : List Byte :=
  opsBytes e ++ [BitVec.ofNat 8 e.ops.length, BitVec.ofNat 8 (copyFlags e b + (if e.fault.isSome then 8 else 0))] ++ leBytes 6 0
    ++ leBytes 8 e.counted.toNat

/-- The context image of an agent's context (R201), with the areas that a lookup core does not have zero (R200); `parked` sets the flag of R202, `copy` are the copy sequencer's bytes
96 to 255. -/
def imageBytes (s : State) (a : Agent) (parked : Bool) (copy : List Byte) : List Byte :=
  let t := { s with cur := a, issue := {} }
  let c := s.ctxOf a
  let (mat, cpy, acc, held) : Engine × Engine × List Word × Bool := match agentCore a with
    | some k => ((s.core k).mat, (s.core k).cpy, (s.core k).acc0 ++ (s.core k).acc1, (s.core k).engHeld)
    | none => ({}, {}, [], false)
  let ps := vecSlots 0 (sortPend c.pend)
  let flags := (if parked then 1 else 0) + (if c.status.intrap then 2 else 0) + (if held then 4 else 0) + (if c.cons.pcont then 8 else 0)
  let r := c.refine
  pad 64 (leBytes 8 c.pc.toNat ++ leBytes 2 t.coreNumber.toNat ++ leBytes 2 c.id.region.toNat
      ++ [BitVec.ofNat 8 flags, BitVec.ofNat 8 c.pend.length] ++ leBytes 2 c.cons.queue.length ++ leBytes 8 s.ptime.toNat)
    ++ pad 256 (imageRegs.flatMap (fun x => leBytes 8 (t.sysreg x).toNat))
    ++ pad 64 (leBytes 8 r.addr.toNat ++ leBytes 8 r.prev.toNat ++ [BitVec.zeroExtend 8 r.stag, BitVec.zeroExtend 8 r.phase, BitVec.zeroExtend 8 r.exit])
    ++ (List.range 32).map (fun k => c.regs.event k)
    ++ pad 8 [c.regs.c]
    ++ leBytes 8 ((List.range 16).foldl (fun m i => m + (c.regs.vec (BitVec.ofNat 4 i)).tag.toNat * 16 ^ i) 0)
    ++ leBytes 16 0
    ++ (List.range 4).flatMap (fun i => leBytes 8 (c.regs.target (BitVec.ofNat 2 i)).toNat)
    ++ leBytes 32 0
    ++ (List.range 16).flatMap (fun i => leBytes 16 (c.regs.desc (BitVec.ofNat 4 i)).toNat)
    ++ (List.range 8).flatMap (fun i => leBytes 16 (c.regs.wrap (BitVec.ofNat 3 i)).toNat)
    ++ (List.range 4).flatMap (fun i => leBytes 32 (c.regs.gloss (BitVec.ofNat 2 i)).toNat)
    ++ (List.range 8).flatMap (fun i => leBytes 64 (c.regs.stream (BitVec.ofNat 3 i)).toNat)
    ++ (if t.isLookup then List.replicate 1024 0
        else (List.range 8).flatMap (fun i => leBytes 128 (c.regs.pred (BitVec.ofNat 3 i)).toNat))
    ++ (List.range 64).flatMap (fun i => leBytes 16 (c.regs.dom (BitVec.ofNat 6 i)).word.toNat)
    ++ (if t.isLookup then List.replicate 512 0 else engineBytes mat (matOpstate mat) ++ engineBytes cpy copy)
    ++ pad 2048 (c.cons.store.flatMap StoreEntry.bytes)
    ++ (List.range 64).flatMap (fun i => leBytes 32 (watchMask c.cons.store i))
    ++ pad 256 (c.cons.queue.map (BitVec.ofNat 8))
    ++ pad 128 (c.cons.marks.flatMap (fun m => leBytes 2 m.1 ++ leBytes 2 m.2 ++ leBytes 4 0))
    ++ pad 128 (if r.phase = 0 then [] else r.desc)
    ++ pad 24576 (c.cons.trail.reverse.flatMap (fun e => leBytes 16 e.2.word.toNat ++ [BitVec.zeroExtend 8 e.1] ++ leBytes 7 0))
    ++ pad 2048 (ps.flatMap (fun p => pendBytes p.1 p.2))
    ++ List.replicate 30208 0
    ++ (List.range 16).flatMap (fun i => (c.regs.vec (BitVec.ofNat 4 i)).elems.flatMap (fun e => leBytes 4 e.toNat))
    ++ pad 32768 ((ps.filter (·.2.wr.isVec)).flatMap (fun p => pad 4096 p.2.wr.value))
    ++ pad 32768 (acc.flatMap (fun w => leBytes 4 w.toNat))

/-! ### Reading back -/

/-- The words of 4 bytes at an offset. -/
def wordsAt (b : List Byte) (off n : Nat) : List Word := (List.range n).map (fun i => BitVec.ofNat 32 (field b (off + 4 * i) 4))

/-- A result in flight from its entry (R204); `none` is a failed restore. `issued` is the context's issue count. -/
def pendOf (b : List Byte) (issued i : Nat) : Option Pend :=
  let e := (b.drop (0x8200 + 32 * i)).take 32
  let dest := field e 0 1
  let dist := field e 1 1
  let flags := field e 3 1
  let ord := field e 4 4
  let v := field e 8 16
  let slot := 0x20000 + 4096 * field e 2 1
  let mk (w : Write) : Option Pend := some
    { dist := dist, frozen := flags % 2 == 1, slot := ord % 4
      count := issued - (issued + 2 ^ 30 - ord / 4 % 2 ^ 30) % 2 ^ 30, wr := w }
  if dist = 0 then none
  else if dest < 0x40 then mk (.d (BitVec.ofNat 6 dest) (Dom.ofWord (BitVec.ofNat 128 v)))
  else if dest < 0x50 then mk (.v (BitVec.ofNat 4 dest) ⟨BitVec.ofNat 4 (flags / 16), wordsAt b slot 1024⟩)
  else if dest < 0x58 then mk (.p (BitVec.ofNat 3 dest) (bitsAt 1024 b slot 128))
  else if dest < 0x60 then mk (.c (BitVec.ofNat 3 dest) (v % 2 == 1))
  else if dest < 0x64 then mk (.b (BitVec.ofNat 2 dest) (BitVec.ofNat 48 v))
  else if dest < 0x6C then mk (.w (BitVec.ofNat 3 (dest - 0x64)) (BitVec.ofNat 128 v))
  else none

/-- The results in flight of an image, in order of issue. -/
def pendsOf (b : List Byte) (issued : Nat) : Nat → Option (List Pend)
  | 0 => some []
  | n + 1 => match pendsOf b issued n, pendOf b issued n with
    | some ps, some p => some (insertPend p ps)
    | _, _ => none

/-- The register files of an image. -/
def imageRegFile (b : List Byte) : Regs :=
  let tags := field b 0x1A8 8
  { d := (List.range 63).map (fun i => (i + 1, Dom.ofWord (bitsAt 128 b (0xA00 + 16 * (i + 1)) 16)))
    v := (List.range 16).map (fun i => (i, ⟨BitVec.ofNat 4 (tags / 16 ^ i), wordsAt b (0x10000 + 4096 * i) 1024⟩))
    p := (List.range 7).map (fun i => (i + 1, bitsAt 1024 b (0x600 + 128 * (i + 1)) 128))
    c := bitsAt 8 b 0x1A0 1
    b := (List.range 4).map (fun i => (i, bitsAt 48 b (0x1C0 + 8 * i) 8))
    w := (List.range 8).map (fun i => (i, bitsAt 128 b (0x300 + 16 * i) 16))
    f := (List.range 8).map (fun i => (i, bitsAt 512 b (0x400 + 64 * i) 64))
    g := (List.range 4).map (fun i => (i, bitsAt 256 b (0x380 + 32 * i) 32))
    bd := (List.range 16).map (fun i => (i, bitsAt 128 b (0x200 + 16 * i) 16))
    ev := (List.range 32).map (fun i => (i, bitsAt 8 b (0x180 + i) 1)) }

/-- `STATUS` from its word. -/
def Status.ofWord (w : BitVec 64) : Status :=
  { xdist := w.extractLsb' 62 2, xtgt := w.extractLsb' 16 45, intrap := w.getLsbD 15, xlv := w.getLsbD 10
    xlb := w.extractLsb' 8 2, satnan := w.getLsbD 7, rm := w.extractLsb' 5 2 }

/-- The constraint store, queue, trail and marks of an image. -/
def imageCons (b : List Byte) (reg : Nat → BitVec 64) : Cons :=
  let stat := reg 7
  let n := (stat.extractLsb' 16 9).toNat
  let entry (i : Nat) : StoreEntry :=
    let w := bitsAt 64 b (0x1000 + 8 * i) 8
    ⟨w.extractLsb' 56 8, w.extractLsb' 50 6, w.extractLsb' 44 6, w.extractLsb' 38 6, w.extractLsb' 0 32⟩
  { store := (List.range n).map entry
    queue := (List.range (field b 14 2)).map (fun i => field b (0x2000 + i) 1)
    trail := ((List.range (reg 10).toNat).map (fun i =>
      (bitsAt 6 b (0x2200 + 24 * i + 16) 1, Dom.ofWord (bitsAt 128 b (0x2200 + 24 * i) 16)))).reverse
    marks := (List.range (reg 9).toNat).map (fun i => (field b (0x2100 + 8 * i) 2, field b (0x2102 + 8 * i) 2))
    pcont := (field b 12 1) / 8 % 2 == 1, trapen := (reg 6).getLsbD 16, limit := (reg 6).extractLsb' 0 16
    pstate := stat.extractLsb' 0 3, runs := (reg 8).extractLsb' 0 17 }

/-- The refinement controller of an image. -/
def imageRefine (b : List Byte) (reg : Nat → BitVec 64) : Refine :=
  let phase := bitsAt 3 b 0x151 1
  { phase := phase, exit := bitsAt 2 b 0x152 1, stag := bitsAt 2 b 0x150 1, level := (reg 11).extractLsb' 0 2
    iter := (reg 12).extractLsb' 0 32, prev := bitsAt 64 b 0x148 8, addr := bitsAt 48 b 0x140 8
    desc := if phase = 0 then [] else (b.drop 0x2180).take 128 }

/-- A context from its image; what the image has no place for comes from the context as it was kept. An image whose D area
holds a domain that is not canonical fails (R272). -/
def imageCtx (b : List Byte) (kept : Ctx) : Option Ctx :=
  let reg (i : Nat) : BitVec 64 := bitsAt 64 b (0x40 + 8 * i) 8
  let npend := field b 13 1
  let st := Status.ofWord (reg 0)
  let dbg := reg 15
  let dom (i : Nat) : Dom := Dom.ofWord (bitsAt 128 b (0xA00 + 16 * i) 16)
  if 64 < npend || !(List.range 64).all (fun i => (dom i).canonical) then none
  else (pendsOf b kept.count npend).map (fun ps =>
    { kept with
      pc := bitsAt 48 b 0 8, running := true, regs := imageRegFile b, pend := ps, status := st, trapcode := reg 1
      trappc := (reg 2).extractLsb' 0 48, trapvec := (reg 3).extractLsb' 0 48, failvec := (reg 4).extractLsb' 0 48
      failinfo := reg 5, cons := imageCons b reg, refine := imageRefine b reg
      dbg := { bkpt := (List.range 8).map (fun i => (i, reg (17 + i))), tracectl := reg 14, replayctl := reg 16
               sstep := dbg.getLsbD 62, ehalt := dbg.getLsbD 61, stephit := dbg.getLsbD 60, brkhit := dbg.getLsbD 59
               bhit := dbg.extractLsb' 51 8, suppress := kept.dbg.suppress }
      ldrs := kept.ldrs.map (fun l => { l with retry := l.fault.isSome })
      waits := { kept.waits with fault := none, idle := false, barrier := false }, out := []
      cycleLatch := none, ptimeLatch := none })

/-- An engine's STATE from its code. -/
def EngineState.ofCode : Nat → EngineState
  | 1 => .running | 2 => .waitEvent | 3 => .waitLease | 4 => .stopped | _ => .idle

/-- The levels of an engine block at an offset, outermost first: those before the first whose bytes are all zero. -/
def imageReps (b : List Byte) (off : Nat) : List (Addr × Word) :=
  ((List.range 4).map (fun i => (bitsAt 48 b (off + 48 + 10 * i) 6, bitsAt 32 b (off + 54 + 10 * i) 4))).takeWhile (· != (0, 0))

/-- The broadcast loop of an engine block: the counter is the armed count where one was armed, else the repetitions done. -/
def imageBcast (b : List Byte) (off : Nat) (kept : Bcast) : Bcast :=
  let n : Word := bitsAt 32 b (off + 88) 4
  { kept with armed := kept.armed.map (fun _ => n), done := if kept.armed.isSome then kept.done else n
              skew := bitsAt 8 b (off + 92) 4 }

/-- An engine from its block at an offset; `none` is a failed restore. -/
def imageEngine (b : List Byte) (off : Nat) (copy : Bool) (kept : Engine) : Option Engine :=
  let depth := field b (off + 12) 1
  let (opsAt, nAt) := if copy then (off + 96, off + 128) else (off + 120, off + 152)
  let n := field b nAt 1
  let flags := field b (nAt + 1) 1
  if 8 < depth || 8 < n then none
  else
    let reps := (imageReps b off).zipIdx.map (fun e =>
      { start := e.1.1, left := e.1.2, bcast := ((kept.reps.reverse[e.2]?).map (·.bcast)).getD false : RepLevel })
    some { kept with
      word := bitsAt 48 b off 8, step := bitsAt 32 b (off + 8) 4, cls := bitsAt 4 b (off + 13) 1
      state := EngineState.ofCode (field b (off + 14) 1), stack := (wordsAt b (off + 16) depth).reverse, reps := reps.reverse
      bcast := imageBcast b off kept.bcast
      ops := wordsAt b opsAt n, fault := none, out := [], sub := 0
      satnan := if copy then flags / 4 % 2 == 1 else flags % 2 == 1
      counted := if copy then bitsAt 64 b (off + 136) 8 else kept.counted
      window := if copy then kept.window else if field b (off + 116) 1 = 1 then some (wordsAt b (off + 96) 5) else none }

/-- Is any byte of a range uncorrectable (R65)? -/
def State.badIn (s : State) (cell n : Nat) : Bool := s.poison.any (fun e => e.2 && decide (cell ≤ e.1) && decide (e.1 < cell + n))

/-- Restore a core's user context, engines and accumulators from the image at its kept address; `none` is a failed
restore (R204). -/
def restoreCore (s : State) (k : Kept) : Option State :=
  let b := s.bytesKey (physKey k.addr) (physCell k.addr) ctxSize
  match if s.badIn (physCell k.addr) ctxSize then none else imageCtx b k.ctx with
  | none => none
  | some c =>
    if k.lookup then some (s.setLookup k.core { s.lookup k.core with ctx := c, busy := true })
    else match imageEngine b 0xE00 false k.mat, imageEngine b 0xF00 true k.cpy with
      | some m, some e => some (s.modCore k.core (fun x => { x with
          user := c, fw := { x.fw with id := c.id }, mat := m, cpy := e, index := k.index, engHeld := field b 12 1 / 4 % 2 == 1
          acc0 := wordsAt b 0x28000 4096, acc1 := wordsAt b 0x2C000 4096 }))
      | _, _ => none

/-- Keep a context, and write its image under the key ID of its page. -/
def saveContext (s : State) (a : Agent) (addr : BitVec 52) (parked : Bool) (copy : List Byte) : Kept × State :=
  let k : Kept := match a with
    | .lookup n => { lookup := true, core := n, running := true, addr := addr, index := none, ctx := s.ctxOf a, mat := {}, cpy := {} }
    | .user k | .fw k | .matrix k | .copy k =>
      { lookup := false, core := k, running := true, addr := addr, index := (s.core k).index, ctx := s.ctxOf a
        mat := (s.core k).mat, cpy := (s.core k).cpy }
  (k, s.setBytesKey (physKey addr) (physCell addr) (imageBytes s a parked copy))

end Sys2Proof.Machine
end

