-- ==== Sys2Proof/Machine/Matrix.lean ====
section
/-!
DEFINITION. The matrix stream (R386 to R404): the lease words, `MZERO`, `MWIN`, the array words with their operands, checks
and passes, and `MSTORE`. Log entries: 34 (dropped positions), 35 (a pass is one step), 36 (a pass's reads).
-/

namespace Sys2Proof.Machine

/-! ### The local share (R147, R388) -/

/-- The bytes of the local share of the core's tile. -/
def State.shareSize (s : State) : Nat :=
  (shareOf (s.partition s.ctx.id.region) (s.engAt.1 / 4)).length * granuleBytes

/-- May the region reach every granule of the local share (R105)? -/
def State.shareFree (s : State) : Bool :=
  (shareOf (s.partition s.ctx.id.region) (s.engAt.1 / 4)).all (fun g => s.granuleOpen (sliceCell (g / 96) (g % 96 * granuleBytes)))

/-- Are places of the local share in granules that the region may reach (R105)? -/
def State.shareOpen (s : State) (ps : List Nat) : Bool :=
  s.shareFree
    || ps.all (fun p => match s.sramCell false kindLocal p with
      | some a => s.granuleOpen a
      | none => false)

/-- A byte of the local share. -/
def State.shareByte (s : State) (p : Nat) : Byte := s.byteKey 0 ((s.sramCell false kindLocal p).getD 0)
/-- `n` bytes of the local share. -/
def State.shareBytes (s : State) (p n : Nat) : List Byte := (List.range n).map (fun i => s.shareByte (p + i))
/-- Do bytes of the share hold no uncorrectable data? -/
def State.shareGood (s : State) (ps : List Nat) : Bool :=
  s.poison == [] || ps.all (fun p => !s.poisoned ((s.sramCell false kindLocal p).getD 0) 1)

/-- The fields of a packed word (R388). -/
def packedRot (p : Word) : Nat := (p.extractLsb' 28 4).toNat
def packedTp (p : Word) : Nat := (p.extractLsb' 12 16).toNat
def packedRp (p : Word) : Nat := (p.extractLsb' 0 12).toNat

/-- Where logical byte `q` of row `i` lies (R388). -/
def sramOff (base p : Word) (i q : Nat) : Nat :=
  base.toNat + q / 256 * 256 * packedTp p + 16 * packedRp p * i + 16 * ((q / 16 % 16) ^^^ (i % 2 ^ packedRot p)) + q % 16

/-- The checks of an operand in SRAM whose rows have `n` bytes (R388): the base, the packed word, then the addresses (R399). -/
def sramOperandOk (s : State) (base p : Word) (n : Nat) : EEff Unit := do
  eneed (base.toNat % 16 = 0) tAlign s
  eneed (packedRot p ≤ 4) tProt s
  eneed (packedRot p = 0 || (base.toNat % 256 = 0 && packedRp p % 16 = 0)) tAlign s
  eneed ((List.range 64).all (fun i => (List.range n).all (fun q => sramOff base p i q < s.shareSize))) tProt s
  eneed (s.shareOpen ((List.range 64).flatMap (fun i => (List.range n).map (sramOff base p i)))) tProt s

/-- The descriptor number and the row pitch of BSEL (R391). -/
def bselBd (w : Word) : BdReg := w.extractLsb' 28 4
def bselPitch (w : Word) : Nat := (w.extractLsb' 0 28).toNat

/-- The checks of rows of `n` bytes in memory (R395). -/
def memOperandOk (s : State) (sel off : Word) (n : Nat) : EEff Unit := do
  let d := s.desc (bselBd sel)
  eneed (translated d.kind) tProt s
  eneed (off.toNat % 16 = 0 && bselPitch sel % 16 = 0) tAlign s
  eneed (off.toNat + 63 * bselPitch sel + n ≤ d.len) tProt s

/-- The checks of `n` bytes of the share at a base of alignment 16. -/
def shareOk (s : State) (base n : Nat) : EEff Unit := do
  eneed (base % 16 = 0) tAlign s
  eneed (base + n ≤ s.shareSize && s.shareOpen ((List.range n).map (base + ·))) tProt s

/-! ### Lease words (R386) -/

/-- `LEASE`. -/
def ewLease (s : State) : EEff State :=
  if s.holdsLease s.engAt.1 then .ok s.wordDone else .error (.hold (s.awaitLease s.engAt.1))

/-- `FREE`. -/
def ewFree (s : State) : EEff State := .ok (s.freeLease s.engAt.1).wordDone

/-! ### `MZERO` and `MWIN` (R387, R396) -/

/-- `MZERO`. -/
def ewMzero (s : State) : EEff State :=
  let z := List.replicate 4096 (0 : Word)
  .ok (s.modCore s.engAt.1 (fun c =>
    { c with acc0 := if (mzeroSet s.word).getLsbD 0 then z else c.acc0
             acc1 := if (mzeroSet s.word).getLsbD 1 then z else c.acc1 })).wordDone

/-- The fields of a window (R396). -/
structure Window where
  ibase : Nat
  rowp : Nat
  pix : Nat
  kw : Nat
  kh : Nat
  sx : Nat
  sy : Nat
  dx : Nat
  dy : Nat
  ow : Nat
  x0 : Nat
  y0 : Nat
  deriving DecidableEq, Repr

/-- From the five values. -/
def Window.ofOps (w : List Word) : Window :=
  let g := w.getD 3 0
  let o := w.getD 4 0
  let f (x : Word) (lo n : Nat) : Nat := (x.extractLsb' lo n).toNat
  { ibase := (w.getD 0 0).toNat, rowp := (w.getD 1 0).toNat, pix := (w.getD 2 0).toNat, kw := f g 0 8, kh := f g 8 8
    sx := f g 16 4, sy := f g 20 4, dx := f g 24 4, dy := f g 28 4, ow := f o 0 8, x0 := f o 8 12, y0 := f o 20 12 }

/-- `MWIN`. -/
def ewMwin (s : State) : EEff State := do
  let ops ← etop 5 s
  let w := Window.ofOps ops
  eneed (w.ibase % 16 = 0 && w.rowp % 16 = 0 && w.pix % 16 = 0) tAlign s
  eneed (1 ≤ w.kw && 1 ≤ w.kh && 1 ≤ w.sx && 1 ≤ w.sy && 1 ≤ w.dx && 1 ≤ w.dy && 1 ≤ w.ow && w.ow ≤ 64) tProt s
  .ok ((s.edrop 5).modEng (fun e => { e with window := some ops })).wordDone

/-- Where logical byte `q` of row `i` of a windowed A lies (R397). -/
def windowOff (w : Window) (i q : Nat) : Nat :=
  let t := q / w.pix
  let kx := t % w.kw
  let ky := t / w.kw
  let oy := w.y0 + i / w.ow
  let ox := w.x0 + i % w.ow
  w.ibase + (oy * w.sy + ky * w.dy) * w.rowp + (ox * w.sx + kx * w.dx) * w.pix + q % w.pix

/-! ### The array words (R390 to R395) -/

/-- The tag of a matrix format code (R269). -/
def matTag (f : BitVec 3) : BitVec 4 := [tagE4m3, tagE5m2, tagFp4, tagBf16, tagI8].getD f.toNat tagE4m3

/-- An array word: which of the three, and its modifiers. -/
structure ArrayWord where
  scaled : Bool
  sparse : Bool
  mods : ArrayMods
  deriving DecidableEq, Repr

/-- The array word that the engine has in progress, or starts. -/
def ArrayWord.ofWord (w : BitVec 16) : ArrayWord :=
  ⟨w.extractLsb' 12 4 != 7, w.extractLsb' 12 4 == 9, ArrayMods.ofWord w⟩

/-- The operands of an array word, from the list in push order (R391). -/
structure ArrayOps where
  k : Nat
  a0 : Word
  a1 : Word
  b0 : Word
  b1 : Word
  meta_ : Nat
  sa : Word
  sb : Word
  deriving DecidableEq, Repr

/-- How many operands the word pops. -/
def ArrayWord.count (w : ArrayWord) : Nat :=
  1 + (if w.mods.w then 0 else 2) + 2 + (if w.sparse then 1 else 0) + (if w.scaled then 2 else 0)

/-- The operands by name. -/
def ArrayWord.ops (w : ArrayWord) (xs : List Word) : ArrayOps :=
  let i := if w.mods.w then 1 else 3
  let j := i + 2 + (if w.sparse then 1 else 0)
  { k := (xs.getD 0 0).toNat, a0 := xs.getD 1 0, a1 := xs.getD 2 0, b0 := xs.getD i 0, b1 := xs.getD (i + 1) 0
    meta_ := (xs.getD (i + 2) 0).toNat, sa := xs.getD j 0, sb := xs.getD (j + 1) 0 }

/-- Bits of an element of A and of B; they are the same in every pairing of R214. -/
def ArrayWord.width (w : ArrayWord) : Nat := widthOf (matTag w.mods.f)
/-- Bytes of a row of A, and of B as it is stored. -/
def ArrayWord.aBytes (w : ArrayWord) (k : Nat) : Nat := (k * w.width + 7) / 8
def ArrayWord.bBytes (w : ArrayWord) (k : Nat) : Nat := if w.sparse then (k / 2 * w.width + 7) / 8 else w.aBytes k
/-- Passes of the word (R392). -/
def ArrayWord.passes (w : ArrayWord) (k : Nat) : Nat :=
  let per := if w.sparse then 384 else 192
  (k * w.width + 8 * per - 1) / (8 * per)
/-- Elements of a pass. -/
def ArrayWord.perPass (w : ArrayWord) : Nat := 8 * (if w.sparse then 384 else 192) / w.width

/-- Bytes from one row of metadata, or of scales, to the next (R393, R394). -/
def metaPitch (k : Nat) : Nat := 16 * ((k + 127) / 128)
def scalePitch (k : Nat) : Nat := 16 * ((k + 255) / 256)

/-- The checks of a scale operand (R394). -/
def scaleOk (s : State) (base : Word) (k : Nat) : EEff Unit :=
  if base = 0xFFFFFFFF then .ok () else shareOk s base.toNat (63 * scalePitch k + 2 * ((k + 31) / 32))

/-- The checks of an array word's values in push order (R391, R393 to R395, R397, R399). -/
def arrayCheck (w : ArrayWord) (o : ArrayOps) (s : State) : EEff Unit := do
  let g := if w.mods.f = 4 then 16 else groupSize w.width
  eneed (1 ≤ o.k && o.k ≤ 65536 && o.k % g = 0) tProt s
  if w.mods.w then
    match s.eng.window with
    | none => eraise tProt s
    | some v =>
      let win := Window.ofOps v
      eneed (w.aBytes o.k = win.kh * win.kw * win.pix) tProt s
      eneed ((List.range 64).all (fun i => windowOff win i (w.aBytes o.k - 1) < s.shareSize)) tProt s
      eneed (s.shareOpen ((List.range 64).flatMap (fun i => (List.range (w.aBytes o.k)).map (windowOff win i)))) tProt s
  else sramOperandOk s o.a0 o.a1 (w.aBytes o.k)
  if w.mods.s then memOperandOk s o.b0 o.b1 (w.bBytes o.k) else sramOperandOk s o.b0 o.b1 (w.bBytes o.k)
  if w.sparse then shareOk s o.meta_ (63 * metaPitch o.k + 16 * ((o.k + 127) / 128))
  if w.scaled then do
    scaleOk s o.sa o.k
    scaleOk s o.sb o.k

/-- An array word: at its start it is checked and latched; then it waits for the lease, and its passes commit
(`MATRIX_PASS_COMMIT`). -/
def ewArray (s : State) : EEff State := do
  let w := ArrayWord.ofWord s.word
  let t ← if s.eng.inWord.isSome then .ok s else do
    let xs ← etop w.count s
    arrayCheck w (w.ops xs) s
    .ok (s.latch xs)
  .ok (if t.holdsLease t.engAt.1 then t else t.awaitLease t.engAt.1)

/-! ### A pass (R392) -/

/-- The codes of consecutive elements of a format. -/
def codesOf (width : Nat) (bs : List Byte) : List Nat :=
  if width = 4 then bs.flatMap (fun b => [b.toNat % 16, b.toNat / 16])
  else if width = 8 then bs.map (·.toNat)
  else (List.range (bs.length / 2)).map (fun i => field bs (2 * i) 2)

/-- The places of `n` logical bytes of A's row `i` from byte `q` on. -/
def aPlaces (s : State) (w : ArrayWord) (o : ArrayOps) (i q n : Nat) : List Nat :=
  (List.range n).map (fun j => match s.eng.window, w.mods.w with
    | some v, true => windowOff (Window.ofOps v) i (q + j)
    | _, _ => sramOff o.a0 o.a1 i (q + j))

/-- The bytes of A's row `i` from logical byte `q` on. -/
def aRow (s : State) (w : ArrayWord) (o : ArrayOps) (i q n : Nat) : List Byte :=
  (aPlaces s w o i q n).map s.shareByte

/-- The bytes of B's rows, all 64, from logical byte `q` on. -/
def bRows (w : ArrayWord) (o : ArrayOps) (q n : Nat) : Nat → Nat → Nat → State → EEff (List (List Byte) × State)
  | 0, _, _, s => .ok ([], s)
  | r + 1, j, used, s =>
    if w.mods.s then do
      let (bs, used, t) ← eread (s.desc (bselBd o.b0)) false s.eng.cls used s (o.b1.toNat + j * bselPitch o.b0 + q) n
      let (rest, t) ← bRows w o q n r (j + 1) used t
      .ok (bs :: rest, t)
    else do
      let ps := (List.range n).map (fun x => sramOff o.b0 o.b1 j (q + x))
      eneed (s.shareGood ps) tEccUncorr s
      let (rest, t) ← bRows w o q n r (j + 1) used s
      .ok (ps.map s.shareByte :: rest, t)

/-- The kept values of one group of four at their positions (R235): a dropped position is `none`. -/
def spread (v0 v1 pair : Nat) : List (Option Nat) :=
  (List.range 4).map (fun p => if p = pair / 4 % 4 then some v1 else if p = pair % 4 then some v0 else none)

/-- The elements of B's row `j` in a pass: as they are, or spread by the metadata. -/
def bElems (s : State) (w : ArrayWord) (o : ArrayOps) (j e0 n : Nat) (bs : List Byte) : List (Option Nat) :=
  let cs := codesOf w.width bs
  if w.sparse then
    (List.range (n / 4)).flatMap (fun g =>
      let grp := e0 / 4 + g
      let pairs := leNat (s.shareBytes (o.meta_ + j * metaPitch o.k + grp / 8 * 4) 4)
      spread (cs.getD (2 * g) 0) (cs.getD (2 * g + 1) 0) (pairs / 16 ^ (grp % 8) % 16))
  else cs.map some

/-- The scale of a block of a row; unit scales where the word has none. -/
def scaleAt (s : State) (scaled : Bool) (base : Word) (k i block : Nat) : Num :=
  if !scaled || base = 0xFFFFFFFF then .fin false 1 0
  else scaleValue (leNat (s.shareBytes (base.toNat + i * scalePitch k + 2 * block) 2) % 1024)

/-- The places of the metadata and the scales that a pass over elements `e0` to `e0 + n - 1` reads, for all 64 rows. -/
def auxPlaces (w : ArrayWord) (o : ArrayOps) (e0 n : Nat) : List Nat :=
  let units := (List.range ((e0 + n - 1) / 32 + 1 - e0 / 32)).map (e0 / 32 + ·)
  let rows (base pitch size : Nat) : List Nat :=
    (List.range 64).flatMap (fun i => units.flatMap (fun u => (List.range size).map (base + i * pitch + size * u + ·)))
  let scales (base : Word) : List Nat := if !w.scaled || base = 0xFFFFFFFF then [] else rows base.toNat (scalePitch o.k) 2
  (if w.sparse then rows o.meta_ (metaPitch o.k) 4 else []) ++ scales o.sa ++ scales o.sb

/-- Add the groups of a pass to one accumulator element, in ascending order (R216, R217). -/
def accGroups (s : State) (w : ArrayWord) (o : ArrayOps) (i j e0 : Nat) : Nat → List (Nat × Option Nat) → Nat → Nat
  | 0, _, acc => acc
  | n + 1, es, acc =>
    if es = [] then acc
    else
      let g := if w.mods.f = 4 then 16 else groupSize w.width
      let ps := (es.take g).filterMap (fun p => p.2.map (fun b => (p.1, b)))
      let acc := if w.mods.f = 4
        then ofInt 32 (intOf 32 acc + (ps.map (fun p => intOf 8 p.1 * intOf 8 p.2)).sum)
        else accumulate acc (groupSum (fmtOf (matTag w.mods.f)) (fmtOf (matTag w.mods.g)) (groupFrac w.width) ps)
          (scaleAt s w.scaled o.sa o.k i (e0 / 32)) (scaleAt s w.scaled o.sb o.k j (e0 / 32))
      accGroups s w o i j (e0 + g) n (es.drop g) acc

/-- The accumulator after pass `p`. -/
def passAcc (s : State) (w : ArrayWord) (o : ArrayOps) (e0 n : Nat) (bss : List (List Byte)) (acc : List Word) : List Word :=
  let bs := (bss.zipIdx).map (fun r => bElems s w o r.2 e0 n r.1)
  (List.range 64).flatMap (fun i =>
    let as_ := (codesOf w.width (aRow s w o i (e0 * w.width / 8) (n * w.width / 8))).take n
    (List.range 64).map (fun j => BitVec.ofNat 32
      (accGroups s w o i j e0 n (as_.zip (bs.getD j [])) (acc.getD (64 * i + j) 0).toNat)))

/-- The array words completed in a lease reach their limit of 16 (R196). -/
def State.countWord (s : State) (k : Nat) : State :=
  let t := s.modLease (k / 4) (fun l => { l with words := l.words + 1 })
  if 16 ≤ (t.tile (k / 4)).lease.words then t.freeLease k else t

/-- The cycles that `r` active cycles take, with the stalls that a budget of `b` imposes on them (R18, R400), from a place `p` in a
window with `a` active cycles; the fuel bounds the windows. -/
def activeSpan (b : Nat) : Nat → Nat → Nat → Nat → Nat
  | 0, _, _, r => r
  | f + 1, a, p, r =>
    let m := min r (min (b - a) (64 - p))
    if r = m then m else (64 - p) + activeSpan b f 0 0 (r - m)

/-- The cycles of a pass that begins now on a tile (R401): 24 active ones, with the stalls of issue-budget mode. -/
def State.passSpan (s : State) (t : Nat) : Nat :=
  if Config.tokenRing then 24
  else activeSpan (Config.budget.toNat + 1) 26 ((s.tile t).settled s.cycleWindow) (s.cycle.toNat % 64) 24

/-- The 24 active cycles of a pass are counted: those that this window has no room for are left to the next (R18). -/
def State.activePass (s : State) (t : Nat) : State :=
  let b := Config.budget.toNat + 1
  let a := (s.tile t).settled s.cycleWindow
  let m := min 24 (min (b - a) (64 - s.cycle.toNat % 64))
  s.modTile t (fun x => { x with window := s.cycleWindow, activeCycles := if m = 24 then a + 24 else b + (24 - m) })

/-- `MATRIX_PASS_COMMIT` (R392, R400): one pass of the word in progress commits, if it may begin within the lease and the
governor does not hold it; after the last the word has completed. -/
def passCommit (s : State) : EEff State := do
  let k := s.engAt.1
  let e := s.eng
  let w := ArrayWord.ofWord s.word
  let o := w.ops e.ops
  if !s.holdsLease k then .ok (s.awaitLease k)
  else if 1024 < (s.tile (k / 4)).lease.cycles s.cycle + s.passSpan (k / 4) then .ok ((s.freeLease k).awaitLease k)
  else do
    ehold (!s.governed (k / 4)) s
    ehold e.shareClear s.engFlush
    if s.shareFree then .ok () else arrayCheck w o s
    let e0 := e.step.toNat * w.perPass
    let n := min w.perPass (o.k - e0)
    let q := if w.sparse then e0 / 2 * w.width / 8 else e0 * w.width / 8
    let m := if w.sparse then n / 2 * w.width / 8 else n * w.width / 8
    eneed ((List.range 64).all (fun i => s.shareGood (aPlaces s w o i (e0 * w.width / 8) (n * w.width / 8)))) tEccUncorr s
    eneed (s.shareGood (auxPlaces w o e0 n)) tEccUncorr s
    let (bss, t) ← bRows w o q m 64 0 0 s
    let upd (acc : List Word) : List Word := passAcc t w o e0 n bss acc
    let t := (t.edropGot).modCore k (fun c => if w.mods.a then { c with acc1 := upd c.acc1 } else { c with acc0 := upd c.acc0 })
    let t := (t.activePass (k / 4)).modEng (fun e => { e with step := e.step + 1 })
    .ok (if w.passes o.k ≤ t.eng.step.toNat then (t.countWord k).wordDone else t)

/-! ### `MSTORE` (R398) -/

/-- The tag of an `MSTORE` destination format. -/
def storeTag (f : BitVec 3) : BitVec 4 := [tagF32, tagBf16, tagE4m3, tagE5m2, tagI32].getD f.toNat tagF32

/-- The operands: two of the destination, then the scale bases present. -/
def storeCount (m : StoreMods) : Nat := 2 + (if m.r then 1 else 0) + (if m.c then 1 else 0)
/-- The bases of the row and column scales. -/
def storeRowBase (m : StoreMods) (ops : List Word) : Option Nat := if m.r then some (ops.getD 2 0).toNat else none
def storeColBase (m : StoreMods) (ops : List Word) : Option Nat :=
  if m.c then some (ops.getD (if m.r then 3 else 2) 0).toNat else none
/-- Bytes of a stored row. -/
def storeRowBytes (m : StoreMods) : Nat := 64 * widthOf (storeTag m.f) / 8

/-- The checks of an `MSTORE`. -/
def storeCheck (m : StoreMods) (ops : List Word) (s : State) : EEff Unit := do
  if m.d then memOperandOk s (ops.getD 0 0) (ops.getD 1 0) (storeRowBytes m)
  else sramOperandOk s (ops.getD 0 0) (ops.getD 1 0) (storeRowBytes m)
  match storeRowBase m ops with
  | some b => shareOk s b 256
  | none => .ok ()
  match storeColBase m ops with
  | some b => shareOk s b 256
  | none => .ok ()

/-- The bytes of row `i` as they are stored. -/
def storeRow (s : State) (m : StoreMods) (ops : List Word) (i : Nat) : List Byte :=
  let c := s.core s.engAt.1
  let acc := if m.a then c.acc1 else c.acc0
  let scale (b : Option Nat) (x : Nat) : Option Nat := b.map (fun b => leNat (s.shareBytes (b + 4 * x) 4))
  (List.range 64).flatMap (fun j =>
    let v := (acc.getD (64 * i + j) 0).toNat
    if m.f = 4 then leBytes 4 v
    else leBytes (widthOf (storeTag m.f) / 8)
      (promote (storeTag m.f) s.eng.satnan v (scale (storeRowBase m ops) i) (scale (storeColBase m ops) j)))

/-- The places of the promotion scales that row `i` of an `MSTORE` reads. -/
def storeScales (m : StoreMods) (ops : List Word) (i : Nat) : List Nat :=
  (match storeRowBase m ops with | some b => (List.range 4).map (b + 4 * i + ·) | none => [])
    ++ (match storeColBase m ops with | some b => (List.range 256).map (b + ·) | none => [])

/-- Store bytes in the local share. -/
def shareStore (s : State) (base p : Word) (i : Nat) (bs : List Byte) : State :=
  (bs.zipIdx).foldl (fun t e => t.setByteKey 0 ((t.sramCell false kindLocal (sramOff base p i e.2)).getD 0) e.1) s

/-- Send the packets of a row from the `j`-th 64 bytes on; those sent are counted in `sub`. -/
def sendRow (d : Desc) (off : Nat) : Nat → Nat → List Byte → State → EEff State
  | 0, _, _, s => .ok s
  | n + 1, j, bs, s =>
    if bs = [] then .ok s
    else do
      let m := min (64 - (d.base + off) % 64) bs.length
      let s := s.modEng (fun e => { e with sub := j })
      let (l, t) ← elocate s d off m accWrite
      match routeTrap t l true with
      | some c => eraise c t
      | none => do
        let m := if payloadAddressed l.cell then min m 56 else m
        ehold (t.eng.clearFor t.eng.cls l.cell m (some (t.homeNode l.cell)) l.offPackage) t.engFlush
        let t ← esend t (requestTo t 1 0 false t.eng.cls l m (bs.take m))
          { cls := t.eng.cls, dst := 0, seq := 0, x := false, addr := l.cell, len := m, off := l.offPackage, write := true }
        sendRow d (off + m) n (j + m) (bs.drop m) t

/-- The rows from the step index on. -/
def storeRows (m : StoreMods) (ops : List Word) : Nat → State → EEff State
  | 0, s => .ok s
  | n + 1, s =>
    let i := s.eng.step.toNat
    if 64 ≤ i then .ok s
    else do
      ehold (s.eng.sub != 0 || (m.d && !m.r && !m.c) || s.eng.shareClear) s.engFlush
      eneed (s.shareGood (storeScales m ops i)) tEccUncorr s
      let bs := storeRow s m ops i
      let t ← if m.d then do
          let done := s.eng.sub
          sendRow (s.desc (bselBd (ops.getD 0 0))) ((ops.getD 1 0).toNat + i * bselPitch (ops.getD 0 0) + done) 16 done (bs.drop done) s
        else .ok (shareStore s (ops.getD 0 0) (ops.getD 1 0) i bs)
      storeRows m ops n (t.modEng (fun e => { e with step := e.step + 1, sub := 0 }))

/-- `MSTORE`. -/
def ewMstore (s : State) : EEff State := do
  let m := StoreMods.ofWord s.word
  let t ← if s.eng.inWord.isSome then do
      if s.shareFree then .ok () else storeCheck m s.eng.ops s
      .ok s
    else do
      let xs ← etop (storeCount m) s
      storeCheck m xs s
      .ok (s.latch xs)
  let t ← storeRows m t.eng.ops 64 t
  .ok t.wordDone

/-! ### Meanings -/

/-- `LEASE` (R386). -/
def execLease (s : State) : Host.Outcome State Fault Refusal := engineWord ewLease s
/-- `FREE` (R386). -/
def execFree (s : State) : Host.Outcome State Fault Refusal := engineWord ewFree s
/-- `MZERO` (R387). -/
def execMzero (s : State) : Host.Outcome State Fault Refusal := engineWord ewMzero s
/-- `MWIN` (R396). -/
def execMwin (s : State) : Host.Outcome State Fault Refusal := engineWord ewMwin s
/-- `MMA` (R390). -/
def execMma (s : State) : Host.Outcome State Fault Refusal := engineWord ewArray s
/-- `MMAS` (R390). -/
def execMmas (s : State) : Host.Outcome State Fault Refusal := engineWord (fun s => ewArray s) s
/-- `MMASP` (R390, R393). -/
def execMmasp (s : State) : Host.Outcome State Fault Refusal := engineWord (fun s => ewArray s) s
/-- `MSTORE` (R398). -/
def execMstore (s : State) : Host.Outcome State Fault Refusal := engineWord ewMstore s
/-- `MATRIX_PASS_COMMIT` (R392, R400) of core `inp.n`. -/
def execMatrixPassCommit (s : State) : Host.Outcome State Fault Refusal :=
  let t := { s with cur := .matrix s.inp.n }
  let e := t.eng
  if e.inArray && e.state == .running && e.fault.isNone && !(t.core s.inp.n).engHeld then
    engineWord passCommit { t with word := e.inWord.getD 0 }
  else .next s

end Sys2Proof.Machine
end

