-- ==== Sys2Proof/Machine/Moves.lean ====
section
/-!
DEFINITION. What an engine does in its turn (R183, R268, R382, R385): it goes on with the word in progress, or fetches the
next word of its stream. Log entry 33 (words of a body passed over).
-/

namespace Sys2Proof.Machine

/-! ### Fetching a word -/

/-- The two bytes of a word at a virtual address, for the engine in progress: they need X (R149). -/
def fetchWord (s : State) (va : Addr) : EEff (BitVec 16 × State) := do
  let (l, t) ← etranslate s va accExec 0
  match homeTrap t l 2 false with
  | some c => eraise c t
  | none => .ok (BitVec.ofNat 16 (leNat (t.load l 2)), t.countFar l.cell)

/-- The instruction that a word is in the stream of the engine in progress (R269). -/
def decodeFor (copy : Bool) (w : BitVec 16) : Instr :=
  ((if copy then decodeCopy w else decodeMatrix w)).getD .illegalEngineWord

/-- A word of a body of no repetitions is passed over: inner bodies with it, up to the `ENDREP` of its own level. -/
def passOver (s : State) (w : BitVec 16) : State :=
  let n := s.eng.skip
  let n := if w = 0x4400 then n + 1 else if w = 0x4800 then n - 1 else n
  s.modEng (fun e => { e with word := e.word + 2, skip := n })

/-! ### A move -/

/-- Is an engine to do something in its turn: it runs or waits for an event or a lease, and no fault or EHALT holds it? -/
def State.engineReady (s : State) : Bool :=
  !(s.core s.engAt.1).engHeld && s.eng.fault.isNone && s.eng.state != .idle && s.eng.state != .stopped

/-- An engine's move. -/
def engineMove (ex : Exec) (s : State) : Host.Outcome State Fault Refusal :=
  let (k, copy) := s.engAt
  if !s.engineReady then .next s
  else match s.eng.resolved with
    | some code => .next ((s.modEng (fun e => { e with resolved := none })).engineFault k copy code)
    | none =>
      match s.eng.inWord with
      | some w =>
        if !copy && s.eng.inArray then
          (if s.eng.state == .waitLease && !s.holdsLease k then .next s
           else ex .matrixPassCommit { s with inp := { n := k } })
        else ex (decodeFor copy w) { s with word := w }
      | none =>
        match fetchWord s s.eng.word with
        | .error (.trap c t) => .next (t.engineFault k copy c)
        | .error (.hold t) => .next t
        | .ok (w, t) =>
          if t.eng.skip ≠ 0 then .next (passOver t w)
          else ex (decodeFor copy w) { t with word := w }

/-- Does a pre-emption of its root tree hold an agent (R126)? A unit of packets that has been begun is sent whole (R417). -/
def State.stopped (s : State) (a : Agent) : Bool :=
  let root : Option Region := match s.region (s.ctxOf a).id.region with
    | some g => s.region g.root
    | none => none
  match root, a with
  | none, _ | _, .fw _ => false
  | some g, .matrix k => g.stopping && (s.engine k false).sub == 0
  | some g, .copy k => g.stopping && (s.engine k true).sub == 0
  | some g, _ => g.stopping

/-- Is the user context of core `k` stalled, idle or unbound (R120)? -/
def Core.userIdle (c : Core) : Bool := c.user.waiting || c.user.waits.sent

/-- Has the firmware context of core `k` an issue slot (R120)? It takes at most N + 1 of the slots of each aligned window of
16, a cycle being a slot, and with IDLEALL also those that the user context cannot use. -/
def State.fwSlot (s : State) (k : Nat) : Bool :=
  let c := s.core k
  let used := if c.fwWindow = s.cycle.extractLsb' 4 60 then c.fw.count - c.fwBase else 0
  used < c.fwn.toNat + 1 || (c.idleall && c.userIdle)

/-- Does an agent have no issue slot for its turn? -/
def State.noSlot (s : State) : Agent → Bool
  | .fw k => !s.fwSlot k
  | _ => false

/-- The turn of an agent. A gated core does nothing (R98), nor does one that a pre-emption has stopped. -/
def agentMove (ex : Exec) (s : State) : Host.Outcome State Fault Refusal :=
  if (match agentCore s.cur with | some k => s.coreGated k | none => false) || s.stopped s.cur || s.noSlot s.cur then .next s
  else match s.cur with
    | .matrix _ | .copy _ => engineMove ex s
    | .user _ | .fw _ | .lookup _ => contextMove ex s

end Sys2Proof.Machine
end

