-- ==== Sys2Proof/Machine/Seal.lean ====
section
/-!
DEFINITION. The cipher of sealed trace blocks (R136): AES-256 in Galois/counter mode, as the standards that R136 names it by define
it (FIPS 197 and NIST SP 800-38D). Log entry 137 (the order of a key's bytes).
-/

namespace Sys2Proof.Machine

/-! ### AES-256 -/

/-- A field element times x. -/
def aesTimes (b : Byte) : Byte := (b <<< 1) ^^^ (if b.getLsbD 7 then 0x1B else 0)
/-- The product of two field elements; the count is of the bits of the second that are left. -/
def aesMul : Nat → Byte → Byte → Byte
  | 0, _, _ => 0
  | n + 1, a, b => (if b.getLsbD 0 then a else 0) ^^^ aesMul n (aesTimes a) (b >>> 1)
/-- The inverse of a field element, its 254th power. -/
def aesInv (b : Byte) : Byte :=
  let m := aesMul 8
  let sq (x : Byte) : Byte := m x x
  let b2 := sq b
  let b3 := m b2 b
  let b12 := sq (sq b3)
  m (sq (sq (sq (sq (m b12 b3))))) (m b12 b2)
/-- The substitution of a byte. -/
def aesSub (b : Byte) : Byte :=
  let x := aesInv b
  x ^^^ x.rotateLeft 1 ^^^ x.rotateLeft 2 ^^^ x.rotateLeft 3 ^^^ x.rotateLeft 4 ^^^ 0x63
/-- Bytes added one by one. -/
def addBytes (a b : List Byte) : List Byte := a.zipWith (· ^^^ ·) b

/-- The next `n` words of a key schedule of which the words so far are given, the newest first. -/
def aesSchedule : Nat → List (List Byte) → List (List Byte)
  | 0, ws => ws.reverse
  | n + 1, ws =>
    let i := ws.length
    let t := ws.headD []
    let t := if i % 8 = 0 then addBytes ((t.drop 1 ++ t.take 1).map aesSub) [1#8 <<< (i / 8 - 1), 0, 0, 0]
      else if i % 8 = 4 then t.map aesSub else t
    aesSchedule n (addBytes (ws.getD 7 []) t :: ws)
/-- The 15 round keys of a key of 32 bytes. -/
def aesKeys (key : List Byte) : List (List Byte) :=
  let ws := aesSchedule 52 ((List.range 8).map (fun i => (key.drop (4 * i)).take 4)).reverse
  (List.range 15).map (fun r => ((ws.drop (4 * r)).take 4).flatten)

/-- The rows of a block move: the block's bytes stand column by column. -/
def aesShift (b : List Byte) : List Byte := (List.range 16).map (fun i => b.getD ((i + 4 * (i % 4)) % 16) 0)
/-- A column is mixed. -/
def aesMix (b : List Byte) : List Byte :=
  (List.range 16).map (fun i =>
    let at_ (k : Nat) : Byte := b.getD (i / 4 * 4 + (i + k) % 4) 0
    aesTimes (at_ 0) ^^^ (aesTimes (at_ 1) ^^^ at_ 1) ^^^ at_ 2 ^^^ at_ 3)
/-- The rounds after the first key is added. -/
def aesRounds : List (List Byte) → List Byte → List Byte
  | [], b => b
  | [k], b => addBytes (aesShift (b.map aesSub)) k
  | k :: ks, b => aesRounds ks (addBytes (aesMix (aesShift (b.map aesSub))) k)
/-- A block enciphered under round keys. -/
def aesBlock (keys : List (List Byte)) (b : List Byte) : List Byte := aesRounds (keys.drop 1) (addBytes b (keys.headD []))

/-! ### Galois/counter mode -/

/-- A number from bytes, and bytes of a number, the most significant first. -/
def ofBe (bs : List Byte) : Nat := leNat bs.reverse
def beBytes (n v : Nat) : List Byte := (leBytes n v).reverse

/-- The product of two blocks: bits of `x` are left from its first on, `v` is the other block as shifted, `z` the sum so far. -/
def ghashMul : Nat → BitVec 128 → BitVec 128 → BitVec 128 → BitVec 128
  | 0, _, _, z => z
  | n + 1, x, v, z =>
    ghashMul n (x <<< 1) ((v >>> 1) ^^^ (if v.getLsbD 0 then 0xE1#128 <<< 120 else 0)) (if x.msb then z ^^^ v else z)
/-- The hash of blocks under a hash key. -/
def ghash (h : BitVec 128) (bs : List (List Byte)) : BitVec 128 :=
  bs.foldl (fun y b => ghashMul 128 (y ^^^ BitVec.ofNat 128 (ofBe b)) h 0) 0

/-- Cipher text and tag of blocks under a key of 32 bytes, a nonce of 12, and the blocks of additional data. -/
def aesGcm (key nonce : List Byte) (aad plain : List (List Byte)) : List Byte :=
  let keys := aesKeys key
  let pad (i : Nat) : List Byte := aesBlock keys (nonce ++ beBytes 4 i)
  let cipher := plain.zipIdx.map (fun e => addBytes e.1 (pad (e.2 + 2)))
  let h := BitVec.ofNat 128 (ofBe (aesBlock keys (List.replicate 16 0)))
  let lens := beBytes 8 (128 * aad.length) ++ beBytes 8 (128 * plain.length)
  cipher.flatten ++ addBytes (beBytes 16 (ghash h (aad ++ cipher ++ [lens])).toNat) (pad 1)

end Sys2Proof.Machine
end

