-- ==== Sys2Proof/Machine/Timers.lean ====
section
/-!
DEFINITION. Happenings by the clock: the power governor (R18, R19), the lease of the matrix array (R124, R196), events
(R184), the trace drain with its sealed blocks (R134 to R136), samples, and the timeouts of barrier waits and of replay.
Log entries: 65 (what a drain meets), 66 (the cause of a sample), 67 (the bundle stream's `AWAIT`).
Also log entries 105 (what SWTHROTTLE.HELD and MGOVSTAT.STALLS count), 119 (the token ring and fenced tiles).
-/

namespace Sys2Proof.Machine

/-! ### The governor (R18, R19) -/

/-- Has a tile matrix work ready: a sequencer in an array word, or one that waits for the lease? -/
def State.matrixReady (s : State) (t : Nat) : Bool :=
  (List.range 4).any (fun i =>
    let e := (s.core (4 * t + i)).mat
    e.state == .waitLease || (e.state == .running && e.inWord.isSome && e.inArray))

/-- The next tile of a die's ring. -/
def nextTile (t : Nat) : Nat := t / 128 * 128 + (t + 1) % 128

/-- `GOVERNOR_WINDOW`: CYCLE has come to a new multiple of 64. -/
def governorWindow (t : Nat) (s : State) : State :=
  if Config.tokenRing || s.cycleWindow ≤ (s.tile t).window then s
  else s.modTile t (fun x => { x with activeCycles := x.settled s.cycleWindow, window := s.cycleWindow, govStalled := false })

/-- `GOVERNOR_BUDGET_STALL`: the budget of the window is used up. -/
def governorStall (t : Nat) (s : State) : State :=
  if Config.tokenRing then s
  else if Config.budget.toNat + 1 ≤ (s.tile t).settled s.cycleWindow then
    s.modTile t (fun x => { x with activeCycles := x.settled s.cycleWindow, window := s.cycleWindow, govStalled := true })
  else s

/-- `TOKEN_ARRIVAL`: a token on its way to the tile is held for a burst, or goes on. -/
def tokenArrival (t : Nat) (s : State) : State :=
  if !Config.tokenRing || (s.tile t).passing = 0 then s
  else
    let u := s.modTile t (fun x => { x with passing := x.passing - 1 })
    if !(s.tile t).token && s.matrixReady t then
      u.modTile t (fun x => { x with token := true, tokenAt := s.cycle, burst := x.lease.held })
    else u.modTile (nextTile t) (fun x => { x with passing := x.passing + 1 })

/-- `TOKEN_BURST_END`: the lease in force since the token came has ended, or 1,024 cycles have passed, or no matrix work is ready. -/
def tokenBurstEnd (t : Nat) (s : State) : State :=
  let x := s.tile t
  if Config.tokenRing && x.token && ((!x.lease.held && (x.burst || !s.matrixReady t)) || decide (1024 ≤ (s.cycle - x.tokenAt).toNat)) then
    (s.modTile t (fun x => { x with token := false, burst := false })).modTile (nextTile t) (fun x => { x with passing := x.passing + 1 })
  else s

/-! ### The lease (R124, R196) -/

/-- The cycles a region held among the latest `n` leased cycles. -/
def leasedBy (r : BitVec 12) : Nat → List (BitVec 12 × Nat) → Nat
  | _, [] => 0
  | n, (x, c) :: rest => (if x == r then min n c else 0) + leasedBy r (n - c) rest

/-- Is a region past its share of the tile's last 16,384 leased cycles? -/
def State.overShare (s : State) (t : Nat) (r : BitVec 12) : Bool :=
  let share := match s.region r with | some g => g.mxshare | none => 16
  decide (share * 1024 ≤ leasedBy r 16384 (s.tile t).lease.past)

/-- The core of a tile that is granted the lease. -/
def State.leaseTo (s : State) (t : Nat) : Option Nat :=
  let wait := (List.range 4).filter (fun i => (s.core (4 * t + i)).mat.state == .waitLease)
  let id (i : Nat) : Ident := (s.core (4 * t + i)).user.id
  let top := wait.foldl (fun m i => max m (id i).prio.toNat) 0
  let cand := wait.filter (fun i => (id i).prio.toNat == top)
  let under := cand.filter (fun i => !s.overShare t (id i).region)
  let pick := if under = [] then cand else under
  let last := (s.tile t).lease.lastHolder.toNat
  (pick.find? (fun i => decide (last < i))).or pick.head?

/-- `LEASE_GRANT`: in token-ring mode only while the tile holds a token whose burst has had no lease (R19, R401). -/
def leaseGrant (t : Nat) (s : State) : State :=
  if (s.tile t).lease.held || (Config.tokenRing && (!(s.tile t).token || (s.tile t).burst)) then s
  else match s.leaseTo t with
    | none => s
    | some i =>
      let s := s.modTile t (fun x => { x with burst := x.token })
      let s := s.modLease t (fun l =>
        { l.noWait i s.cycle with held := true, holder := BitVec.ofNat 2 i, words := 0, since := s.cycle })
      s.setEngine (4 * t + i) false { s.engine (4 * t + i) false with state := .running }

/-- `LEASE_CYCLE_LIMIT`: the word in progress stops at its step and asks for the lease again. -/
def leaseLimit (t : Nat) (s : State) : State :=
  let l := (s.tile t).lease
  let k := 4 * t + l.holder.toNat
  if l.held && decide (1024 ≤ (s.cycle - l.since).toNat) then
    let u := s.modLease t (fun l => l.finish (s.core k).user.id.region s.cycle)
    if (u.engine k false).inWord.isSome && (u.engine k false).inArray then u.awaitLease k else u
  else s

/-! ### Events (R184) -/

/-- An engine that waits at an `AWAIT` is served if its event's count is not 0. -/
def serveAwait (a : Agent) (s : State) : State :=
  let t := { s with cur := a, issue := {} }
  if t.eng.state != .waitEvent || !t.engineReady || t.eng.resolved.isSome then s
  else match fetchWord t t.eng.word with
    | .ok (w, u) => match decodeFor t.engAt.2 w with
      | .engineAwait k => (match ewAwait k { u with word := w } with
        | .ok v => v
        | .error _ => s)
      | _ => s
    | .error _ => s

/-- `EVENT_CYCLE_UPDATE`: the waiting engines of a core are served in stream order. -/
def eventUpdate (k : Nat) (s : State) : State := serveAwait (.copy k) (serveAwait (.matrix k) s)

/-- `LOOPB_START_SKEW` (R306): the skew of an engine has run out. -/
def loopbSkew (k : Nat) (copy : Bool) (s : State) : State :=
  let b := (s.engine k copy).bcast
  if (s.cycle - b.armedAt).toNat < b.skew.toNat then s
  else s.setEngine k copy { s.engine k copy with bcast := { b with skewDone := true } }

/-! ### The trace drain (R134 to R136) -/

/-- A record's bytes (R135). -/
def TraceRec.bytes (r : TraceRec) : List Byte :=
  leBytes 8 r.stamp.toNat ++ leBytes 8 r.payload.toNat ++ leBytes 4 r.group.toNat ++ leBytes 2 r.core.toNat
    ++ [r.kind, if r.fw then 1 else 0] ++ leBytes 8 r.pc.toNat

/-- What the drain finds at an offset of the ring of core `k`. -/
inductive Ring
  | ok (key : BitVec 8) (cell : Nat) (s : State)
  /-- A fault: the record waits. -/
  | wait (s : State)
  /-- The ring cannot be reached: what was to be written is lost. -/
  | gone
  deriving DecidableEq, Repr

/-- The place of `n` bytes of the ring. -/
def ringAt (s : State) (k : Nat) (off n : Nat) : Ring :=
  let c := (s.core k).user
  let va := BitVec.ofNat 48 ((c.dbg.tracectl.extractLsb' 12 36).toNat * 4096 + off)
  match s.translate (.tile (k / 4)) c.id.conf c.id.pasid va accWrite with
  | .ok pa t =>
    let cell := physCell pa
    if offCell cell || !t.inService cell || n = 0 || (keyed cell && !Assoc.get false t.security.keys (physKey pa).toNat) then .gone else .ok (physKey pa) (physCell pa) t
  | .prot _ => .gone
  | .wait => .wait s
  | .fault x t => .wait (t.raiseFault { index := none, pasid := c.id.pasid, va := va, region := c.id.region
                                        node := agentNode (.copy k), access := accWrite, cause := x, path := 2, page := 0
                                        joined := 0, stale := false, waiters := [] })

/-- Write one unit of `size` bytes that stands for `n` records, `lost` records being lost before it, or count them as lost;
`none` where the ring's fault makes the drain wait, with its state. -/
def writeUnit (k size n lost : Nat) (bytes : Option (List Byte)) (s : State) : State × Bool :=
  let ring := 2 ^ (((s.core k).user.dbg.tracectl.extractLsb' 54 4).toNat + 12)
  match ringAt s k 0 32 with
  | .wait t => (t, false)
  | .gone => (s, true)
  | .ok key cell s =>
    let w := leNat (s.bytesKey key cell 8)
    let r := leNat (s.bytesKey key (cell + 8) 8)
    let addLost (m : Nat) (s : State) : State :=
      if m = 0 then s else s.setBytesKey key (cell + 16) (leBytes 8 (leNat (s.bytesKey key (cell + 16) 8) + m))
    let cap := (ring - 64) / size
    match bytes with
    | none => (addLost (n + lost) s, true)
    | some bs =>
      if cap ≤ w - r then (addLost (n + lost) s, true)
      else
        let off := 64 + w % cap * size
        let first := min size (4096 - off % 4096)
        match ringAt s k off first with
        | .wait t => (t, false)
        | .gone => (addLost (n + lost) s, true)
        | .ok ukey ucell s =>
          let s := s.setBytesKey ukey ucell (bs.take first)
          let fin (s : State) : State × Bool := ((addLost lost s).setBytesKey key cell (leBytes 8 (w + 1)), true)
          if first = size then fin s
          else match ringAt s k (off + first) (size - first) with
            | .wait t => (t, false)
            | .gone => (addLost (n + lost) s, true)
            | .ok vkey vcell s => fin (s.setBytesKey vkey vcell (bs.drop first))

/-- Records that LOST records among some count as dropped in the FIFO. -/
def lostIn (rs : List TraceRec) : Nat := (rs.map (fun r => if r.kind = 3 then r.payload.toNat else 0)).sum

/-- A sealed block of up to 7 records (R136): bytes 0 to 15 are plain, the nonce and the additional data, and the record places are
enciphered under the trace key. -/
def sealedBlock (key : List Byte) (k : Nat) (rs : List TraceRec) (s : State) : List Byte :=
  let nonce := leBytes 2 k ++ [0, 0] ++ leBytes 8 s.ptime.toNat
  let aad := nonce ++ leBytes 4 rs.length
  let plain := rs.flatMap (·.bytes) ++ List.replicate (224 - 32 * rs.length) 0
  aad ++ aesGcm key nonce [aad] ((List.range 14).map (fun i => (plain.drop (16 * i)).take 16))

/-- Seal the records gathered, at most one block a `PTIME` tick. -/
def sealPart (k : Nat) (s : State) : State :=
  let q := (s.core k).quill
  if q.part = [] || q.sealedAt == some s.ptime then s
  else
    let key := Assoc.find? s.security.traceKeys (s.core k).user.id.pasid.toNat
    let (t, done) := writeUnit k 256 q.part.length (lostIn q.part) (key.map (fun x => sealedBlock x k q.part s)) s
    if done then t.modCore k (fun c => { c with quill := { c.quill with part := [], sealedAt := some s.ptime } }) else t

/-- `QUILL_DRAIN`: the first record of the FIFO goes to the ring, or to the block being gathered. -/
def quillDrain (k : Nat) (s : State) : State :=
  let q := (s.core k).quill
  let id := (s.core k).user.id
  let pop (s : State) (part : List TraceRec) : State :=
    let t := s.modCore k (fun c => { c with quill := { c.quill with fifo := c.quill.fifo.drop 1, part := part } })
    { { t with cur := .user k }.quillRoom k with cur := s.cur }
  match q.fifo with
  | [] =>
    if q.flush then
      let t := sealPart k s
      if (t.core k).quill.part = [] then t.modCore k (fun c => { c with quill := { c.quill with flush := false } }) else t
    else s
  | r :: _ =>
    if id.conf then
      if (Assoc.find? s.security.traceKeys id.pasid.toNat).isSome then
        if q.part.length < 7 then
          let t := pop s (q.part ++ [r])
          if q.part.length = 6 then sealPart k t else t
        else sealPart k s
      else
        let (t, done) := writeUnit k 256 1 (lostIn [r]) none s
        if done then pop t q.part else t
    else
      let (t, done) := writeUnit k 32 1 (lostIn [r]) (some r.bytes) s
      if done then pop t q.part else t

/-- `SEAL_TIMEOUT`. -/
def sealTimeout (k : Nat) (s : State) : State :=
  if decide (4096 ≤ (s.cycle - (s.core k).quill.lastAt).toNat) then sealPart k s else s

/-- `SAMPLE_TIMER`: one sample every 2^(SPER + 9) cycles, with its cause; in a firmware slot, cause 7, it is of the firmware
context. -/
def sampleTimer (k cause : Nat) (s : State) : State :=
  let c := (s.core k).user
  let sper := (c.dbg.tracectl.extractLsb' 58 4).toNat
  if !c.running || !c.id.debug || !c.dbg.tracectl.getLsbD 63 || sper = 0
      || decide ((s.cycle - (s.core k).quill.sampledAt).toNat < 2 ^ (sper + 9)) then s
  else
    let t := { s with cur := if cause % 8 = 7 then .fw k else .user k }.quillPut 2 (BitVec.ofNat 64 (cause % 8 * 2 ^ 56)) s.ptime
    t.modCore k (fun c => { c with quill := { c.quill with sampledAt := s.cycle } })

/-! ### Timeouts (R140, R349) -/

/-- `REPLAY_WAIT_TIMEOUT`. -/
def replayTimeout (a : Agent) (s : State) : State :=
  let w := (s.ctxOf a).waits
  if w.replay && decide (2 ^ 24 ≤ (s.cycle - w.since).toNat) then
    s.modCtxOf a (fun c => { c with waits := { c.waits with replay := false, resolved := some tReplayDiverge } })
  else s

/-- `BARWWAIT_TIMEOUT_EXPIRY`: the home sets TIMEOUT if it has not reached the generation. -/
def barwTimeout (a : Agent) (s : State) : State :=
  let w := (s.ctxOf a).waits
  if w.barrier && w.limit != 0 && decide (w.limit.toNat ≤ (s.cycle - w.since).toNat) && !w.timedOut then
    let (set_, t) := s.barTimeout w.wordKey w.word w.gen
    if set_ then t.modCtxOf a (fun c => { c with waits := { c.waits with timedOut := true } }) else t
  else s

/-! ### Meanings -/

/-- `GOVERNOR_WINDOW` (R18): tile `inp.n`. -/
def execGovernorWindow (s : State) : Host.Outcome State Fault Refusal := .next (governorWindow s.inp.n s)
/-- `GOVERNOR_BUDGET_STALL` (R18): tile `inp.n`. -/
def execGovernorBudgetStall (s : State) : Host.Outcome State Fault Refusal := .next (governorStall s.inp.n s)
/-- `TOKEN_ARRIVAL` (R19): tile `inp.n`. -/
def execTokenArrival (s : State) : Host.Outcome State Fault Refusal := .next (tokenArrival s.inp.n s)
/-- `TOKEN_BURST_END` (R19): tile `inp.n`. -/
def execTokenBurstEnd (s : State) : Host.Outcome State Fault Refusal := .next (tokenBurstEnd s.inp.n s)
/-- `LEASE_GRANT` (R124): tile `inp.n`. -/
def execLeaseGrant (s : State) : Host.Outcome State Fault Refusal := .next (leaseGrant s.inp.n s)
/-- `LEASE_CYCLE_LIMIT` (R196): tile `inp.n`. -/
def execLeaseCycleLimit (s : State) : Host.Outcome State Fault Refusal := .next (leaseLimit s.inp.n s)
/-- `EVENT_CYCLE_UPDATE` (R184): core `inp.n`. -/
def execEventCycleUpdate (s : State) : Host.Outcome State Fault Refusal := .next (eventUpdate s.inp.n s)
/-- `LOOPB_START_SKEW` (R306): core `inp.n`, the copy engine where `inp.flag`. -/
def execLoopbStartSkew (s : State) : Host.Outcome State Fault Refusal := .next (loopbSkew s.inp.n s.inp.flag s)
/-- `QUILL_DRAIN` (R134): core `inp.n`. -/
def execQuillDrain (s : State) : Host.Outcome State Fault Refusal := .next (quillDrain s.inp.n s)
/-- `SEAL_TIMEOUT` (R136): core `inp.n`. -/
def execSealTimeout (s : State) : Host.Outcome State Fault Refusal := .next (sealTimeout s.inp.n s)
/-- `SAMPLE_TIMER` (R134): core `inp.n`, the sample's cause `inp.m`. -/
def execSampleTimer (s : State) : Host.Outcome State Fault Refusal := .next (sampleTimer s.inp.n s.inp.m s)
/-- `REPLAY_WAIT_TIMEOUT` (R140): context `inp.who`. -/
def execReplayWaitTimeout (s : State) : Host.Outcome State Fault Refusal := .next (replayTimeout s.inp.who s)
/-- `BARWWAIT_TIMEOUT_EXPIRY` (R349): context `inp.who`. -/
def execBarwwaitTimeoutExpiry (s : State) : Host.Outcome State Fault Refusal := .next (barwTimeout s.inp.who s)

end Sys2Proof.Machine
end

