-- ==== Sys2Proof/Machine/Sched.lean ====
section
/-!
DEFINITION. What runs on a core: dispatch of task instances, continuations and parked images (R110 to R113, R121 to R123),
requests for grains (R117), the traps taken at a boundary (R316, R317, R320), the firmware context's restart, the landing
of an `LDR` (R336), and the banks of lookup cores (R200). Log entries: 68 (registers at dispatch), 69 (bind records that
cannot start), 70 (the reads of eligibility), 71 (a quill before dispatch).
-/

namespace Sys2Proof.Machine

/-! ### Dispatch (R110, R121) -/

/-- The descriptor bits of a bank's entry. -/
def bufBits (d : BufDesc) : BitVec 128 := descBits d.base d.len d.page d.kind d.cls

/-- What a bound region gives a context (R91, R110). -/
def identOf (s : State) (r : BitVec 12) (g : Region) : Ident :=
  { group := (s.life r).group, region := r, pasid := g.pasid, prio := g.prio, debug := g.debug, conf := g.conf }

/-- A context as dispatch sets it (R110): from bundle address `pc`, with some domain registers; what an earlier task has
sent and what lands in continuation records stays outstanding. -/
def Ctx.dispatched (c : Ctx) (pc : Addr) (d : Assoc Dom) (bds : Assoc (BitVec 128)) (events : List Byte) (id : Ident) : Ctx :=
  { pc := pc, running := true, id := id, count := c.count, out := c.out, ldrs := c.ldrs.filter (·.slotOf.isSome)
    regs := { d := d, bd := bds, ev := (List.range 32).map (fun k => (k, events.getD k 0)) } }

/-- The descriptors of a region's tasks: those of the bank, BD15 with the region's own argument block (R103). -/
def bankDescs (bank : BankImage) (g : Region) : Assoc (BitVec 128) :=
  (bank.bds.zipIdx).map (fun e => (e.2, bufBits (if e.2 = 15 then { e.1 with base := g.args } else e.1)))

/-- An engine at dispatch: it starts where its start address is not zero (R183). -/
def Engine.dispatched (e : Engine) (start : Addr) : Engine :=
  { out := e.out, word := start, state := if start = 0 then .idle else .running }

/-- The rank of a core in a region's core set. -/
def Region.rankOf (g : Region) (k : Nat) : Nat := (g.cores.findIdx? (· == k)).getD 0

/-- The first dispatch of a region's tasks: the region runs, and for a root, which now has started (R125), the LFE writes T_START
and STATUS 1 (R95, R96). -/
def State.begun (s : State) (r : BitVec 12) : State :=
  match s.region r with
  | none => s
  | some g =>
    let s := if g.state == .queued then s.setRegionState r .running else s
    match (s.life g.root).launch with
    | none => s
    | some n => match s.launch n with
      | none => s
      | some l =>
        if l.stage == 3 then s
        else
          let s := { s.setLife g.root { s.life g.root with started := s.dist.nextOrder } with
            dist := { s.dist with nextOrder := s.dist.nextOrder + 1 } }
          startFrom n { l with stage := 3, tstart := s.ptime } 3 0 s

/-- What a dispatch drops of the records an earlier task left (R134, R135). -/
def Quill.dispatched (q : Quill) : Quill := { q with lost := 0 }

/-- Start a task on core `k` for region `r` with some domain registers at `pc`; `fresh` says whether the engines start with it
(R183). Both contexts of the core belong to the region (R128, R322). -/
def startTask (s : State) (k : Nat) (r : BitVec 12) (g : Region) (fresh : Bool) (pc : Addr) (d : Assoc Dom)
    (index : Option Word) : State :=
  let id := identOf s r g
  (s.begun r).modCore k (fun c =>
    { c with
      user := c.user.dispatched pc d (bankDescs c.active g) c.active.events id, fw := { c.fw with id := id }
      mat := c.mat.dispatched (if fresh then c.active.mstart else 0)
      cpy := c.cpy.dispatched (if fresh then c.active.cstart else 0), quill := c.quill.dispatched
      acc0 := List.replicate 4096 0, acc1 := List.replicate 4096 0, index := index, engHeld := false })

/-- An instance of KIND 1. -/
def startInstance (s : State) (k : Nat) (r : BitVec 12) (g : Region) (index : Word) : State :=
  let d : Assoc Dom := [(1, .single index), (2, .single g.first), (3, .single g.count)
    , (4, .single (BitVec.ofNat 32 (g.rankOf k)))]
  startTask s k r g true g.entry d (some index)

/-- A continuation of KIND 2 (R111, R112): its live registers are loaded, and it leaves the pool; the engines stay idle. -/
def startCont (s : State) (k : Nat) (r : BitVec 12) (g : Region) (rec_ : BitVec 52) : State :=
  let b := s.bytesKey (physKey rec_) (physCell rec_) 384
  let d : Assoc Dom := (List.range (min 16 (field b 10 1))).foldl (fun m i =>
    let n := field b (72 + i) 1 % 64
    if n = 0 then m else Assoc.set m n (Dom.ofWord (bitsAt 128 b (96 + 16 * i) 16))) []
  let index := ((s.life r).conts.find? (fun c => c.1 == rec_)).bind (·.2)
  let s := s.modLife r (fun l => { l with conts := l.conts.filter (fun c => c.1 != rec_) })
  let s := s.setByteKey (physKey rec_) (physCell rec_ + 13) (BitVec.zeroExtend 8 g.prio)
  startTask s k r g false (bitsAt 48 b 0 8) d index

/-- May a bind record start on core `k` now? -/
def State.canStart (s : State) (k : Nat) (b : Bind) : Bool :=
  let c := s.core k
  match s.region b.region with
  | none => false
  | some g =>
    (s.usableCores b.region).contains k && g.ending.isNone && (g.state == .queued || g.state == .running) && c.active.region == g.root
      && !(match s.region g.root with | some x => x.stopping | none => false)
      && (match b.kind with
        | 1 => true
        | 2 => (s.life b.region).conts.any (fun x => x.1 == b.addr)
        | 3 => field (s.bytesKey (physKey b.addr) (physCell b.addr) 16) 10 2 % 4096 == b.region.toNat
        | _ => false)

/-- The context whose image stands at `addr`: the core's parked one, or one of which only the image is there. -/
def imageAt (s : State) (k : Nat) (r : BitVec 12) (g : Region) (addr : BitVec 52) : Kept :=
  match (s.core k).parked.filter (·.addr == addr) with
  | some p => p
  | none => { lookup := false, core := k, running := true, addr := addr, index := none
              ctx := { id := identOf s r g, count := 2 ^ 30 }, mat := {}, cpy := {} }

/-- A context image of KIND 3 is restored (R121, R123). -/
def startImage (s : State) (k : Nat) (r : BitVec 12) (g : Region) (addr : BitVec 52) : State :=
  let p := imageAt s k r g addr
  match restoreCore s p with
  | some t => t.modCore k (fun c => { c with parked := c.parked.filter (·.addr != addr) })
  | none => s.push .regionFault { n := r.toNat, m := k, value := 0xFF, addr := some p.ctx.pc, who := .user k }

/-- `TASK_DISPATCH`: the armed record with the lowest slot number starts, if it can. -/
def taskDispatch (k : Nat) (s : State) : State :=
  let c := s.core k
  if c.user.running || c.swapping || s.coreGated k || !s.tileUp (k / 4) || c.quill.fifo != [] || c.quill.part != [] then s
  else match (s.armed k).head?.filter (s.canStart k) with
    | none => s
    | some b =>
      let s := s.setByte (bindCell k b.slot) 0
      match s.region b.region with
      | none => s
      | some g => match b.kind with
        | 1 => startInstance s k b.region g b.index
        | 2 => startCont s k b.region g b.addr
        | _ => startImage s k b.region g b.addr

/-! ### Continuations (R113, R122) -/

/-- Has a listed word reached its generation? A word that cannot be read has not. -/
def waitReached (s : State) (g : Region) (va : Addr) (gen : Word) : Bool × State :=
  match s.translate .lfe g.conf g.pasid va accRead with
  | .ok pa t =>
    let ok := !offCell (physCell pa) && t.inService (physCell pa)
      && !(keyed (physCell pa) && !Assoc.get false t.security.keys (physKey pa).toNat) && !t.poisoned (physCell pa) 24
    (ok && (t.barWord (physKey pa) (physCell pa)).reached gen, if ok then t.countFar (physCell pa) else t)
  | .prot t | .fault _ t => (false, t)
  | .wait => (false, s)

/-- Is a continuation eligible? The first wait that is not reached ends the reads. -/
def contEligible (s : State) (g : Region) (b : List Byte) : Bool × State :=
  if field b 11 1 != 0 then (false, s)
  else (List.range (min 4 (field b 12 1))).foldl (fun x i =>
    if x.1 then waitReached x.2 g (bitsAt 48 b (24 + 12 * i) 8) (bitsAt 32 b (32 + 12 * i) 4) else x) (true, s)

/-- `CONTINUATION_ELIGIBLE`: READY is written when an eligibility read finds the continuation eligible. -/
def continuationEligible (r : BitVec 12) (rec_ : BitVec 52) (s : State) : State :=
  match s.region r with
  | none => s
  | some g =>
    let b := s.bytesKey (physKey rec_) (physCell rec_) 384
    if !(s.life r).conts.any (fun c => c.1 == rec_) || field b 16 8 != 0 then s
    else
      let (ok, s) := contEligible s g b
      if !ok then s else s.setBytesKey (physKey rec_) (physCell rec_ + 16) (leBytes 8 s.mesh.count.toNat)

/-- `LEVEL_PROMOTION`: one level for each 2^20 cycles spent eligible and unbound. -/
def levelPromotion (r : BitVec 12) (rec_ : BitVec 52) (s : State) : State :=
  match s.region r with
  | none => s
  | some g =>
    let b := s.bytesKey (physKey rec_) (physCell rec_) 384
    let level := field b 13 1 % 16
    let ready := field b 16 8
    let due := g.prio.toNat + (s.mesh.count.toNat - ready) / 2 ^ 20
    if !(s.life r).conts.any (fun c => c.1 == rec_) || ready = 0 || 15 ≤ level || due ≤ level then s
    else s.setByteKey (physKey rec_) (physCell rec_ + 13) (BitVec.ofNat 8 (level + 1))

/-! ### Grains (R117) -/

/-- Would the firmware take the item at an end of a deque: is there one, and is it no USER item (R117)? -/
def State.takeable (s : State) (cell : Nat) (k : Word) : Bool :=
  s.dqHeld cell != 0 && (s.bytes (State.dqItem cell k) 1).getD 0 0 != 3

/-- Has a core come to the third place of its search for work (R117): its user context is free, its bind list holds nothing, and
neither its own deque nor those of its tile's other cores, which it looks at first, offer it anything? -/
def State.seeksGrain (s : State) (k : Nat) (r : BitVec 12) : Bool :=
  let own := match s.dequeCell r k with | some c => s.takeable c (s.dqBottom c - 1) | none => false
  let others := (List.range 3).any (fun i => match s.dequeCell r (k / 4 * 4 + (k + 1 + i) % 4) with
    | some c => s.takeable c (s.dqTop c)
    | none => false)
  !(s.core k).user.running && s.armed k == [] && !own && !others

/-- `GRAIN_REQUEST`: the lowest PENDING grain of the core's die goes to its deque. -/
def grainRequest (k : Nat) (r : BitVec 12) (s : State) : State :=
  match s.region r, s.dequeCell r k with
  | some g, some _ =>
    let mine := s.dist.grains.filter (fun x => x.region == r && x.die.toNat == tileDie (k / 4) && x.state == 0)
    let low := mine.foldl (fun (m : Option Grain) x => match m with
      | some y => if x.first.toNat < y.first.toNat then some x else m
      | none => some x) none
    (match low with
      | none => s
      | some x =>
        if !(s.usableCores r).contains k || !s.seeksGrain k r || g.state == .preempted || g.ending.isSome then s
        else dealOne r k s x)
  | _, _ => s

/-! ### Traps at a boundary (R316, R317, R320) -/

/-- The cell of a core's request area (R320). -/
def syscallCell (k : Nat) : Nat := storeCell (k / 4) (4096 * (k % 4) + 0x100)

/-- A `SYSCALL` is posted to the firmware context; the user context waits. -/
def postSyscall (d : Deferred) (s : State) : State :=
  match s.cur with
  | .user k =>
    match s.loggedTrap d.req with
    | .error u => u
    | .ok (t, s) =>
    let s := s.modCtx (fun c => { c with deferred := c.deferred.drop 1 })
    if t.code != tSyscall then s.enter t
    else
      let c := s.ctx
      let s := s.setBytes (syscallCell k) (leBytes 4 1 ++ leBytes 4 d.req.arg.toNat ++ d.args.flatMap (fun w => leBytes 4 w.toNat))
      let s := s.setBytes (syscallCell k + 0x38) (leBytes 8 c.pc.toNat)
      s.modCore k (fun c => { c with
        user := { c.user with waits := { c.user.waits with syscall := true } }
        fw := { c.fw with waits := { c.fw.waits with idle := false } } })
  | _ => s

/-- `DEFERRED_TRAP`: the first trap of group 1 that may be taken. -/
def deferredTrap (a : Agent) (s : State) : State :=
  let s := { s with cur := a, issue := {} }
  match s.ctx.nextDeferred with
  | none => s
  | some d =>
    if d.rank = 3 && s.isUser then postSyscall d s
    else match s.loggedTrap d.req with
      | .error u => u
      | .ok (t, s) => (s.modCtx (fun c => { c with deferred := c.deferred.drop 1 })).enter t

/-- `SYSCALL_RELEASE`: PENDING is 0; D8 to D11 take RET as singletons. -/
def syscallRelease (k : Nat) (s : State) : State :=
  let a := syscallCell k
  if !(s.core k).user.waits.syscall || leNat (s.bytes a 4) ≠ 0 then s
  else
    let ret (i : Nat) : Dom := .single (BitVec.ofNat 32 (leNat (s.bytes (a + 0x28 + 4 * i) 4)))
    s.modCore k (fun c => { c with user := { c.user with
      waits := { c.user.waits with syscall := false }
      regs := (List.range 4).foldl (fun r i => r.write (.d (BitVec.ofNat 6 (8 + i)) (ret i))) c.user.regs } })

/-- `FIRMWARE_RESTART`: the firmware context starts again from the verified firmware; the slot table stays. -/
def firmwareRestart (k : Nat) (s : State) : State :=
  if (s.core k).fw.running then s
  else s.modCore k (fun c => { c with fw := { pc := Config.firmwareEntry, running := true, id := c.fw.id } })

/-! ### The landing of an `LDR` (R111, R187, R336) -/

/-- The registers' values from an `LDR`'s bytes. -/
def Ldr.writes (l : Ldr) : List (Bool × Write) :=
  let ws := loadResults l.size l.dd (l.data.getD [])
  ws.zipIdx.map (fun e => (if e.2 = 0 then l.live else l.liveHi, e.1))

/-- An `LDR` lands in a continuation record: in its slots, and PENDING falls. -/
def landInRecord (l : Ldr) (rec_ : BitVec 52) (s : State) : State :=
  let (key, at_) := (physKey rec_, physCell rec_)
  let b := s.bytesKey key at_ 384
  let s := l.writes.foldl (fun t e => match e.2 with
    | .d r x =>
      if !e.1 then t
      else match (List.range (field b 10 1)).find? (fun i => field b (72 + i) 1 == r.toNat) with
        | some i => t.setBytesKey key (at_ + 96 + 16 * i) (leBytes 16 x.word.toNat)
        | none => t
    | _ => t) s
  s.setByteKey key (at_ + 11) (BitVec.ofNat 8 (field b 11 1 - 1))

/-- An `LDR` has failed with a trap: it lands nothing, posts nothing, and is reported at its context's next boundary
(R153). One that a `YIELD` left to its record has no context to report in: its region faults. -/
def ldrFails (a : Agent) (l : Ldr) (code : Byte) (s : State) : State :=
  let s := s.modCtxOf a (fun c => { c with ldrs := c.ldrs.erase l })
  match l.slotOf with
  | none => s.report a l.count code
  | some r =>
    let b := s.bytesKey (physKey r) (physCell r) 16
    { s with cur := a }.push .regionFault { n := field b 8 2 % 4096, m := ({ s with cur := a }).coreNumber.toNat
                                            value := BitVec.zeroExtend 64 code, addr := some (bitsAt 48 b 0 8), who := a }

/-- The read of an `LDR` whose page's fault is no longer open is sent again (R153): only what was issued before it can hold
it back. -/
def retryLdr (a : Agent) (i : Nat) (s : State) : State :=
  let t := { s with cur := a, issue := { split := true } }
  match t.ctx.ldrs[i]? with
  | none => s
  | some l =>
    match l.fault with
    | none => s
    | some va =>
      if !l.retry && t.faultOpen t.ctx.id.pasid va then s
      else
        let n := loadBytes l.size
        let before := t.ctx.ldrs.take i
        let after := t.ctx.ldrs.drop (i + 1)
        let u := t.modCtx (fun c => { c with ldrs := before })
        let body : Eff State := do
          let (p, v) ← locate u false (Desc.ofBits l.bd) l.off n accRead
          ldrSend v l.size l.dd l.ev l.cls p
        match body with
        | .ok v => v.modCtx (fun c => { c with ldrs := before ++ { c.ldrs.getLastD l with
            count := l.count, live := l.live, liveHi := l.liveHi, slotOf := l.slotOf } :: after })
        | .error (.trap q _) => ldrFails a l q.code s
        | .error (.fault v) => (v.modWaits (fun w => { w with fault := t.ctx.waits.fault })).modCtx (fun c =>
            { c with ldrs := before ++ { l with fault := v.ctx.waits.fault, retry := false } :: after })
        | .error (.stall _) => s

/-- `LDR_LANDING`: the value of the `i`-th load of a context lands, and its event is posted. -/
def ldrLanding (a : Agent) (i : Nat) (s : State) : State :=
  match (s.ctxOf a).ldrs[i]? with
  | none => s
  | some l =>
    if l.fault.isSome then retryLdr a i s
    else if l.data.isNone then s
    else
      let s := s.modCtxOf a (fun c => { c with ldrs := c.ldrs.eraseIdx i })
      match l.slotOf with
      | some r => landInRecord l r s
      | none =>
        let s := s.modCtxOf a (fun c => l.writes.foldl (fun c e =>
          if e.1 then c.land ⟨0, false, 2, l.count, e.2⟩ else c) c)
        if (s.ctxOf a).regs.event l.ev.toNat = 255 then s.report a l.count tEventOvf
        else s.bump a l.ev.toNat

/-! ### Lookup cores (R200) -/

/-- `LOOKUP_BANK_WRITE`: the system software binds a lookup core to a running region, and its task starts. -/
def lookupBank (n : Nat) (r : BitVec 12) (bank : BankImage) (s : State) : State :=
  match s.region r with
  | none => s
  | some g =>
    let l := s.lookup n
    if l.busy || g.state != .running || g.ending.isSome || !s.stackUp (n / 8) then s
    else
      let id := identOf s r g
      let d : Assoc Dom := [(1, .single g.first), (2, .single g.first), (3, .single g.count)]
      let bank := { bank with region := r }
      let bds : Assoc (BitVec 128) := (bank.bds.zipIdx).map (fun e => (e.2, bufBits e.1))
      let c := l.ctx.dispatched bank.entry d bds bank.events id
      (s.setLookup n { ctx := c, bank := bank, busy := true }).setLive r ((s.life r).live + 1)

/-! ### Meanings -/

/-- `TASK_DISPATCH` (R121): core `inp.n`. -/
def execTaskDispatch (s : State) : Host.Outcome State Fault Refusal := .next (taskDispatch s.inp.n s)
/-- `CONTINUATION_ELIGIBLE` (R113): region `inp.n`, record `inp.value`. -/
def execContinuationEligible (s : State) : Host.Outcome State Fault Refusal :=
  .next (continuationEligible (BitVec.ofNat 12 s.inp.n) (s.inp.value.extractLsb' 0 52) s)
/-- `LEVEL_PROMOTION` (R122): region `inp.n`, record `inp.value`. -/
def execLevelPromotion (s : State) : Host.Outcome State Fault Refusal :=
  .next (levelPromotion (BitVec.ofNat 12 s.inp.n) (s.inp.value.extractLsb' 0 52) s)
/-- `GRAIN_REQUEST` (R117): core `inp.n`, region `inp.m`. -/
def execGrainRequest (s : State) : Host.Outcome State Fault Refusal := .next (grainRequest s.inp.n (BitVec.ofNat 12 s.inp.m) s)
/-- `DEFERRED_TRAP` (R317): context `inp.who`. -/
def execDeferredTrap (s : State) : Host.Outcome State Fault Refusal := .next (deferredTrap s.inp.who s)
/-- `SYSCALL_RELEASE` (R320): core `inp.n`. -/
def execSyscallRelease (s : State) : Host.Outcome State Fault Refusal := .next (syscallRelease s.inp.n s)
/-- `FIRMWARE_RESTART` (R315): core `inp.n`. -/
def execFirmwareRestart (s : State) : Host.Outcome State Fault Refusal := .next (firmwareRestart s.inp.n s)
/-- `LDR_LANDING` (R336): context `inp.who`, its load number `inp.n`. -/
def execLdrLanding (s : State) : Host.Outcome State Fault Refusal := .next (ldrLanding s.inp.who s.inp.n s)
/-- `LOOKUP_BANK_WRITE` (R200): lookup core `inp.n`, region `inp.m`, the bank `inp.bank`. -/
def execLookupBankWrite (s : State) : Host.Outcome State Fault Refusal :=
  .next (lookupBank s.inp.n (BitVec.ofNat 12 s.inp.m) s.inp.bank s)

end Sys2Proof.Machine
end

