-- ==== Sys2Proof/Machine/Preempt.lean ====
section
/-!
DEFINITION. Pre-emption of a root tree and its resumption (R75, R76, R125 to R127, R200, R418, R419).
Log entries: 63 (what the image has no place for), 72 (a pre-emption takes several steps), 73 (the save area's layout), 74
(the swash records of a tree).
-/

namespace Sys2Proof.Machine

/-! ### The tree -/

/-- The lookup cores that run a task of some regions. -/
def State.treeLookups (s : State) (rs : List (BitVec 12)) : List Nat :=
  (s.lookups.filter (fun e => e.2.busy && rs.contains e.2.bank.region)).map (·.1)

/-- The nodes of a tree: the sub-ports of its tiles, and its lookup cores (R75). -/
def State.treeNodes (s : State) (rs : List (BitVec 12)) (tiles : List Nat) : List (BitVec 13) :=
  tiles.flatMap (fun t => (List.range 6).map (tileNode t)) ++ (s.treeLookups rs).map lookupNode

/-- Is a packet one of the tree's that is addressed to one of its nodes? -/
def Packet.ofTree (rs : List (BitVec 12)) (nodes : List (BitVec 13)) (p : Packet) : Bool :=
  rs.contains p.region && nodes.contains p.dst

/-- Has the mesh drained for a tree, and has everything its agents sent been answered (R75)? -/
def State.drained (s : State) (rs : List (BitVec 12)) (g : Region) : Bool :=
  let nodes := s.treeNodes rs g.tiles
  g.cores.all (fun k =>
      let c := s.core k
      c.user.out = [] && c.user.ldrs.all (·.fault.isSome) && c.mat.out = [] && c.cpy.out = [] && c.mat.sub = 0 && c.cpy.sub = 0
        && c.quill.fifo = [] && c.quill.part = [])
    && (s.treeLookups rs).all (fun n => (s.lookup n).ctx.out = [] && (s.lookup n).ctx.ldrs.all (·.fault.isSome))
    && s.packets.all (fun p => !Packet.ofTree rs nodes p)

/-! ### The save area (R127) -/

/-- The offset of the first context image. -/
def ctxOff : Nat := 4096
/-- The offset of the image of slot `i`, and of its park slot. -/
def imageOff (i : Nat) : Nat := ctxOff + 2 * i * ctxSize
def parkOff (i : Nat) : Nat := imageOff i + ctxSize
/-- The offsets of the SRAM image, the copy records and the swash records, for `n` slots and `g` granules. -/
def partOff (n : Nat) : Nat := imageOff n
def copyOff (n g : Nat) : Nat := partOff n + g * granuleBytes
def swashOff (n g : Nat) : Nat := copyOff n g + 4096 * n

/-- The contexts that a tree's images are of, in order: its cores, then its lookup cores. -/
def State.treeAgents (s : State) (rs : List (BitVec 12)) (g : Region) : List Agent :=
  g.cores.map .user ++ (s.treeLookups rs).map .lookup

/-- Can `n` bytes of a save area be written? -/
def State.canWrite (s : State) (addr : BitVec 52) (n : Nat) : Bool :=
  let a := physCell addr
  s.inService a && s.inService (a + n - 1) && (!keyed a || Assoc.get false s.security.keys (physKey addr).toNat)

/-- Can a tree be saved (R126): its save area can be written, and its granules hold no uncorrectable data (R65)? -/
def State.canSave (s : State) (save : BitVec 52) (g : Region) : Bool :=
  s.canWrite save (saveBytes g.cores.length (g.granules.length * granuleBytes))
    && (s.poison == [] || g.granules.all (fun x => !s.badIn (sliceCell (x / 96) (x % 96 * granuleBytes)) granuleBytes))

/-! ### Copies in flight (R418, R419) -/

/-- Does a copy word count, and where among its operands is its barrier word's offset? -/
def barPlace (w : BitVec 16) : Option Nat :=
  match decodeCopy w with
  | some .copy => if copyCounts w then some 4 else none
  | some .copy2 => if copyCounts w then some 7 else none
  | some .mcast => if copyCounts w then some 6 else none
  | some .decomp => if copyCounts w then some 3 else none
  | some .gld => if (GldMods.ofWord w).b then some 7 else none
  | _ => none

/-- The barrier words of core `k`'s copy word in flight. -/
def copyBars (k : Nat) (s : State) : List Loc :=
  let t := { s with cur := .copy k, issue := {} }
  let e := (s.core k).cpy
  match e.inWord with
  | none => []
  | some w => match barPlace w with
    | none => []
    | some i =>
      if decodeCopy w = some .mcast then
        (maskTiles t (op e.ops 4) (op e.ops 5)).filterMap (fun x => t.shareLoc x (op e.ops i))
      else match barLoc true e.ops i t with
        | .ok (some l, _) => [l]
        | _ => []

/-- Is the word in flight one that fills a ring slot (SEL RING = 1 and B = 1)? -/
def Engine.filling (e : Engine) : Bool :=
  match e.inWord with
  | some w => (barPlace w).isSome && selRing (e.ops.getD 0 0)
  | none => false

/-- The count of a ring slot's barrier words is taken back; nothing advances. -/
def unfill (k : Nat) (s : State) : State :=
  if (s.core k).cpy.filling then
    let t := (copyBars k s).foldl (fun t l =>
      let w := t.barWord l.key l.cell
      t.setBarWord l.key l.cell { w with count := w.count - (s.core k).cpy.counted }) s
    t.modCore k (fun c => { c with cpy := { c.cpy with step := 0, counted := 0 } })
  else s

/-- A restart record (R419). -/
def restartRecord (k : Nat) (e : Engine) (filling : Bool) : List Byte :=
  let b := match e.inWord with | some w => (barPlace w).isSome | none => false
  leBytes 8 e.word.toNat ++ leBytes 4 e.step.toNat
    ++ [BitVec.ofNat 8 ((if filling then 1 else 0) + copyFlags e b), BitVec.ofNat 8 e.ops.length, 0, 0] ++ opsBytes e
    ++ leBytes 8 e.counted.toNat ++ leBytes 2 k ++ leBytes 6 0

/-- Read a restart record back over the copy engine it is of; `none` is a failed restore. -/
def applyRestart (b : List Byte) (s : State) : Option State :=
  let k := field b 56 2 % 1024
  let n := field b 13 1
  if 8 < n then none
  else some (s.modCore k (fun c => { c with cpy := { c.cpy with
    word := bitsAt 48 b 0 8, step := bitsAt 32 b 8 4, satnan := field b 12 1 / 4 % 2 == 1, ops := wordsAt b 16 n
    counted := bitsAt 64 b 48 8 } }))

/-! ### Swash records (R76) -/

/-- An entry of a swash record. -/
def swashEntry (dir : Nat) (cls : Nat) (here peer : Nat) (seq : BitVec 12) : List Byte :=
  leBytes 8 (dir * 2 ^ 63 + cls * 2 ^ 59 + here * 2 ^ 46 + peer * 2 ^ 33 + seq.toNat * 2 ^ 21)

/-- The parts of a stream's key: source, region, class, destination. -/
def streamParts (k : Nat) : Nat × Nat × Nat × Nat := (k / 2 ^ 29, k / 2 ^ 17 % 4096, k / 2 ^ 13 % 16, k % 8192)

/-- The entries of one region at the nodes of its tree: the streams that arrive, then those that leave, each in rising order of
their keys (DESIGN CHOICE, log entry 74: R76 gives no order). -/
def swashEntries (s : State) (r : BitVec 12) (nodes : List (BitVec 13)) : List (List Byte) :=
  let has (n : Nat) : Bool := nodes.contains (BitVec.ofNat 13 n)
  let arriving : List (List Byte) := s.mesh.expect.filterMap (fun e =>
      let k := streamParts e.1
      if k.2.1 == r.toNat && has k.2.2.2 && e.2 != 0 then some (swashEntry 0 k.2.2.1 k.2.2.2 k.1 e.2) else none)
  let leaving : List (List Byte) := s.mesh.next.filterMap (fun e =>
      let k := streamParts e.1
      if k.2.1 == r.toNat && has k.1 && e.2 != 0 then some (swashEntry 1 k.2.2.1 k.1 k.2.2.2 e.2) else none)
  arriving ++ leaving

/-- The swash record of one region. -/
def swashRecord (s : State) (r : BitVec 12) (nodes : List (BitVec 13)) : List Byte :=
  let es := swashEntries s r nodes
  leBytes 4 es.length ++ leBytes 2 r.toNat ++ leBytes 2 0 ++ leBytes 8 s.ptime.toNat ++ es.flatten

/-- Write one entry back. -/
def applySwash (r : Nat) (w : Nat) (s : State) : State :=
  let cls := w / 2 ^ 59 % 16
  let here := w / 2 ^ 46 % 8192
  let peer := w / 2 ^ 33 % 8192
  let seq := BitVec.ofNat 12 (w / 2 ^ 21)
  let key (a b : Nat) : Nat := streamKey (BitVec.ofNat 13 a) (BitVec.ofNat 12 r) (BitVec.ofNat 4 cls) (BitVec.ofNat 13 b)
  if w / 2 ^ 63 % 2 = 1 then { s with mesh := { s.mesh with next := Assoc.set s.mesh.next (key here peer) seq } }
  else { s with mesh := { s.mesh with expect := Assoc.set s.mesh.expect (key peer here) seq } }

/-- Write back `n` swash records that stand one after another. -/
def restoreSwash (key : BitVec 8) : Nat → Nat → State → State
  | 0, _, s => s
  | n + 1, cell, s =>
    let h := s.bytesKey key cell 16
    let m := field h 0 4
    let t := (List.range m).foldl (fun t i => applySwash (field h 4 2 % 4096) (leNat (s.bytesKey key (cell + 16 + 8 * i) 8)) t) s
    restoreSwash key n (cell + 16 + 8 * m) t

/-! ### Stopping and saving (R126) -/

/-- The SRAM partition to the save area, or back. -/
def saveSram (key : BitVec 8) (at_ : Nat) (gs : List Nat) (s : State) : State :=
  (gs.zipIdx).foldl (fun t e =>
    t.setBytesKey key (at_ + e.2 * granuleBytes) (t.bytes (sliceCell (e.1 / 96) (e.1 % 96 * granuleBytes)) granuleBytes)) s
def loadSram (key : BitVec 8) (at_ : Nat) (gs : List Nat) (s : State) : State :=
  (gs.zipIdx).foldl (fun t e =>
    t.setBytes (sliceCell (e.1 / 96) (e.1 % 96 * granuleBytes)) (t.bytesKey key (at_ + e.2 * granuleBytes) granuleBytes)) s

/-- Save one context of a tree in slot `i`: its image, and what is kept of it if it runs. -/
def saveSlot (save : BitVec 52) (a : Agent) (i : Nat) (acc : List Kept × State) : List Kept × State :=
  let s := acc.2
  let copy := match agentCore a with
    | some k => if (s.core k).cpy.inWord.isSome then [] else cpyOpstate (s.core k).cpy false
    | none => []
  let (k, t) := saveContext s a (save + BitVec.ofNat 52 (imageOff i)) false copy
  (if (s.ctxOf a).running then acc.1 ++ [k] else acc.1, t)

/-- The cores of a saved tree are free of it: their leases have ended, their contexts and engines are empty. -/
def vacate (g : Region) (lks : List Nat) (s : State) : State :=
  let s := g.cores.foldl (fun t k => (t.stopCore k).modCore k (fun c => { c with parked := none })) s
  lks.foldl (fun t n => t.setLookup n { t.lookup n with ctx := {} }) s

/-- Steps 3 to 7 of a pre-emption, once the tree has stopped and the mesh has drained for it. -/
def saveTree (root : BitVec 12) (g : Region) (s : State) : State :=
  let save := (s.life root).save
  let key := physKey save
  let base := physCell save
  let rs := s.subtree root
  let lks := s.treeLookups rs
  let agents := s.treeAgents rs g
  let n := agents.length
  let ng := g.granules.length
  let fills := g.cores.filter (fun k => (s.core k).cpy.filling)
  let s := g.cores.foldl (fun t k => unfill k t) s
  let nodes := s.treeNodes rs g.tiles
  let s := s.setBytesKey key (base + swashOff n ng) (rs.flatMap (fun r => swashRecord s r nodes))
  let s := saveSram key (base + partOff n) g.granules s
  let recs := (g.cores.filter (fun k => (s.core k).user.running && (s.core k).cpy.inWord.isSome)).map (fun k =>
    restartRecord k (s.core k).cpy (fills.contains k))
  let s := s.setBytesKey key (base + copyOff n ng) recs.flatten
  let (kept, s) := (agents.zipIdx).foldl (fun acc e => saveSlot save e.1 e.2 acc) ([], s)
  let parked := g.cores.filterMap (fun k => (s.core k).parked)
  let s := vacate g lks s
  let s := s.setBytesKey key base (pad 128 (leBytes 2 root.toNat ++ leBytes 2 n ++ leBytes 4 0 ++ leBytes 8 s.ptime.toNat
    ++ leBytes 8 ctxOff ++ leBytes 4 ctxSize ++ leBytes 4 0 ++ leBytes 8 (swashOff n ng) ++ leBytes 8 (partOff n)
    ++ leBytes 8 (ng * granuleBytes) ++ leBytes 8 (copyOff n ng) ++ leBytes 4 recs.length))
  let was := rs.map (fun r => (r, match s.region r with | some x => x.state | none => .queued))
  let s := rs.foldl (fun t r => (t.setRegionState r .preempted).modRegion r (fun x => { x with stopping := false })) s
  let owners := s.dist.owners.filter (fun e => !rs.contains e.2)
  let s := { s with dist := { s.dist with owners := owners, nextOrder := s.dist.nextOrder + 1 } }
  s.modLife root (fun l => { l with saved := kept, savedParked := parked, was := was, preempted := s.dist.nextOrder })

/-- Where a stopped tree waits for posted writes, the flushing reads go out (R179, R181). -/
def flushTree (g : Region) (s : State) : State :=
  let at_ (a : Agent) (f : State → State) (t : State) : State := { f { t with cur := a } with cur := t.cur }
  g.cores.foldl (fun t k =>
    at_ (.copy k) State.engFlush (at_ (.matrix k) State.engFlush (at_ (.user k) State.flush t))) s

/-- `PREEMPT_REQUEST` (R126): a root tree is told to stop; once it has stopped and drained it is saved. -/
def preemptRequest (root : BitVec 12) (s : State) : State :=
  match s.region root with
  | none => s
  | some g =>
    if g.parent != 0 || g.state == .preempted || g.ending.isSome || g.tiles = [] then s
    else
      let s := s.modRegion root (fun x => { x with stopping := true })
      let s := g.cores.foldl (fun t k => if (t.core k).quill.fifo = [] && (t.core k).quill.part = [] then t
        else t.modCore k (fun c => { c with quill := { c.quill with flush := true } })) s
      if !s.drained (s.subtree root) g then flushTree g s
      else if !s.canSave (s.life root).save g then endDomain root 0xFF 0 0 s
      else saveTree root { g with stopping := true } s

/-! ### Resumption (R125, R126) -/

/-- Are a pre-empted root's tiles in service, and which roots hold one of them? -/
def State.holders (s : State) (g : Region) : List (BitVec 12) :=
  (s.regions.filter (fun e => e.2.parent == 0 && e.2.state != .preempted && e.2.tiles.any (g.tiles.contains ·))).map
    (fun e => BitVec.ofNat 12 e.1)

/-- Does another pre-empted tree that could resume come first? -/
def State.resumeBehind (s : State) (root : BitVec 12) (g : Region) : Bool :=
  s.regions.any (fun e =>
    let x := BitVec.ofNat 12 e.1
    e.2.parent == 0 && x != root && e.2.state == .preempted && s.holders e.2 = []
      && (decide (g.prio.toNat < e.2.prio.toNat)
        || (e.2.prio == g.prio && decide ((s.life x).preempted < (s.life root).preempted))))

/-- A tree's granules are its regions' again, the deepest region's last. -/
def ownGranules (rs : List (BitVec 12)) (s : State) : State :=
  let at_ (d : Nat) (m : Assoc (BitVec 12)) : Assoc (BitVec 12) := rs.foldl (fun m r => match s.region r with
    | some g => if g.depth = d then g.granules.foldl (fun m x => Assoc.set m x r) m else m
    | none => m) m
  { s with dist := { s.dist with owners := (List.range 9).foldl (fun m d => at_ d m) s.dist.owners } }

/-- Restore several contexts; `none` is a failed restore. -/
def restoreAll : List Kept → State → Option State
  | [], s => some s
  | k :: rest, s => (restoreCore s k).bind (restoreAll rest)

/-- Restore the copy records. -/
def restoreCopies (key : BitVec 8) (cell : Nat) : Nat → State → Option State
  | 0, s => some s
  | n + 1, s => (restoreCopies key cell n s).bind (applyRestart (s.bytesKey key (cell + 64 * n) 64))

/-- The contexts, SRAM, streams and copies of a tree are back (R126). -/
def loadTree (root : BitVec 12) (g : Region) (s : State) : Option State :=
  let l := s.life root
  let key := physKey l.save
  let base := physCell l.save
  let d := s.bytesKey key base 128
  let rs := s.subtree root
  let s := ownGranules rs s
  if s.badIn (base + field d 40 8) (g.granules.length * granuleBytes) then none else
  let s := (g.cores.zipIdx).foldl (fun t e => t.modCore e.1 (fun c =>
    { c with active := l.bank, shadow := BankImage.empty, shadowState := .empty, swapping := false
             rank := BitVec.ofNat 10 e.2 })) s
  (restoreAll l.saved s).bind (fun s =>
    let s := loadSram key (base + field d 40 8) g.granules s
    let s := restoreSwash key rs.length (base + field d 32 8) s
    (restoreCopies key (base + field d 56 8) (field d 64 4) s).map (fun s =>
      let s := l.savedParked.foldl (fun t p => t.modCore p.core (fun c => { c with parked := some p })) s
      let s := l.was.foldl (fun t e => t.setRegionState e.1 e.2) s
      s.modLife root (fun l => { l with saved := [], savedParked := [], was := [] })))

/-- `PREEMPT_RESUME` (R125, R126): on the same tiles, once they are free; trees of lower priority that hold them are
pre-empted in turn. -/
def preemptResume (root : BitVec 12) (s : State) : State :=
  match s.region root with
  | none => s
  | some g =>
    if g.parent != 0 || g.state != .preempted || g.ending.isSome || !g.tiles.all s.tileUp || s.resumeBehind root g then s
    else
      let hs := s.holders g
      if hs = [] then
        (match loadTree root g s with
          | some t => t
          | none => endDomain root 0xFF 0 0 s)
      else if hs.all (fun r => match s.region r with | some x => decide (x.prio.toNat < g.prio.toNat) | none => true) then
        hs.foldl (fun t r => t.push .preemptRequest { n := r.toNat }) s
      else s

/-! ### Parking (R123) -/

/-- The firmware parks the user context of core `k`, which a page fault holds: its image goes to the core's park slot, and
the context is free for other work of its tree. -/
def parkCore (k : Nat) (s : State) : State :=
  let c := s.core k
  match s.region c.user.id.region with
  | none => s
  | some g => match s.region g.root with
    | none => s
    | some x =>
      if !c.user.running || c.user.waits.fault.isNone || c.parked.isSome || c.user.out != [] || c.user.ldrs != []
          || c.mat.out != [] || c.cpy.out != [] || c.quill.fifo != [] || c.quill.part != [] then s
      else
        let save := (s.life g.root).save
        let a := save + BitVec.ofNat 52 (parkOff (x.rankOf k))
        if !s.canWrite a ctxSize then s
        else
          let (kept, s) := saveContext s (.user k) a true (cpyOpstate c.cpy (match c.cpy.inWord with | some w => (barPlace w).isSome | none => false))
          let s := s.stopCore k
          s.modCore k (fun c => { c with parked := some kept })

/-! ### Meanings -/

/-- `PREEMPT_REQUEST` (R126): root `inp.n`. -/
def execPreemptRequest (s : State) : Host.Outcome State Fault Refusal := .next (preemptRequest (BitVec.ofNat 12 s.inp.n) s)
/-- `PREEMPT_RESUME` (R126): root `inp.n`. -/
def execPreemptResume (s : State) : Host.Outcome State Fault Refusal := .next (preemptResume (BitVec.ofNat 12 s.inp.n) s)

end Sys2Proof.Machine
end

