-- ==== Sys2Proof/Machine/Faults.lean ====
section
/-!
DEFINITION. Translation faults and their ends: PASIDs (R101, R102), walks (R149, R151), the fault buffer's deferred records
(R156), resolutions (R153, R154), invalidation (R152), and the far-memory counters' sweep (R159).
Log entries: 75 (what a fence waits for), 76 (the CAUSE of a torn-down region), 77 (a split-phase load left to a record).
Also log entry 118 (the counter sweep and keys).
-/

namespace Sys2Proof.Machine

/-! ### Walks (R149, R151) -/

/-- The caches that a walk fills. -/
def WalkRequest.port (w : WalkRequest) : Port :=
  match w.tile with
  | some t => .tile t
  | none => match nodeKind w.node with
    | .lookup n => .lookup n
    | .core k => .tile (k / 4)
    | .copy t => .tile t
    | _ => .lfe

end Sys2Proof.Machine

namespace Sys2Proof.Machine

/-- `WALK_COMPLETE`: the entry is installed, or the fault is raised or joined; PROT is raised where the access issues, and
the result of a walk for a PASID that is not ACTIVE is discarded (R102). -/
def walkComplete (w : WalkRequest) (s : State) : State :=
  if s.pasidState w.pasid != .active then s
  else match s.walk w.pasid w.va w.access with
    | .leaf e t => t.tlbFill (WalkRequest.port w) e
    | .prot t => t
    | .fault c t => t.raiseFault { index := none, pasid := w.pasid, va := w.va, region := w.region, node := w.node
                                   access := w.access, cause := c, path := w.path, page := w.page, joined := 0, stale := false
                                   waiters := [] }

/-- The records that wait for room are written in order (R156): `n` bounds them. -/
def writeDeferred : Nat → State → State
  | 0, s => s
  | n + 1, s =>
    match s.mmu.faults.find? (fun f => f.index.isNone) with
    | none => s
    | some f =>
      if !s.fbRoom || 1024 ≤ (s.mmu.faults.filter (·.index.isSome)).length then s
      else
        let i := s.mmu.fbtail
        let t := s.fbWrite (faultRecord f 1 s.ptime)
        let fs := t.mmu.faults.erase f
        let fs := if f.stale then fs
          else (t.mmu.faults.takeWhile (· != f)) ++ [{ f with index := some i }] ++ (t.mmu.faults.dropWhile (· != f)).drop 1
        writeDeferred n { t with mmu := { t.mmu with faults := fs } }

/-- `FAULT_RECORD_DEFERRED`. -/
def faultDeferred (s : State) : State := writeDeferred s.mmu.faults.length s

/-! ### PASIDs (R101, R102) -/

namespace State

/-- Set the state of a PASID. -/
def setPasid (s : State) (p : BitVec 20) (x : PasidState) : State :=
  { s with mmu := { s.mmu with pasids := Assoc.set s.mmu.pasids p.toNat x } }

/-- Remove translation entries from every cache. -/
def dropTlb (s : State) (gone : TlbEntry → Bool) : State :=
  let keep (es : List TlbEntry) : List TlbEntry := es.filter (fun e => !gone e)
  { s with
    tiles := s.tiles.map (fun e => (e.1, { e.2 with tlb := keep e.2.tlb }))
    mmu := { s.mmu with l2 := s.mmu.l2.map (fun e => (e.1, keep e.2)) }
    lfe := { s.lfe with tlb := keep s.lfe.tlb } }

end State

/-- `PASID_ACTIVATE`: it acts on a FREE PASID. `dir` is where the system software has the device context name the process
directory table since, if it has moved it (log entry 9). -/
def pasidActivate (p : BitVec 20) (dir : List Byte) (s : State) : State :=
  let s := if dir.length = 8 then { s with mmu := { s.mmu with pdt := BitVec.ofNat 64 (leNat dir) } } else s
  if s.pasidState p == .free then s.setPasid p .active else s

/-- The launches of a PASID that have not started are discarded without writes. -/
def discardLaunches (p : BitVec 20) (s : State) : State :=
  (s.lfe.launches.filter (fun e => e.2.pasid == p && e.2.stage != 3)).foldl (fun t e =>
    (t.releaseGranules e.2.region).dropRegion e.2.region |>.dropLaunch e.1) s

/-- A queue of a PASID that is torn down stops; every context names PASID 0 until it is written (R82). -/
def stopQueue (p : BitVec 20) (c : Queue) : Queue :=
  if c.pasid == p then
    { c with stop := true, held := false, bytes := [], fault := none, fenced := false, lrecWait := false, lrecSkip := false, fetched := false }
  else c

/-- `PASID_TEARDOWN` (R101): it acts on an ACTIVE PASID. -/
def pasidTeardown (p : BitVec 20) (s : State) : State :=
  if s.pasidState p != .active then s
  else
    let s := s.setPasid p .quiescing
    let owned : Assoc Queue := if p = 0 then (List.range 1024).map (fun q => (q, s.queue q)) else s.lfe.queues
    let s : State := { s with lfe := { s.lfe with queues := owned.map (fun (e : Nat × Queue) => (e.1, stopQueue p e.2)) } }
    let s := s.lfe.queues.foldl (fun t (e : Nat × Queue) => settleQueue e.1 t) (discardLaunches p s)
    let roots := (s.regions.filter (fun (e : Nat × Region) => e.2.pasid == p && e.2.parent == 0)).map (fun (e : Nat × Region) => BitVec.ofNat 12 e.1)
    let cause (r : BitVec 12) : Byte := (Config.freeWord 2 (s.fresh * 4096 + r.toNat)).extractLsb' 0 8
    let s := roots.foldl (fun t r => endDomain r (cause r) 0 0 t) s
    let s := { s with lfe := { s.lfe with launches := s.lfe.launches.filter (fun e => e.2.pasid != p) } }
    let mark (f : OpenFault) : Option OpenFault :=
      if f.pasid != p || f.stale then some f else if f.index.isSome then none else some { f with stale := true, waiters := [] }
    faultDeferred { s with mmu := { s.mmu with faults := s.mmu.faults.filterMap mark } }

/-- `PASID_STATUS_SELECT`. -/
def pasidSelect (p : BitVec 20) (s : State) : State := { s with mmu := { s.mmu with selected := p } }

/-- `PASID_TEARDOWN_COMPLETE`: nothing is outstanding, and every entry of the PASID goes. -/
def pasidComplete (p : BitVec 20) (s : State) : State :=
  if s.pasidState p == .quiescing && s.outstanding p == 0 then (s.dropTlb (fun e => e.pasid == p)).setPasid p .free else s

/-! ### Resolutions (R153, R154, R156) -/

/-- Does a wait on an address wait on a fault? -/
def OpenFault.holds (f : OpenFault) (pasid : BitVec 20) (w : Option Addr) : Bool :=
  match w with
  | some va => f.covers pasid va
  | none => false

/-- What a resolution does to a context that waits: it issues again, and raises the trap of PAGE or PROT. -/
def Ctx.resolve (f : OpenFault) (trap : Option Byte) (c : Ctx) : Ctx :=
  if f.holds c.id.pasid c.waits.fault then { c with waits := { c.waits with fault := none, resolved := trap } } else c

/-- What a resolution does to an engine. -/
def Engine.resolve (f : OpenFault) (pasid : BitVec 20) (trap : Option Byte) (e : Engine) : Engine :=
  if f.holds pasid e.fault then { e with fault := none, resolved := trap } else e

/-- Contexts, engines and parked images. -/
def resolveCores (f : OpenFault) (trap : Option Byte) (s : State) : State :=
  { s with
    cores := s.cores.map (fun e => (e.1, { e.2 with
      user := e.2.user.resolve f trap, fw := e.2.fw.resolve f trap
      mat := e.2.mat.resolve f e.2.user.id.pasid trap, cpy := e.2.cpy.resolve f e.2.user.id.pasid trap
      parked := e.2.parked.map (fun p => { p with ctx := p.ctx.resolve f trap }) }))
    lookups := s.lookups.map (fun e => (e.1, { e.2 with ctx := e.2.ctx.resolve f trap })) }

/-- Split-phase loads: sent again, or reported. -/
def resolveLdrs (f : OpenFault) (trap : Option Byte) (a : Agent) (s : State) : State :=
  (s.ctxOf a).ldrs.foldl (fun t l =>
    if !f.holds (t.ctxOf a).id.pasid l.fault then t
    else match trap with
      | some code => ldrFails a l code t
      | none => match (t.ctxOf a).ldrs.findIdx? (· == l) with
        | some i => retryLdr a i t
        | none => t) s

/-- The queues and launches of the LFE (R86). -/
def resolveLfe (f : OpenFault) (trap : Option Byte) (s : State) : State :=
  let s := s.lfe.queues.foldl (fun t e =>
    if !f.holds e.2.pasid e.2.fault then t
    else match trap with
      | none => (t.modQueue e.1 (fun c => { c with fault := none, lrecWait := false })).push .signalRecord { n := e.1 }
      | some _ => if e.2.lrecWait then t.modQueue e.1 (fun c => { c with fault := none, lrecWait := false, lrecSkip := true })
          else settleQueue e.1 (t.queueError e.1 6)) s
  s.lfe.launches.foldl (fun t e =>
    let l := e.2
    if !f.holds l.pasid l.fault then t
    else if l.starting then
      let i := if trap.isSome then l.step + 1 else l.step
      (startFrom e.1 { l with fault := none } (3 - i) i t).push .launchCompletion { n := e.1 }
    else match trap, l.ended with
      | none, none => t.setLaunch e.1 { l with fault := none }
      | none, some _ => (t.setLaunch e.1 { l with fault := none }).push .launchCompletion { n := e.1 }
      | some _, some _ => (t.setLaunch e.1 { l with fault := none, step := l.step + 1 }).push .launchCompletion { n := e.1 }
      | some code, none => endDomain l.region code 0 0 (t.setLaunch e.1 { l with fault := none })) s

/-- The additions of the distributors that wait: made, or left out (log entry 55). -/
def resolveAdds (f : OpenFault) (trap : Option Byte) (s : State) : State :=
  let hit (a : BarAdd) : Bool := f.holds a.pasid (some a.va)
  let due := s.dist.adds.filter hit
  due.foldl (fun t a => if trap.isSome then t.childEnded a.parent else t.advance a)
    { s with dist := { s.dist with adds := s.dist.adds.filter (fun a => !hit a) } }

/-- The folds that wait (R230). -/
def resolveFolds (f : OpenFault) (trap : Option Byte) (s : State) : State :=
  let hit (x : Fold) : Bool := f.holds x.pasid x.fault
  let gone := s.folds.filter hit
  let s := { s with folds := s.folds.map (fun x => if hit x then { x with fault := none, resolved := trap } else x) }
  match trap with
  | none => s
  | some _ => s.pushAll (gone.map (fun x => (.foldAbandon, { n := x.home.toNat })))

/-- A resolution of record `i`: RETRY where there is no trap, else PAGE or PROT. Records that waited for the table's room
come first (R156). -/
def faultResolve (i : Word) (trap : Option Byte) (s : State) : State :=
  match s.mmu.faults.find? (fun f => f.index == some i && !f.stale) with
  | none => s
  | some f =>
    let s := faultDeferred { s with mmu := { s.mmu with faults := s.mmu.faults.erase f } }
    let s := resolveCores f trap s
    let agents := (s.cores.flatMap (fun e => [Agent.user e.1, Agent.fw e.1])) ++ s.lookups.map (fun e => Agent.lookup e.1)
    let s := agents.foldl (fun t a => resolveLdrs f trap a t) s
    resolveFolds f trap (resolveAdds f trap (resolveLfe f trap s))

/-! ### Invalidation (R152) -/

/-- `IOTINVAL_VMA`: with an address, the entries whose page holds it. -/
def iotinval (p : BitVec 20) (va : Option Addr) (s : State) : State :=
  s.dropTlb (fun e => match va with
    | some a => e.hits p a
    | none => e.pasid == p)

/-- `IOFENCE_C`: it completes when nothing that an old translation may have placed is on its way: no packet, no request off the
package, no fold, and no posted write, for which the flushing reads go out (R179). -/
def iofence (s : State) : State :=
  let m := s.mesh
  if m.flits = [] && m.crossing = [] && m.pending = [] && m.offered = [] && m.held = [] && s.links.reqs = [] && s.links.pcie = [] && s.links.pcieWait = []
      && s.folds = [] then
    let ports := (s.links.posted.filter (fun e => e.2 != [])).map (·.1)
    if ports = [] then { s with mmu := { s.mmu with fencesDone := s.mmu.fencesDone + 1 } }
    else ports.foldl (fun t p => t.pcieFlush p) s
  else s

/-! ### The counters' sweep (R159) -/

/-- Bytes of the counter table. -/
def counterBytes : Nat := 192 * 2 ^ 20

/-- Halve the bytes of a range; the bytes stay in canonical form. -/
def halveCells (lo n : Nat) : List Host.Cell → List Host.Cell
  | [] => []
  | (a, v) :: rest =>
    if lo ≤ a && a < lo + n then
      (if v.toNat / 2 = 0 then halveCells lo n rest else (a, BitVec.ofNat 8 (v.toNat / 2)) :: halveCells lo n rest)
    else (a, v) :: halveCells lo n rest

/-- `COUNTER_EPOCH_SWEEP`: every 2^EPOCH µs. -/
def counterSweep (s : State) : State :=
  let u := s.mmu
  if !u.cnten || u.epoch = 0 || decide ((s.ptime - u.sweptAt).toNat < 1000 * 2 ^ u.epoch.toNat) then s
  else { s with mem := halveCells (physCell (u.cntbase.extractLsb' 0 52)) counterBytes s.mem, mmu := { u with sweptAt := s.ptime } }

/-! ### Meanings -/

/-- `WALK_COMPLETE` (R149): the walk `inp.walk`; where `inp.flag`, the firmware of core `inp.n` parks its context (R123). -/
def execWalkComplete (s : State) : Host.Outcome State Fault Refusal :=
  let t := match s.inp.walk with | some w => walkComplete w s | none => s
  .next (if s.inp.flag then parkCore s.inp.n t else t)
/-- `FAULT_RECORD_DEFERRED` (R156). -/
def execFaultRecordDeferred (s : State) : Host.Outcome State Fault Refusal := .next (faultDeferred s)
/-- `PASID_ACTIVATE` (R101): PASID `inp.pasid`; `inp.bytes` is the process directory's place, where it has changed. -/
def execPasidActivate (s : State) : Host.Outcome State Fault Refusal := .next (pasidActivate s.inp.pasid s.inp.bytes s)
/-- `PASID_TEARDOWN` (R101): PASID `inp.pasid`. -/
def execPasidTeardown (s : State) : Host.Outcome State Fault Refusal := .next (pasidTeardown s.inp.pasid s)
/-- `PASID_STATUS_SELECT` (R101): PASID `inp.pasid`. -/
def execPasidStatusSelect (s : State) : Host.Outcome State Fault Refusal := .next (pasidSelect s.inp.pasid s)
/-- `PASID_TEARDOWN_COMPLETE` (R101): PASID `inp.pasid`. -/
def execPasidTeardownComplete (s : State) : Host.Outcome State Fault Refusal := .next (pasidComplete s.inp.pasid s)
/-- `FBRESOLVE_RETRY` (R153): record `inp.value`. -/
def execFbresolveRetry (s : State) : Host.Outcome State Fault Refusal :=
  .next (faultResolve (s.inp.value.extractLsb' 0 32) none s)
/-- `FBRESOLVE_PAGE` (R153): record `inp.value`. -/
def execFbresolvePage (s : State) : Host.Outcome State Fault Refusal :=
  .next (faultResolve (s.inp.value.extractLsb' 0 32) (some tPage) s)
/-- `FBRESOLVE_PROT` (R153): record `inp.value`. -/
def execFbresolveProt (s : State) : Host.Outcome State Fault Refusal :=
  .next (faultResolve (s.inp.value.extractLsb' 0 32) (some tProt) s)
/-- `IOTINVAL_VMA` (R152): PASID `inp.pasid`, address `inp.addr`. -/
def execIotinvalVma (s : State) : Host.Outcome State Fault Refusal := .next (iotinval s.inp.pasid s.inp.addr s)
/-- `IOFENCE_C` (R152). -/
def execIofenceC (s : State) : Host.Outcome State Fault Refusal := .next (iofence s)
/-- `COUNTER_EPOCH_SWEEP` (R159). -/
def execCounterEpochSweep (s : State) : Host.Outcome State Fault Refusal := .next (counterSweep s)

end Sys2Proof.Machine
end

