-- ==== Sys2Proof/Machine/Folds.lean ====
section
/-!
DEFINITION. The fold engines (R228 to R230, R426): the evaluation of a base under a snapshot, its quantisation, the finish
step at the old list, and abandonment. Log entries: 16 (lists and layers off the package), 38 (the fold's barrier word), 85
(a fold's data is gone or poisoned), 86 (a fold is one step, and repeats it after a fault).
Also log entry 107 (the last nibble of a row of FP4).
-/

namespace Sys2Proof.Machine

/-! ### The engine's accesses -/

/-- Why a fold does not go on: a translation fault with its cause, or a trap in the issuing context. -/
inductive FoldStop
  | fault (va : Addr) (acc : BitVec 4) (cause : Byte) (s : State)
  | trap (code : Byte)
  deriving DecidableEq, Repr

/-- The translation caches of a fold engine. -/
def foldPort (home : BitVec 13) : Port :=
  match nodeKind home with
  | .slice st _ => .lookup (8 * st)
  | .sram t => .tile t
  | _ => .lfe

/-- What the home of `n` bytes at a cell answers a fold. -/
def foldHome (f : Fold) (s : State) (key : BitVec 8) (cell n : Nat) (write : Bool) : Option Byte :=
  if offCell cell then some tProt
  else if !s.inService cell || (keyed cell && !Assoc.get false s.security.keys key.toNat) then some tEccUncorr
  else if physRegion cell == .sram && !s.admits f.region (Assoc.get 0 s.dist.owners ((cell - sramBase) / granuleBytes)) then
    some tProt
  else if !write && s.poisoned cell n then some tEccUncorr
  else none

/-- The place of `n` bytes of one page. -/
def foldCell (f : Fold) (s : State) (va n : Nat) (acc : BitVec 4) : Except FoldStop (BitVec 8 × Nat × State) :=
  if 2 ^ 48 ≤ va then .error (.trap tProt)
  else match s.translate (foldPort f.home) f.conf f.pasid (BitVec.ofNat 48 va) acc with
    | .ok pa t => match foldHome f t (physKey pa) (physCell pa) n (acc == accWrite) with
      | some c => .error (.trap c)
      | none => .ok (physKey pa, physCell pa, t.countFar (physCell pa))
    | .prot _ | .wait => .error (.trap tProt)
    | .fault c t => .error (.fault (BitVec.ofNat 48 va) acc c t)

/-- Read bytes, page by page. -/
def foldRead (f : Fold) : Nat → State → Nat → Nat → Except FoldStop (List Byte × State)
  | 0, s, _, _ => .ok ([], s)
  | k + 1, s, va, n =>
    if n = 0 then .ok ([], s)
    else do
      let m := spanLen va n
      let (key, cell, t) ← foldCell f s va m accRead
      let (rest, u) ← foldRead f k t (va + m) (n - m)
      .ok (t.bytesKey key cell m ++ rest, u)

/-- The reader of a fold. -/
def foldReader (f : Fold) : Reader FoldStop := fun s va n => foldRead f (spanCount n) s va n

/-- Write bytes, page by page. -/
def foldWrite (f : Fold) : Nat → State → Nat → List Byte → Except FoldStop State
  | 0, s, _, _ => .ok s
  | k + 1, s, va, bs =>
    if bs = [] then .ok s
    else do
      let m := spanLen va bs.length
      let (key, cell, t) ← foldCell f s va m accWrite
      foldWrite f k (t.setBytesKey key cell (bs.take m)) (va + m) (bs.drop m)

/-! ### The new base (R230) -/

/-- A row of FP32 codes in the new base format: its codes, and the scales of its blocks of 32. -/
def foldRow (tag : BitVec 4) (vs : List Nat) : List Nat × List Nat :=
  if scaledFmt tag.toNat then
    let blocks := (chunks 32 ((vs.length + 31) / 32) vs).map (quantise tagF32 tag)
    (blocks.flatMap (·.1), blocks.map (·.2))
  else (vs.map (convert tagF32 tag 0 false), [])

/-- The rows from row `i` on. -/
def foldRows (f : Fold) (old new : List Byte) : Nat → Nat → State → Except FoldStop State
  | 0, _, s => .ok s
  | n + 1, i, s => do
    let (vs, s) ← glossRow (foldReader f) f.snap old i (glCols old) 0 s
    let (codes, scales) := foldRow f.tag vs
    let bytes := packCodes f.tag codes
    let s ← foldWrite f (spanCount bytes.length) s (glBase new + i * glPitch new) bytes
    let sb := scales.flatMap (fun x => leBytes 2 x)
    let s ← foldWrite f (spanCount sb.length) s (glBscale new + 2 * (i * ((glCols old + 31) / 32))) sb
    foldRows f old new n (i + 1) s

/-- Steps 2 to 4 of a fold. -/
def foldRun (f : Fold) (s : State) : Except FoldStop State := do
  let key := physKey f.old
  let cell := physCell f.old
  match foldHome f s key cell 256 false with
  | some c => .error (.trap c)
  | none => do
    let old := s.glList key cell
    let (new, s) ← foldReader f s f.newVa.toNat 256
    let (ok, s) ← layerHeaders (foldReader f) (layersOf f.snap old) s
    if !ok then .error (.trap tProt)
    else do
      let s ← foldRows f old new (glRows old) 0 s
      let (nkey, ncell, s) ← foldCell f s f.newVa.toNat 256 accWrite
      let s := s.glFoldFinish key cell (hN f.snap) nkey ncell
      .ok (match foldHome f s (physKey f.bar) (physCell f.bar) 24 false with
        | some _ => s
        | none => (s.barAdd (physKey f.bar) (physCell f.bar) 1).countFar (physCell f.bar))

/-! ### The engine's steps -/

/-- Does a fold come from a context's task: its region has not ended, and the context runs the instance that started it? -/
def Fold.ofTask (f : Fold) (c : Ctx) (index : Option Word) : Bool :=
  f.ended == 0 && c.running && c.id.region == f.region && index == f.index

namespace State

/-- A fold's issuing region has ended by a fault, or its PASID is torn down. -/
def foldGone (s : State) (f : Fold) : Bool := f.ended == 2 || s.pasidState f.pasid != .active

/-- A fold's trap is raised in its issuing context: the one that runs, or the one that is parked or pre-empted, which takes it at its
next boundary once it is back. -/
def foldReport (s : State) (f : Fold) (code : Byte) : State :=
  let d : Deferred := ⟨0, { code := code }, []⟩
  let tell (p : Kept) : Kept := if !p.lookup && p.core == f.core && f.ofTask { p.ctx with running := true } p.index
    then { p with ctx := { p.ctx with deferred := insertDeferred d p.ctx.deferred } } else p
  let c := s.core f.core
  if f.ofTask c.user c.index then s.defer (.user f.core) d
  else
    let s := if c.parked.isSome then s.modCore f.core (fun c => { c with parked := c.parked.map tell }) else s
    { s with lives := s.lives.map (fun e => (e.1, { e.2 with saved := e.2.saved.map tell, savedParked := e.2.savedParked.map tell })) }

/-- The page of a fold waits for its resolution. -/
def foldWaits (s : State) (f : Fold) (va : Addr) (acc : BitVec 4) (cause : Byte) : State :=
  ({ s with folds := s.folds.map (fun g => if g == f then { g with fault := some va } else g) }).raiseFault
    { index := none, pasid := f.pasid, va := va, region := f.region, node := f.home, access := acc, cause := cause, path := 2
      page := 0, joined := 0, stale := false, waiters := [] }

end State

/-- `FOLD_FINISH`: the first fold of the engine at node `home` runs to its finish step. -/
def foldFinish (home : Nat) (s : State) : State :=
  match s.folds.find? (fun f => f.home.toNat == home) with
  | none => s
  | some f =>
    if f.fault.isSome || f.resolved.isSome || s.foldGone f then s
    else match foldRun f s with
      | .ok t => { t with folds := t.folds.erase f }
      | .error (.fault va acc c t) => { s with mmu := t.mmu, mesh := t.mesh }.foldWaits f va acc c
      | .error (.trap c) =>
        ({ s with folds := s.folds.map (fun g => if g == f then { g with resolved := some c } else g) }).push .foldAbandon { n := home }

/-- `FOLD_ABANDON`: FOLDING is cleared at the old list; PAGE or PROT is raised in the issuing context. -/
def foldAbandon (home : Nat) (s : State) : State :=
  match s.folds.find? (fun f => f.home.toNat == home && (f.resolved.isSome || s.foldGone f)) with
  | none => s
  | some f =>
    let t := { s with folds := s.folds.erase f }
    let t := if s.inService (physCell f.old) then t.glFoldAbandon (physKey f.old) (physCell f.old) else t
    match f.resolved with
    | some code => t.foldReport f code
    | none => t

/-! ### Meanings -/

/-- `FOLD_FINISH` (R230): the old list's home, node `inp.n`. -/
def execFoldFinish (s : State) : Host.Outcome State Fault Refusal := .next (foldFinish s.inp.n s)
/-- `FOLD_ABANDON` (R230): node `inp.n`. -/
def execFoldAbandon (s : State) : Host.Outcome State Fault Refusal := .next (foldAbandon s.inp.n s)

end Sys2Proof.Machine
end

