-- ==== Sys2Proof/Machine/Refine.lean ====
section
/-!
DEFINITION. The refinement controller (R325 to R329): `RFBEGIN`, `RFNEXT`, `RFTEST` and `RFEND`.
Also log entry 87 (reserved bits of POLICY).
-/

namespace Sys2Proof.Machine

/-! ### The latched descriptor (R325, R326) -/

/-- An entry or exit address of a descriptor, by its number: 0 FACTOR to 5 MAXIT. -/
def rfAddr (desc : List Byte) (k : Nat) : Addr := BitVec.ofNat 48 (field desc (8 * k) 8)
/-- An FP64 field. -/
def rfReal (desc : List Byte) (off : Nat) : Num := (fmtOf 2).decode (field desc off 8)
def rfTol (desc : List Byte) : Num := rfReal desc 48
def rfSratio (desc : List Byte) : Num := rfReal desc 56
def rfDratio (desc : List Byte) : Num := rfReal desc 64
def rfMaxiter (desc : List Byte) : Nat := field desc 72 4
def rfMaxlevel (desc : List Byte) : Nat := field desc 76 1
/-- POLICY bit 0, STAGESC. -/
def rfStagesc (desc : List Byte) : Bool := field desc 77 1 % 2 == 1

/-- Does a descriptor pass the checks of `RFBEGIN`? Reserved bits of POLICY count as a reserved byte (log entry 87). -/
def rfOk (desc : List Byte) : Bool :=
  (List.range 6).all (fun k => let v := field desc (8 * k) 8; v < 2 ^ 48 && v % 8 == 0)
    && rfMaxlevel desc ≤ 2 && field desc 77 1 < 2 && (desc.drop 78).all (· == 0)
    && !(rfTol desc).isNan && !(rfSratio desc).isNan && !(rfDratio desc).isNan

/-- The descriptor with SRATIO and DRATIO as +0 selects them. -/
def rfResolve (desc : List Byte) : List Byte :=
  let pick (off dflt : Nat) : List Byte := leBytes 8 (if field desc off 8 = 0 then dflt else field desc off 8)
  desc.take 56 ++ pick 56 0x3FECCCCCCCCCCCCD ++ pick 64 0x4000000000000000 ++ desc.drop 72

/-- +∞ as an FP64 code. -/
def rfInf : BitVec 64 := 0x7FF0000000000000#64

/-- The controller after `RFBEGIN`. -/
def Refine.start (addr : Addr) (desc : List Byte) : Refine :=
  { phase := 1, exit := 0, stag := 0, level := 0, iter := 0, prev := rfInf, addr := addr, desc := rfResolve desc }

/-- `RFBEGIN` (R326). -/
def rfbegin (bd : BdReg) (da : DReg) (imm : BitVec 20) (s : State) : Eff State := do
  userOnly s
  noWindow s
  need (s.src.refine.phase == 0 || s.src.refine.phase == 4) tIllegal s
  let o ← offsetOf s (operandM bd da imm) 128 128
  let (bs, t) ← loadHeld s bd o.off 128 128
  need (rfOk bs) tProt t
  let addr := BitVec.ofNat 48 ((t.desc bd).base + o.off)
  .ok ((t.modCtx (fun c => { c with refine := Refine.start addr bs })).request (.transfer (rfAddr bs 0) none))

/-! ### Phases (R327, R328) -/

/-- Set PHASE and transfer to entry or exit `k`. -/
def rfGo (phase : BitVec 3) (k : Nat) (f : Refine → Refine) (s : State) : State :=
  (s.modCtx (fun c => { c with refine := { f c.refine with phase := phase } })).request
    (.transfer (rfAddr s.src.refine.desc k) none)

/-- `RFNEXT` (R327). -/
def rfnext (s : State) : Eff State := do
  userOnly s
  noWindow s
  if s.src.refine.phase = 1 then .ok (rfGo 2 1 id s)
  else if s.src.refine.phase = 2 then .ok (rfGo 3 2 id s)
  else raise tIllegal s

/-- escalate(): the next level starts again at FACTOR. -/
def rfEscalate (s : State) : State :=
  rfGo 1 0 (fun r => { r with level := r.level + 1, iter := 0, prev := rfInf, stag := 0 }) s

/-- exit(x), with the stagnation count `stag`. -/
def rfExit (x : BitVec 2) (stag : BitVec 2) (s : State) : State :=
  rfGo 4 (2 + x.toNat) (fun r => { r with exit := x, stag := stag }) s

/-- The test of a norm (R328). -/
def rfDecide (code : BitVec 64) (s : State) : Eff State :=
  let r := s.src.refine
  let d := r.desc
  let norm := (fmtOf 2).decode code.toNat
  let prev := (fmtOf 2).decode r.prev.toNat
  let above (ratio : Num) : Bool := (ratio.mul prev).lt norm
  if norm.lt (rfTol d) || norm.eq (rfTol d) then .ok (rfExit 1 r.stag s)
  else if norm.isNan || (r.iter != 0 && above (rfDratio d)) then
    (if r.level.toNat < rfMaxlevel d then .ok (rfEscalate s) else raise tRefineDiverge s)
  else
    let stag := if above (rfSratio d) then r.stag + 1 else 0
    if stag = 3 then
      (if rfStagesc d && r.level.toNat < rfMaxlevel d then .ok (rfEscalate s) else .ok (rfExit 2 stag s))
    else if rfMaxiter d ≠ 0 && rfMaxiter d ≤ r.iter.toNat + 1 then .ok (rfExit 3 stag s)
    else .ok (rfGo 2 1 (fun r => { r with prev := code, iter := r.iter + 1, stag := stag }) s)

/-- `RFTEST` (R328). -/
def rftest (v : VReg) (s : State) : Eff State := do
  userOnly s
  noWindow s
  need (s.src.refine.phase == 3) tIllegal s
  let t := s.src.regs.vec v
  need (t.tag == 2) tFormat s
  rfDecide (t.elems.getD 1 0 ++ t.elems.getD 0 0) s

/-- `RFEND` (R329). -/
def rfend (s : State) : Eff State := do
  userOnly s
  .ok (s.modCtx (fun c => { c with refine := { c.refine with phase := 0, exit := 0, stag := 0, addr := 0, desc := [] } }))

/-! ### Meanings -/

/-- `RFBEGIN` (R326). -/
def execRfbegin (bd : BdReg) (da : DReg) (imm : BitVec 20) (s : State) : Host.Outcome State Fault Refusal :=
  syllable (rfbegin bd da imm) s
/-- `RFNEXT` (R327). -/
def execRfnext (s : State) : Host.Outcome State Fault Refusal := syllable rfnext s
/-- `RFTEST` (R328). -/
def execRftest (v : VReg) (s : State) : Host.Outcome State Fault Refusal := syllable (rftest v) s
/-- `RFEND` (R329). -/
def execRfend (s : State) : Host.Outcome State Fault Refusal := syllable rfend s

end Sys2Proof.Machine
end

