-- ==== Sys2Proof/Machine/Streams.lean ====
section
/-!
DEFINITION. Class 010: stream registers (R341 to R343): `SOPEN`,
`SADV`, `SGET`, `VSGET`, `STEND` and `SCLOSE`. Log entry: 28 (offsets and rows that the fields cannot hold).
-/

namespace Sys2Proof.Machine

/-! ### The register (R341) -/

/-- The fields of a stream register. PARAM0 is the lowest of the four. -/
structure Fibre where
  valid : Bool
  kind : BitVec 2
  size : BitVec 2
  bd : BdReg
  base : Word
  p0 : Word
  p1 : Word
  p2 : Word
  p3 : Word
  pos : Word
  deriving DecidableEq, Repr

/-- A register's fields. -/
def Fibre.ofBits (w : BitVec 512) : Fibre :=
  { valid := w.getLsbD 511, kind := w.extractLsb' 509 2, size := w.extractLsb' 507 2, bd := w.extractLsb' 503 4
    base := w.extractLsb' 416 32, p3 := w.extractLsb' 384 32, p2 := w.extractLsb' 352 32, p1 := w.extractLsb' 320 32
    p0 := w.extractLsb' 288 32, pos := w.extractLsb' 256 32 }

/-- The bits of a register; reserved bits read as zero. -/
def Fibre.bits (f : Fibre) : BitVec 512 :=
  BitVec.ofBool f.valid ++ (f.kind ++ (f.size ++ (f.bd ++ (0#55 ++ (f.base ++ (f.p3 ++ (f.p2 ++ (f.p1 ++ (f.p0
    ++ (f.pos ++ 0#256))))))))))

/-- The bytes of an element. -/
def Fibre.bytes (f : Fibre) : Nat := 2 ^ f.size.toNat

/-- The register that an instruction names; a closed one raises PROT (R343). -/
def openFibre (s : State) (f : FReg) : Eff Fibre := do
  let x := Fibre.ofBits (s.src.regs.stream f)
  need x.valid tProt s
  .ok x

/-! ### Rows of an SPR object (R232) -/

/-- The offset of a value of `size` bytes in a slice's data. -/
def sprValueOff (w size row t : Nat) : Nat := 64 * w + size * (16 * t + row % 16)

/-- A row's slots before its first sentinel, from slot `t` on: how many of `n` (R232). -/
def sprCount (d : Desc) (data row : Nat) : Nat → Nat → Nat → State → Eff (Nat × Nat × State)
  | 0, t, used, s => .ok (t, used, s)
  | n + 1, t, used, s => do
    descBreak s d (data + sprIndexOff row t) 4 false
    let (bs, used, s) ← loadRange d false 15 used s (data + sprIndexOff row t) 4
    if leNat bs = 0xFFFFFFFF then .ok (t, used, s) else sprCount d data row n (t + 1) used s

/-! ### Elements (R342) -/

/-- The elements of a fibre: for SPR the slots before the sentinel. -/
def fibreCount (f : Fibre) (d : Desc) (used : Nat) (s : State) : Eff (Nat × Nat × State) :=
  match f.kind.toNat with
  | 0 | 1 => .ok (f.p1.toNat, used, s)
  | 2 => .ok (f.p1.toNat * f.p2.toNat, used, s)
  | _ => sprCount d (f.base.toNat + f.p2.toNat) f.p0.toNat f.p3.toNat 0 used s

/-- The offset of element `j`. -/
def fibreOff (f : Fibre) (j : Nat) : Int :=
  let b : Int := f.base.toNat
  match f.kind.toNat with
  | 0 => b + j * f.bytes
  | 1 => b + j * f.p2.toInt
  | 2 => b + (j / f.p1.toNat : Nat) * f.p3.toInt + (j % f.p1.toNat : Nat) * f.bytes
  | _ => b + f.p2.toNat + (if f.p1 = 0 then sprIndexOff f.p0.toNat j else sprValueOff f.p3.toNat f.bytes f.p0.toNat j)

/-- Load element `j` (a load of class 15): outside LEN it raises PROT (R343). -/
def fibreLoad (f : Fibre) (d : Desc) (j used : Nat) (s : State) : Eff (Word × Nat × State) := do
  let o := fibreOff f j
  need (0 ≤ o && (o.toNat + f.bytes : Int) ≤ d.len) tProt s
  need ((d.base + o.toNat) % f.bytes = 0) tAlign s
  descBreak s d o.toNat f.bytes false
  let (bs, used, s) ← loadRange d false 15 used s o.toNat f.bytes
  .ok (BitVec.ofNat 32 (leNat bs), used, s)

/-- Elements `j` to `j + n − 1`; those at or past the count read 0 (R343). -/
def fibreLoads (f : Fibre) (d : Desc) (count : Nat) : Nat → Nat → Nat → State → Eff (List Word × State)
  | 0, _, _, s => .ok ([], s)
  | n + 1, j, used, s =>
    if count ≤ j then .ok (List.replicate (n + 1) 0, s)
    else do
      let (w, used, s) ← fibreLoad f d j used s
      let (ws, s) ← fibreLoads f d count n (j + 1) used s
      .ok (w :: ws, s)

/-! ### Instructions -/

/-- The size code of an element that a lane of an SPR object has (R342). -/
def sprSize (lane fmt : Nat) : BitVec 2 := if lane = 0 || fmt = 1 then 2 else if fmt = 3 then 1 else 0

/-- `SOPEN` of an SPR row: the header and the row's slice are read (R342). -/
def sopenSpr (s : State) (f : Fibre) (d : Desc) (row lane : Word) : Eff (Fibre × State) := do
  need (lane.toNat ≤ 1) tProt s
  let base := f.base.toNat
  descBreak s d base 64 false
  let (h, used, t) ← loadRange d false 15 0 s base 64
  need (sprPlain h && sprFmt h != 6) tProt t
  let sl := row.toNat / 16
  let g := { f with size := sprSize lane.toNat (sprFmt h), p0 := row, p1 := lane }
  if sprNslice h ≤ sl then
    .ok ({ g with p2 := Config.freeWord 10 s.fresh, p3 := BitVec.zeroExtend 32 ((Config.freeWord 3 s.fresh).extractLsb' 0 8) }
      , t.dropGot)
  else do
    descBreak t d (base + sprWoff h + sl) 1 false
    let (wb, used, t) ← loadRange d false 15 used t (base + sprWoff h + sl) 1
    let w := leNat wb
    if w = 0 then .ok ({ g with p2 := 0, p3 := 0 }, t.dropGot)
    else do
      descBreak t d (base + sprSoff h + 8 * sl) 8 false
      let (ob, _, t) ← loadRange d false 15 used t (base + sprSoff h + 8 * sl) 8
      .ok ({ g with p2 := fit32 8 s (leNat ob), p3 := BitVec.ofNat 32 w }, t.dropGot)

/-- `SOPEN` (R342). -/
def sopen (kind : BitVec 2) (fd : FReg) (m : MemOp) (dq : DReg) (s : State) : Eff State := do
  notFw s
  let a ← single s dq
  let b ← single s (dq + 1)
  let c ← single s (dq + 2)
  let e ← single s (dq + 3)
  let o ← offsetOf s m 1 1
  let d := s.desc m.bd
  let f : Fibre := ⟨true, kind, a.extractLsb' 0 2, m.bd, fit32 7 s o.off, a, b, c, e, 0⟩
  match kind.toNat with
  | 0 => do
    need (a.toNat ≤ 2 && c == 0 && e == 0) tProt s
    .ok (s.write 1 (.f fd f.bits))
  | 1 => do
    need (a.toNat ≤ 2 && e == 0) tProt s
    .ok (s.write 1 (.f fd f.bits))
  | 2 => do
    need (a.toNat ≤ 2) tProt s
    .ok (s.write 1 (.f fd f.bits))
  | _ => do
    let (g, t) ← sopenSpr s f d a b
    .ok (t.write 1 (.f fd g.bits))

/-- `SADV` (R343). -/
def sadv (fs : FReg) (dn : DReg) (s : State) : Eff State := do
  notFw s
  let n ← single s dn
  let f ← openFibre s fs
  let (c, _, t) ← fibreCount f (s.desc f.bd) 0 s
  .ok (t.dropGot.write 1 (.f fs { f with pos := fit32 9 s (min (f.pos.toNat + n.toNat) c) }.bits))

/-- `SGET` (R343). -/
def sget (dd : DReg) (fs : FReg) (s : State) : Eff State := do
  notFw s
  let f ← openFibre s fs
  let d := s.desc f.bd
  let (c, used, t) ← fibreCount f d 0 s
  if c ≤ f.pos.toNat then .ok (t.dropGot.write 6 (.d dd (Dom.single 0)))
  else do
    let (w, _, t) ← fibreLoad f d f.pos.toNat used t
    .ok (t.dropGot.write 6 (.d dd (Dom.single w)))

/-- `VSGET` (R343). -/
def vsget (v : VReg) (fs : FReg) (s : State) : Eff State := do
  userOnly s
  let f ← openFibre s fs
  need (f.size == 2) tProt s
  let d := s.desc f.bd
  let (c, used, t) ← fibreCount f d 0 s
  let (ws, t) ← fibreLoads f d c 1024 f.pos.toNat used t
  .ok (t.dropGot.write 22 (.v v ⟨(s.src.regs.vec v).tag, ws⟩))

/-- `STEND` (R343). -/
def stend (c : CReg) (fs : FReg) (s : State) : Eff State := do
  notFw s
  let f ← openFibre s fs
  let (n, _, t) ← fibreCount f (s.desc f.bd) 0 s
  .ok (t.dropGot.write 1 (.c c (decide (n ≤ f.pos.toNat))))

/-- `SCLOSE` (R343). -/
def sclose (fs : FReg) (s : State) : Eff State := do
  notFw s
  let f ← openFibre s fs
  .ok (s.write 1 (.f fs { f with valid := false }.bits))

/-! ### Meanings -/

/-- `SOPEN` (R342). -/
def execSopen (kind : BitVec 2) (f : FReg) (m : MemOp) (dq : DReg) (s : State) : Host.Outcome State Fault Refusal :=
  syllable (sopen kind f m dq) s
/-- `SADV` (R343). -/
def execSadv (f : FReg) (dn : DReg) (s : State) : Host.Outcome State Fault Refusal := syllable (sadv f dn) s
/-- `SGET` (R343). -/
def execSget (dd : DReg) (f : FReg) (s : State) : Host.Outcome State Fault Refusal := syllable (sget dd f) s
/-- `VSGET` (R343). -/
def execVsget (v : VReg) (f : FReg) (s : State) : Host.Outcome State Fault Refusal := syllable (vsget v f) s
/-- `STEND` (R343). -/
def execStend (c : CReg) (f : FReg) (s : State) : Host.Outcome State Fault Refusal := syllable (stend c f) s
/-- `SCLOSE` (R343). -/
def execSclose (f : FReg) (s : State) : Host.Outcome State Fault Refusal := syllable (sclose f) s

end Sys2Proof.Machine
end

