-- ==== Sys2Proof/Machine/Dispatch.lean ====
section
/-!
DEFINITION. One arm per instruction and machine step: each calls its meaning.
-/

namespace Sys2Proof.Machine

/-- What an instruction, or a step of the machine, does (R427). -/
def exec (i : Instr) (s : State) : Host.Outcome State Fault Refusal :=
  match i with
  | .add dd da db => Sys2Proof.Machine.execAdd dd da db s
  | .addI dd da imm => Sys2Proof.Machine.execAddI dd da imm s
  | .addR dd da db => Sys2Proof.Machine.execAddR dd da db s
  | .addRk dd da db => Sys2Proof.Machine.execAddRk dd da db s
  | .addIR dd da imm => Sys2Proof.Machine.execAddIR dd da imm s
  | .addIRk dd da imm => Sys2Proof.Machine.execAddIRk dd da imm s
  | .sub dd da db => Sys2Proof.Machine.execSub dd da db s
  | .subI dd da imm => Sys2Proof.Machine.execSubI dd da imm s
  | .subR dd da db => Sys2Proof.Machine.execSubR dd da db s
  | .subRk dd da db => Sys2Proof.Machine.execSubRk dd da db s
  | .subIR dd da imm => Sys2Proof.Machine.execSubIR dd da imm s
  | .subIRk dd da imm => Sys2Proof.Machine.execSubIRk dd da imm s
  | .mul dd da db => Sys2Proof.Machine.execMul dd da db s
  | .mulI dd da imm => Sys2Proof.Machine.execMulI dd da imm s
  | .mulR dd da db => Sys2Proof.Machine.execMulR dd da db s
  | .mulRk dd da db => Sys2Proof.Machine.execMulRk dd da db s
  | .mulIR dd da imm => Sys2Proof.Machine.execMulIR dd da imm s
  | .mulIRk dd da imm => Sys2Proof.Machine.execMulIRk dd da imm s
  | .min dd da db => Sys2Proof.Machine.execMin dd da db s
  | .minI dd da imm => Sys2Proof.Machine.execMinI dd da imm s
  | .minR dd da db => Sys2Proof.Machine.execMinR dd da db s
  | .minRk dd da db => Sys2Proof.Machine.execMinRk dd da db s
  | .minIR dd da imm => Sys2Proof.Machine.execMinIR dd da imm s
  | .minIRk dd da imm => Sys2Proof.Machine.execMinIRk dd da imm s
  | .max dd da db => Sys2Proof.Machine.execMax dd da db s
  | .maxI dd da imm => Sys2Proof.Machine.execMaxI dd da imm s
  | .maxR dd da db => Sys2Proof.Machine.execMaxR dd da db s
  | .maxRk dd da db => Sys2Proof.Machine.execMaxRk dd da db s
  | .maxIR dd da imm => Sys2Proof.Machine.execMaxIR dd da imm s
  | .maxIRk dd da imm => Sys2Proof.Machine.execMaxIRk dd da imm s
  | .abs dd da => Sys2Proof.Machine.execAbs dd da s
  | .absR dd da => Sys2Proof.Machine.execAbsR dd da s
  | .absRk dd da => Sys2Proof.Machine.execAbsRk dd da s
  | .neg dd da => Sys2Proof.Machine.execNeg dd da s
  | .negR dd da => Sys2Proof.Machine.execNegR dd da s
  | .negRk dd da => Sys2Proof.Machine.execNegRk dd da s
  | .mov dd da => Sys2Proof.Machine.execMov dd da s
  | .movR dd da => Sys2Proof.Machine.execMovR dd da s
  | .movRk dd da => Sys2Proof.Machine.execMovRk dd da s
  | .mulh dd da db => Sys2Proof.Machine.execMulh dd da db s
  | .mulhI dd da imm => Sys2Proof.Machine.execMulhI dd da imm s
  | .div dd da db => Sys2Proof.Machine.execDiv dd da db s
  | .divI dd da imm => Sys2Proof.Machine.execDivI dd da imm s
  | .rem dd da db => Sys2Proof.Machine.execRem dd da db s
  | .remI dd da imm => Sys2Proof.Machine.execRemI dd da imm s
  | .and dd da db => Sys2Proof.Machine.execAnd dd da db s
  | .andI dd da imm => Sys2Proof.Machine.execAndI dd da imm s
  | .or dd da db => Sys2Proof.Machine.execOr dd da db s
  | .orI dd da imm => Sys2Proof.Machine.execOrI dd da imm s
  | .xor dd da db => Sys2Proof.Machine.execXor dd da db s
  | .xorI dd da imm => Sys2Proof.Machine.execXorI dd da imm s
  | .andn dd da db => Sys2Proof.Machine.execAndn dd da db s
  | .andnI dd da imm => Sys2Proof.Machine.execAndnI dd da imm s
  | .shl dd da db => Sys2Proof.Machine.execShl dd da db s
  | .shlI dd da imm => Sys2Proof.Machine.execShlI dd da imm s
  | .shr dd da db => Sys2Proof.Machine.execShr dd da db s
  | .shrI dd da imm => Sys2Proof.Machine.execShrI dd da imm s
  | .sra dd da db => Sys2Proof.Machine.execSra dd da db s
  | .sraI dd da imm => Sys2Proof.Machine.execSraI dd da imm s
  | .clz dd da => Sys2Proof.Machine.execClz dd da s
  | .popc dd da => Sys2Proof.Machine.execPopc dd da s
  | .sext dd da imm => Sys2Proof.Machine.execSext dd da imm s
  | .zext dd da imm => Sys2Proof.Machine.execZext dd da imm s
  | .movi dd imm => Sys2Proof.Machine.execMovi dd imm s
  | .eq dd da db => Sys2Proof.Machine.execEq dd da db s
  | .eqI dd da imm => Sys2Proof.Machine.execEqI dd da imm s
  | .eqR dd da db => Sys2Proof.Machine.execEqR dd da db s
  | .eqRk dd da db => Sys2Proof.Machine.execEqRk dd da db s
  | .eqIR dd da imm => Sys2Proof.Machine.execEqIR dd da imm s
  | .eqIRk dd da imm => Sys2Proof.Machine.execEqIRk dd da imm s
  | .ne dd da db => Sys2Proof.Machine.execNe dd da db s
  | .neI dd da imm => Sys2Proof.Machine.execNeI dd da imm s
  | .neR dd da db => Sys2Proof.Machine.execNeR dd da db s
  | .neRk dd da db => Sys2Proof.Machine.execNeRk dd da db s
  | .neIR dd da imm => Sys2Proof.Machine.execNeIR dd da imm s
  | .neIRk dd da imm => Sys2Proof.Machine.execNeIRk dd da imm s
  | .lt dd da db => Sys2Proof.Machine.execLt dd da db s
  | .ltI dd da imm => Sys2Proof.Machine.execLtI dd da imm s
  | .ltR dd da db => Sys2Proof.Machine.execLtR dd da db s
  | .ltRk dd da db => Sys2Proof.Machine.execLtRk dd da db s
  | .ltIR dd da imm => Sys2Proof.Machine.execLtIR dd da imm s
  | .ltIRk dd da imm => Sys2Proof.Machine.execLtIRk dd da imm s
  | .le dd da db => Sys2Proof.Machine.execLe dd da db s
  | .leI dd da imm => Sys2Proof.Machine.execLeI dd da imm s
  | .leR dd da db => Sys2Proof.Machine.execLeR dd da db s
  | .leRk dd da db => Sys2Proof.Machine.execLeRk dd da db s
  | .leIR dd da imm => Sys2Proof.Machine.execLeIR dd da imm s
  | .leIRk dd da imm => Sys2Proof.Machine.execLeIRk dd da imm s
  | .inR dd da => Sys2Proof.Machine.execInR dd da s
  | .inRk dd da => Sys2Proof.Machine.execInRk dd da s
  | .alldiffR dd imm => Sys2Proof.Machine.execAlldiffR dd imm s
  | .alldiffRk dd imm => Sys2Proof.Machine.execAlldiffRk dd imm s
  | .dset dd da db => Sys2Proof.Machine.execDset dd da db s
  | .dfull dd => Sys2Proof.Machine.execDfull dd s
  | .dmask dd da imm => Sys2Proof.Machine.execDmask dd da imm s
  | .dlo dd da => Sys2Proof.Machine.execDlo dd da s
  | .dhi dd da => Sys2Proof.Machine.execDhi dd da s
  | .dsize dd da => Sys2Proof.Machine.execDsize dd da s
  | .dexcl dd db => Sys2Proof.Machine.execDexcl dd db s
  | .dexclI dd imm => Sys2Proof.Machine.execDexclI dd imm s
  | .dpick dd => Sys2Proof.Machine.execDpick dd s
  | .restore mark => Sys2Proof.Machine.execRestore mark s
  | .prep bt off => Sys2Proof.Machine.execPrep bt off s
  | .prepi bt da k => Sys2Proof.Machine.execPrepi bt da k s
  | .prepj bt da bd count off => Sys2Proof.Machine.execPrepj bt da bd count off s
  | .cmp rel neg c da db => Sys2Proof.Machine.execCmp rel neg c da db s
  | .cmpI rel neg c da imm => Sys2Proof.Machine.execCmpI rel neg c da imm s
  | .cmpu rel neg c da db => Sys2Proof.Machine.execCmpu rel neg c da db s
  | .cmpuI rel neg c da imm => Sys2Proof.Machine.execCmpuI rel neg c da imm s
  | .cmpdSingle neg c da => Sys2Proof.Machine.execCmpdSingle neg c da s
  | .cmpdHas neg c da db => Sys2Proof.Machine.execCmpdHas neg c da db s
  | .cmpdHasI neg c da imm => Sys2Proof.Machine.execCmpdHasI neg c da imm s
  | .cmpdWidth neg c da db => Sys2Proof.Machine.execCmpdWidth neg c da db s
  | .cmpdWidthI neg c da imm => Sys2Proof.Machine.execCmpdWidthI neg c da imm s
  | .xfer bt => Sys2Proof.Machine.execXfer bt s
  | .xferC bt neg c => Sys2Proof.Machine.execXferC bt neg c s
  | .xferl bt bl => Sys2Proof.Machine.execXferl bt bl s
  | .xferlC bt bl neg c => Sys2Proof.Machine.execXferlC bt bl neg c s
  | .loopb da mskew cskew => Sys2Proof.Machine.execLoopb da mskew cskew s
  | .loopcut da => Sys2Proof.Machine.execLoopcut da s
  | .loopcutI k => Sys2Proof.Machine.execLoopcutI k s
  | .postD da => Sys2Proof.Machine.execPostD da s
  | .post k => Sys2Proof.Machine.execPost k s
  | .awaitD da => Sys2Proof.Machine.execAwaitD da s
  | .await k => Sys2Proof.Machine.execAwait k s
  | .spawn bd da imm => Sys2Proof.Machine.execSpawn bd da imm s
  | .yield bd da imm => Sys2Proof.Machine.execYield bd da imm s
  | .trap k => Sys2Proof.Machine.execTrap k s
  | .syscall k => Sys2Proof.Machine.execSyscall k s
  | .brk k => Sys2Proof.Machine.execBrk k s
  | .mfsr da r high => Sys2Proof.Machine.execMfsr da r high s
  | .mtsr r da db => Sys2Proof.Machine.execMtsr r da db s
  | .bdset bd part da => Sys2Proof.Machine.execBdset bd part da s
  | .temit da db => Sys2Proof.Machine.execTemit da db s
  | .rfbegin bd da imm => Sys2Proof.Machine.execRfbegin bd da imm s
  | .rftest v => Sys2Proof.Machine.execRftest v s
  | .ld z dd m => Sys2Proof.Machine.execLd z dd m s
  | .st z ds m => Sys2Proof.Machine.execSt z ds m s
  | .stn ds m mask => Sys2Proof.Machine.execStn ds m mask s
  | .ldr z dd m k => Sys2Proof.Machine.execLdr z dd m k s
  | .ldv v m dp => Sys2Proof.Machine.execLdv v m dp s
  | .stv v m dp => Sys2Proof.Machine.execStv v m dp s
  | .ldvp v m p => Sys2Proof.Machine.execLdvp v m p s
  | .gathv v m vi => Sys2Proof.Machine.execGathv v m vi s
  | .scatv v m vi => Sys2Proof.Machine.execScatv v m vi s
  | .pagereq m => Sys2Proof.Machine.execPagereq m s
  | .prefetch dn m => Sys2Proof.Machine.execPrefetch dn m s
  | .sopen kind f m dq => Sys2Proof.Machine.execSopen kind f m dq s
  | .sadv f dn => Sys2Proof.Machine.execSadv f dn s
  | .sget dd f => Sys2Proof.Machine.execSget dd f s
  | .vsget v f => Sys2Proof.Machine.execVsget v f s
  | .stend c f => Sys2Proof.Machine.execStend c f s
  | .sclose f => Sys2Proof.Machine.execSclose f s
  | .wset w m dn => Sys2Proof.Machine.execWset w m dn s
  | .amoAdd wide dd m ds => Sys2Proof.Machine.execAmoAdd wide dd m ds s
  | .amoMin wide dd m ds => Sys2Proof.Machine.execAmoMin wide dd m ds s
  | .amoMax wide dd m ds => Sys2Proof.Machine.execAmoMax wide dd m ds s
  | .amoAnd wide dd m ds => Sys2Proof.Machine.execAmoAnd wide dd m ds s
  | .amoOr wide dd m ds => Sys2Proof.Machine.execAmoOr wide dd m ds s
  | .amoXor wide dd m ds => Sys2Proof.Machine.execAmoXor wide dd m ds s
  | .amoSwap wide dd m ds => Sys2Proof.Machine.execAmoSwap wide dd m ds s
  | .cas wide dd m ds => Sys2Proof.Machine.execCas wide dd m ds s
  | .lda wide dd m => Sys2Proof.Machine.execLda wide dd m s
  | .stl wide ds m => Sys2Proof.Machine.execStl wide ds m s
  | .fence scope mask => Sys2Proof.Machine.execFence scope mask s
  | .barwinit dt m exact => Sys2Proof.Machine.execBarwinit dt m exact s
  | .barwadd dn m => Sys2Proof.Machine.execBarwadd dn m s
  | .barwwait dg m dt => Sys2Proof.Machine.execBarwwait dg m dt s
  | .barwtry dg m c => Sys2Proof.Machine.execBarwtry dg m c s
  | .wqpush q m c => Sys2Proof.Machine.execWqpush q m c s
  | .wqpop q m c => Sys2Proof.Machine.execWqpop q m c s
  | .wqpopOne q m c => Sys2Proof.Machine.execWqpopOne q m c s
  | .wqsteal q m c => Sys2Proof.Machine.execWqsteal q m c s
  | .lgather dd m n => Sys2Proof.Machine.execLgather dd m n s
  | .ldedup dd scope dk n => Sys2Proof.Machine.execLdedup dd scope dk n s
  | .lpool op dd scope ds rows rsz => Sys2Proof.Machine.execLpool op dd scope ds rows rsz s
  | .lhand ds m dw => Sys2Proof.Machine.execLhand ds m dw s
  | .vadd f vd va vb p => Sys2Proof.Machine.execVadd f vd va vb p s
  | .vsub f vd va vb p => Sys2Proof.Machine.execVsub f vd va vb p s
  | .vmul f vd va vb p => Sys2Proof.Machine.execVmul f vd va vb p s
  | .vfma f vd va vb vc p => Sys2Proof.Machine.execVfma f vd va vb vc p s
  | .vfms f vd va vb vc p => Sys2Proof.Machine.execVfms f vd va vb vc p s
  | .vmin f vd va vb p => Sys2Proof.Machine.execVmin f vd va vb p s
  | .vmax f vd va vb p => Sys2Proof.Machine.execVmax f vd va vb p s
  | .vabs f vd va p => Sys2Proof.Machine.execVabs f vd va p s
  | .vneg f vd va p => Sys2Proof.Machine.execVneg f vd va p s
  | .vand vd va vb p => Sys2Proof.Machine.execVand vd va vb p s
  | .vor vd va vb p => Sys2Proof.Machine.execVor vd va vb p s
  | .vxor vd va vb p => Sys2Proof.Machine.execVxor vd va vb p s
  | .vshl f vd va cnt p => Sys2Proof.Machine.execVshl f vd va cnt p s
  | .vshr f vd va cnt p => Sys2Proof.Machine.execVshr f vd va cnt p s
  | .vsra f vd va cnt p => Sys2Proof.Machine.execVsra f vd va cnt p s
  | .vcmp rel f pd va vb p => Sys2Proof.Machine.execVcmp rel f pd va vb p s
  | .vsel vd va vb sel => Sys2Proof.Machine.execVsel vd va vb sel s
  | .vmov vd va p => Sys2Proof.Machine.execVmov vd va p s
  | .vsplat f vd ds p => Sys2Proof.Machine.execVsplat f vd ds p s
  | .viota m vd p => Sys2Proof.Machine.execViota m vd p s
  | .vcvt t vd va p => Sys2Proof.Machine.execVcvt t vd va p s
  | .vquant t vd vc va => Sys2Proof.Machine.execVquant t vd vc va s
  | .vdeq vd va vb p => Sys2Proof.Machine.execVdeq vd va vb p s
  | .vclass pd va m p => Sys2Proof.Machine.execVclass pd va m p s
  | .pand pd pa pb p => Sys2Proof.Machine.execPand pd pa pb p s
  | .por pd pa pb p => Sys2Proof.Machine.execPor pd pa pb p s
  | .pxor pd pa pb p => Sys2Proof.Machine.execPxor pd pa pb p s
  | .pnot pd pa p => Sys2Proof.Machine.execPnot pd pa p s
  | .vrotr vd va k p => Sys2Proof.Machine.execVrotr vd va k p s
  | .vrotc vd va k p => Sys2Proof.Machine.execVrotc vd va k p s
  | .vbcr vd va k p => Sys2Proof.Machine.execVbcr vd va k p s
  | .vbcc vd va k p => Sys2Proof.Machine.execVbcc vd va k p s
  | .vredr op f vd va p => Sys2Proof.Machine.execVredr op f vd va p s
  | .vredc op f vd va p => Sys2Proof.Machine.execVredc op f vd va p s
  | .vscanr op f vd va p => Sys2Proof.Machine.execVscanr op f vd va p s
  | .vscanc op f vd va p => Sys2Proof.Machine.execVscanc op f vd va p s
  | .vtrn vd va => Sys2Proof.Machine.execVtrn vd va s
  | .vsfuExp2 vd va p => Sys2Proof.Machine.execVsfuExp2 vd va p s
  | .vsfuLog2 vd va p => Sys2Proof.Machine.execVsfuLog2 vd va p s
  | .vsfuRcp vd va p => Sys2Proof.Machine.execVsfuRcp vd va p s
  | .vsfuRsqrt vd va p => Sys2Proof.Machine.execVsfuRsqrt vd va p s
  | .vsfuSqrt vd va p => Sys2Proof.Machine.execVsfuSqrt vd va p s
  | .vsfuSinpi vd va p => Sys2Proof.Machine.execVsfuSinpi vd va p s
  | .vsfuCospi vd va p => Sys2Proof.Machine.execVsfuCospi vd va p s
  | .vsfuTanh vd va p => Sys2Proof.Machine.execVsfuTanh vd va p s
  | .vsfuSigm vd va p => Sys2Proof.Machine.execVsfuSigm vd va p s
  | .vsfuErf vd va p => Sys2Proof.Machine.execVsfuErf vd va p s
  | .vany c p => Sys2Proof.Machine.execVany c p s
  | .vall c p => Sys2Proof.Machine.execVall c p s
  | .vcompress vd vc va => Sys2Proof.Machine.execVcompress vd vc va s
  | .vexpand vd va vb p => Sys2Proof.Machine.execVexpand vd va vb p s
  | .vextr dd va row col => Sys2Proof.Machine.execVextr dd va row col s
  | .vinsr vd ds row col => Sys2Proof.Machine.execVinsr vd ds row col s
  | .estart copy da => Sys2Proof.Machine.execEstart copy da s
  | .estop copy => Sys2Proof.Machine.execEstop copy s
  | .estat dd copy item => Sys2Proof.Machine.execEstat dd copy item s
  | .gopen g bd da imm => Sys2Proof.Machine.execGopen g bd da imm s
  | .gattach g bd da imm => Sys2Proof.Machine.execGattach g bd da imm s
  | .gdetach c g slot => Sys2Proof.Machine.execGdetach c g slot s
  | .gfold c g bda da bdb db tag => Sys2Proof.Machine.execGfold c g bda da bdb db tag s
  | .lit v => Sys2Proof.Machine.execLit v s
  | .litx v => Sys2Proof.Machine.execLitx v s
  | .pushd n => Sys2Proof.Machine.execPushd n s
  | .pushb n high => Sys2Proof.Machine.execPushb n high s
  | .jmp k => Sys2Proof.Machine.execJmp k s
  | .enginePost k => Sys2Proof.Machine.execEnginePost k s
  | .engineAwait k => Sys2Proof.Machine.execEngineAwait k s
  | .powerOnReset => Sys2Proof.Machine.execPowerOnReset s
  | .bringupStepComplete => Sys2Proof.Machine.execBringupStepComplete s
  | .thermalPoll => Sys2Proof.Machine.execThermalPoll s
  | .clockAdjustTick => Sys2Proof.Machine.execClockAdjustTick s
  | .governorWindow => Sys2Proof.Machine.execGovernorWindow s
  | .governorBudgetStall => Sys2Proof.Machine.execGovernorBudgetStall s
  | .tokenArrival => Sys2Proof.Machine.execTokenArrival s
  | .tokenBurstEnd => Sys2Proof.Machine.execTokenBurstEnd s
  | .runtimeFence => Sys2Proof.Machine.execRuntimeFence s
  | .distributorTakeover => Sys2Proof.Machine.execDistributorTakeover s
  | .i3cRequest => Sys2Proof.Machine.execI3cRequest s
  | .i3cServiceCommand => Sys2Proof.Machine.execI3cServiceCommand s
  | .jtagInstruction => Sys2Proof.Machine.execJtagInstruction s
  | .debugAccessChallenge => Sys2Proof.Machine.execDebugAccessChallenge s
  | .sealKeyInstall => Sys2Proof.Machine.execSealKeyInstall s
  | .sealTraceKeyInstall => Sys2Proof.Machine.execSealTraceKeyInstall s
  | .sealAttestation => Sys2Proof.Machine.execSealAttestation s
  | .linnorFlitReceive => Sys2Proof.Machine.execLinnorFlitReceive s
  | .linnorFlitTransmit => Sys2Proof.Machine.execLinnorFlitTransmit s
  | .linnorRetryRequest => Sys2Proof.Machine.execLinnorRetryRequest s
  | .retryRequestTimeout => Sys2Proof.Machine.execRetryRequestTimeout s
  | .linnorRetrain => Sys2Proof.Machine.execLinnorRetrain s
  | .retryLimitExceeded => Sys2Proof.Machine.execRetryLimitExceeded s
  | .linnorRd => Sys2Proof.Machine.execLinnorRd s
  | .linnorWr => Sys2Proof.Machine.execLinnorWr s
  | .linnorAtom => Sys2Proof.Machine.execLinnorAtom s
  | .linnorMsg => Sys2Proof.Machine.execLinnorMsg s
  | .linnorWake => Sys2Proof.Machine.execLinnorWake s
  | .linnorReservedKind => Sys2Proof.Machine.execLinnorReservedKind s
  | .linnorRdrsp => Sys2Proof.Machine.execLinnorRdrsp s
  | .linnorWrack => Sys2Proof.Machine.execLinnorWrack s
  | .linnorAtomrsp => Sys2Proof.Machine.execLinnorAtomrsp s
  | .linnorMsgack => Sys2Proof.Machine.execLinnorMsgack s
  | .linnorErr => Sys2Proof.Machine.execLinnorErr s
  | .linnorResendTimer => Sys2Proof.Machine.execLinnorResendTimer s
  | .linnorRequestGiveup => Sys2Proof.Machine.execLinnorRequestGiveup s
  | .wakeReplay => Sys2Proof.Machine.execWakeReplay s
  | .pcieInboundRequest => Sys2Proof.Machine.execPcieInboundRequest s
  | .pcieAtsPriRequest => Sys2Proof.Machine.execPcieAtsPriRequest s
  | .pcieAtomicopInbound => Sys2Proof.Machine.execPcieAtomicopInbound s
  | .bar0Access => Sys2Proof.Machine.execBar0Access s
  | .bar2Access => Sys2Proof.Machine.execBar2Access s
  | .mgmtWindowBadAccess => Sys2Proof.Machine.execMgmtWindowBadAccess s
  | .registerWrite => Sys2Proof.Machine.execRegisterWrite s
  | .routerCycle => Sys2Proof.Machine.execRouterCycle s
  | .packetEject => Sys2Proof.Machine.execPacketEject s
  | .meshRd => Sys2Proof.Machine.execMeshRd s
  | .meshWr => Sys2Proof.Machine.execMeshWr s
  | .meshWrb => Sys2Proof.Machine.execMeshWrb s
  | .meshWrn => Sys2Proof.Machine.execMeshWrn s
  | .meshAmo => Sys2Proof.Machine.execMeshAmo s
  | .meshBadd => Sys2Proof.Machine.execMeshBadd s
  | .hopBinit => Sys2Proof.Machine.execHopBinit s
  | .hopBread => Sys2Proof.Machine.execHopBread s
  | .hopBtimeout => Sys2Proof.Machine.execHopBtimeout s
  | .hopWqpush => Sys2Proof.Machine.execHopWqpush s
  | .hopWqpop => Sys2Proof.Machine.execHopWqpop s
  | .hopWqsteal => Sys2Proof.Machine.execHopWqsteal s
  | .hopGread => Sys2Proof.Machine.execHopGread s
  | .hopGattach => Sys2Proof.Machine.execHopGattach s
  | .hopGdetach => Sys2Proof.Machine.execHopGdetach s
  | .hopGfold => Sys2Proof.Machine.execHopGfold s
  | .hopCntinc => Sys2Proof.Machine.execHopCntinc s
  | .hopReserved => Sys2Proof.Machine.execHopReserved s
  | .meshReservedKind => Sys2Proof.Machine.execMeshReservedKind s
  | .meshRdd => Sys2Proof.Machine.execMeshRdd s
  | .meshWack => Sys2Proof.Machine.execMeshWack s
  | .meshAmor => Sys2Proof.Machine.execMeshAmor s
  | .meshNack => Sys2Proof.Machine.execMeshNack s
  | .meshHopr => Sys2Proof.Machine.execMeshHopr s
  | .lqctlEnable => Sys2Proof.Machine.execLqctlEnable s
  | .lqctlDisable => Sys2Proof.Machine.execLqctlDisable s
  | .lqtailDoorbell => Sys2Proof.Machine.execLqtailDoorbell s
  | .lfeRecordFetch => Sys2Proof.Machine.execLfeRecordFetch s
  | .waitRecordSatisfied => Sys2Proof.Machine.execWaitRecordSatisfied s
  | .signalRecord => Sys2Proof.Machine.execSignalRecord s
  | .launchWaitSatisfied => Sys2Proof.Machine.execLaunchWaitSatisfied s
  | .launchGrant => Sys2Proof.Machine.execLaunchGrant s
  | .shadowBankLoaded => Sys2Proof.Machine.execShadowBankLoaded s
  | .bankSwap => Sys2Proof.Machine.execBankSwap s
  | .bankSwapDone => Sys2Proof.Machine.execBankSwapDone s
  | .launchCompletion => Sys2Proof.Machine.execLaunchCompletion s
  | .idleNow => Sys2Proof.Machine.execIdleNow s
  | .idlectlWakeWrite => Sys2Proof.Machine.execIdlectlWakeWrite s
  | .idleDelayExpiry => Sys2Proof.Machine.execIdleDelayExpiry s
  | .idleEntered => Sys2Proof.Machine.execIdleEntered s
  | .wakeComplete => Sys2Proof.Machine.execWakeComplete s
  | .pasidActivate => Sys2Proof.Machine.execPasidActivate s
  | .pasidTeardown => Sys2Proof.Machine.execPasidTeardown s
  | .pasidStatusSelect => Sys2Proof.Machine.execPasidStatusSelect s
  | .pasidTeardownComplete => Sys2Proof.Machine.execPasidTeardownComplete s
  | .walkComplete => Sys2Proof.Machine.execWalkComplete s
  | .faultRecordDeferred => Sys2Proof.Machine.execFaultRecordDeferred s
  | .fbresolveRetry => Sys2Proof.Machine.execFbresolveRetry s
  | .fbresolvePage => Sys2Proof.Machine.execFbresolvePage s
  | .fbresolveProt => Sys2Proof.Machine.execFbresolveProt s
  | .iotinvalVma => Sys2Proof.Machine.execIotinvalVma s
  | .iofenceC => Sys2Proof.Machine.execIofenceC s
  | .counterEpochSweep => Sys2Proof.Machine.execCounterEpochSweep s
  | .spawnValidate => Sys2Proof.Machine.execSpawnValidate s
  | .regionCompletion => Sys2Proof.Machine.execRegionCompletion s
  | .regionFault => Sys2Proof.Machine.execRegionFault s
  | .taskDispatch => Sys2Proof.Machine.execTaskDispatch s
  | .continuationEligible => Sys2Proof.Machine.execContinuationEligible s
  | .levelPromotion => Sys2Proof.Machine.execLevelPromotion s
  | .grainRequest => Sys2Proof.Machine.execGrainRequest s
  | .preemptRequest => Sys2Proof.Machine.execPreemptRequest s
  | .preemptResume => Sys2Proof.Machine.execPreemptResume s
  | .leaseGrant => Sys2Proof.Machine.execLeaseGrant s
  | .leaseCycleLimit => Sys2Proof.Machine.execLeaseCycleLimit s
  | .eventCycleUpdate => Sys2Proof.Machine.execEventCycleUpdate s
  | .deferredTrap => Sys2Proof.Machine.execDeferredTrap s
  | .firmwareRestart => Sys2Proof.Machine.execFirmwareRestart s
  | .syscallRelease => Sys2Proof.Machine.execSyscallRelease s
  | .lookupBankWrite => Sys2Proof.Machine.execLookupBankWrite s
  | .sampleTimer => Sys2Proof.Machine.execSampleTimer s
  | .quillDrain => Sys2Proof.Machine.execQuillDrain s
  | .sealTimeout => Sys2Proof.Machine.execSealTimeout s
  | .replayWaitTimeout => Sys2Proof.Machine.execReplayWaitTimeout s
  | .barwwaitTimeoutExpiry => Sys2Proof.Machine.execBarwwaitTimeoutExpiry s
  | .matrixPassCommit => Sys2Proof.Machine.execMatrixPassCommit s
  | .foldFinish => Sys2Proof.Machine.execFoldFinish s
  | .foldAbandon => Sys2Proof.Machine.execFoldAbandon s
  | .prop => Sys2Proof.Machine.execProp s
  | .ckpt => Sys2Proof.Machine.execCkpt s
  | .commit => Sys2Proof.Machine.execCommit s
  | .nop => Sys2Proof.Machine.execNop s
  | .transferTakesPlace => Sys2Proof.Machine.execTransferTakesPlace s
  | .retire => Sys2Proof.Machine.execRetire s
  | .eret => Sys2Proof.Machine.execEret s
  | .idle => Sys2Proof.Machine.execIdle s
  | .rfnext => Sys2Proof.Machine.execRfnext s
  | .rfend => Sys2Proof.Machine.execRfend s
  | .ldrLanding => Sys2Proof.Machine.execLdrLanding s
  | .dup => Sys2Proof.Machine.execDup s
  | .drop => Sys2Proof.Machine.execDrop s
  | .swap => Sys2Proof.Machine.execSwap s
  | .over => Sys2Proof.Machine.execOver s
  | .rep => Sys2Proof.Machine.execRep s
  | .endrep => Sys2Proof.Machine.execEndrep s
  | .engineNop => Sys2Proof.Machine.execEngineNop s
  | .halt => Sys2Proof.Machine.execHalt s
  | .classW => Sys2Proof.Machine.execClassW s
  | .lease => Sys2Proof.Machine.execLease s
  | .free => Sys2Proof.Machine.execFree s
  | .mzero => Sys2Proof.Machine.execMzero s
  | .mwin => Sys2Proof.Machine.execMwin s
  | .mma => Sys2Proof.Machine.execMma s
  | .mmas => Sys2Proof.Machine.execMmas s
  | .mmasp => Sys2Proof.Machine.execMmasp s
  | .mstore => Sys2Proof.Machine.execMstore s
  | .copy => Sys2Proof.Machine.execCopy s
  | .copy2 => Sys2Proof.Machine.execCopy2 s
  | .mcast => Sys2Proof.Machine.execMcast s
  | .gld => Sys2Proof.Machine.execGld s
  | .decomp => Sys2Proof.Machine.execDecomp s
  | .fill => Sys2Proof.Machine.execFill s
  | .barann => Sys2Proof.Machine.execBarann s
  | .pcieCompletion => Sys2Proof.Machine.execPcieCompletion s
  | .illegalBundle => Sys2Proof.Machine.execIllegalBundle s
  | .illegalEngineWord => Sys2Proof.Machine.execIllegalEngineWord s
  | .loopbStartSkew => Sys2Proof.Machine.execLoopbStartSkew s

end Sys2Proof.Machine
end

