-- ==== Sys2Proof/Machine/Step.lean ====
section
/-!
DEFINITION. One step of the package (R163, R164, R427): the next turn of the order of happenings, or a move of the agent in
progress. Log entries: 1 (one step at a time), 6 (time), 43 (how a program comes to run).
-/

namespace Sys2Proof.Machine

/-- The rows that are steps of the machine or happenings from outside, which the order of happenings may hold. -/
def isHappening : Instr → Bool
  | .powerOnReset | .bringupStepComplete | .thermalPoll | .clockAdjustTick | .governorWindow | .governorBudgetStall
  | .tokenArrival | .tokenBurstEnd | .runtimeFence | .distributorTakeover | .i3cRequest | .i3cServiceCommand
  | .jtagInstruction | .debugAccessChallenge | .sealKeyInstall | .sealTraceKeyInstall | .sealAttestation
  | .linnorFlitReceive | .linnorFlitTransmit | .linnorRetryRequest | .retryRequestTimeout | .linnorRetrain
  | .retryLimitExceeded | .linnorRd | .linnorWr | .linnorAtom | .linnorMsg | .linnorWake | .linnorReservedKind
  | .linnorRdrsp | .linnorWrack | .linnorAtomrsp | .linnorMsgack | .linnorErr | .linnorResendTimer
  | .linnorRequestGiveup | .wakeReplay | .pcieInboundRequest | .pcieAtsPriRequest | .pcieAtomicopInbound
  | .bar0Access | .bar2Access | .mgmtWindowBadAccess | .registerWrite | .routerCycle | .packetEject | .meshRd
  | .meshWr | .meshWrb | .meshWrn | .meshAmo | .meshBadd | .hopBinit | .hopBread | .hopBtimeout | .hopWqpush
  | .hopWqpop | .hopWqsteal | .hopGread | .hopGattach | .hopGdetach | .hopGfold | .hopCntinc | .hopReserved
  | .meshReservedKind | .meshRdd | .meshWack | .meshAmor | .meshNack | .meshHopr | .lqctlEnable | .lqctlDisable
  | .lqtailDoorbell | .lfeRecordFetch | .waitRecordSatisfied | .signalRecord | .launchWaitSatisfied | .launchGrant
  | .shadowBankLoaded | .bankSwap | .bankSwapDone | .launchCompletion | .idleNow | .idlectlWakeWrite
  | .idleDelayExpiry | .idleEntered | .wakeComplete | .pasidActivate | .pasidTeardown | .pasidStatusSelect
  | .pasidTeardownComplete | .walkComplete | .faultRecordDeferred | .fbresolveRetry | .fbresolvePage | .fbresolveProt
  | .iotinvalVma | .iofenceC | .counterEpochSweep | .spawnValidate | .regionCompletion | .regionFault | .taskDispatch
  | .continuationEligible | .levelPromotion | .grainRequest | .preemptRequest | .preemptResume | .leaseGrant
  | .leaseCycleLimit | .eventCycleUpdate | .deferredTrap | .firmwareRestart | .syscallRelease | .lookupBankWrite
  | .sampleTimer | .quillDrain | .sealTimeout | .replayWaitTimeout | .barwwaitTimeoutExpiry | .matrixPassCommit
  | .foldFinish | .foldAbandon | .transferTakesPlace | .ldrLanding | .pcieCompletion | .loopbStartSkew => true
  | _ => false

/-- Time passes in a step that answers a next state. -/
def timed : Host.Outcome State Fault Refusal → Host.Outcome State Fault Refusal
  | .next s => .next s.tick
  | o => o

/-- After a happening the agent whose turn it was stays the agent in progress. -/
def resume (a : Agent) : Host.Outcome State Fault Refusal → Host.Outcome State Fault Refusal
  | .next s => .next { s with cur := a, issue := {} }
  | o => o

/-- What happens to a package that has turned itself off: a power-on, what the I3C port asks (R15, R55), and the instructions of the
boundary-scan port (R56). -/
def offHappening : Instr → Bool
  | .powerOnReset | .i3cRequest | .i3cServiceCommand | .jtagInstruction => true
  | _ => false

/-- A happening takes place, if it is one, and if the package is on or it reaches one that is off. -/
def happen (i : Instr) (inp : Input) (s : State) : Host.Outcome State Fault Refusal :=
  if isHappening i && (!s.boot.off || offHappening i) then resume s.cur (exec i { s with inp := inp, issue := {} })
  else .next s

/-- One step: the first turn of the order of happenings, else the agent in progress moves. -/
def step (s : State) : Host.Outcome State Fault Refusal :=
  match s.sched with
  | .happen i inp :: rest => timed (happen i inp { s with sched := rest })
  | .agent a :: rest =>
    if s.boot.off then .fault .packageOff
    else timed (agentMove exec { s with sched := rest, cur := a, issue := {} })
  | [] => if s.boot.off then .fault .packageOff else timed (agentMove exec { s with issue := {} })

/-! ### Placing an instruction (log entry 43) -/

/-- A translation of virtual addresses below 1 GiB to the start of HBM stack 0, with every permission. -/
def lowPage (pasid : BitVec 20) : TlbEntry :=
  { pasid := pasid, va := 0, size := 3, pa := 0, r := true, w := true, x := true, d := true }

/-- The 64 KiB page of HBM that the placed program stands in. -/
def programBase : Nat := 0x10000

/-- Core 0 with its package in service, translation in place and its agent `a` next to move. -/
def State.ready (s : State) (a : Agent) : State :=
  let s := { s with sched := [], cur := a, issue := {}, inp := {}
                    boot := { s.boot with off := false, hbm := s.boot.hbm ||| 1 }
                    fences := { s.fences with hbms := s.fences.hbms &&& ~~~1#12, dies := 0 }
                    mgmt := { s.mgmt with gated := false } }
  let s := s.modTile 0 (fun t => { t with tlb := lowPage (s.core 0).user.id.pasid :: t.tlb })
  s.modCore 0 (fun c => { c with engHeld := false })

/-- `s` with an instruction of the opcode table stored where `step` fetches next: a syllable that is a bundle alone (bit 63
is its E bit) in core 0's user context, an engine word in the stream of core 0's matrix or copy engine. -/
def State.withFetchWord (s : State) (nbits w : Nat) : State :=
  if nbits ≤ 16 then
    let bytes := leBytes 2 (w % 65536)
    let a := BitVec.ofNat 48 programBase
    let fresh (e : Engine) : Engine :=
      { e with state := .running, word := a, inWord := none, fault := none, resolved := none, skip := 0 }
    if (decodeMatrix (BitVec.ofNat 16 w)).isSome then
      let t := s.ready (.matrix 0)
      (t.setBytes programBase bytes).setEngine 0 false (fresh (t.engine 0 false))
    else
      let t := s.ready (.copy 0)
      (t.setBytes programBase bytes).setEngine 0 true (fresh (t.engine 0 true))
  else
    let t := s.ready (.user 0)
    let t := t.setBytes programBase (leBytes 8 (w % 2 ^ 63 + 2 ^ 63))
    t.modCore 0 (fun c => { c with user := { c.user with
      pc := BitVec.ofNat 48 programBase, running := true, waits := {}, deferred := [], due := false } })

end Sys2Proof.Machine
end

