-- ==== Sys2Proof/Safety.lean ====
section
/-!
DEFINITION. The words the statements use: the canonical form of memory, runs of steps, a syllable alone in its bundle and
what it does when it completes or traps, and which parts of the state a step leaves as they were.
-/

namespace Sys2Proof.Safety

open Sys2Proof.Machine

/-! ### Steps -/

/-- Memory has its canonical form: addresses strictly rising, no blank byte listed. -/
def MemInv (s : State) : Prop := Memory.wf s.mem = true

/-! ### A step of a context, of an engine -/

/-- The context in progress is to issue the bundle at its pc in the next step: no turn stands before it, it runs on a core
that nothing holds, no transfer and no deferred trap is due, and it waits for nothing. -/
structure Issuing (s : State) : Prop where
  first : s.sched = []
  on : s.boot.off = false
  context : ∃ k, s.cur = .user k ∨ s.cur = .fw k ∨ s.cur = .lookup k
  clocked : ∀ k, agentCore s.cur = some k → s.coreGated k = false
  free : s.stopped s.cur = false
  slot : s.noSlot s.cur = false
  here : s.ctx.due = false
  traps : s.ctx.nextDeferred = none
  noBrk : s.ctx.brkWaits = none
  ready : s.ctx.waiting = false
  awake : s.ctx.waits.idle = false
  fresh : s.ctx.waits.resolved = none

/-- The program's bytes at the pc of the context in progress are `w`, little-endian, and it may run them; `t` is the state
once they have been translated and fetched. -/
def SyllableAt (s : State) (w : BitVec 64) (t : State) : Prop :=
  ∃ pa, s.translate (agentPort s.cur) s.ctx.id.conf s.ctx.id.pasid s.ctx.pc accExec = .ok pa t
    ∧ homeTrap t ⟨physKey pa, physCell pa, false, some s.ctx.pc⟩ 8 false = none
    ∧ t.bytesKey (physKey pa) (physCell pa) 8 = leBytes 8 w.toNat

/-- No execute breakpoint matches the bundle at `va`. -/
def NoBreak (t : State) (va : Addr) : Prop := (bkptOn t && bkptHits t (fun k => k == 0) va 1 != 0) = false

/-- The engine in progress is to fetch the next word of its stream in the next step. -/
structure Streaming (s : State) : Prop where
  first : s.sched = []
  on : s.boot.off = false
  engine : ∃ k, s.cur = .matrix k ∨ s.cur = .copy k
  clocked : ∀ k, agentCore s.cur = some k → s.coreGated k = false
  free : s.stopped s.cur = false
  ready : s.engineReady = true
  fresh : s.eng.resolved = none
  between : s.eng.inWord = none
  inside : s.eng.skip = 0

/-- The word at the address of the engine in progress is `w`. -/
def WordAt (s : State) (w : BitVec 16) (t : State) : Prop :=
  ∃ pa, s.translate (agentPort s.cur) s.ctx.id.conf s.ctx.id.pasid s.eng.word accExec = .ok pa t
    ∧ homeTrap t ⟨physKey pa, physCell pa, false, some s.eng.word⟩ 2 false = none
    ∧ t.bytesKey (physKey pa) (physCell pa) 2 = leBytes 2 w.toNat
    ∧ t.eng.skip = 0

/-- The launch words, whose modifiers are no fields of `Instr`. -/
def isLaunch : Instr → Bool
  | .classW | .mzero | .mma | .mmas | .mmasp | .mstore | .copy | .copy2 | .mcast | .gld | .decomp => true
  | _ => false

/-- The instructions of the bundle stream: no step of the machine, no engine word, no pattern that is not an
instruction. -/
def isSyllable (i : Instr) : Bool :=
  !isHappening i && (encodeEngine i).isNone && !isLaunch i && i != .illegalBundle && i != .illegalEngineWord

/-! ### A syllable alone in its bundle -/

/-- The syllable in progress is the whole of its bundle, and reads the context as it stands. -/
def Alone (s : State) : Prop := s.issue.inner = false ∧ s.issue.snap = none

/-- A syllable of a bundle of several, which reads the context `c` as its bundle found it (R187). -/
def Among (c : Ctx) (s : State) : Prop := s.issue.inner = true ∧ s.issue.snap = some c

/-- No more results are in flight than R188 admits. -/
def Room (s : State) : Prop := s.ctx.overLimit = false

/-- Does a bundle issued in this state raise DEBUG at its end, because SSTEP is set (R133)? -/
def stepping (s : State) : Bool := s.debugCap && s.ctx.dbg.sstep && !s.ctx.status.intrap

/-- Instruction `i`, issued in `s`, does what brings the state to `u`, and its bundle commits (R187 to R189): the pc moves
past it, results come a bundle nearer, and what the bundle asked of its boundary is carried out. -/
def Completes (i : Instr) (s u : State) : Prop := exec i s = .next (u.boundary (stepping s))

/-- Instruction `i` has none of its effect and its context takes a trap from state `u` (R315, R316). -/
def Traps (i : Instr) (s u : State) (code : Byte) : Prop := exec i s = .next (u.takeTrap { code := code })

/-- Instruction `i` has none of its effect, and its bundle issues again from state `u`. -/
def Stalls (i : Instr) (s u : State) : Prop := exec i s = .next { u with issue := {} }

/-- The bundle in progress asks nothing of its boundary yet. -/
def Plain (s : State) : Prop := s.issue.after = .none ∧ s.issue.budget = false

/-- Every form of a list, issued alone in `s` with room for what it sends on its way, completes in the state it names. -/
def AllComplete (s : State) (fs : List (Instr × State)) : Prop := ∀ f ∈ fs, Room f.2 → Completes f.1 s f.2

/-- Every form of a list raises the trap. -/
def AllTrap (s : State) (code : Byte) (fs : List Instr) : Prop := ∀ i ∈ fs, Traps i s s code

/-- Every result in flight was issued by an earlier bundle, as every bundle finds them (R187). -/
def Older (c : Ctx) : Prop := ∀ p ∈ c.pend, p.count < c.count

/-- The results that land at the end of the bundle in progress, in order of issue. -/
def dueNow (c : Ctx) : List Pend := c.pend.filter (fun p => !p.frozen && p.dist ≤ 1)

/-- The register files once those results have landed. -/
def regsNext (c : Ctx) : Regs := (dueNow c).foldl (fun r p => r.write p.wr) c.regs

/-! ### Frames -/

/-- Two states differ at most in the context in progress and in the bookkeeping of the bundle in progress. -/
def OnlyContext (s t : State) : Prop := ∃ c, t = { s.setCtx c with issue := {} }

/-- The registers that only their own instructions change are as they were: the trap and failure registers, the
constraint store, its queue, trail, marks and counters, the refinement registers, and what the bound region gives. -/
def SpecialKept (c d : Ctx) : Prop :=
  d.trapcode = c.trapcode ∧ d.trappc = c.trappc ∧ d.trapvec = c.trapvec ∧ d.failvec = c.failvec
    ∧ d.failinfo = c.failinfo ∧ d.cons = c.cons ∧ d.refine = c.refine ∧ d.id = c.id
    ∧ d.status.intrap = c.status.intrap ∧ d.status.satnan = c.status.satnan ∧ d.status.rm = c.status.rm
    ∧ d.dbg.bkpt = c.dbg.bkpt ∧ d.dbg.tracectl = c.dbg.tracectl ∧ d.dbg.replayctl = c.dbg.replayctl

/-- Every byte outside `n` bytes from `a` reads as before, at its home. -/
def MemKept (s t : State) (a n : Nat) : Prop := ∀ b, ¬ (a ≤ b ∧ b < a + n) → t.byte b = s.byte b

/-! ### Class 000: forms, latencies and results -/

/-- The functional forms of two sources and of a source and a constant, with their latency (R297) and their value on
singletons `a` and `b`, the constant being `k` (R275). -/
def singleForms (dd da db : DReg) (k a b : Word) : List (Instr × Nat × Word) :=
  [(.add dd da db, 1, a + b), (.addI dd da k, 1, a + k), (.sub dd da db, 1, a - b), (.subI dd da k, 1, a - k),
    (.mul dd da db, 3, a * b), (.mulI dd da k, 3, a * k),
    (.mulh dd da db, 3, ((a.signExtend 64 * b.signExtend 64) >>> 32).setWidth 32),
    (.mulhI dd da k, 3, ((a.signExtend 64 * k.signExtend 64) >>> 32).setWidth 32),
    (.div dd da db, 12, if b = 0 then -1 else a.sdiv b), (.divI dd da k, 12, if k = 0 then -1 else a.sdiv k),
    (.rem dd da db, 12, if b = 0 then a else a.srem b), (.remI dd da k, 12, if k = 0 then a else a.srem k),
    (.min dd da db, 1, if a.slt b then a else b), (.minI dd da k, 1, if a.slt k then a else k),
    (.max dd da db, 1, if a.slt b then b else a), (.maxI dd da k, 1, if a.slt k then k else a),
    (.and dd da db, 1, a &&& b), (.andI dd da k, 1, a &&& k), (.or dd da db, 1, a ||| b),
    (.orI dd da k, 1, a ||| k), (.xor dd da db, 1, a ^^^ b), (.xorI dd da k, 1, a ^^^ k),
    (.andn dd da db, 1, a &&& ~~~b), (.andnI dd da k, 1, a &&& ~~~k), (.shl dd da db, 1, a <<< (b &&& 31)),
    (.shlI dd da k, 1, a <<< (k &&& 31)), (.shr dd da db, 1, a >>> (b &&& 31)),
    (.shrI dd da k, 1, a >>> (k &&& 31)), (.sra dd da db, 1, a.sshiftRight' (b &&& 31)),
    (.sraI dd da k, 1, a.sshiftRight' (k &&& 31)), (.eq dd da db, 1, if a = b then 1 else 0),
    (.eqI dd da k, 1, if a = k then 1 else 0), (.ne dd da db, 1, if a = b then 0 else 1),
    (.neI dd da k, 1, if a = k then 0 else 1), (.lt dd da db, 1, if a.slt b then 1 else 0),
    (.ltI dd da k, 1, if a.slt k then 1 else 0), (.le dd da db, 1, if a.sle b then 1 else 0),
    (.leI dd da k, 1, if a.sle k then 1 else 0), (.abs dd da, 1, if a.slt 0 then -a else a), (.neg dd da, 1, -a),
    (.mov dd da, 1, a), (.movi dd k, 1, k), (.clz dd da, 1, a.clz), (.popc dd da, 1, a.cpop), (.dlo dd da, 1, a),
    (.dhi dd da, 1, a), (.dsize dd da, 1, 1)]

/-- The same forms on any domains, with the domain that R275 and R281 give; the constant is `k`. -/
def domainForms (dd da db : DReg) (k : Word) (a b : Dom) : List (Instr × Nat × Dom) :=
  let c := Dom.single k
  [(.add dd da db, 1, Fn.add a b), (.addI dd da k, 1, Fn.add a c), (.sub dd da db, 1, Fn.sub a b),
    (.subI dd da k, 1, Fn.sub a c), (.mul dd da db, 3, Fn.mul a b), (.mulI dd da k, 3, Fn.mul a c),
    (.mulh dd da db, 3, Fn.mulh a b), (.mulhI dd da k, 3, Fn.mulh a c), (.div dd da db, 12, Fn.div a b),
    (.divI dd da k, 12, Fn.div a c), (.rem dd da db, 12, Fn.rem a b), (.remI dd da k, 12, Fn.rem a c),
    (.min dd da db, 1, Fn.min a b), (.minI dd da k, 1, Fn.min a c), (.max dd da db, 1, Fn.max a b),
    (.maxI dd da k, 1, Fn.max a c), (.and dd da db, 1, Fn.and a b), (.andI dd da k, 1, Fn.and a c),
    (.or dd da db, 1, Fn.or a b), (.orI dd da k, 1, Fn.or a c), (.xor dd da db, 1, Fn.xor a b),
    (.xorI dd da k, 1, Fn.xor a c), (.andn dd da db, 1, Fn.andn a b), (.andnI dd da k, 1, Fn.andn a c),
    (.shl dd da db, 1, Fn.shl a b), (.shlI dd da k, 1, Fn.shl a c), (.shr dd da db, 1, Fn.shr a b),
    (.shrI dd da k, 1, Fn.shr a c), (.sra dd da db, 1, Fn.sra a b), (.sraI dd da k, 1, Fn.sra a c),
    (.eq dd da db, 1, Fn.compare .eq a b), (.eqI dd da k, 1, Fn.compare .eq a c), (.ne dd da db, 1, Fn.compare .ne a b),
    (.neI dd da k, 1, Fn.compare .ne a c), (.lt dd da db, 1, Fn.compare .lt a b), (.ltI dd da k, 1, Fn.compare .lt a c),
    (.le dd da db, 1, Fn.compare .le a b), (.leI dd da k, 1, Fn.compare .le a c), (.abs dd da, 1, Fn.abs a),
    (.neg dd da, 1, Fn.neg a), (.mov dd da, 1, a), (.movi dd k, 1, c), (.clz dd da, 1, Fn.clz a),
    (.popc dd da, 1, Fn.popc a), (.sext dd da k, 1, Fn.sext k.toNat a), (.zext dd da k, 1, Fn.zext k.toNat a),
    (.dfull dd, 1, Dom.full), (.dlo dd da, 1, Dom.single a.lo), (.dhi dd da, 1, Dom.single a.hi),
    (.dsize dd da, 1, Dom.single (sizeWord a))]

/-- The value of the two-source operations on singletons, with the operation on domains that the wider sources use. -/
def pairOps : List ((Dom → Dom → Dom) × (Word → Word → Word)) :=
  [(Fn.add, (· + ·)), (Fn.sub, (· - ·)), (Fn.mul, (· * ·)),
    (Fn.div, fun a b => if b = 0 then -1 else a.sdiv b), (Fn.rem, fun a b => if b = 0 then a else a.srem b),
    (Fn.min, fun a b => if a.slt b then a else b), (Fn.max, fun a b => if a.slt b then b else a),
    (Fn.and, (· &&& ·)), (Fn.or, (· ||| ·)), (Fn.xor, (· ^^^ ·)), (Fn.andn, fun a b => a &&& ~~~b),
    (Fn.compare .eq, fun a b => if a = b then 1 else 0), (Fn.compare .lt, fun a b => if a.slt b then 1 else 0)]

/-! ### Class 000: relations, the store, the trail and the marks -/

/-- The relational forms of R256 with their kept forms, and the entry of the constraint store that stands for both (R283). -/
def relationalForms (dd da db : DReg) (k : Word) : List (Instr × Instr × StoreEntry) :=
  [(.addR dd da db, .addRk dd da db, ⟨0x00, dd, da, db, 0⟩),
    (.addIR dd da k, .addIRk dd da k, ⟨0x80, dd, da, 0, k⟩),
    (.subR dd da db, .subRk dd da db, ⟨0x01, dd, da, db, 0⟩),
    (.subIR dd da k, .subIRk dd da k, ⟨0x81, dd, da, 0, k⟩),
    (.mulR dd da db, .mulRk dd da db, ⟨0x02, dd, da, db, 0⟩),
    (.mulIR dd da k, .mulIRk dd da k, ⟨0x82, dd, da, 0, k⟩),
    (.minR dd da db, .minRk dd da db, ⟨0x03, dd, da, db, 0⟩),
    (.minIR dd da k, .minIRk dd da k, ⟨0x83, dd, da, 0, k⟩),
    (.maxR dd da db, .maxRk dd da db, ⟨0x04, dd, da, db, 0⟩),
    (.maxIR dd da k, .maxIRk dd da k, ⟨0x84, dd, da, 0, k⟩), (.eqR dd da db, .eqRk dd da db, ⟨0x20, dd, da, db, 0⟩),
    (.eqIR dd da k, .eqIRk dd da k, ⟨0xA0, dd, da, 0, k⟩), (.neR dd da db, .neRk dd da db, ⟨0x21, dd, da, db, 0⟩),
    (.neIR dd da k, .neIRk dd da k, ⟨0xA1, dd, da, 0, k⟩), (.ltR dd da db, .ltRk dd da db, ⟨0x22, dd, da, db, 0⟩),
    (.ltIR dd da k, .ltIRk dd da k, ⟨0xA2, dd, da, 0, k⟩), (.leR dd da db, .leRk dd da db, ⟨0x23, dd, da, db, 0⟩),
    (.leIR dd da k, .leIRk dd da k, ⟨0xA3, dd, da, 0, k⟩), (.absR dd da, .absRk dd da, ⟨0x05, dd, da, 0, 0⟩),
    (.negR dd da, .negRk dd da, ⟨0x06, dd, da, 0, 0⟩), (.movR dd da, .movRk dd da, ⟨0x07, dd, da, 0, 0⟩),
    (.inR dd da, .inRk dd da, ⟨0x24, dd, da, 0, 0⟩), (.alldiffR dd k, .alldiffRk dd k, ⟨0x25, dd, 0, 0, k⟩)]

/-- The relation of a store entry, on integers: `v` gives each register's value (R278 to R280). With dd field 0 a comparison
is asserted; else dd is 1 where it holds and 0 where it does not. -/
def Holds (e : StoreEntry) (v : DReg → Int) : Prop :=
  let d := v e.dd
  let a := v e.da
  let b := if e.opc.getLsbD 7 then e.imm.toInt else v e.db
  let tied (p : Prop) : Prop := if e.dd = 0 then p else (d = 1 ∧ p) ∨ (d = 0 ∧ ¬ p)
  match (e.opc &&& 0x7F).toNat with
  | 0x00 => d = a + b
  | 0x01 => d = a - b
  | 0x02 => d = a * b
  | 0x03 => d = min a b
  | 0x04 => d = max a b
  | 0x05 => d = |a|
  | 0x06 => d = -a
  | 0x07 => d = a
  | 0x20 => tied (a = b)
  | 0x21 => tied (a ≠ b)
  | 0x22 => tied (a < b)
  | 0x23 => tied (a ≤ b)
  | 0x24 => d = a
  | 0x25 => ∀ i j : Nat, i < e.imm.toNat → j < e.imm.toNat → i ≠ j →
      v (e.dd + BitVec.ofNat 6 i) ≠ v (e.dd + BitVec.ofNat 6 j)
  | _ => True

/-- No result of an earlier bundle is in flight on these registers, and no `LDR` on its way to them (R277). -/
def Landed (c : Ctx) (rs : List DReg) : Prop :=
  ∀ r ∈ rs, c.ldrTo r = false ∧ (r ≠ 0 → c.inFlight r.toNat = false)

/-- A propagation point has begun: PROPCOUNT is 0 and PROPSTAT.STATE is RUNNING (R285); PCONT was clear. -/
def pointStart (s : State) : State := s.modCtx (fun c => { c with cons := { c.cons with runs := 0, pcont := false, pstate := 4 } })

/-- One run of a propagation point (R285): the head of the queue runs, is removed, and its narrowings land. -/
def RunOnce (s t : State) : Prop :=
  ∃ e rest entry env, s.ctx.cons.queue = e :: rest ∧ s.ctx.cons.runs.toNat ≠ s.ctx.cons.runLimit
    ∧ s.ctx.cons.store[e]? = some entry ∧ passOf entry s.ctx.regs.dom = .ok env
    ∧ s.ctx.cons.trailFull (changedRegs entry.names s.ctx.regs.dom env).length = false
    ∧ t = applyRun (s.modCtx (fun c => { c with cons := { c.cons with queue := rest, runs := c.cons.runs + 1 } }))
        (changedRegs entry.names s.ctx.regs.dom env)

/-- Any number of runs. -/
inductive RunsTo : State → State → Prop
  | zero (s : State) : RunsTo s s
  | more {s t u : State} : RunOnce s t → RunsTo t u → RunsTo s u

/-- A propagation point may run: outside the firmware context, not resumed, and with the registers that it and, where entries
are pending, its store name landed (R277, R289). -/
def PointReady (s : State) (rs : List DReg) : Prop :=
  Alone s ∧ s.issue.phase = 0 ∧ s.isFw = false ∧ s.ctx.cons.pcont = false
    ∧ Landed s.ctx (rs ++ if s.ctx.cons.queue = [] then [] else s.ctx.cons.store.flatMap StoreEntry.names)

/-! ### Transfers -/

/-- Instruction `i`, issued in `s`, completes with the bundle's state `b` and opens the delay window of a transfer to
`target`; the refinement controller holds `r` afterwards, and the rest of the context is as any bundle leaves it. -/
def Jumps (i : Instr) (s b : State) (r : Refine) (target : Addr) : Prop :=
  ∃ t, exec i s = .next t ∧ OnlyContext b t ∧ t.ctx.refine = r ∧ t.ctx.window = 2 ∧ t.ctx.taken = true
    ∧ t.ctx.status = { b.ctx.status with xdist := 2, xtgt := target.extractLsb' 3 45, xlv := false }
    ∧ t.ctx.pc = b.ctx.pc + BitVec.ofNat 48 (8 * b.issue.len) ∧ t.ctx.regs = regsNext b.ctx ∧ t.ctx.cons = b.ctx.cons

/-! ### Memory and the mesh -/

/-- No unit among `n` bytes from `a` is held under another key than `key` (R161). -/
def SameKey (s : State) (key : BitVec 8) (a n : Nat) : Prop :=
  ∀ k, k < n → keyed (a + k) = true → Assoc.get 0 s.unitKey ((a + k) / 64) = key

/-- `vs` stands at `a` in `t`, and every other byte reads as in `s`. -/
def Stored (s t : State) (a : Nat) (vs : List Byte) : Prop :=
  ∀ b, t.byte b = if a ≤ b ∧ b < a + vs.length then vs.getD (b - a) 0 else s.byte b

/-- An access that performs in its bundle may go ahead: it is on the package, no earlier access holds it up (R167), and its
home answers (R27, R64, R73, R161). -/
abbrev Goes (t : State) (cls : BitVec 4) (l : Loc) (n : Nat) (write : Bool) : Prop :=
  l.offPackage = false ∧ t.ctx.clearFor cls l n none false = true ∧ homeTrap t l n write = none

/-- The request of the agent in progress that `t` has sent more than `s`: its kind, operation, class, home and data, at the
end of what waits for the mesh; the context counts it as outstanding (R60, R62, R71). -/
def Sent (s t : State) (kind op cls : BitVec 4) (l : Loc) (n : Nat) (data : List Byte) : Prop :=
  ∃ p o, t.mesh.pending = s.mesh.pending ++ [p] ∧ t.ctx.out = s.ctx.out ++ [o] ∧ p.kind = kind ∧ p.op = op ∧ p.cls = cls
    ∧ p.dst = s.homeNode l.cell ∧ p.src = agentNode s.cur ∧ p.region = s.ctx.id.region ∧ p.fw = s.isFw
    ∧ p.addr = packetAddr l.key l.cell ∧ p.len = BitVec.ofNat 6 (n - 1) ∧ p.seq = o.seq
    ∧ p.seq = Assoc.get 0 s.mesh.next (streamKey p.src p.region cls p.dst)
    ∧ p.data = (if payloadAddressed l.cell then leBytes 8 (physAddr l.key l.cell).toNat ++ data else data)
    ∧ o.cls = cls ∧ o.addr = l.cell ∧ o.len = n ∧ o.dst = p.dst ∧ t.mem = s.mem ∧ t.ctx.regs = s.ctx.regs
    ∧ t.ctx.pend = s.ctx.pend ∧ t.ctx.pc = s.ctx.pc

/-- A request may be sent (R67, R167): its route admits it, no earlier access holds it up, and there is room in the mesh. -/
abbrev MaySend (t : State) (cls : BitVec 4) (l : Loc) (n : Nat) (write : Bool) : Prop :=
  l.near = false ∧ routeTrap t l write = none ∧ t.ctx.clearFor cls l n (some (t.homeNode l.cell)) l.offPackage = true
    ∧ t.injectHold t.cur t.ctx.id.region = 0

/-- The atomics but `CAS`, with the value each leaves from the old value and its operand, on numbers of any width (R39). -/
def atomicForms : List ((Bool → DReg → AtomOp → DReg → Instr) × ((w : Nat) → BitVec w → BitVec w → BitVec w)) :=
  [(.amoAdd, fun _ a x => a + x), (.amoMin, fun _ a x => if x.slt a then x else a), (.amoMax, fun _ a x => if a.slt x then x else a),
    (.amoAnd, fun _ a x => a &&& x), (.amoOr, fun _ a x => a ||| x), (.amoXor, fun _ a x => a ^^^ x), (.amoSwap, fun _ _ x => x)]

/-! ### Vector forms -/

/-- The forms of classes 100 and 101 that write a tile under a writing predicate (R360): the instruction, whether its sources
carry the tags it asks for, its latency (R361), and the tile of all elements (R362 to R376). -/
def tileForms (s : State) (f t : BitVec 4) (vd va vb vc : VReg) (p : PReg) (k : BitVec 6) (op m : BitVec 2)
    (n : BitVec 5) (ds : DReg) (lo hi : Word) : List (Instr × Bool × Nat × VTile) :=
  let a := s.ctx.regs.vec va
  let b := s.ctx.regs.vec vb
  let c := s.ctx.regs.vec vc
  let rm := s.ctx.status.rm
  let long (g : BitVec 4) (n : Nat) : Nat := if g = tagF64 then n + 16 else n
  let one := decide (a.tag = f)
  let two := one && decide (b.tag = f)
  let three := two && decide (c.tag = f)
  let ints := decide (a.tag = tagI32) && decide (b.tag = tagI32)
  let zip (o : VOp) : VTile := .ofValues f (List.zipWith (fun x y => valueOp f rm o x y 0) a.values b.values)
  let zip3 (o : VOp) : VTile :=
    .ofValues f (List.zipWith (fun x yz => valueOp f rm o x yz.1 yz.2) a.values (b.values.zip c.values))
  let each (o : VOp) : VTile := .ofValues f (a.values.map (fun x => valueOp f rm o x 0 0))
  let bits (g : Word → Word → Word) : VTile := ⟨tagI32, List.zipWith g a.elems b.elems⟩
  let shift (o : ShiftOp) : VTile :=
    .ofValues f (List.zipWith (fun x n => shiftValue (widthOf f) o x (n % widthOf f)) a.values b.values)
  let shiftBy (o : ShiftOp) : VTile := .ofValues f (a.values.map (fun x => shiftValue (widthOf f) o x n.toNat))
  let move (g : Nat → Nat → Nat × Nat) : VTile := .build a.tag (fun r c => let q := g r c; a.at q.1 q.2)
  let even := !(decide (a.tag = tagF64) && k.getLsbD 0)
  let sfu (n : Nat) : VTile := .ofValues tagF32 (a.values.map (sfuCode n))
  let f32 := decide (a.tag = tagF32)
  let rows := chunks (valuesOf f / 16) 16 a.values
  let cols := transposeLists (valuesOf f / 16) rows
  let along (g : BitVec 4 → BitVec 2 → BitVec 2 → List Nat → List Nat) : VTile := .ofValues f (rows.map (g f op rm)).flatten
  let down (g : BitVec 4 → BitVec 2 → BitVec 2 → List Nat → List Nat) : VTile :=
    .ofValues f (transposeLists 16 (cols.map (g f op rm))).flatten
  [(.vadd f vd va vb p, two, long f 20, zip .add), (.vsub f vd va vb p, two, long f 20, zip .sub),
    (.vmul f vd va vb p, two, long f 20, zip .mul), (.vmin f vd va vb p, two, long f 20, zip .min),
    (.vmax f vd va vb p, two, long f 20, zip .max), (.vfma f vd va vb vc p, three, long f 20, zip3 .fma),
    (.vfms f vd va vb vc p, three, long f 20, zip3 .fms), (.vabs f vd va p, one, long f 20, each .abs),
    (.vneg f vd va p, one, long f 20, each .neg), (.vand vd va vb p, ints, 20, bits (· &&& ·)),
    (.vor vd va vb p, ints, 20, bits (· ||| ·)), (.vxor vd va vb p, ints, 20, bits (· ^^^ ·)),
    (.vshl f vd va (.tile vb) p, two, 20, shift .left), (.vshr f vd va (.tile vb) p, two, 20, shift .logical),
    (.vsra f vd va (.tile vb) p, two, 20, shift .arithmetic), (.vmov vd va p, true, 20, a),
    (.vcvt t vd va p, decide (a.tag ≠ tagScale) && decide (a.tag ≠ tagIdx2),
      if t = tagF64 ∨ a.tag = tagF64 then 36 else 20,
      .ofValues t ((a.values.take (valuesOf t)).map (convert a.tag t rm s.ctx.status.satnan))),
    (.vdeq vd va vb p, (decide (a.tag = tagE4m3) || decide (a.tag = tagE5m2) || decide (a.tag = tagFp4)) && decide (b.tag = tagScale),
      20, .ofValues tagF32 (List.zipWith (dequantise a.tag rm) (a.values.take 1024) (b.values.flatMap (List.replicate 32)))),
    (.vrotr vd va k p, even, 24, move (fun r c => (r, (c + 64 - k.toNat) % 64))),
    (.vrotc vd va k p, true, 36, move (fun r c => ((r + 16 - k.toNat % 16) % 16, c))),
    (.vbcr vd va k p, even, 24, move (fun r c => (r, if a.tag = tagF64 then k.toNat + c % 2 else k.toNat))),
    (.vbcc vd va k p, true, 36, move (fun _ c => (k.toNat, c))),
    (.vredr op f vd va p, one, long f 28, along reduceLine), (.vredc op f vd va p, one, long f 40, down reduceLine),
    (.vscanr op f vd va p, one, long f 28, along scanLine), (.vscanc op f vd va p, one, long f 40, down scanLine),
    (.vexpand vd va vb p, (decide (a.tag ≠ tagF64) && decide (a.tag ≠ tagScale) && decide (a.tag ≠ tagIdx2)) && decide (b.tag = tagIdx2),
      24, .ofValues a.tag (List.zipWith (fun v q => expandGroup (v.getD 0 0) (v.getD 1 0) q) (chunks 2 (valuesOf a.tag / 4) a.values)
        ((b.elems.flatMap (fun e => splitWord 4 8 e.toNat)).take (valuesOf a.tag / 4))).flatten),
    (.vsfuExp2 vd va p, f32, 68, sfu 0), (.vsfuLog2 vd va p, f32, 68, sfu 1), (.vsfuRcp vd va p, f32, 68, sfu 2),
    (.vsfuRsqrt vd va p, f32, 68, sfu 3), (.vsfuSqrt vd va p, f32, 68, sfu 4), (.vsfuSinpi vd va p, f32, 68, sfu 5),
    (.vsfuCospi vd va p, f32, 68, sfu 6), (.vsfuTanh vd va p, f32, 68, sfu 7), (.vsfuSigm vd va p, f32, 68, sfu 8),
    (.vsfuErf vd va p, f32, 68, sfu 9), (.vsplat f vd ds p, true, long f 20, splatTile f lo hi)]
    ++ (if n.toNat < widthOf f then
      [(.vshl f vd va (.const n) p, one, 20, shiftBy .left), (.vshr f vd va (.const n) p, one, 20, shiftBy .logical),
        (.vsra f vd va (.const n) p, one, 20, shiftBy .arithmetic)] else [])
    ++ if m = 3 then [] else
      [(.viota m vd p, true, 20, .build tagI32 (fun r c => BitVec.ofNat 32 (if m = 0 then 64 * r + c else if m = 1 then r else c)))]

/-! ### Engines -/

/-- An engine that goes on with its stream: no word is in progress and it runs. -/
def Engine.next (e : Engine) (word : Addr) : Engine :=
  { e with word := word, step := 0, inWord := none, ops := [], state := .running, counted := 0, sub := 0, got := [], dead := false }

/-- Two states differ at most in the engine in progress. -/
def OnlyEngine (s t : State) : Prop :=
  let k := s.engAt.1
  let copy := s.engAt.2
  (∃ cs, t = { s with cores := cs }) ∧ (∀ j, j ≠ k → t.core j = s.core j) ∧ t.engine k (!copy) = s.engine k (!copy)
    ∧ (t.core k).user = (s.core k).user ∧ (t.core k).fw = (s.core k).fw ∧ (t.core k).acc0 = (s.core k).acc0
    ∧ (t.core k).acc1 = (s.core k).acc1 ∧ (t.core k).quill = (s.core k).quill

/-- The word `i` completes: the engine in progress is `e`, going on at `word`, and nothing else changes. -/
def GoesOn (i : Instr) (s : State) (e : Engine) (word : Addr) : Prop :=
  ∃ t, exec i s = .next t ∧ t.eng = Engine.next e word ∧ OnlyEngine s t

/-- The word `i` has none of its effect and its engine faults in state `u` (R316, R399, R417). -/
def EngineFaults (i : Instr) (s u : State) (code : Byte) : Prop :=
  exec i s = .next (u.engineFault u.engAt.1 u.engAt.2 code)

/-! ### Operands that can be reached -/

/-- Nothing of the context is on its way: the syllable stands alone, no result and no `LDR` is in flight, and nothing it has sent
is outstanding. -/
structure AtRest (s : State) : Prop where
  alone : Alone s
  pend : s.ctx.pend = []
  ldrs : s.ctx.ldrs = []
  out : s.ctx.out = []
  got : s.ctx.waits.got = []
  sent : s.ctx.waits.reply = none

/-- `n` bytes at virtual address `va` can be reached by the agent in progress: they are translated to the place `l` in the package,
whose home performs the access; `t` is the state once they are translated (R146, R149). -/
def PlaceAt (s : State) (va n : Nat) (acc : BitVec 4) (l : Loc) (t : State) : Prop :=
  (∃ pa, s.translate (agentPort s.cur) s.ctx.id.conf s.ctx.id.pasid (BitVec.ofNat 48 va) acc = .ok pa t
    ∧ l = ⟨physKey pa, physCell pa, false, some (BitVec.ofNat 48 va)⟩)
  ∧ l.offPackage = false ∧ homeTrap t l n false = none

/-- `n` bytes at offset `off` lie within a descriptor of a translated kind (R146). -/
def Within (d : Desc) (off n : Nat) : Prop := translated d.kind = true ∧ off + n ≤ d.len ∧ d.base + off + n ≤ 2 ^ 48

/-- `n` bytes at offset `off` of a descriptor of an SRAM kind lie together from cell `a` on (R147). -/
def InSram (s : State) (d : Desc) (off n a : Nat) : Prop :=
  translated d.kind = false ∧ off + n ≤ d.len ∧ (d.base + off) % 4096 + n ≤ 4096 ∧ s.sramCell false d.kind (d.base + off) = some a
    ∧ (s.sramCell false d.kind (d.base + off + n - 1)).isSome = true ∧ physRegion a = .sram

/-- The home of a cell of SRAM lets `n` bytes be read from it, or written. -/
def SramOpen (s : State) (a n : Nat) (write : Bool) : Prop := homeTrap s ⟨0, a, false, none⟩ n write = none

/-! ### Records of a launch queue -/

/-- The LFE can read the record at the head of queue `q`, which has the bytes `b` (R84). -/
def RecordReads (s : State) (q : Nat) (b : List Byte) : Prop :=
  ∃ u, lfeRead (s.queue q).pasid 2
      { s with lfe := { s.lfe with lastQueue := Assoc.set s.lfe.lastQueue (s.queue q).prio.toNat q } } (s.recordVa q) 128 = .ok (b, u)
    ∧ u.lfe.queues = s.lfe.queues

/-- The LFE finds the word of queue `q`'s WAIT record at its generation, and may write the record's STATUS (R86). -/
def WaitOver (s : State) (q : Nat) : Prop :=
  ∃ u v, lfeReached s (s.queue q).pasid (OpRec.waitbw (s.queue q).bytes) (OpRec.waitgen (s.queue q).bytes) = .ok (true, u)
    ∧ u.lfe.queues = s.lfe.queues ∧ lfeWrite u (s.queue q).pasid (u.recordVa q + 4) [2, 0, 0, 0] = .ok v ∧ v.lfe.queues = s.lfe.queues

/-- The LFE may make the addition of queue `q`'s SIGNAL record and write its STATUS (R86): `w` is memory's state afterwards. -/
def SignalMade (s : State) (q : Nat) (w : State) : Prop :=
  ∃ key cell u v, lfeCell s (s.queue q).pasid (s.recordVa q + 4) 4 accWrite = .ok (key, cell, u)
    ∧ lfeAdd u (s.queue q).pasid (OpRec.donebw (s.queue q).bytes) (OpRec.doneadd (s.queue q).bytes) = .ok v
    ∧ v.lfe.queues = s.lfe.queues ∧ lfeWrite v (s.queue q).pasid (v.recordVa q + 4) [2, 0, 0, 0] = .ok w
    ∧ w.lfe.queues = s.lfe.queues

/-! ### Homes -/

/-- `t` has one answer more than `s` on its way to the agent that sent `p`, in the request's class and with its number
(R62). -/
def Answers (s t : State) (p : Packet) (kind op : BitVec 4) (addr : Nat) (data : List Byte) : Prop :=
  ∃ r, t.mesh.pending = s.mesh.pending ++ [r] ∧ r.x = true ∧ r.kind = kind ∧ r.op = op ∧ r.dst = p.src ∧ r.src = p.dst
    ∧ r.cls = p.cls ∧ r.seq = p.seq ∧ r.region = p.region ∧ r.fw = p.fw ∧ r.addr = BitVec.ofNat 40 addr ∧ r.poison = false
    ∧ r.data = data

/-- The request `p`, whose home's structure stands at `cell` under `key`, is served in `s`, and its home answers:
`n` bytes are read, or written (R27, R64, R73). -/
def Served (s : State) (p : Packet) (key : BitVec 8) (cell n : Nat) (write : Bool) : Prop :=
  s.inp.pkt = some p ∧ pktHome p = (key, cell) ∧ offCell cell = false ∧ homeNack s p key cell n write = none

end Sys2Proof.Safety
end

