-- ==== Sys2Proof/Certificates/Slice0/Obligations.lean ====
section
/-!
DEFINITION. What is claimed of the model, for the provers: `Obligations.X` is a claim; a claim of several parts is the
conjunction of definitions `Claims.Y`.
-/

open Sys2Proof Sys2Proof.Machine Sys2Proof.Safety

/-! ## Encodings (R254 to R271) -/

/-- Syllables written out from the encodings of R255 to R265: words of every class decode to what they stand for. -/
def Sys2Proof.Claims.SampleSyllables : Prop :=
  decodeSyllable 0x800CA2CC00000000 = some (.addRk 10 11 12)
    ∧ decodeSyllable 0x8A2C0140000003E8 = some (.ltIRk 0 5 1000)
    ∧ decodeSyllable 0x9210000000000003 = some (.post 3)
    ∧ decodeSyllable 0x9058860000000001 = some (.cmpI 2 true 0 6 1)
    ∧ decodeSyllable 0xA930608324500003 = some (.ldr .d 8 ⟨true, 0, 3, .off, 3, 9, 3⟩ 5)
    ∧ decodeSyllable 0xB0036C4218700005 = some (.amoAdd false 4 ⟨false, 3, 3, false, 3, 2, 6, 5⟩ 7)
    ∧ decodeSyllable 0xC033124020000000 = some (.vfma 1 3 1 2 4 0)
    ∧ decodeSyllable 0xD042100020000000 = some (.vredr 0 1 2 1 0)
    ∧ decodeSyllable 0xE02031C000000000 = some (.estat 7 true 1)

/-- Engine words written out from the encodings of R268 and R269. -/
def Sys2Proof.Claims.SampleEngineWords : Prop :=
  decodeMatrix 0x0001 = some (.lit 1) ∧ decodeCopy 0x0001 = some (.lit 1) ∧ decodeMatrix 0x5800 = some (.engineAwait 0)
    ∧ decodeCopy 0x5001 = some (.enginePost 1) ∧ decodeMatrix 0x4C01 = some .halt ∧ decodeMatrix 0x6000 = some .lease
    ∧ decodeMatrix 0x6480 = some .mzero ∧ decodeMatrix 0x7360 = some .mma ∧ decodeMatrix 0xA000 = some .mstore
    ∧ decodeCopy 0x6000 = some .copy ∧ decodeCopy 0x7800 = some .copy2 ∧ decodeCopy 0xB100 = some .barann

/-- Words written out from the encodings of the specification decode to what they stand for (R255 to R265, R268, R269). -/
def Obligations.SampleWords : Prop :=
  Claims.SampleSyllables ∧ Claims.SampleEngineWords

/-- Every instruction of the bundle stream has a syllable, and the syllable of a well-formed one decodes to it, with
every operand, and carries E as asked (R254 to R267). The model's choices it rests on: log 93. -/
def Obligations.SyllableRoundTrip : Prop :=
  (∀ i e, isSyllable i = true → (encode e i).isSome = true)
    ∧ ∀ i e w, i.wf = true → encode e i = some w → decodeSyllable w = some i ∧ w.getLsbD 63 = e

/-- A syllable that decodes is the one the encoder gives: no bit of it is ignored, and what it decodes to is well formed
(R254: an unused field that is not zero, an unlisted code or opcode is no instruction). -/
def Sys2Proof.Claims.DecodingIsExact : Prop :=
  ∀ w i, decodeSyllable w = some i → i.wf = true ∧ encode (w.getLsbD 63) i = some w

/-- A syllable of class 111 is no instruction, and a bundle that holds one is none (R186, R254). -/
def Sys2Proof.Claims.ReservedClass : Prop :=
  ∀ w : BitVec 64, syllableClass w = 7 →
    decodeSyllable w = none ∧ ∀ before after : List (BitVec 64), before.length < 4 →
      (∀ v ∈ before, v.getLsbD 63 = false) → decodeBundle (before ++ w :: after) = none

/-- What decodes is well formed and encodes to the same word; the reserved class never decodes (R186, R254). The model's
choices it rests on: log 93. -/
def Obligations.DecodingRejects : Prop :=
  Claims.DecodingIsExact ∧ Claims.ReservedClass

/-- The word of every engine instruction with no modifier decodes to it in both streams, or in the one that has it; and
every launch word decodes with every modifier it admits (R268, R269). The model's choices it rests on: log 4. -/
def Obligations.EngineWordRoundTrip : Prop :=
  (∀ i w, encodeEngine i = some w → (decodeMatrix w = some i ∨ i = .fill ∨ i = .barann)
      ∧ (decodeCopy w = some i ∨ i = .lease ∨ i = .free ∨ i = .mwin))
    ∧ (∀ m : ArrayMods, (m.okMma = true → decodeMatrix (m.word 7) = some .mma)
      ∧ (m.okMmas = true → decodeMatrix (m.word 8) = some .mmas)
      ∧ (m.okMmasp = true → decodeMatrix (m.word 9) = some .mmasp) ∧ ∀ op, ArrayMods.ofWord (m.word op) = m)
    ∧ (∀ m : StoreMods, m.ok = true → decodeMatrix m.word = some .mstore ∧ StoreMods.ofWord m.word = m)
    ∧ (∀ m : GldMods, baseFmt m.t = true → decodeCopy m.word = some .gld ∧ GldMods.ofWord m.word = m)
    ∧ (∀ n : BitVec 2, n ≠ 0 → decodeMatrix (mzeroWord n) = some .mzero ∧ mzeroSet (mzeroWord n) = n)
    ∧ (∀ c : BitVec 4, decodeMatrix (classWord c) = some .classW ∧ decodeCopy (classWord c) = some .classW
      ∧ classField (classWord c) = c)
    ∧ ∀ b : Bool, decodeCopy (copyWord 6 b) = some .copy ∧ decodeCopy (copyWord 7 b) = some .copy2
      ∧ decodeCopy (copyWord 8 b) = some .mcast ∧ decodeCopy (copyWord 10 b) = some .decomp
      ∧ copyCounts (copyWord 6 b) = b

/-! ## Steps (R163, R164, R186) -/

/-- Where the bytes at the pc are one syllable with E set that decodes to `i`, a step runs exactly `i`, alone in its bundle,
and time passes. -/
def Sys2Proof.Claims.StepRunsSyllable : Prop :=
  ∀ (s t : State) (w : BitVec 64) (i : Instr) (x : Slot), Issuing s → SyllableAt { s with issue := {} } w t →
    NoBreak t s.ctx.pc → w.getLsbD 63 = true → decodeSyllable w = some i → slotOf (syllableClass w) none = some x →
    step s = timed (exec i { t with issue := { len := 1, slot := x.rank } })

/-- Where the syllables at the pc make a bundle of several, a step issues that bundle; where they make none, it runs
`ILLEGAL_BUNDLE` (R186, R254, R271). -/
def Sys2Proof.Claims.StepRunsBundle : Prop :=
  ∀ (s t : State) (ws : List (BitVec 64)), Issuing s → fetchSyllables 4 { s with issue := {} } s.ctx.pc = .got ws t →
    NoBreak t s.ctx.pc →
    (∀ x y rest, decodeBundle ws = some (x :: y :: rest) →
      step s = timed (runBundle exec (x :: y :: rest) { t with issue := {} }))
    ∧ (decodeBundle ws = none → step s = timed (exec .illegalBundle t))

/-- A step of an engine that is between words runs the word it fetches, as its stream decodes it; a pattern that is none
runs `ILLEGAL_ENGINE_WORD` (R268 to R270). -/
def Sys2Proof.Claims.StepRunsEngineWord : Prop :=
  ∀ (s t : State) (w : BitVec 16), Streaming s → WordAt { s with issue := {} } w t →
    step s = timed (exec (((if s.engAt.2 then decodeCopy w else decodeMatrix w)).getD .illegalEngineWord)
      { t with word := w })

/-- A turn of the order of happenings is taken before the agent in progress moves: a happening runs the row it names on its
operands, and the agent in progress stays; a package that is off stops, but for what reaches it from outside (R15, R55). -/
def Sys2Proof.Claims.StepTakesTurns : Prop :=
  ∀ (s : State) (i : Instr) (inp : Input) (a : Agent) (rest : List Turn),
    (s.sched = .happen i inp :: rest → isHappening i = true → (s.boot.off = false ∨ offHappening i = true) →
      ∀ t, exec i { s with sched := rest, inp := inp, issue := {} } = .next t →
        step s = .next ({ t with cur := s.cur, issue := {} } : State).tick)
    ∧ (s.sched = .agent a :: rest → s.boot.off = false →
      step s = timed (agentMove exec { s with sched := rest, cur := a, issue := {} }))
    ∧ (s.boot.off = true → s.sched = [] → step s = .fault .packageOff)

/-- A step runs the instruction that stands where it fetches, or the turn that is due (R15, R55, R163, R186, R254, R268 to
R271). The model's choices it rests on: log 1, 4, 6, 18. -/
def Obligations.StepsRunWhatIsDecoded : Prop :=
  Claims.StepRunsSyllable ∧ Claims.StepRunsBundle ∧ Claims.StepRunsEngineWord ∧ Claims.StepTakesTurns

/-! ## Reset and memory -/

/-- What package reset leaves, where the specification gives the value: the cycle and time counters 0, no package-wide
fence, no region, no process context active, every register of R298, R313, R314 and R131 to R138 zero but PROPBUDGET.LIMIT,
which is 256, both engines idle with class 15, the lease free, and every port untrained. -/
def Obligations.ResetState : Prop :=
  let s := State.reset
  s.cycle = 0 ∧ s.regions = [] ∧ s.fences = {} ∧ s.mmu.pasids = [] ∧ s.mmu.fben = false ∧ s.lfe.queues = []
    ∧ (∀ k, let c := (s.core k).user
        c.status.word false = 0 ∧ c.trapcode = 0 ∧ c.trappc = 0 ∧ c.trapvec = 0 ∧ c.failvec = 0 ∧ c.failinfo = 0
        ∧ c.cons.budgetWord = 256 ∧ c.cons.statWord = 0 ∧ c.cons.store = [] ∧ c.cons.trail = [] ∧ c.cons.marks = []
        ∧ c.refine.word = 0 ∧ c.dbg.ctlWord false = 0 ∧ c.dbg.tracectl = 0 ∧ c.dbg.replayctl = 0 ∧ c.pend = []
        ∧ c.regs.dom 0 = Dom.single 0 ∧ c.regs.pred 0 = BitVec.allOnes 1024)
    ∧ (∀ k copy, (s.engine k copy).state = .idle ∧ (s.engine k copy).cls = 15)
    ∧ (∀ t, (s.tile t).lease.held = false) ∧ s.mgmt.idle = .running ∧ s.boot.next = 0

/-- Memory keeps its canonical form whatever a step does, from any state (R143). The model's choices it rests on: log 2. -/
def Obligations.MemoryStaysCanonical : Prop := ∀ (s t : State), MemInv s → step s = .next t → MemInv t

/-- The memory of the package after reset has the canonical form. The model's choices it rests on: log 2. -/
def Obligations.ResetMemory : Prop := MemInv State.reset

/-! ## Bundles (R187 to R191, R428) -/

/-- The end of a bundle that has committed and asks nothing more: the pc stands behind it, the results due land in order of
issue, every other result that is not frozen comes a bundle nearer or is discarded by a later one of the same register,
DEBUG is pending where the bundle was stepped (R133), and nothing outside the context changes. -/
def Sys2Proof.Claims.BundleEnd : Prop :=
  ∀ (u : State) (step : Bool), Plain u →
    let t := u.boundary step
    OnlyContext u t ∧ SpecialKept u.ctx t.ctx ∧ t.ctx.pc = u.ctx.pc + BitVec.ofNat 48 (8 * u.issue.len)
    ∧ t.ctx.count = u.ctx.count + 1 ∧ t.ctx.regs = regsNext u.ctx
    ∧ t.ctx.deferred = (if step then insertDeferred ⟨2, { code := tDebug, dbg := 1 }, []⟩ u.ctx.deferred else u.ctx.deferred)
    ∧ (∀ q ∈ t.ctx.pend, ∃ p ∈ u.ctx.pend, (p.frozen = true ∧ q = p) ∨
        (p.frozen = false ∧ 2 ≤ p.dist ∧ q = { p with dist := p.dist - 1 }))
    ∧ ((∀ p ∈ u.ctx.pend, p.frozen = true ∨ 2 ≤ p.dist) → t.ctx.pend =
        u.ctx.pend.map (fun p => if p.frozen then p else { p with dist := p.dist - 1 }))

/-- A result of latency 1 is seen by the next bundle: its register then holds it, over what earlier bundles sent to the same
register, except that a write of D0 or P0 is discarded (R187, R189, R194, R272). -/
def Sys2Proof.Claims.ResultLands : Prop :=
  ∀ (s : State) (w : Write), Plain s → Older s.ctx →
    ((s.write 1 w).boundary (stepping s)).ctx.regs = ((regsNext s.ctx).write w)
    ∧ (∀ r x, w = .d r x → ((s.write 1 w).boundary (stepping s)).ctx.regs.dom r = if r = 0 then Dom.single 0 else x)
    ∧ (∀ r x, w = .v r x → ((s.write 1 w).boundary (stepping s)).ctx.regs.vec r = x)
    ∧ (∀ r x, w = .p r x → ((s.write 1 w).boundary (stepping s)).ctx.regs.pred r = if r = 0 then BitVec.allOnes 1024 else x)
    ∧ (∀ r x, w = .c r x → ((s.write 1 w).boundary (stepping s)).ctx.regs.cond r = x)
    ∧ (∀ r x, w = .b r x → ((s.write 1 w).boundary (stepping s)).ctx.regs.target r = x)
    ∧ (∀ r x, w = .bd r x → ((s.write 1 w).boundary (stepping s)).ctx.regs.desc r = x)

/-- A write of one register leaves every other register of the same file as it was (R194). -/
def Sys2Proof.Claims.WriteFrame : Prop :=
  ∀ (r : Regs) (w : Write),
    (∀ k, w.dest ≠ k.toNat → (r.write w).dom k = r.dom k)
    ∧ (∀ k : VReg, w.dest ≠ 0x40 + k.toNat → (r.write w).vec k = r.vec k)
    ∧ (∀ k : PReg, w.dest ≠ 0x50 + k.toNat → (r.write w).pred k = r.pred k)
    ∧ (∀ k : CReg, w.dest ≠ 0x58 + k.toNat → (r.write w).cond k = r.cond k)
    ∧ (∀ k : BReg, w.dest ≠ 0x60 + k.toNat → (r.write w).target k = r.target k)
    ∧ (∀ k : WReg, w.dest ≠ 0x64 + k.toNat → (r.write w).wrap k = r.wrap k)
    ∧ (∀ k : FReg, w.dest ≠ 0x70 + k.toNat → (r.write w).stream k = r.stream k)
    ∧ (∀ k : GReg, w.dest ≠ 0x78 + k.toNat → (r.write w).gloss k = r.gloss k)
    ∧ (∀ k : BdReg, w.dest ≠ 0x80 + k.toNat → (r.write w).desc k = r.desc k) ∧ (r.write w).ev = r.ev

/-- A result of latency L is not seen before bundle b + L: as long as fewer than L bundles have issued after it was sent, and
no later result of its register lands, its register reads as the landings of others leave it; the L-th bundle sees it (R189,
R191). Here nothing else is in flight and the bundles between send nothing. -/
def Sys2Proof.Claims.ResultWaits : Prop :=
  ∀ (c : Ctx) (lat : Nat) (slot : Nat) (w : Write) (k : Nat), 1 ≤ lat → c.pend = [] →
    let c0 := { c with pend := [⟨lat, false, slot, c.count, w⟩] }
    (k < lat → (Ctx.age^[k] c0).regs = c.regs) ∧ (Ctx.age^[lat + k] c0).regs = c.regs.write w
      ∧ (Ctx.age^[lat] c0).pend = []

/-- Results land in the bundle that is due, in their own register alone (R187, R189, R191, R194, R272). The model's
choices it rests on: log 13. -/
def Obligations.ResultsLandWhenDue : Prop :=
  Claims.ResultLands ∧ Claims.ResultWaits ∧ Claims.WriteFrame

/-- A bundle that would bring the results in flight above their limits does not commit: an empty bundle goes first, whose
only effect is that every result comes one bundle nearer (R188, R428). -/
def Sys2Proof.Claims.InFlightLimit : Prop :=
  ∀ (s : State) (dd da db : DReg) (p : Pend), Alone s → p ∈ s.ctx.pend → p.frozen = false →
    (s.write 3 (.d dd (Fn.mul (s.ctx.regs.dom da) (s.ctx.regs.dom db)))).ctx.overLimit = true →
    exec (.mul dd da db) s = .next { s.emptyBundle with issue := {} }
      ∧ OnlyContext s { s.emptyBundle with issue := {} } ∧ s.emptyBundle.ctx.pc = s.ctx.pc ∧ s.emptyBundle.ctx.status = s.ctx.status
      ∧ s.emptyBundle.ctx.count = s.ctx.count + 1 ∧ s.emptyBundle.ctx.regs = regsNext s.ctx

/-- Two functional syllables of one bundle both read the registers as the bundle found them, and both results are sent on
their way from that bundle, the second one behind the first (R187). -/
def Sys2Proof.Claims.BundleReadsBefore : Prop :=
  ∀ (s : State) (k : Word) (dd da db ee ea eb : DReg) (f g : Instr × Nat × Dom),
    f ∈ domainForms dd da db k (s.ctx.regs.dom da) (s.ctx.regs.dom db) →
    g ∈ domainForms ee ea eb k (s.ctx.regs.dom ea) (s.ctx.regs.dom eb) →
    let one : State := { s with issue := { len := 2, slot := 0 } }
    let two : State := { one.write f.2.1 (.d dd f.2.2) with issue := { len := 2, slot := 1 } }
    let u := two.write g.2.1 (.d ee g.2.2)
    s.issue = {} → Room u →
    runBundle exec [(.da, f.1), (.db, g.1)] s = .next (u.boundary (stepping s))

/-- The end of a bundle, its limit of results in flight, and bundles of several syllables (R133, R187 to R189, R300, R302,
R428). The model's choices it rests on: log 12, 13, 18. -/
def Obligations.BundlesReadBeforeTheyWrite : Prop :=
  Claims.BundleEnd ∧ Claims.InFlightLimit ∧ Claims.BundleReadsBefore

/-! ## Class 000, functional (R272 to R275, R281, R297) -/

/-- The functional forms on singletons give the singleton that R275's Singletons column gives, with the latency of R297. -/
def Sys2Proof.Claims.SingletonResults : Prop :=
  ∀ (s : State) (dd da db : DReg) (k a b : Word), Alone s → s.ctx.regs.dom da = Dom.single a →
    s.ctx.regs.dom db = Dom.single b →
    AllComplete s ((singleForms dd da db k a b).map (fun f => (f.1, s.write f.2.1 (.d dd (Dom.single f.2.2)))))

/-- `SEXT` and `ZEXT` extend the low w bits of a singleton, for every width w from 1 to 32. -/
def Sys2Proof.Claims.ExtensionResults : Prop :=
  ∀ (s : State) (dd da : DReg) (w a : Word), Alone s → 1 ≤ w.toNat → w.toNat ≤ 32 → s.ctx.regs.dom da = Dom.single a →
    AllComplete s [(.sext dd da w, s.write 1 (.d dd (Dom.single ((a.setWidth w.toNat).signExtend 32)))),
      (.zext dd da w, s.write 1 (.d dd (Dom.single ((a.setWidth w.toNat).setWidth 32))))]

/-- On any domains the functional forms complete: they write their destination once, with a domain that depends on their
sources alone, and change nothing else: no other register, no special register, no byte of memory, nothing outside the
context. -/
def Sys2Proof.Claims.FunctionalForms : Prop :=
  ∀ (s : State) (dd da db : DReg) (k : Word), Alone s → Plain s → Older s.ctx →
    ∀ f ∈ domainForms dd da db k (s.ctx.regs.dom da) (s.ctx.regs.dom db), Room (s.write f.2.1 (.d dd f.2.2)) →
      Completes f.1 s (s.write f.2.1 (.d dd f.2.2)) ∧ ∀ t, exec f.1 s = .next t → OnlyContext s t ∧ SpecialKept s.ctx t.ctx
        ∧ t.ctx.pc = s.ctx.pc + BitVec.ofNat 48 (8 * s.issue.len)
        ∧ t.ctx.regs = (if f.2.1 = 1 then (regsNext s.ctx).write (.d dd f.2.2) else regsNext s.ctx)
        ∧ ∀ a, t.byte a = s.byte a

/-- The functional forms of class 000: results, latencies and frame (R275, R297). -/
def Obligations.FunctionalResults : Prop :=
  Claims.FunctionalForms ∧ Claims.SingletonResults ∧ Claims.ExtensionResults

/-- The functional operations of two sources are sound: on canonical domains, the value of the operation on any members is a
member of the result (R275). -/
def Obligations.FunctionalSound : Prop :=
  ∀ op ∈ pairOps, ∀ a b : Dom, a.canonical = true → b.canonical = true → ∀ x y : Word, a.mem x.toInt = true →
    b.mem y.toInt = true → (op.1 a b).mem (op.2 x y).toInt = true

/-! ## Traps (R192, R293, R315 to R320) -/

/-- A trap that is not fatal is taken in the same context, outside record and replay, in this way: `TRAPPC` names the bundle
at the pc, `TRAPCODE` holds ARG, SOURCE and CODE, INTRAP is set, every result in flight is frozen, and issue continues at
`FAILVEC` for FAIL and at `TRAPVEC` for every other trap. Nothing else of the context that a program reads changes, and no
byte of memory. -/
def Sys2Proof.Claims.TrapEntry : Prop :=
  ∀ (s : State) (q : TrapReq), s.trapFatal q = false → s.ctx.dbg.replayctl.extractLsb' 62 2 = 0 → q.code ≠ tDebug →
    let u := s.takeTrap q
    OnlyContext s u ∧ u.ctx.trappc = s.ctx.pc ∧ u.ctx.trapcode = 0#32 ++ (q.arg ++ (0#6 ++ (q.source ++ q.code)))
    ∧ u.ctx.status = { s.ctx.status with intrap := true }
    ∧ u.ctx.pend = s.ctx.pend.map (fun p => { p with frozen := true })
    ∧ u.ctx.pc = (if q.code = tFail then s.ctx.failvec else s.ctx.trapvec)
    ∧ u.ctx.regs = s.ctx.regs ∧ u.ctx.cons = s.ctx.cons ∧ u.ctx.refine = s.ctx.refine ∧ u.ctx.id = s.ctx.id
    ∧ u.ctx.trapvec = s.ctx.trapvec ∧ u.ctx.failvec = s.ctx.failvec ∧ u.ctx.failinfo = s.ctx.failinfo
    ∧ u.ctx.deferred = s.ctx.deferred ∧ ∀ a, u.byte a = s.byte a

/-- A trap is fatal to the region in the firmware context, in a handler, and where its vector's ADDR is 0, and in no other
case (R315). Then the region's fault follows at once with the trap's code as CAUSE, the bundle's address and the core; in
the firmware context it is a machine check and the context stops. -/
def Sys2Proof.Claims.FatalTrap : Prop :=
  ∀ (s : State) (q : TrapReq), s.ctx.dbg.replayctl.extractLsb' 62 2 = 0 → q.code ≠ tDebug →
    (s.trapFatal q = true ↔ s.isFw = true ∨ s.ctx.status.intrap = true
      ∨ (if q.code = tFail then s.ctx.failvec else s.ctx.trapvec) = 0)
    ∧ (s.trapFatal q = true → s.isFw = false → s.takeTrap q = State.push { s with issue := {} } .regionFault
        { n := s.ctx.id.region.toNat, m := s.coreNumber.toNat, value := BitVec.zeroExtend 64 q.code
          addr := some s.ctx.pc, who := s.cur })
    ∧ (s.isFw = true → (s.takeTrap q).ctx.running = false
        ∧ (s.takeTrap q).mgmt.checks = agentNode s.cur :: s.mgmt.checks ∧ ∀ a, (s.takeTrap q).byte a = s.byte a)

/-- Taking a trap, and a trap in a handler (R192, R315, R316). The model's choices it rests on: log 11, 91, 104. -/
def Obligations.TrapsAreTaken : Prop :=
  Claims.TrapEntry ∧ Claims.FatalTrap

/-- `ERET` in a handler whose own results have all landed clears INTRAP, lets the frozen results count again and
continues at `TRAPPC`; before that it lets empty bundles pass; outside a handler and in a delay window it is ILLEGAL
(R300, R318). The model's choices it rests on: log 13, 102. -/
def Obligations.ReturnFromTrap : Prop :=
  ∀ (s : State), Alone s → Plain s →
    (s.ctx.status.intrap = false → Traps .eret s s tIllegal)
    ∧ (s.ctx.status.intrap = true → s.ctx.window ≠ 0 → Traps .eret s s tIllegal)
    ∧ (s.ctx.status.intrap = true → s.ctx.window = 0 →
        (∀ l ∈ s.ctx.ldrs, l.alive = true → l.slotOf = none → l.count < s.ctx.trapAt) →
      ((∃ p ∈ s.ctx.pend, p.frozen = false) → Stalls .eret s s.emptyBundle)
      ∧ ((∀ p ∈ s.ctx.pend, p.frozen = true) → Room s → Completes .eret s (s.request .eret) ∧
          ∀ t, exec .eret s = .next t → t.ctx.pc = s.ctx.trappc ∧ t.ctx.status.intrap = false
            ∧ t.ctx.pend = s.ctx.pend.map (fun p => { p with frozen := false }) ∧ t.ctx.regs = s.ctx.regs
            ∧ t.ctx.window = s.ctx.winHeld ∧ t.ctx.deferred = s.ctx.deferred ∧ ∀ a, t.byte a = s.byte a))

/-- `TRAP k`, `BRK k` and `SYSCALL k` complete: the pc moves past the bundle, and the trap with ARG = k is pending, to be
taken at this boundary; `BRK` without the debug capability is a `NOP`, a `SYSCALL` argument that is no singleton raises
UNRESOLVED, and `SYSCALL` outside a user context ILLEGAL; a bundle that is none is
ILLEGAL (R271, R317, R319, R320). -/
def Sys2Proof.Claims.SoftwareTraps : Prop :=
  ∀ (s : State) (k : BitVec 16), Alone s → Plain s → Room s →
    let next (d : Deferred) (t : State) : Prop := OnlyContext s t ∧ t.ctx.pc = s.ctx.pc + BitVec.ofNat 48 (8 * s.issue.len)
      ∧ t.ctx.regs = regsNext s.ctx ∧ d ∈ t.ctx.deferred ∧ SpecialKept s.ctx t.ctx
    (s.ctx.status.intrap = false → ∃ t, exec (.trap k) s = .next t ∧ next ⟨4, { code := tTrap, arg := k }, []⟩ t)
    ∧ (s.ctx.status.intrap = false → s.debugCap = true →
        ∃ t, exec (.brk k) s = .next t ∧ next ⟨5, { code := tDebug, arg := k, dbg := 2 }, []⟩ t)
    ∧ (s.debugCap = false → Completes (.brk k) s s)
    ∧ (s.isUser = true → s.ctx.status.intrap = false → (∀ r : DReg, 8 ≤ r.toNat → r.toNat ≤ 15 →
        (s.ctx.regs.dom r).isSingle = true) → ∃ t, exec (.syscall k) s = .next t ∧ next ⟨3, { code := tSyscall, arg := k },
          [8, 9, 10, 11, 12, 13, 14, 15].map (fun r => (s.ctx.regs.dom r).lo)⟩ t)
    ∧ (s.isUser = true → ∀ r : DReg, 8 ≤ r.toNat → r.toNat ≤ 15 → (s.ctx.regs.dom r).isSingle = false →
        Traps (.syscall k) s s tUnresolved)
    ∧ (s.isUser = false → Traps (.syscall k) s s tIllegal) ∧ Traps .illegalBundle s s tIllegal

/-- `DEFERRED_TRAP` takes the first pending trap of group 1 of a context that is not in a handler: TRAP, BUDGET and engine
faults through `TRAPVEC`, with `TRAPPC` the next bundle to issue; a `SYSCALL` puts PENDING, CODE, the arguments and TPC into
the core's control window and the user context waits; `SYSCALL_RELEASE` gives D8 to D11 what the firmware left in RET. -/
def Sys2Proof.Claims.DeferredTraps : Prop :=
  (∀ (s : State) (d : Deferred) (rest : List Deferred), (s.ctxOf s.inp.who).nextDeferred = some d →
      (s.ctxOf s.inp.who).deferred = d :: rest → (s.ctxOf s.inp.who).dbg.replayctl.extractLsb' 62 2 = 0 → d.rank ≠ 3 →
      ∃ c, exec .deferredTrap s = .next (({ s with cur := s.inp.who, issue := {} }.setCtx c).takeTrap d.req)
        ∧ c = { s.ctxOf s.inp.who with deferred := rest })
  ∧ (∀ (s : State) (k : Nat) (q : TrapReq) (args : List Word) (rest : List Deferred), MemInv s → s.inp.who = .user k →
      (s.core k).user.nextDeferred = some ⟨3, q, args⟩ → (s.core k).user.deferred = ⟨3, q, args⟩ :: rest →
      (s.core k).user.dbg.replayctl.extractLsb' 62 2 = 0 → q.code = tSyscall → args.length = 8 →
      ∃ t, exec .deferredTrap s = .next t ∧ (t.core k).user.waits.syscall = true ∧ (t.core k).user.deferred = rest
        ∧ (t.core k).user.pc = (s.core k).user.pc ∧ (t.core k).user.regs = (s.core k).user.regs
        ∧ t.bytes (storeCell (k / 4) (4096 * (k % 4) + 0x100)) 8 = leBytes 4 1 ++ leBytes 4 q.arg.toNat
        ∧ t.bytes (storeCell (k / 4) (4096 * (k % 4) + 0x108)) 32 = args.flatMap (fun w => leBytes 4 w.toNat)
        ∧ t.bytes (storeCell (k / 4) (4096 * (k % 4) + 0x138)) 8 = leBytes 8 (s.core k).user.pc.toNat)
  ∧ ∀ (s : State) (k : Nat), s.inp.n = k → (s.core k).user.waits.syscall = true →
      let at_ := storeCell (k / 4) (4096 * (k % 4) + 0x100)
      s.bytes at_ 4 = [0, 0, 0, 0] → ∃ t, exec .syscallRelease s = .next t ∧ (t.core k).user.waits.syscall = false
        ∧ (∀ i : Nat, i < 4 → (t.core k).user.regs.dom (BitVec.ofNat 6 (8 + i)) =
            Dom.single (BitVec.ofNat 32 (leNat (s.bytes (at_ + 0x28 + 4 * i) 4))))
        ∧ (∀ r : DReg, (r.toNat < 8 ∨ 11 < r.toNat) → (t.core k).user.regs.dom r = (s.core k).user.regs.dom r)
        ∧ (t.core k).user.pc = (s.core k).user.pc ∧ ∀ a, t.byte a = s.byte a

/-- The traps that software asks for and those taken after commit (R271, R316, R317, R319, R320). The model's choices it
rests on: log 11, 89. -/
def Obligations.SoftwareAndDeferredTraps : Prop :=
  Claims.SoftwareTraps ∧ Claims.DeferredTraps

/-! ## Class 000: building domains (R281, R282) -/

/-- `DSET` builds the dense domain of an interval, `DMASK` replaces half of its destination's bitmap, and `DEXCL` excludes a
value: with singleton sources they complete where the result is not empty, and take FAIL with ORIGIN 0b11 or 0b10 where it
is; another source raises UNRESOLVED with none of their effect (R281, R282, R293, R296). -/
def Sys2Proof.Claims.DomainBuilding : Prop :=
  ∀ (s : State) (dd da db : DReg) (imm : Word), Alone s →
    let a := s.ctx.regs.dom da
    let b := s.ctx.regs.dom db
    let d := s.ctx.regs.dom dd
    let failed (opc : Byte) (o : BitVec 2) : State := s.modCtx (fun c => { c with failinfo := opc ++ (o ++ (dd ++ 0#48)) })
    (a.isSingle = false → Traps (.dset dd da db) s s tUnresolved ∧ Traps (.dmask dd da imm) s s tUnresolved)
    ∧ (a.isSingle = true → b.isSingle = false → Traps (.dset dd da db) s s tUnresolved)
    ∧ (a.isSingle = true → b.isSingle = true → a.l ≤ b.l → ∃ x, Dom.dense a.l b.l = some x ∧ x.l = a.l ∧ x.h = b.l
        ∧ (∀ v, x.mem v = true ↔ a.l ≤ v ∧ v ≤ b.l) ∧ (Room (s.write 1 (.d dd x)) →
            Completes (.dset dd da db) s (s.write 1 (.d dd x))))
    ∧ (a.isSingle = true → b.isSingle = true → b.l < a.l → Traps (.dset dd da db) s (failed 0x30 3) tFail)
    ∧ (a.isSingle = true → ∀ m : BitVec 64, m = (if imm = 1 then a.lo ++ d.mask.extractLsb' 0 32
          else d.mask.extractLsb' 32 32 ++ a.lo) →
        match ({ d with mask := m } : Dom).set.canon with
        | some x => Room (s.write 1 (.d dd x)) → Completes (.dmask dd da imm) s (s.write 1 (.d dd x))
        | none => Traps (.dmask dd da imm) s (failed 0x33 3) tFail)

/-- `DEXCL` (R282): the value leaves the domain, the change is trailed while a mark stands, wakes its watchers and lands in
two bundles; a value that is not there changes nothing; in the firmware context nothing is trailed or woken. -/
def Sys2Proof.Claims.ExclusionResults : Prop :=
  ∀ (s : State) (dd db : DReg) (v : Word) (i : Instr) (opc : Byte), Alone s →
    ((i = .dexclI dd v ∧ opc = 0xB2 ∧ Landed s.ctx [dd])
      ∨ (i = .dexcl dd db ∧ opc = 0x32 ∧ Landed s.ctx [dd, db] ∧ s.ctx.regs.dom db = Dom.single v)) →
    let old := s.ctx.regs.dom dd
    (old.exclude v.toInt = none → Traps i s (s.modCtx (fun c => { c with failinfo := opc ++ (2#2 ++ (dd ++ 0#48)) })) tFail)
    ∧ (old.exclude v.toInt = some old → Room s → Completes i s s)
    ∧ ∀ x, old.exclude v.toInt = some x → x ≠ old →
      (s.isFw = true → Room (s.write 2 (.d dd x)) → Completes i s (s.write 2 (.d dd x)))
      ∧ (s.isFw = false → s.ctx.cons.trailFull 1 = true → Traps i s s tTrailOvf)
      ∧ (s.isFw = false → s.ctx.cons.trailFull 1 = false →
          let u := (s.modCtx (fun c => { c with cons := c.cons.narrowed dd old })).write 2 (.d dd x)
          Room u → Completes i s u)

/-- `DSET`, `DMASK` and `DEXCL` COMPLETE (R281, R282): with nothing in flight, from singleton sources and where a value remains,
each sends its domain on its way and its bundle commits. -/
def Sys2Proof.Claims.DomainsComplete : Prop :=
  ∀ (s : State) (dd da db : DReg) (imm v a b : Word), AtRest s → s.ctx.regs.dom da = Dom.single a →
      s.ctx.regs.dom db = Dom.single b →
    let old := s.ctx.regs.dom dd
    let half : BitVec 64 := if imm = 1 then a ++ old.mask.extractLsb' 0 32 else old.mask.extractLsb' 32 32 ++ a
    let narrowed (x : Dom) : State := (s.modCtx (fun c => { c with cons := c.cons.narrowed dd old })).write 2 (.d dd x)
    (a.toInt ≤ b.toInt → ∃ x : Dom, (∀ n, x.mem n = true ↔ a.toInt ≤ n ∧ n ≤ b.toInt)
        ∧ exec (.dset dd da db) s = .next ((s.write 1 (.d dd x)).boundary (stepping s)))
    ∧ (∀ x, ({ old with mask := half } : Dom).set.canon = some x →
        exec (.dmask dd da imm) s = .next ((s.write 1 (.d dd x)).boundary (stepping s)))
    ∧ (∀ x, old.exclude b.toInt = some x →
        (x = old → exec (.dexcl dd db) s = .next (s.boundary (stepping s)))
        ∧ (x ≠ old → s.isFw = true → exec (.dexcl dd db) s = .next ((s.write 2 (.d dd x)).boundary (stepping s)))
        ∧ (x ≠ old → s.isFw = false → s.ctx.cons.marks = [] → exec (.dexcl dd db) s = .next ((narrowed x).boundary (stepping s))))
    ∧ ∀ x, old.exclude v.toInt = some x →
        (x = old → exec (.dexclI dd v) s = .next (s.boundary (stepping s)))
        ∧ (x ≠ old → s.isFw = true → exec (.dexclI dd v) s = .next ((s.write 2 (.d dd x)).boundary (stepping s)))
        ∧ (x ≠ old → s.isFw = false → s.ctx.cons.marks = [] → exec (.dexclI dd v) s = .next ((narrowed x).boundary (stepping s)))

/-- The forms that build domains (R281, R282, R293, R296). The model's choices it rests on: log 17. -/
def Obligations.DomainsAreBuilt : Prop :=
  Claims.DomainBuilding ∧ Claims.ExclusionResults ∧ Claims.DomainsComplete

/-! ## Class 000: relations (R276 to R280, R283, R284, R290) -/

/-- A relational form outside the firmware context, over landed values, makes the pass of its relation: where the pass
leaves every operand a value and the trail has room, it completes; each changed register is trailed, wakes its watchers and
lands in two bundles; the kept form besides records its entry in the store. -/
def Sys2Proof.Claims.RelationalForms : Prop :=
  ∀ (s : State) (dd da db : DReg) (k : Word), Alone s → s.isFw = false →
    ∀ f ∈ relationalForms dd da db k, Landed s.ctx f.2.2.names → ∀ env, passOf f.2.2 s.ctx.regs.dom = .ok env →
      let ch := changedRegs f.2.2.names s.ctx.regs.dom env
      s.ctx.cons.trailFull ch.length = false →
      (Room (applyNarrowings 2 s ch) → Completes f.1 s (applyNarrowings 2 s ch))
      ∧ (s.ctx.cons.store.length < 256 →
          let kept := s.modCtx (fun c => { c with cons := { c.cons with store := c.cons.store ++ [f.2.2] } })
          Room (applyNarrowings 2 kept ch) → Completes f.2.1 s (applyNarrowings 2 kept ch))

/-- A relational form has none of its effect and raises ILLEGAL in the firmware context, STORE_OVF where a kept form finds 256
entries, FAIL with its opcode, ORIGIN 0b00 and the register where its pass empties a domain, and TRAIL_OVF where the trail
has no room, in this order; while a result is in flight on a register it names it waits (R193, R276, R277, R295, R428). -/
def Sys2Proof.Claims.RelationalTraps : Prop :=
  ∀ (s : State) (dd da db : DReg) (k : Word), Alone s → ∀ f ∈ relationalForms dd da db k,
    (s.isFw = true → Traps f.1 s s tIllegal ∧ Traps f.2.1 s s tIllegal)
    ∧ (s.isFw = false → (∀ r ∈ f.2.2.names, s.ctx.ldrTo r = false) → ∀ r ∈ f.2.2.names, r ≠ 0 → s.ctx.inFlight r.toNat = true →
        Stalls f.1 s s.emptyBundle ∧ Stalls f.2.1 s s.emptyBundle)
    ∧ (s.isFw = false → Landed s.ctx f.2.2.names →
        (256 ≤ s.ctx.cons.store.length → Traps f.2.1 s s tStoreOvf)
        ∧ ∀ r, passOf f.2.2 s.ctx.regs.dom = .error r →
            let u := s.modCtx (fun c => { c with failinfo := f.2.2.opc ++ (0#2 ++ (r ++ 0#48)) })
            Traps f.1 s u tFail ∧ (s.ctx.cons.store.length < 256 → Traps f.2.1 s u tFail))
    ∧ (s.isFw = false → Landed s.ctx f.2.2.names → ∀ env, passOf f.2.2 s.ctx.regs.dom = .ok env →
        s.ctx.cons.trailFull (changedRegs f.2.2.names s.ctx.regs.dom env).length = true →
        Traps f.1 s s tTrailOvf ∧ (s.ctx.cons.store.length < 256 → Traps f.2.1 s s tTrailOvf))

/-- The relational forms: what they do at their bundle, and what they raise (R193, R276, R277, R295, R428). The model's
choices it rests on: log 17. -/
def Obligations.RelationalForms : Prop :=
  Claims.RelationalForms ∧ Claims.RelationalTraps

/-- A pass over canonical domains loses no solution of its relation, gives no register a value it did not have, and leaves
every domain canonical; and where it fails the relation has no solution in the domains (R272, R273, R276 to R280). -/
def Obligations.RelationalSound : Prop :=
  ∀ (dd da db : DReg) (k : Word) (base : DReg → Dom), (∀ r, (base r).canonical = true) → base 0 = Dom.single 0 →
    ∀ f ∈ relationalForms dd da db k, f.1.wf = true →
      (∀ env, passOf f.2.2 base = .ok env → ∀ r x, Assoc.find? env r.toNat = some x →
        x.canonical = true ∧ (∀ n, x.mem n = true → (base r).mem n = true)
        ∧ ∀ v : DReg → Int, (∀ q, (base q).mem (v q) = true) → Holds f.2.2 v → x.mem (v r) = true)
      ∧ ∀ r, passOf f.2.2 base = .error r → ¬ ∃ v : DReg → Int, (∀ q, (base q).mem (v q) = true) ∧ Holds f.2.2 v

/-- Narrowings of one bundle: while a mark stands each pushes its register and old domain onto the trail, the first one
deepest; without a mark the trail stays; the store and the marks stay, and an entry is pending afterwards exactly if it was
before or watches one of the registers, at most once where no entry was pending twice (R284, R290). -/
def Sys2Proof.Claims.NarrowingsTrailAndWake : Prop :=
  ∀ (s : State) (lat : Nat) (ch : List (DReg × Dom × Dom)),
    let c := (applyNarrowings lat s ch).ctx.cons
    let old := s.ctx.cons
    c.store = old.store ∧ c.marks = old.marks
    ∧ c.trail = (if old.marks = [] then old.trail else (ch.map (fun n => (n.1, n.2.1))).reverse ++ old.trail)
    ∧ (∀ i, i ∈ c.queue ↔ i ∈ old.queue ∨ ∃ e n, old.store[i]? = some e ∧ n ∈ ch ∧ e.watches n.1 = true)
    ∧ (old.queue.Nodup → c.queue.Nodup) ∧ (∃ woken, c.queue = old.queue ++ woken)
    ∧ (applyNarrowings lat s ch).ctx.regs = s.ctx.regs ∧ ∀ a, (applyNarrowings lat s ch).byte a = s.byte a

/-! ## Class 000: propagation points, trail and marks (R285 to R292, R294) -/

/-- A propagation point runs the entries of its queue one after another (R285). Where the runs empty the queue it ends in
FIXPOINT: `PROP` then does no more, `CKPT` pushes a mark, `DPICK` narrows its register to the singleton of its least value,
trailed and seen by the next bundle. Where PROPCOUNT reaches the limit first it ends in BUDGET with the queue as it is, and
commits; BUDGET is then raised if TRAPEN is set (R286 to R288, R294). -/
def Sys2Proof.Claims.PropagationPoints : Prop :=
  ∀ (s t : State) (dd : DReg), PointReady s [dd] → RunsTo (pointStart s) t →
    (t.ctx.cons.queue = [] →
      let f := t.setPstate 1
      (Room f → Completes .prop s f)
      ∧ (s.ctx.cons.marks.length < 16 →
          let m := f.modCtx (fun c => { c with cons := { c.cons with
            marks := c.cons.marks ++ [(c.cons.trail.length, c.cons.store.length)] } })
          Room m → Completes .ckpt s m)
      ∧ ((f.ctx.regs.dom dd).isSingle = true → Room f → Completes (.dpick dd) s f)
      ∧ ((f.ctx.regs.dom dd).isSingle = false → f.ctx.cons.trailFull 1 = false →
          let x := f.ctx.regs.dom dd
          let p := (f.landNow dd (Dom.single x.lo)).modCtx (fun c => { c with cons := c.cons.narrowed dd x })
          Room p → Completes (.dpick dd) s p))
    ∧ (t.ctx.cons.queue ≠ [] → t.ctx.cons.runs.toNat = t.ctx.cons.runLimit →
        let b := t.setPstate 2
        let u : State := if t.ctx.cons.trapen then { b with issue := { b.issue with budget := true } } else b
        Room u → Completes .prop s u ∧ Completes (.dpick dd) s u ∧ (s.ctx.cons.marks.length < 16 → Completes .ckpt s u))

/-- A run whose pass empties a domain takes FAIL with the entry's opcode, ORIGIN 0b01, the register and the entry's number,
and a run for which the trail has no room takes TRAIL_OVF: the narrowings of earlier runs stay in force, the entry stays at
the head of the queue, and PROPSTAT.STATE is FAIL or stays RUNNING (R285). A `CKPT` at depth 16 raises CKPT_OVF before any
run (R287). -/
def Sys2Proof.Claims.PropagationFails : Prop :=
  ∀ (s t : State) (dd : DReg) (e : Nat) (rest : List Nat) (entry : StoreEntry), PointReady s [dd] → RunsTo (pointStart s) t →
    t.ctx.cons.queue = e :: rest → t.ctx.cons.runs.toNat ≠ t.ctx.cons.runLimit → t.ctx.cons.store[e]? = some entry →
    (∀ r, passOf entry t.ctx.regs.dom = .error r →
      let u := (t.setPstate 3).modCtx (fun c => { c with
        failinfo := entry.opc ++ (1#2 ++ (r ++ (BitVec.ofNat 8 e ++ 0#40))) })
      Traps .prop s u tFail ∧ Traps (.dpick dd) s u tFail ∧ (s.ctx.cons.marks.length < 16 → Traps .ckpt s u tFail))
    ∧ (∀ env, passOf entry t.ctx.regs.dom = .ok env →
        t.ctx.cons.trailFull (changedRegs entry.names t.ctx.regs.dom env).length = true →
        Traps .prop s t tTrailOvf ∧ Traps (.dpick dd) s t tTrailOvf)
    ∧ (16 ≤ s.ctx.cons.marks.length → Traps .ckpt s s tCkptOvf)

/-- Propagation points: how they end, fail, and what a narrowing records and wakes (R284 to R288, R290, R294). The model's
choices it rests on: log 1, 17. -/
def Obligations.PropagationRuns : Prop :=
  Claims.PropagationPoints ∧ Claims.PropagationFails ∧ Claims.NarrowingsTrailAndWake

/-- `RESTORE n` gives every register that the trail names above mark n the domain it had when that mark was pushed, takes the
store and the trail back to the mark, clears the queue and removes the mark and those above it; without such a mark it
raises CKPT_OVF and changes nothing (R291). -/
def Sys2Proof.Claims.RestoreUndoes : Prop :=
  ∀ (s : State) (n : Word), Alone s → s.isFw = false →
    (s.ctx.cons.marks[n.toNat]? = none → Traps (.restore n) s s tCkptOvf)
    ∧ ∀ m st, s.ctx.cons.marks[n.toNat]? = some (m, st) → m ≤ s.ctx.cons.trail.length →
      let undone := s.ctx.cons.trail.take (s.ctx.cons.trail.length - m)
      Landed s.ctx (undone.map (·.1)) → ∃ u, (Room u → Completes (.restore n) s u) ∧ OnlyContext s { u with issue := {} }
        ∧ u.ctx.cons = { s.ctx.cons with store := s.ctx.cons.store.take st, queue := []
                                         trail := s.ctx.cons.trail.drop (s.ctx.cons.trail.length - m)
                                         marks := s.ctx.cons.marks.take n.toNat }
        ∧ (∀ r : DReg, r ≠ 0 → u.ctx.regs.dom r =
            (match undone.reverse.find? (fun x => x.1 == r) with | some x => x.2 | none => s.ctx.regs.dom r))
        ∧ u.ctx.regs.ev = s.ctx.regs.ev ∧ u.ctx.status = s.ctx.status ∧ u.ctx.pc = s.ctx.pc

/-- `COMMIT` removes the youngest mark and nothing else, but that the trail is emptied with the last mark; with no mark it
raises CKPT_OVF; in the firmware context `COMMIT`, `RESTORE` and the propagation points are ILLEGAL (R193, R292). -/
def Sys2Proof.Claims.CommitRemovesMark : Prop :=
  ∀ (s : State) (n : Word) (dd : DReg), Alone s →
    (s.isFw = false → s.ctx.cons.marks = [] → Traps .commit s s tCkptOvf)
    ∧ (s.isFw = false → ∀ ms m, s.ctx.cons.marks = ms ++ [m] →
        let u := s.modCtx (fun c => { c with cons := { c.cons with marks := ms, trail := if ms = [] then [] else c.cons.trail } })
        Room s → Completes .commit s u)
    ∧ (s.isFw = true → Traps .commit s s tIllegal ∧ Traps (.restore n) s s tIllegal ∧ Traps .prop s s tIllegal
        ∧ Traps .ckpt s s tIllegal ∧ Traps (.dpick dd) s s tIllegal)

/-- Marks: RESTORE and COMMIT (R193, R291, R292). -/
def Obligations.MarksCommitAndRestore : Prop :=
  Claims.RestoreUndoes ∧ Claims.CommitRemovesMark

/-! ## Class 001: targets, conditions, transfers (R299 to R305, R312) -/

/-- The targets, conditions and the two instructions that do nothing (R301 to R304, R312), on singletons `a` and `b` and a
domain of any width: the target registers get the bundle's address plus eight times the distance, three bundles later; a
condition register gets the test, inverted by N, for the next bundle; a source that is no singleton is UNRESOLVED, but for the
domain that `CMPD` tests. -/
def Sys2Proof.Claims.TargetsAndConditions : Prop :=
  ∀ (s : State) (bt : BReg) (c : CReg) (da db dx : DReg) (off k : BitVec 34) (far : BitVec 20) (count : BitVec 14)
    (bd : BdReg) (neg : Bool) (imm a b : Word), Alone s → s.ctx.regs.dom da = Dom.single a → s.ctx.regs.dom db = Dom.single b →
    let at_ (n : Int) : Addr := BitVec.ofInt 48 (s.ctx.pc.toNat + 8 * n)
    let cond (test : Prop) [Decidable test] : State := s.write 1 (.c c (decide test != neg))
    let x := s.ctx.regs.dom dx
    AllComplete s [(.nop, s), (.idle, s.request .idle), (.prep bt off, s.write 3 (.b bt (at_ off.toInt))),
      (.prepi bt da k, s.write 3 (.b bt (at_ (a.toInt + k.toInt)))),
      (.cmp 0 neg c da db, cond (a = b)), (.cmp 1 neg c da db, cond (a.toInt < b.toInt)),
      (.cmp 2 neg c da db, cond (a.toInt ≤ b.toInt)), (.cmpI 0 neg c da imm, cond (a = imm)),
      (.cmpI 1 neg c da imm, cond (a.toInt < imm.toInt)), (.cmpI 2 neg c da imm, cond (a.toInt ≤ imm.toInt)),
      (.cmpu 0 neg c da db, cond (a = b)), (.cmpu 1 neg c da db, cond (a.toNat < b.toNat)),
      (.cmpu 2 neg c da db, cond (a.toNat ≤ b.toNat)), (.cmpuI 0 neg c da imm, cond (a = imm)),
      (.cmpuI 1 neg c da imm, cond (a.toNat < imm.toNat)), (.cmpuI 2 neg c da imm, cond (a.toNat ≤ imm.toNat)),
      (.cmpdSingle neg c dx, cond (x.lo = x.hi)), (.cmpdHas neg c dx db, cond (x.mem b.toInt = true)),
      (.cmpdHasI neg c dx imm, cond (x.mem imm.toInt = true)), (.cmpdWidth neg c dx db, cond (x.size ≤ b.toNat)),
      (.cmpdWidthI neg c dx imm, cond (x.size ≤ imm.toNat))]
    ∧ (count.toNat ≤ a.toNat → Room (s.write 3 (.b bt (at_ far.toInt))) →
        Completes (.prepj bt da bd count far) s (s.write 3 (.b bt (at_ far.toInt))))
    ∧ (∀ bs t, a.toNat < count.toNat → loadHeld s bd (8 * a.toNat) 8 8 = .ok (bs, t) →
        let e := BitVec.ofNat 64 (leNat bs)
        (e.extractLsb' 48 16 = 0 → e.extractLsb' 0 3 = 0 → Room (t.write 3 (.b bt (e.extractLsb' 0 48))) →
          Completes (.prepj bt da bd count far) s (t.write 3 (.b bt (e.extractLsb' 0 48))))
        ∧ ((e.extractLsb' 48 16 ≠ 0 ∨ e.extractLsb' 0 3 ≠ 0) → Traps (.prepj bt da bd count far) s t tProt))
    ∧ ((s.ctx.regs.dom dx).isSingle = false → ∀ rel : BitVec 2, AllTrap s tUnresolved [.prepi bt dx k, .prepj bt dx bd count far,
        .cmp rel neg c dx db, .cmp rel neg c da dx, .cmpI rel neg c dx imm, .cmpu rel neg c dx db, .cmpu rel neg c da dx,
        .cmpuI rel neg c dx imm, .cmpdHas neg c da dx, .cmpdWidth neg c da dx])

/-- Two bundles issue after a transfer instruction; where it is taken they are counted in XDIST, and after the second one the
context goes on at the target, with the link register of a taken `XFERL` holding the address at which that bundle ended. A
transfer that is not taken changes nothing else, and one in a delay window is ILLEGAL (R299, R300, R305). -/
def Sys2Proof.Claims.TransfersTakePlace : Prop :=
  (∀ (s : State) (bt bl : BReg) (neg : Bool) (c : CReg), Alone s → Plain s → Room s →
    let go (i : Instr) (link : Option BReg) : Prop := ∃ t, exec i s = .next t ∧ OnlyContext s t ∧ t.ctx.window = 2
      ∧ t.ctx.taken = true ∧ t.ctx.status = { s.ctx.status with
          xdist := 2, xtgt := (s.ctx.regs.target bt).extractLsb' 3 45, xlv := link.isSome, xlb := link.getD s.ctx.status.xlb }
      ∧ t.ctx.pc = s.ctx.pc + BitVec.ofNat 48 (8 * s.issue.len) ∧ t.ctx.regs = regsNext s.ctx
    let stay (i : Instr) : Prop := ∃ t, exec i s = .next t ∧ OnlyContext s t ∧ t.ctx.window = 2 ∧ t.ctx.taken = false
      ∧ t.ctx.status = s.ctx.status ∧ t.ctx.pc = s.ctx.pc + BitVec.ofNat 48 (8 * s.issue.len)
      ∧ t.ctx.regs = regsNext s.ctx ∧ SpecialKept s.ctx t.ctx
    (s.ctx.window = 0 → go (.xfer bt) none ∧ go (.xferl bt bl) (some bl)
      ∧ ((s.ctx.regs.cond c != neg) = true → go (.xferC bt neg c) none ∧ go (.xferlC bt bl neg c) (some bl))
      ∧ ((s.ctx.regs.cond c != neg) = false → stay (.xferC bt neg c) ∧ stay (.xferlC bt bl neg c)))
    ∧ (s.ctx.window ≠ 0 → AllTrap s tIllegal [.xfer bt, .xferl bt bl, .xferC bt neg c, .xferlC bt bl neg c, .retire]))
  ∧ (∀ (u : State) (st : Bool), Plain u → u.ctx.taken = true →
      (u.ctx.window = 2 → (u.boundary st).ctx.window = 1 ∧ (u.boundary st).ctx.status.xdist = 1 ∧ (u.boundary st).ctx.due = false)
      ∧ (u.ctx.window = 1 → (u.boundary st).ctx.window = 0 ∧ (u.boundary st).ctx.status.xdist = 0 ∧ (u.boundary st).ctx.due = true))
  ∧ ∀ (s : State), (s.ctxOf s.inp.who).due = true → ∃ t, exec .transferTakesPlace s = .next t
      ∧ let c := s.ctxOf s.inp.who
        let d := t.ctxOf s.inp.who
        d.pc = c.status.xtgt ++ 0#3 ∧ d.due = false ∧ d.taken = false
        ∧ d.status = { c.status with xdist := 0, xlv := false, xtgt := d.status.xtgt, xlb := d.status.xlb }
        ∧ d.regs = (if c.status.xlv then c.regs.write (.b c.status.xlb c.pc) else c.regs) ∧ SpecialKept c d
        ∧ ∀ a, t.byte a = s.byte a

/-- Branch targets, conditions and transfers (R299 to R305, R312). -/
def Obligations.BranchesAndConditions : Prop :=
  Claims.TargetsAndConditions ∧ Claims.TransfersTakePlace

/-! ## Class 001: engine loops, events (R184, R306 to R308) -/

/-- `LOOPB` arms both engines of its core with the count and their skews, and waits while either still holds a count;
`LOOPCUT` lowers a count that is armed, and of a loop in progress, whether or not another is armed, ends what repetitions are
numbered from k on and not started (R306, R307). Both are ILLEGAL outside a user context. -/
def Sys2Proof.Claims.EngineLoops : Prop :=
  (∀ (s : State) (da : DReg) (ms cs : BitVec 8) (k n : Word) (core : Nat), Alone s → s.ctx.regs.dom da = Dom.single n →
    (s.cur = .user core →
      let arm (e : Engine) (skew : BitVec 8) : Engine :=
        { e with bcast := { e.bcast with armed := some n, skew := skew, armedAt := s.cycle, skewDone := skew == 0 } }
      let armed := s.modCore core (fun c => { c with mat := arm c.mat ms, cpy := arm c.cpy cs })
      ((s.core core).mat.bcast.armed = none → (s.core core).cpy.bcast.armed = none → Room armed →
        Completes (.loopb da ms cs) s armed)
      ∧ (((s.core core).mat.bcast.armed ≠ none ∨ (s.core core).cpy.bcast.armed ≠ none) → Stalls (.loopb da ms cs) s s)
      ∧ ∀ i v, (i = .loopcut da ∧ v = n ∨ i = .loopcutI k ∧ v = k) →
          let u := s.modCore core (fun c => { c with mat := c.mat.cut v, cpy := c.cpy.cut v })
          Room u → Completes i s u)
    ∧ (s.isUser = false → AllTrap s tIllegal [.loopb da ms cs, .loopcut da, .loopcutI k]))
  ∧ ∀ (e : Engine) (k : Word),
      (∀ n, e.bcast.armed = some n → ∃ m : Word, m.toNat = min k.toNat n.toNat ∧
        (e.cut k).bcast = { e.bcast with armed := some m })
      ∧ (e.bcast.armed = none → (e.cut k).bcast = e.bcast)
      ∧ (e.bcast.active = false → e.cut k = { e with bcast := (e.cut k).bcast })
      ∧ (e.bcast.active = true → ∀ r rest, e.reps = r :: rest → r.bcast = true → 1 ≤ r.left.toNat →
          e.bcast.done.toNat + r.left.toNat < 2 ^ 32 → ∃ r' rest', (e.cut k).reps = r' :: rest' ∧ r'.start = r.start
            ∧ e.bcast.done.toNat + r'.left.toNat =
              max (e.bcast.done.toNat + 1) (min k.toNat (e.bcast.done.toNat + r.left.toNat)))

/-- `POST` adds one to its event and `AWAIT` takes one from it: both forms complete where the event may be named and is not
255, or not 0, and every earlier access has performed; a count of 255 raises EVENT_OVF, a count of 0 makes `AWAIT` wait, and
an event that may not be named is ILLEGAL (R184, R193, R308). -/
def Sys2Proof.Claims.EventsCount : Prop :=
  ∀ (s : State) (k : EvNum) (da : DReg), Alone s →
    let top : Nat := if s.isFw then 8 else 32
    let set_ (v : Byte) : State := s.modCtx (fun c => { c with regs := c.regs.setEvent k.toNat v })
    let e := s.ctx.regs.event k.toNat
    let named (i : Instr) : Prop := i = .postD da ∧ (s.ctx.regs.dom da) = Dom.single (k.setWidth 32)
    let named' (i : Instr) : Prop := i = .awaitD da ∧ (s.ctx.regs.dom da) = Dom.single (k.setWidth 32)
    (k.toNat < top → (∀ i, (i = .post k ∨ named i) → s.ctx.performed (BitVec.allOnes 16) false = true →
        (e ≠ 255 → Room (set_ (e + 1)) → Completes i s (set_ (e + 1))) ∧ (e = 255 → Traps i s s tEventOvf))
      ∧ ∀ i, (i = .await k ∨ named' i) → (e ≠ 0 → Room (set_ (e - 1)) → Completes i s (set_ (e - 1)))
          ∧ (e = 0 → Stalls i s (s.modWaits (fun w => { w with awaits := some (k.toNat, s.ctx.count) }))))
    ∧ (top ≤ k.toNat → ∀ i, (i = .post k ∨ i = .await k ∨ named i ∨ named' i) → Traps i s s tIllegal)
    ∧ (∀ v : Word, s.ctx.regs.dom da = Dom.single v → top ≤ v.toNat → AllTrap s tIllegal [.postD da, .awaitD da])
    ∧ ((s.ctx.regs.dom da).isSingle = false → AllTrap s tUnresolved [.postD da, .awaitD da])
    ∧ (∀ j v, j < 32 → (set_ v).ctx.regs.event j = if j = k.toNat then v else s.ctx.regs.event j)

/-- The loops of the engines and the events (R184, R193, R306 to R308). The model's choices it rests on: log 20, 67. -/
def Obligations.LoopsAndEvents : Prop :=
  Claims.EngineLoops ∧ Claims.EventsCount

/-! ## Class 001: tasks (R108, R112, R309 to R311) -/

/-- `SPAWN` and `YIELD` COMPLETE (R309, R310): with nothing outstanding, where the control block or the request can be reached in
its page, `SPAWN` hands the block to the distributor, and a well-formed `YIELD` leaves its continuation with the region and frees the
context. -/
def Sys2Proof.Claims.TasksComplete : Prop :=
  ∀ (s : State) (bd : BdReg) (da : DReg) (imm : BitVec 20) (a : Word), AtRest s → s.ctx.regs.dom da = Dom.single a →
    let d := s.desc bd
    (∀ l t, let off := a.toNat + 128 * imm.toNat
      s.isUser = true → Within d off 128 → (d.base + off) % 128 = 0 → PlaceAt s (d.base + off) 128 (accRead ||| accWrite) l t →
        exec (.spawn bd da imm) s = .next ((t.push .spawnValidate
          { n := t.ctx.id.region.toNat, value := BitVec.zeroExtend 64 (physAddr l.key l.cell) }).boundary (stepping s)))
    ∧ ∀ l t, let off := a.toNat + 16 * imm.toNat
      s.isFw = false → s.ctx.window = 0 → s.enginesIdle = true → Plain s → Within d off 64 → (d.base + off) % 16 = 0 →
        (d.base + off) % 4096 ≤ 4032 → PlaceAt s (d.base + off) 64 accRead l t →
        (YieldReq.ofBytes (t.bytesKey l.key l.cell 64)).ok s.ctx = true →
        let r := s.ctx.id.region
        ∃ u, exec (.yield bd da imm) s = .next u ∧ u.ctx.running = false ∧ (u.life r).slots = (s.life r).slots + 1
          ∧ (u.life r).conts = (s.life r).conts ++ [((s.life r).nextSlot, s.instanceIndex)]

/-- `SPAWN` in a user context with a control block it may name, once every earlier access has performed, hands the
block's place to the distributor and changes nothing else; `YIELD` writes the continuation record and frees the
context; `RETIRE` ends the instance: the context is free, and its region's LIVE falls by one. Each is ILLEGAL where
R193 or R300 says so. The model's choices it rests on: log 21, 22, 63. -/
def Sys2Proof.Claims.TasksHandOver : Prop :=
  ∀ (s : State) (bd : BdReg) (da : DReg) (imm : BitVec 20), Alone s →
    let r := s.ctx.id.region
    let freed (s t : State) : Prop := t.ctx.running = false ∧ t.ctx.pend = [] ∧ t.ctx.cons.store = [] ∧ t.ctx.cons.queue = []
      ∧ t.ctx.cons.trail = [] ∧ t.ctx.cons.marks = [] ∧ t.ctx.id = s.ctx.id
    (s.isUser = false → Traps (.spawn bd da imm) s s tIllegal)
    ∧ (s.isFw = true → AllTrap s tIllegal [.yield bd da imm, .retire])
    ∧ (s.isFw = false → s.ctx.window ≠ 0 → AllTrap s tIllegal [.yield bd da imm, .retire])
    ∧ (∀ o l t, s.isUser = true → offsetOf s (operandM bd da imm) 128 128 = .ok o → ((s.desc bd).base + o.off) % 128 = 0 →
        locate s false (s.desc bd) o.off 128 (accRead ||| accWrite) = .ok (l, t) → l.offPackage = false →
        homeTrap t l 128 false = none → t.ctx.performed (BitVec.allOnes 16) false = true →
        let u := t.push .spawnValidate { n := t.ctx.id.region.toNat, value := BitVec.zeroExtend 64 (physAddr l.key l.cell) }
        Room u → Completes (.spawn bd da imm) s u)
    ∧ (∀ o, s.isUser = true → offsetOf s (operandM bd da imm) 128 128 = .ok o → ((s.desc bd).base + o.off) % 128 ≠ 0 →
        Traps (.spawn bd da imm) s s tAlign)
    ∧ (s.isFw = false → s.ctx.window = 0 → s.enginesIdle = true → s.quillEmpty = true → Room s →
        (∀ l ∈ s.ctx.ldrs, l.slotOf.isSome = true) → s.ctx.performed (BitVec.allOnes 16) false = true → Plain s →
        ∃ t, exec .retire s = .next t ∧ freed s t ∧ (t.life r).live = (s.life r).live - 1
          ∧ (t.life r).children = (s.life r).children
          ∧ (((s.life r).live = 1 ∧ (s.life r).children = 0) →
              t.sched = .happen .regionCompletion { n := r.toNat } :: s.sched)
          ∧ (¬ ((s.life r).live = 1 ∧ (s.life r).children = 0) → t.sched = s.sched))
    ∧ (s.isFw = false → s.ctx.window = 0 →
        (s.enginesIdle = false ∨ s.quillEmpty = false ∨ ∃ l ∈ s.ctx.ldrs, l.slotOf = none) → Stalls .retire s s)
    ∧ ∀ o bs t, s.isFw = false → s.ctx.window = 0 → offsetOf s (operandM bd da imm) 64 16 = .ok o → s.enginesIdle = true →
        loadHeld s bd o.off 64 16 = .ok (bs, t) → t.ctx.performed (BitVec.allOnes 16) false = true → Room t → Plain t →
        ((YieldReq.ofBytes bs).ok t.ctx = false → Traps (.yield bd da imm) s t tIllegal)
        ∧ ((YieldReq.ofBytes bs).ok t.ctx = true → ∃ u, exec (.yield bd da imm) s = .next u ∧ freed t u
          ∧ let r := t.ctx.id.region
            (u.life r).slots = (t.life r).slots + 1 ∧ (u.life r).live = (t.life r).live
            ∧ (u.life r).conts = (t.life r).conts ++ [((t.life r).nextSlot, t.instanceIndex)])

/-- `SPAWN`, `YIELD` and `RETIRE` (R193, R300, R309 to R311). The model's choices it rests on: log 21, 22, 63. -/
def Obligations.TasksHandOver : Prop :=
  Claims.TasksHandOver ∧ Claims.TasksComplete

/-! ## Class 001: system registers, descriptors, trace (R130, R298, R313, R314, R321 to R324) -/

/-- `MFSR` writes the selected half of a register as a singleton for the next bundle (R321): of every register but the
two counters and `SWTHROTTLE` it changes nothing; a read of a counter's low half latches the whole value, and a read
of the high half takes the latched one, if there is one. What the firmware context may not name is ILLEGAL there.
The model's choices it rests on: log 23, 24. -/
def Obligations.RegistersRead : Prop :=
  ∀ (s : State) (dd : DReg) (r : SysReg) (high : Bool), Alone s →
    let half (w : BitVec 64) : Word := if high then (w >>> 32).setWidth 32 else w.setWidth 32
    let sends (s : State) (w : Word) : State := s.write 1 (.d dd (Dom.single w))
    (s.isFw = true → r ∉ [SysReg.status, .ctxid, .groupid, .regionid, .pasid, .prio, .fwshare, .cycle, .ptime, .evpending,
        .leasestat, .mgovstat, .swthrottle] → Traps (.mfsr dd r high) s s tIllegal)
    ∧ (s.isFw = false ∨ r ∈ [SysReg.status, .ctxid, .groupid, .regionid, .pasid, .prio, .fwshare, .evpending, .leasestat,
        .mgovstat] → r ≠ .cycle → r ≠ .ptime → (r = .swthrottle → s.isFw = false) →
        Room (sends s (half (s.sysreg r))) → Completes (.mfsr dd r high) s (sends s (half (s.sysreg r))))
    ∧ (∀ k, s.cur = .fw k → r = .swthrottle →
        let u := sends (s.modCore k (fun c => { c with held := 0 })) (half (s.sysreg r))
        Room u → Completes (.mfsr dd r high) s u)
    ∧ (s.ctx.dbg.replayctl.extractLsb' 62 2 = 0 →
        let c := sends (s.modCtx (fun c => { c with cycleLatch := if high then none else some ((s.cycle >>> 32).setWidth 32) }))
          (if high then s.ctx.cycleLatch.getD ((s.cycle >>> 32).setWidth 32) else s.cycle.setWidth 32)
        let p := sends (s.modCtx (fun c => { c with ptimeLatch := if high then none else some ((s.ptime >>> 32).setWidth 32) }))
          (if high then s.ctx.ptimeLatch.getD ((s.ptime >>> 32).setWidth 32) else s.ptime.setWidth 32)
        (Room c → Completes (.mfsr dd .cycle high) s c) ∧ (Room p → Completes (.mfsr dd .ptime high) s p))

/-- The identity registers (R322): their fields, and zero in every other bit; `MTSR` to one of them has no effect,
in either context. -/
def Obligations.IdentityRegisters : Prop :=
  ∀ (s : State) (k : Nat), k < 1024 → (s.cur = .user k ∨ s.cur = .fw k ∨ s.cur = .lookup k) → s.issue.snap = none →
    let w := s.sysreg .ctxid
    (w.extractLsb' 0 10).toNat = k ∧ w.getLsbD 10 = s.isFw ∧ w.getLsbD 11 = s.isLookup ∧ w.extractLsb' 12 52 = 0
    ∧ (s.sysreg .groupid).toNat = s.ctx.id.group.toNat ∧ (s.sysreg .regionid).toNat = s.ctx.id.region.toNat
    ∧ (s.sysreg .pasid).toNat = s.ctx.id.pasid.toNat ∧ (s.sysreg .prio).toNat = s.ctx.id.prio.toNat
    ∧ ∀ (da db : DReg) (a b : Word) (r : SysReg), r ∈ [SysReg.ctxid, .groupid, .regionid, .pasid, .prio] → Alone s →
        s.ctx.regs.dom da = Dom.single a → s.ctx.regs.dom db = Dom.single b →
        let u := s.modCtx (fun c => c)
        Room u → Completes (.mtsr r da db) s u

/-- `MTSR` writes two singletons field by field (R321): a register that is read-only keeps its value, `STATUS` takes
SATNAN and RM only, an address register bits [47:3], and a write of `TRAPPC` clears XDIST, XLV and PCONT. Without
the debug capability a write of a debug register raises PROT, as a write of `FWSHARE` does outside the firmware
context. The model's choices it rests on: log 23. -/
def Obligations.RegistersWritten : Prop :=
  (∀ (s : State) (da db : DReg) (r : SysReg) (a b : Word), Alone s → s.ctx.regs.dom da = Dom.single a →
      s.ctx.regs.dom db = Dom.single b →
      let w : BitVec 64 := b ++ a
      (isDebug r = true → s.isFw = false → s.ctx.id.debug = false → Traps (.mtsr r da db) s s tProt)
      ∧ (s.isFw = false → Traps (.mtsr .fwshare da db) s s tProt)
      ∧ (s.isFw = true → r ∉ [SysReg.status, .ctxid, .groupid, .regionid, .pasid, .prio, .fwshare, .cycle, .ptime,
          .evpending, .leasestat, .mgovstat, .swthrottle] → Traps (.mtsr r da db) s s tIllegal)
      ∧ (∀ k, s.cur = .fw k →
          let u := s.modCore k (fun c => { c with idleall := w.getLsbD 4, fwn := w.extractLsb' 0 4 })
          Room u → Completes (.mtsr .fwshare da db) s u)
      ∧ (s.isFw = false → (isDebug r = true → s.ctx.id.debug = true) → r ≠ .fwshare →
          let u := s.modCtx (fun c => c.mtsr r w)
          Room u → Completes (.mtsr r da db) s u))
  ∧ ∀ (c : Ctx) (w : BitVec 64),
      let at_ : Addr := (w.extractLsb' 3 45) ++ 0#3
      (∀ r ∈ [SysReg.trapcode, .failinfo, .propstat, .propcount, .ckptdepth, .trailtop, .ctxid, .groupid, .regionid, .pasid,
          .prio, .cycle, .ptime, .evpending, .leasestat, .mgovstat, .swthrottle, .rflevel, .rfiter, .rfstate], c.mtsr r w = c)
      ∧ c.mtsr .status w = { c with status := { c.status with satnan := w.getLsbD 7, rm := w.extractLsb' 5 2 } }
      ∧ c.mtsr .trapvec w = { c with trapvec := at_ } ∧ c.mtsr .failvec w = { c with failvec := at_ }
      ∧ (c.mtsr .trappc w).trappc = at_ ∧ (c.mtsr .trappc w).status = { c.status with xdist := 0, xlv := false }
      ∧ (c.mtsr .trappc w).cons = { c.cons with pcont := false } ∧ (c.mtsr .trappc w).due = false
      ∧ c.mtsr .propbudget w = { c with cons := { c.cons with trapen := w.getLsbD 16, limit := w.extractLsb' 0 16 } }
      ∧ c.mtsr .debugctl w = { c with dbg := { c.dbg with sstep := w.getLsbD 62, ehalt := w.getLsbD 61 } }
      ∧ (w.extractLsb' 62 2 = 3 → c.mtsr .replayctl w = c)
      ∧ (∀ n : Fin 8, ∀ i : Nat, i < 64 → ((Assoc.get 0 (c.mtsr (.bkpt (BitVec.ofNat 3 n.val)) w).dbg.bkpt n.val).getLsbD i
          = if i < 48 ∨ 56 ≤ i then w.getLsbD i else (Assoc.get 0 c.dbg.bkpt n.val).getLsbD i))

/-- `BDSET` (R323): the part written and no other bit of the descriptor changes, for the next bundle. Where bits above a
part's width are not zero it raises PROT, of a value that is no singleton UNRESOLVED, and it is ILLEGAL on BD14 in the firmware context (R121). -/
def Sys2Proof.Claims.DescriptorParts : Prop :=
  ∀ (s : State) (bd : BdReg) (da : DReg) (v : Word), Alone s → s.ctx.regs.dom da = Dom.single v →
    let d := s.ctx.regs.desc bd
    let sends (x : BitVec 128) : State := s.write 1 (.bd bd x)
    (s.isFw = true → bd = 14 → ∀ part, Traps (.bdset bd part da) s s tIllegal)
    ∧ ((s.isFw = false ∨ bd ≠ 14) →
      AllComplete s [(.bdset bd 0 da, sends (d.extractLsb' 112 16 ++ (v ++ d.extractLsb' 0 80))),
        (.bdset bd 2 da, sends (d.extractLsb' 72 56 ++ (v ++ d.extractLsb' 0 40)))]
      ∧ (v.toNat < 2 ^ 16 → AllComplete s [(.bdset bd 1 da, sends (v.extractLsb' 0 16 ++ d.extractLsb' 0 112))])
      ∧ (v.toNat < 2 ^ 8 → AllComplete s [
          (.bdset bd 3 da, sends (d.extractLsb' 80 48 ++ (v.extractLsb' 0 8 ++ d.extractLsb' 0 72))),
          (.bdset bd 4 da, sends (d.extractLsb' 40 88 ++ (v.extractLsb' 0 8 ++ d.extractLsb' 0 32)))])
      ∧ (2 ^ 16 ≤ v.toNat → AllTrap s tProt [.bdset bd 1 da])
      ∧ (2 ^ 8 ≤ v.toNat → AllTrap s tProt [.bdset bd 3 da, .bdset bd 4 da]))
    ∧ ((s.isFw = false ∨ bd ≠ 14) → ∀ dx : DReg, (s.ctx.regs.dom dx).isSingle = false →
        AllTrap s tUnresolved [.bdset bd 0 dx, .bdset bd 1 dx, .bdset bd 2 dx, .bdset bd 3 dx, .bdset bd 4 dx])

/-- `TEMIT` (R134, R135, R324): with the debug capability and EN it puts a record with its payload and the time into the
core's FIFO of 64; a full FIFO stalls it, or drops and counts the record; without EN, or without the capability, it does
nothing. -/
def Sys2Proof.Claims.TraceRecords : Prop :=
  ∀ (s : State) (da db : DReg) (a b : Word), Alone s → s.ctx.regs.dom da = Dom.single a → s.ctx.regs.dom db = Dom.single b →
    (s.debugCap = false → Room s → Completes (.temit da db) s s)
    ∧ (s.debugCap = true → s.ctx.dbg.tracectl.getLsbD 63 = false → Room s → Completes (.temit da db) s s)
    ∧ (s.debugCap = true → s.ctx.dbg.tracectl.getLsbD 63 = true → s.ctx.dbg.tracectl.getLsbD 62 = false →
        s.quillFull = true → Stalls (.temit da db) s s)
    ∧ ∀ k, s.cur = .user k → s.debugCap = true → s.ctx.dbg.tracectl.getLsbD 63 = true →
        s.ctx.dbg.replayctl.extractLsb' 62 2 = 0 → Plain s → Room s →
        let q := (s.core k).quill
        (q.lost = 0 → q.fifo.length < 64 → ∃ t, ∃ e : TraceRec, exec (.temit da db) s = .next t
            ∧ (t.core k).quill.fifo = q.fifo ++ [e] ∧ e.kind = 1 ∧ e.payload = b ++ a ∧ e.stamp = s.ptime
            ∧ e.group = s.ctx.id.group ∧ e.core.toNat = k % 1024 ∧ e.fw = false ∧ e.pc = s.ctx.pc)
        ∧ (64 ≤ q.fifo.length → s.ctx.dbg.tracectl.getLsbD 62 = true → ∃ t, exec (.temit da db) s = .next t
            ∧ (t.core k).quill.fifo = q.fifo ∧ (t.core k).quill.lost = q.lost + 1)

/-- Block descriptors by their parts, and the records of a trace (R121, R134, R135, R323, R324). -/
def Obligations.DescriptorsAndTrace : Prop :=
  Claims.DescriptorParts ∧ Claims.TraceRecords

/-! ## Class 001: refinement (R325 to R329) -/

/-- `RFBEGIN` latches the descriptor and enters FACTOR, `RFNEXT` goes from FACTOR to SOLVE and from SOLVE to RESID, and
`RFEND` takes the controller to IDLE; each but the last transfers to its entry with two delay bundles (R326, R327, R329).
What R326 does not admit raises PROT, and a phase that does not fit ILLEGAL. -/
def Sys2Proof.Claims.RefinementPhases : Prop :=
  ∀ (s : State) (bd : BdReg) (da : DReg) (imm : BitVec 20) (v : VReg), Alone s → Plain s →
    let r := s.ctx.refine
    (s.isUser = false → AllTrap s tIllegal [.rfbegin bd da imm, .rfnext, .rftest v, .rfend])
    ∧ (s.isUser = true → s.ctx.window ≠ 0 → AllTrap s tIllegal [.rfbegin bd da imm, .rfnext, .rftest v])
    ∧ (s.isUser = true → s.ctx.window = 0 →
      (r.phase ≠ 0 → r.phase ≠ 4 → Traps (.rfbegin bd da imm) s s tIllegal)
      ∧ (r.phase ≠ 1 → r.phase ≠ 2 → Traps .rfnext s s tIllegal) ∧ (r.phase ≠ 3 → Traps (.rftest v) s s tIllegal)
      ∧ (Room s → r.phase = 1 → Jumps .rfnext s s { r with phase := 2 } (rfAddr r.desc 1))
      ∧ (Room s → r.phase = 2 → Jumps .rfnext s s { r with phase := 3 } (rfAddr r.desc 2))
      ∧ ∀ o bs t, (r.phase = 0 ∨ r.phase = 4) → offsetOf s (operandM bd da imm) 128 128 = .ok o →
          loadHeld s bd o.off 128 128 = .ok (bs, t) →
          (rfOk bs = false → Traps (.rfbegin bd da imm) s t tProt)
          ∧ (rfOk bs = true → Room t → Plain t → Jumps (.rfbegin bd da imm) s t
              { phase := 1, exit := 0, stag := 0, level := 0, iter := 0, prev := 0x7FF0000000000000
                addr := BitVec.ofNat 48 ((t.desc bd).base + o.off), desc := rfResolve bs } (rfAddr bs 0)))
    ∧ (s.isUser = true → Room s → Completes .rfend s
        (s.modCtx (fun c => { c with refine := { c.refine with phase := 0, exit := 0, stag := 0, addr := 0, desc := [] } })))

/-- `RFTEST` in phase RESID on an FP64 tile (R328): it exits CONVERGED on a norm within TOL; on a norm that is NaN or, after
the first test of a level, above DRATIO times the last one, it escalates or raises REFINE_DIVERGE with nothing changed; a
third stagnating test in a row escalates under STAGESC or exits STAGNATED; the last test that MAXITER allows exits MAXITER;
else the loop goes on with SOLVE. -/
def Sys2Proof.Claims.RefinementTest : Prop :=
  ∀ (s : State) (v : VReg), Alone s → Plain s → Room s → s.isUser = true → s.ctx.window = 0 → s.ctx.refine.phase = 3 →
    let r := s.ctx.refine
    let tile := s.ctx.regs.vec v
    let code : BitVec 64 := tile.elems.getD 1 0 ++ tile.elems.getD 0 0
    let norm := (fmtOf 2).decode code.toNat
    let prev := (fmtOf 2).decode r.prev.toNat
    let within := norm.lt (rfTol r.desc) || norm.eq (rfTol r.desc)
    let worse := norm.isNan || (r.iter != 0 && ((rfDratio r.desc).mul prev).lt norm)
    let stag : BitVec 2 := if ((rfSratio r.desc).mul prev).lt norm then r.stag + 1 else 0
    let more : Prop := r.level.toNat < rfMaxlevel r.desc
    let last : Prop := rfMaxiter r.desc ≠ 0 ∧ rfMaxiter r.desc ≤ r.iter.toNat + 1
    let up : Refine := { r with phase := 1, level := r.level + 1, iter := 0, prev := 0x7FF0000000000000, stag := 0 }
    (tile.tag ≠ 2 → Traps (.rftest v) s s tFormat)
    ∧ (tile.tag = 2 →
      (within = true → Jumps (.rftest v) s s { r with phase := 4, exit := 1 } (rfAddr r.desc 3))
      ∧ (within = false → worse = true → more → Jumps (.rftest v) s s up (rfAddr r.desc 0))
      ∧ (within = false → worse = true → ¬ more → Traps (.rftest v) s s tRefineDiverge)
      ∧ (within = false → worse = false → stag = 3 → rfStagesc r.desc = true → more →
          Jumps (.rftest v) s s up (rfAddr r.desc 0))
      ∧ (within = false → worse = false → stag = 3 → (rfStagesc r.desc = false ∨ ¬ more) →
          Jumps (.rftest v) s s { r with phase := 4, exit := 2, stag := stag } (rfAddr r.desc 4))
      ∧ (within = false → worse = false → stag ≠ 3 → last →
          Jumps (.rftest v) s s { r with phase := 4, exit := 3, stag := stag } (rfAddr r.desc 5))
      ∧ (within = false → worse = false → stag ≠ 3 → ¬ last →
          Jumps (.rftest v) s s { r with phase := 2, prev := code, iter := r.iter + 1, stag := stag } (rfAddr r.desc 1)))

/-- The refinement controller (R326 to R329). The model's choices it rests on: log 87. -/
def Obligations.RefinementSteps : Prop :=
  Claims.RefinementPhases ∧ Claims.RefinementTest

/-! ## Classes 010 and 011: operands (R146, R147, R260, R331, R332) -/

/-- Where a memory operand lies (R146, R147, R260, R333): the offset of each addressing mode, with the update of the register
that POST and WRAP give; then, in this order, ALIGN for a misaligned place, PROT for a kind that the row does not reach and
for a place beyond LEN; else the place in the partition, or behind the translation. -/
def Sys2Proof.Claims.OperandPlaces : Prop :=
  ∀ (s : State) (m : MemOp) (size scale align : Nat) (reach : Reach) (acc : BitVec 4), s.issue.snap = none →
    let d := s.desc m.bd
    let reg (r : DReg) (k : Word) : Prop := s.ctx.regs.dom r = Dom.single k
    (∀ k, m.mode = .off → reg m.off k → ∃ o, offsetOf s m size scale = .ok o ∧ o.off = k.toNat + m.imm.toNat * scale
        ∧ o.upd = none ∧ o.ringEnd = false ∧ o.closed = false)
    ∧ (∀ k, m.mode = .post → reg m.off k → ∃ o, offsetOf s m size scale = .ok o ∧ o.off = k.toNat
        ∧ o.upd = some (.d m.off (Dom.single (k + BitVec.ofInt 32 (m.imm.toInt * scale)))) ∧ o.ringEnd = false ∧ o.closed = false)
    ∧ (∀ dx k x, m.mode = .idx dx → reg m.off k → reg dx x → ∃ o, offsetOf s m size scale = .ok o
        ∧ o.off = k.toNat + x.toNat * scale + m.imm.toNat * scale ∧ o.upd = none ∧ o.ringEnd = false ∧ o.closed = false)
    ∧ (∀ w base len cur, m.mode = .wrap w → s.ctx.regs.wrap w = wrapBits base len cur → ∃ o, offsetOf s m size scale = .ok o
        ∧ o.off = base.toNat + cur.toNat ∧ o.ringEnd = decide (len.toNat < cur.toNat + size) ∧ o.closed = false
        ∧ o.upd = some (.w w (wrapBits base len (if cur.toNat + size = len.toNat then 0 else cur + BitVec.ofNat 32 size))))
    ∧ ∀ o, offsetOf s m size scale = .ok o → o.ringEnd = false → o.closed = false →
      ((d.base + o.off) % align ≠ 0 → operand s m size scale align reach acc = .error (.trap { code := tAlign } s))
      ∧ ((d.base + o.off) % align = 0 →
        ((reach.has d.kind = false ∨ d.len < o.off + size) →
          operand s m size scale align reach acc = .error (.trap { code := tProt } s))
        ∧ (reach.has d.kind = true → o.off + size ≤ d.len →
          (∀ a b, translated d.kind = false → s.sramCell (s.isFw && m.bd == 14) d.kind (d.base + o.off) = some a →
            s.sramCell (s.isFw && m.bd == 14) d.kind (d.base + o.off + size - 1) = some b →
            operand s m size scale align reach acc = .ok (o, ⟨0, a, d.kind == 1, none⟩, s))
          ∧ (translated d.kind = true → 2 ^ 48 < d.base + o.off + size →
            operand s m size scale align reach acc = .error (.trap { code := tProt } s))
          ∧ ∀ pa t, translated d.kind = true → d.base + o.off + size ≤ 2 ^ 48 → bkptOn t = false →
            let va := BitVec.ofNat 48 (d.base + o.off)
            s.translate (agentPort s.cur) s.ctx.id.conf s.ctx.id.pasid va acc = .ok pa t →
            operand s m size scale align reach acc = .ok (o, ⟨physKey pa, physCell pa, false, some va⟩, t)))

/-! ## Class 010: loads and stores of registers (R331 to R336) -/

/-- `LD` brings the bytes at its place, extended as its size says, six bundles later; a store within the slice of its core
writes its bytes there and no other byte, and any other store is sent to its home (R331 to R335). -/
def Sys2Proof.Claims.LoadsAndStores : Prop :=
  (∀ (s : State) (z : LoadSize) (dd : DReg) (m : MemOp) (o : Offset) (l : Loc) (t : State), Alone s →
      operand s m (loadBytes z) (loadBytes z) (loadBytes z) .localOnly accRead = .ok (o, l, t) →
      Goes t (ordClass m (s.desc m.bd)) l (loadBytes z) false →
      let v := leNat (t.bytesKey l.key l.cell (loadBytes z))
      let x := o.apply t
      let u := match z with
        | .b => x.write 6 (.d dd (Dom.single ((BitVec.ofNat 8 v).signExtend 32)))
        | .bu => x.write 6 (.d dd (Dom.single ((BitVec.ofNat 8 v).setWidth 32)))
        | .h => x.write 6 (.d dd (Dom.single ((BitVec.ofNat 16 v).signExtend 32)))
        | .hu => x.write 6 (.d dd (Dom.single ((BitVec.ofNat 16 v).setWidth 32)))
        | .w => x.write 6 (.d dd (Dom.single (BitVec.ofNat 32 v)))
        | .d => (x.write 6 (.d dd (Dom.single ((BitVec.ofNat 64 v).setWidth 32)))).write 6
            (.d (dd + 1) (Dom.single (((BitVec.ofNat 64 v) >>> 32).setWidth 32)))
      Room u → Completes (.ld z dd m) s u)
  ∧ (∀ (s : State) (z : StoreSize) (ds : DReg) (m : MemOp) (o : Offset) (l : Loc) (t : State) (a b : Word), Alone s →
      s.ctx.regs.dom ds = Dom.single a → (z = .d → s.ctx.regs.dom (ds + 1) = Dom.single b) →
      operand s m (storeBytes z) (storeBytes z) (storeBytes z) .all accWrite = .ok (o, l, t) →
      let bs := leBytes (storeBytes z) (b ++ a).toNat
      let cls := ordClass m (s.desc m.bd)
      (l.near = true → Goes t cls l (storeBytes z) true → let u := o.apply (t.setBytesKey l.key l.cell bs)
        (Room u → Completes (.st z ds m) s u)
        ∧ (MemInv t → SameKey t l.key l.cell (storeBytes z) → Stored t u l.cell bs))
      ∧ (MaySend t cls l (storeBytes z) true → ∃ v, Sent t v 1 0 cls l (storeBytes z) bs
          ∧ (Room (o.apply v) → Completes (.st z ds m) s (o.apply v))))
  ∧ (∀ (s : State) (ds : DReg) (m : MemOp) (mask : BitVec 2) (o : Offset) (l : Loc) (t : State) (a : Word), Alone s →
      s.ctx.regs.dom ds = Dom.single a → s.isFw = false → operand s m 1 1 1 .all accWrite = .ok (o, l, t) →
      let cls := ordClass m (s.desc m.bd)
      (l.near = true → Goes t cls l 1 true → ∃ v : Byte, let u := o.apply (t.setBytesKey l.key l.cell [v])
        (Room u → Completes (.stn ds m mask) s u)
        ∧ v.extractLsb' 0 4 = (if mask.getLsbD 0 then a.extractLsb' 0 4 else (t.byteKey l.key l.cell).extractLsb' 0 4)
        ∧ v.extractLsb' 4 4 = (if mask.getLsbD 1 then a.extractLsb' 0 4 else (t.byteKey l.key l.cell).extractLsb' 4 4))
      ∧ (MaySend t cls l 1 true → ∃ v, Sent t v 3 0 cls l 1 [a.extractLsb' 0 4 ++ a.extractLsb' 0 4, mask.setWidth 8]
          ∧ (Room (o.apply v) → Completes (.stn ds m mask) s (o.apply v))))
  ∧ ∀ (s : State) (w : WReg) (m : MemOp) (dn : DReg) (n : Word) (o : Offset), Alone s → s.ctx.regs.dom dn = Dom.single n →
      (s.isFw = true → Traps (.wset w m dn) s s tIllegal)
      ∧ (s.isFw = false → offsetOf s m 1 1 = .ok o →
        ((n = 0 ∨ n.toNat % 8 ≠ 0 ∨ (s.desc m.bd).len < o.off + 1) → Traps (.wset w m dn) s s tProt)
        ∧ (n ≠ 0 → n.toNat % 8 = 0 → o.off + 1 ≤ (s.desc m.bd).len → o.off < 2 ^ 32 →
          let u := s.write 1 (.w w (wrapBits (BitVec.ofNat 32 o.off) n 0))
          Room u → Completes (.wset w m dn) s u))

/-- Where an access goes, and what loads and stores do (R146, R147, R260, R331 to R335). The model's choices it rests on:
log 14, 15, 27, 28. -/
def Obligations.LoadsAndStores : Prop :=
  Claims.LoadsAndStores ∧ Claims.OperandPlaces

/-- `LDR` completes without its value (R190, R336): from the slice of its core it takes the bytes at once, from another
home it sends a read, and on a translation fault it waits; in each case the context holds one more split-phase load,
with its register, its event and the bundle that issued it, and no register changes. The model's choices it rests
on: log 14, 27. -/
def Obligations.SplitLoads : Prop :=
  ∀ (s : State) (z : LoadSize) (dd : DReg) (m : MemOp) (k : EvNum), Alone s →
    let n := loadBytes z
    let cls := ordClass m (s.desc m.bd)
    let split : State := { s with issue := { s.issue with split := true } }
    let mine (l : Ldr) : Prop := l.size = z ∧ l.dd = dd ∧ l.ev = k ∧ l.count = s.ctx.count ∧ l.cls = cls ∧ l.slotOf = none
    (eventOk s k.toNat = false → Traps (.ldr z dd m k) s s tIllegal)
    ∧ (eventOk s k.toNat = true → ∀ o l t, operand split m n n n .all accRead = .ok (o, l, t) →
      let t : State := { t with issue := s.issue }
      (l.near = true → Goes t cls l n false → ∃ e : Ldr, mine e ∧ e.data = some (t.bytesKey l.key l.cell n) ∧ e.fault = none
        ∧ let u := o.apply (t.modCtx (fun c => { c with ldrs := c.ldrs ++ [e] }))
          (Room u → Completes (.ldr z dd m k) s u))
      ∧ (MaySend t cls l n false → ∃ (e : Ldr) (v : State), mine e ∧ e.data = none ∧ e.fault = none ∧ Sent t v 0 0 cls l n []
        ∧ e.dst = t.homeNode l.cell
        ∧ let u := o.apply (v.modCtx (fun c => { c with ldrs := c.ldrs ++ [e] }))
          (Room u → Completes (.ldr z dd m k) s u)))
    ∧ (eventOk s k.toNat = true → bkptOn s = false → ∀ o f, operand split m n n n .all accRead = .error (.fault f) →
      offsetOf s m n n = .ok o →
      ∃ e : Ldr, mine e ∧ e.data = none ∧ e.fault = f.ctx.waits.fault ∧ e.off = o.off ∧ e.bd = s.ctx.regs.desc m.bd
        ∧ let u := o.apply ((({ f with issue := s.issue } : State).modCtx (fun c => { c with waits := { c.waits with fault := none } })).modCtx
            (fun c => { c with ldrs := c.ldrs ++ [e] }))
          (Room u → Completes (.ldr z dd m k) s u))

/-! ## Class 010: tiles (R337 to R340) -/

/-- `LDV`, `GATHV` and `LDVP` fill a tile from the bytes at the places of its elements, 22 bundles later (`LDVP`: the next
one), and `STV` and `SCATV` write them, in row-major order; `LDVP` marks the rows whose pages are absent (R337 to R339). -/
def Sys2Proof.Claims.TilesMove : Prop :=
  ∀ (s : State) (v : VReg) (m : MemOp) (dp : DReg) (vi : VReg) (p : PReg), Alone s →
    (s.isUser = false → AllTrap s tIllegal [.ldv v m dp, .stv v m dp, .gathv v m vi, .scatv v m vi, .ldvp v m p])
    ∧ (∀ o d pitch tag, tileOperand m dp true s = .ok (o, d, pitch, tag) → s.poison = [] →
        ∃ x : VTile, x.tag = tag ∧ x.elems.length = 1024 ∧ (∀ r c, r < 16 → c < 64 → x.elems.getD (64 * r + c) 0 =
            BitVec.ofNat 32 (leNat (s.bytes ((s.sramCell false d.kind (d.base + o.off + r * pitch + 16 * (c / 4))).getD 0
              + 4 * (c % 4)) 4)))
          ∧ let u := (o.apply s).write 22 (.v v x)
            (Room u → Completes (.ldv v m dp) s u))
    ∧ (∀ o d pitch tag, tileOperand m dp false s = .ok (o, d, pitch, tag) → ∃ t,
        (Room (o.apply t) → Completes (.stv v m dp) s (o.apply t)) ∧ t.ctx = s.ctx
        ∧ let at_ (r j : Nat) : Nat := (s.sramCell false d.kind (d.base + o.off + r * pitch + 16 * j)).getD 0
          (MemInv s → (∀ r j, r < 16 → j < 16 → SameKey s 0 (at_ r j) 16) →
            (∀ b, (∀ r j, r < 16 → j < 16 → ¬ (at_ r j ≤ b ∧ b < at_ r j + 16)) → t.byte b = s.byte b)
            ∧ ((∀ r j r' j', r < 16 → j < 16 → r' < 16 → j' < 16 → (r, j) ≠ (r', j') →
                at_ r j + 16 ≤ at_ r' j' ∨ at_ r' j' + 16 ≤ at_ r j) →
              ∀ r c i, r < 16 → c < 64 → i < 4 → t.byte (at_ r (c / 4) + 4 * (c % 4) + i) =
                (leBytes 4 ((s.ctx.regs.vec v).elems.getD (64 * r + c) 0).toNat).getD i 0 ∨
                (s.ctx.regs.vec v).elems.length ≠ 1024)))
    ∧ (∀ cells, gatherCells m vi s = .ok cells → s.poison = [] →
        let x : VTile := ⟨(s.ctx.regs.vec v).tag, cells.map (fun a => BitVec.ofNat 32 (leNat (s.bytes a 4)))⟩
        (Room (s.write 22 (.v v x)) → Completes (.gathv v m vi) s (s.write 22 (.v v x))))
    ∧ (∀ cells, gatherCells m vi s = .ok cells → ∃ t, (Room t → Completes (.scatv v m vi) s t) ∧ t.ctx = s.ctx
        ∧ (MemInv s → (∀ a ∈ cells, SameKey s 0 a 4) →
          (∀ b, (∀ a ∈ cells, ¬ (a ≤ b ∧ b < a + 4)) → t.byte b = s.byte b)
          ∧ ∀ (i a : Nat) (e : Word), cells[i]? = some a → (s.ctx.regs.vec v).elems[i]? = some e →
            (∀ j b, i < j → cells[j]? = some b → b + 4 ≤ a ∨ a + 4 ≤ b) → t.bytes a 4 = leBytes 4 e.toNat))
    ∧ ∀ o bytes absent t, s.isUser = true → offsetOf s m 256 256 = .ok o → ((s.desc m.bd).base + o.off) % 16 = 0 →
        translated (s.desc m.bd).kind = true → o.off + 4096 ≤ (s.desc m.bd).len → bkptOn s = false →
        probe (s.desc m.bd) (ordClass m (s.desc m.bd)) o.off s = .ok (bytes, absent, t) →
        ∃ q : BitVec 1024, (∀ r c, r < 16 → c < 64 → q.getLsbD (64 * r + c) = absent.getD r false)
          ∧ let u := (t.dropGot.write 1 (.v v ⟨(s.ctx.regs.vec v).tag, wordsOf 1024 bytes⟩)).write 1 (.p p q)
            (Room u → Completes (.ldvp v m p) s u)

/-- `PAGEREQ` asks for a page that is not there with a record of the fault ring and waits for nothing; `PREFETCH` walks the
pages of a range; on an untranslated kind, and `PREFETCH` of no byte, they do nothing (R158, R340). -/
def Sys2Proof.Claims.PagesAreAsked : Prop :=
  ∀ (s : State) (m : MemOp) (dn : DReg) (n : Word) (o : Offset), Alone s → offsetOf s m 1 1 = .ok o →
    s.ctx.regs.dom dn = Dom.single n →
    let d := s.desc m.bd
    let va := BitVec.ofNat 48 (d.base + o.off)
    let look := s.translate (agentPort s.cur) s.ctx.id.conf s.ctx.id.pasid va accRead
    (s.isFw = true → Traps (.pagereq m) s s tIllegal)
    ∧ (d.len < o.off + 1 → (s.isFw = false → Traps (.pagereq m) s s tProt) ∧ Traps (.prefetch dn m) s s tProt)
    ∧ (o.off + 1 ≤ d.len → translated d.kind = false → Room s → (s.isFw = false → Completes (.pagereq m) s s)
        ∧ Completes (.prefetch dn m) s s)
    ∧ (o.off + 1 ≤ d.len → n = 0 → Room s → Completes (.prefetch dn m) s s)
    ∧ (s.isFw = false → o.off + 1 ≤ d.len → translated d.kind = true → d.base + o.off + 1 ≤ 2 ^ 48 →
      (∀ pa t, look = .ok pa t → Room t → Completes (.pagereq m) s t)
      ∧ (∀ t, look = .prot t → Room t → Completes (.pagereq m) s t) ∧ (look = .wait → Room s → Completes (.pagereq m) s s)
      ∧ ∀ c t, look = .fault c t →
        ((t.mmu.faults.length < 1024 ∧ t.fbRoom = true) → ∃ f : OpenFault, f.pasid = t.ctx.id.pasid ∧ f.va = va
            ∧ f.access = accRead ∧ f.cause = c ∧ f.path = 6 ∧ f.region = t.ctx.id.region
            ∧ let u := t.fbWrite (faultRecord f 2 t.ptime)
              (Room u → Completes (.pagereq m) s u))
        ∧ (¬ (t.mmu.faults.length < 1024 ∧ t.fbRoom = true) →
            let u : State := { t with mmu := { t.mmu with fbovf := true } }
            Room u → Completes (.pagereq m) s u))
    ∧ (o.off + 1 ≤ d.len → translated d.kind = true → d.base + o.off + 1 ≤ 2 ^ 48 → n ≠ 0 →
        let first := d.base + o.off
        let last := d.base + min (o.off + n.toNat) d.len - 1
        let t := prefetchPages ((last - first) / 4096 + 2) s first last
        let u := if d.kind = kindFar then prefetchCounts ((last - first) / 65536 + 2) t first last else t
        Room u → Completes (.prefetch dn m) s u)

/-- Tile loads and stores, prefetches and page requests (R158, R337 to R340). The model's choices it rests on: log 14. -/
def Obligations.TilesMoveAndPages : Prop :=
  Claims.TilesMove ∧ Claims.PagesAreAsked

/-! ## Class 010: streams (R341 to R343) -/

/-- `SOPEN` opens a stream register on the operand with the four parameters of its quad, `SADV` moves its position
forward, at most to its count, `SGET` and `VSGET` read elements, an element at or past the count as 0, `STEND` tests
for the end, and `SCLOSE` clears V. A parameter that R342 does not admit and a register that is not open raise PROT;
in the firmware context all are ILLEGAL. The model's choices it rests on: log 14, 28. -/
def Obligations.StreamsOpenAndRead : Prop :=
  ∀ (s : State) (kind : BitVec 2) (f : FReg) (m : MemOp) (dq dd dn : DReg) (v : VReg) (c : CReg) (p0 p1 p2 p3 n : Word),
    Alone s → s.ctx.regs.dom dq = Dom.single p0 → s.ctx.regs.dom (dq + 1) = Dom.single p1 →
    s.ctx.regs.dom (dq + 2) = Dom.single p2 → s.ctx.regs.dom (dq + 3) = Dom.single p3 → s.ctx.regs.dom dn = Dom.single n →
    let x := Fibre.ofBits (s.ctx.regs.stream f)
    (s.isFw = true → AllTrap s tIllegal [.sopen kind f m dq, .sadv f dn, .sget dd f, .vsget v f, .stend c f, .sclose f])
    ∧ (s.isUser = true → x.valid = false → AllTrap s tProt [.sadv f dn, .sget dd f, .vsget v f, .stend c f, .sclose f])
    ∧ (s.isFw = false → ∀ o, offsetOf s m 1 1 = .ok o → o.off < 2 ^ 32 →
      let y : Fibre := ⟨true, kind, p0.setWidth 2, m.bd, BitVec.ofNat 32 o.off, p0, p1, p2, p3, 0⟩
      let good : Prop := p0.toNat ≤ 2 ∧ (kind = 0 → p2 = 0) ∧ (kind ≠ 2 → p3 = 0)
      (kind ≠ 3 → good → ∃ b, Fibre.ofBits b = y ∧ (Room (s.write 1 (.f f b)) →
          Completes (.sopen kind f m dq) s (s.write 1 (.f f b))))
      ∧ (kind ≠ 3 → ¬ good → Traps (.sopen kind f m dq) s s tProt)
      ∧ ∀ g t, kind = 3 → sopenSpr s y (s.desc m.bd) p0 p1 = .ok (g, t) → ∃ b, Fibre.ofBits b = g
          ∧ (Room (t.write 1 (.f f b)) → Completes (.sopen kind f m dq) s (t.write 1 (.f f b))))
    ∧ (s.isFw = false → x.valid = true →
      (∃ b, Fibre.ofBits b = { x with valid := false }
        ∧ (Room (s.write 1 (.f f b)) → Completes (.sclose f) s (s.write 1 (.f f b))))
      ∧ ∀ count used t, fibreCount x (s.desc x.bd) 0 s = .ok (count, used, t) →
        (count < 2 ^ 32 → ∃ b, Fibre.ofBits b = { x with pos := BitVec.ofNat 32 (min (x.pos.toNat + n.toNat) count) }
          ∧ let u := t.dropGot.write 1 (.f f b)
            (Room u → Completes (.sadv f dn) s u))
        ∧ (let u := t.dropGot.write 1 (.c c (decide (count ≤ x.pos.toNat)))
          Room u → Completes (.stend c f) s u)
        ∧ (count ≤ x.pos.toNat → let u := t.dropGot.write 6 (.d dd (Dom.single 0))
          Room u → Completes (.sget dd f) s u)
        ∧ (∀ w used' t', x.pos.toNat < count → fibreLoad x (s.desc x.bd) x.pos.toNat used t = .ok (w, used', t') →
            let u := t'.dropGot.write 6 (.d dd (Dom.single w))
            Room u → Completes (.sget dd f) s u)
        ∧ (s.isUser = true → x.size ≠ 2 → Traps (.vsget v f) s s tProt)
        ∧ ∀ ws t', s.isUser = true → x.size = 2 →
            fibreLoads x (s.desc x.bd) count 1024 x.pos.toNat used t = .ok (ws, t') →
            ws.length = 1024 ∧ (∀ i, i < 1024 → count ≤ x.pos.toNat + i → ws.getD i 1 = 0)
            ∧ let u := t'.dropGot.write 22 (.v v ⟨(s.ctx.regs.vec v).tag, ws⟩)
              (Room u → Completes (.vsget v f) s u))

/-! ## Class 011 (R39, R170 to R176, R344 to R355) -/

/-- An atomic at its home, on the package and outside replay (R39, R344): the old value goes to its register for the next
bundle, and the operation's value takes its place in one step; `CAS` writes only where the old value is its destination's. -/
def Sys2Proof.Claims.AtomicsAtHome : Prop :=
  ∀ (s : State) (wide : Bool) (dd : DReg) (m : AtomOp) (ds : DReg) (l : Loc) (o : Offset) (t : State) (x0 x1 c0 c1 : Word),
    Alone s → s.isFw = false → s.ctx.dbg.replayctl.extractLsb' 62 2 = 0 → s.ctx.regs.dom ds = Dom.single x0 →
    (wide = true → s.ctx.regs.dom (ds + 1) = Dom.single x1) →
    let n := if wide then 8 else 4
    let cls := ordClass (atomMem m) (s.desc m.bd)
    operand s (atomMem m) n n n .all accAtomic = .ok (o, l, t) → Goes t cls l n false →
    (m.order.getLsbD 1 = true → t.ctx.performed (BitVec.allOnes 16) (isSystem m.scope) = true) →
        t.ctx.dbg.replayctl = s.ctx.dbg.replayctl →
    t.issue = s.issue →
    let old := leNat (t.bytesKey l.key l.cell n)
    let x : Nat := if wide then (x1 ++ x0).toNat else x0.toNat
    let done (new : Nat) : State :=
      let u := (t.setBytesKey l.key l.cell (leBytes n new)).countFar l.cell
      if wide then (u.write 1 (.d dd (Dom.single (BitVec.ofNat 32 old)))).write 1 (.d (dd + 1) (Dom.single (BitVec.ofNat 32 (old / 2 ^ 32))))
      else u.write 1 (.d dd (Dom.single (BitVec.ofNat 32 old)))
    (∀ f ∈ atomicForms, let u := done (f.2 (8 * n) (BitVec.ofNat (8 * n) old) (BitVec.ofNat (8 * n) x)).toNat
        Room u → Completes (f.1 wide dd m ds) s u)
    ∧ (s.ctx.regs.dom dd = Dom.single c0 → (wide = true → s.ctx.regs.dom (dd + 1) = Dom.single c1) →
        let c : Nat := if wide then (c1 ++ c0).toNat else c0.toNat
        (old = c → Room (done x) → Completes (.cas wide dd m ds) s (done x))
        ∧ (old ≠ c → ∃ u : State, (Room u → Completes (.cas wide dd m ds) s u) ∧ u.mem = (t.countFar l.cell).mem
            ∧ u.ctx = (done x).ctx))

/-- `LDA` brings its bytes for the next bundle, `STL` stores after every earlier access of the context has performed, and
`FENCE` waits until those of its classes have; at SYSTEM scope what has left the package counts too, and the flushing reads go
out (R169 to R171, R179, R345, R346). All three are ILLEGAL in the firmware context. -/
def Sys2Proof.Claims.AcquireRelease : Prop :=
  ∀ (s : State) (wide : Bool) (dd ds : DReg) (m : MemOp) (scope : BitVec 3) (mask : BitVec 16) (x0 x1 : Word), Alone s →
    let n := if wide then 8 else 4
    let cls := ordClass m (s.desc m.bd)
    let bs := leBytes n (if wide then (x1 ++ x0).toNat else x0.toNat)
    (s.isFw = true → AllTrap s tIllegal [.lda wide dd m, .stl wide ds m, .fence scope mask])
    ∧ (s.isFw = false → s.ctx.performed mask (isSystem scope) = true → Room s → Completes (.fence scope mask) s s)
    ∧ (s.isFw = false → s.ctx.performed mask (isSystem scope) = false →
        Stalls (.fence scope mask) s (if isSystem scope then s.flush else s))
    ∧ (s.isFw = false → ∀ o l t, operand s m n n n .all accRead = .ok (o, l, t) → Goes t cls l n false →
        t.ctx.waits.got = [] →
        let v := leNat (t.bytesKey l.key l.cell n)
        let u := if wide then ((t.countFar l.cell).write 1 (.d dd (Dom.single (BitVec.ofNat 32 v)))).write 1
            (.d (dd + 1) (Dom.single (BitVec.ofNat 32 (v / 2 ^ 32))))
          else (t.countFar l.cell).write 1 (.d dd (Dom.single (BitVec.ofNat 32 v)))
        Room u → Completes (.lda wide dd m) s u)
    ∧ (s.isFw = false → s.ctx.regs.dom ds = Dom.single x0 → (wide = true → s.ctx.regs.dom (ds + 1) = Dom.single x1) →
        ∀ o l t, operand s m n n n .all accWrite = .ok (o, l, t) →
        (t.ctx.performed (BitVec.allOnes 16) (isSystem m.scope) = false →
          Stalls (.stl wide ds m) s (if isSystem m.scope then t.flush else t))
        ∧ (t.ctx.performed (BitVec.allOnes 16) (isSystem m.scope) = true →
          (l.near = true → Goes t cls l n true → let u := t.setBytesKey l.key l.cell bs
            (Room u → Completes (.stl wide ds m) s u) ∧ (MemInv t → SameKey t l.key l.cell n → Stored t u l.cell bs))
          ∧ (MaySend t cls l n true → ∃ v, Sent t v 1 0 cls l n bs ∧ (Room v → Completes (.stl wide ds m) s v))))

/-- Atomics, and the instructions that order accesses (R39, R170, R171, R344 to R346). The model's choices it rests on:
log 14, 29. -/
def Obligations.AtomicsAndOrder : Prop :=
  Claims.AtomicsAtHome ∧ Claims.AcquireRelease

/-- Barrier words (R176, R347 to R349): `BARWINIT` sets the target and clears the count and keeps the generation, `BARWADD`
adds, in the slice of the core at once and elsewhere by a request; `BARWTRY` and `BARWWAIT` test whether the generation
named has been reached, and the wait goes on until it has. -/
def Sys2Proof.Claims.BarrierWords : Prop :=
  ∀ (s : State) (dr : DReg) (m : MemOp) (am : AtomOp) (exact : Bool) (c : CReg) (dt : DReg) (a b limit : Word), Alone s →
    s.ctx.dbg.replayctl.extractLsb' 62 2 = 0 → s.ctx.regs.dom dr = Dom.single a → s.ctx.regs.dom dt = Dom.single limit →
    (s.isFw = true → AllTrap s tIllegal [.barwinit dr m exact, .barwadd dr am, .barwwait dr m dt, .barwtry dr m c])
    ∧ (s.isFw = false → s.ctx.regs.dom (dr + 1) = Dom.single b → ∀ l t, barOperand m accWrite s = .ok (l, t) →
      (l.near = true → t.ctx.clearFor 15 l 32 none false = true → ∃ w : BarWord,
          w.target = b ++ a ∧ w.count = 0 ∧ w.gen = (t.barWord l.key l.cell).gen ∧ w.flags = (if exact then 3 else 1)
          ∧ let u := t.setBytesKey l.key l.cell (w.bytes ++ leBytes 8 0)
            (Room u → Completes (.barwinit dr m exact) s u))
      ∧ (MaySend t 15 l 9 true → ∃ v, Sent t v 6 1 15 l 9 (leBytes 8 (b ++ a).toNat ++ [if exact then 1 else 0])
          ∧ (Room v → Completes (.barwinit dr m exact) s v)))
    ∧ (s.isFw = false → ∀ l t, barOperand (atomMem am) accAtomic s = .ok (l, t) →
        (am.order = 2 → t.ctx.performed (BitVec.allOnes 16) (isSystem am.scope) = true) →
      let cls := ordClass (atomMem am) (s.desc am.bd)
      (l.near = true → t.ctx.clearFor cls l 32 none false = true →
          let u := t.setBytesKey l.key l.cell ((t.barWord l.key l.cell).add (a.setWidth 64)).bytes
          Room u → Completes (.barwadd dr am) s u)
      ∧ (MaySend t cls l 8 true → ∃ v, Sent t v 5 0 cls l 8 (leBytes 8 a.toNat)
          ∧ (Room v → Completes (.barwadd dr am) s v)))
    ∧ (s.isFw = false → ∀ l w t, barRead m s = .ok (l, w, t) → t.ctx.waits.timedOut = false →
        t.ctx.dbg.replayctl = s.ctx.dbg.replayctl → t.issue = s.issue →
      (w.reached a = true →
        (let u := t.write 1 (.c c true)
         Room u → Completes (.barwtry dr m c) s u)
        ∧ (let u := t.modWaits (fun w => { w with barrier := false })
           Room u → Completes (.barwwait dr m dt) s u))
      ∧ (w.reached a = false → w.isOver = true → AllTrap s tBarrierOver [.barwwait dr m dt]
          ∧ Traps (.barwtry dr m c) s s tBarrierOver)
      ∧ (w.reached a = false → w.isOver = false →
        (let u := t.write 1 (.c c false)
         Room u → Completes (.barwtry dr m c) s u)
        ∧ ∃ v, Stalls (.barwwait dr m dt) s v ∧ v.mem = s.mem ∧ v.ctx.regs = s.ctx.regs ∧ v.ctx.pc = s.ctx.pc
          ∧ v.ctx.waits.barrier = true ∧ v.ctx.waits.gen = a ∧ v.ctx.waits.limit = limit
          ∧ (s.ctx.waits.barrier = false → v.ctx.waits.since = s.cycle)))
  ∧ ∀ (w : BarWord) (n : BitVec 64),
      let sum := w.count + n
      ((w.init = false ∨ w.target = 0 ∨ w.isOver = true) → w.add n = { w with count := sum })
      ∧ (w.init = true → w.target ≠ 0 → w.isOver = false →
        (w.exact = true → w.add n = (if sum = w.target then { w with gen := w.gen + 1, count := 0 }
          else if w.target < sum then { w with count := sum, flags := w.flags ||| 4 } else { w with count := sum }))
        ∧ (w.exact = false → w.add n =
            { w with gen := w.gen + (sum / w.target).setWidth 32, count := sum % w.target }))
      ∧ ∀ g, w.reached g = true ↔ (w.gen - g).toNat < 2 ^ 31

/-- Work deques (R114, R115, R350, R351), outside record and replay: `WQPUSH` puts its item at BOTTOM, or finds the deque full
with 128 items; `WQPOP` takes the youngest item and `WQSTEAL` the oldest; `WQPOP.ONE` takes one index of a range and leaves
the rest; an empty deque gives nothing and changes nothing. The condition register tells. -/
def Sys2Proof.Claims.Deques : Prop :=
  ∀ (s : State) (q : BitVec 4) (m : MemOp) (c : CReg) (l : Loc) (t : State), Alone s →
    s.ctx.dbg.replayctl.extractLsb' 62 2 = 0 → dqOperand m s = .ok (l, t) → MemInv t → (∀ k, k < 2112 →
        keyed (l.cell + k) = false) →
    t.ctx = s.ctx → t.issue = s.issue →
    let held := t.dqHeld l.cell
    let top := t.dqTop l.cell
    let bottom := t.dqBottom l.cell
    let item (k : Word) : Nat := l.cell + 64 + 16 * (k.toNat % 128)
    let full (i : Instr) : Prop := Room (t.write 1 (.c c true)) → Completes i s (t.write 1 (.c c true))
    let takes (i : Instr) (it : List Byte) (new : Word → Word → Prop) (others : Nat → Prop) : Prop := ∃ u : State,
      u.ctx = t.ctx ∧ new (u.dqTop l.cell) (u.dqBottom l.cell) ∧ (∀ b, others b → u.byte b = t.byte b)
      ∧ let v := (((u.write 1 (.d (BitVec.ofNat 6 (4 * q.toNat)) (Dom.single (BitVec.ofNat 32 (field it 0 1))))).write 1
          (.d (BitVec.ofNat 6 (4 * q.toNat + 1)) (Dom.single (BitVec.ofNat 32 (field it 8 4))))).write 1
          (.d (BitVec.ofNat 6 (4 * q.toNat + 2)) (Dom.single (BitVec.ofNat 32 (field it 12 4))))).write 1 (.c c false)
        (Room v → Completes i s v)
    let away (lo n b : Nat) : Prop := ¬ (lo ≤ b ∧ b < lo + n)
    (∀ k a b : Word, s.ctx.regs.dom (BitVec.ofNat 6 (4 * q.toNat)) = Dom.single k →
        s.ctx.regs.dom (BitVec.ofNat 6 (4 * q.toNat + 1)) = Dom.single a →
        s.ctx.regs.dom (BitVec.ofNat 6 (4 * q.toNat + 2)) = Dom.single b →
      ((k.toNat = 0 ∨ 3 < k.toNat) → Traps (.wqpush q m c) s s tProt)
      ∧ (1 ≤ k.toNat → k.toNat ≤ 3 → t.ctx.performed (BitVec.allOnes 16) false = true →
        (128 ≤ held → full (.wqpush q m c))
        ∧ (held < 128 → ∃ u : State, u.dqBottom l.cell = bottom + 1 ∧ u.dqTop l.cell = top
            ∧ u.bytes (item bottom) 16 = leBytes 8 k.toNat ++ leBytes 4 a.toNat ++ leBytes 4 b.toNat ∧ u.ctx = t.ctx
            ∧ (∀ b, away (item bottom) 16 b → away (l.cell + 4) 4 b → u.byte b = t.byte b)
            ∧ let v := u.write 1 (.c c false)
              (Room v → Completes (.wqpush q m c) s v))))
    ∧ (held = 0 → full (.wqpop q m c) ∧ full (.wqpopOne q m c) ∧ full (.wqsteal q m c))
    ∧ (held ≠ 0 →
      takes (.wqpop q m c) (t.bytes (item (bottom - 1)) 16) (fun x y => x = top ∧ y = bottom - 1) (away (l.cell + 4) 4)
      ∧ takes (.wqsteal q m c) (t.bytes (item top) 16) (fun x y => x = top + 1 ∧ y = bottom) (away l.cell 4)
      ∧ let it := t.bytes (item (bottom - 1)) 16
        ((field it 0 1 ≠ 1 ∨ field it 12 4 ≤ 1) →
          takes (.wqpopOne q m c) it (fun x y => x = top ∧ y = bottom - 1) (away (l.cell + 4) 4))
        ∧ (field it 0 1 = 1 → 1 < field it 12 4 →
          takes (.wqpopOne q m c) (it.take 12 ++ leBytes 4 1) (fun x y => x = top ∧ y = bottom)
            (away (item (bottom - 1) + 8) 8)))

/-- Barrier words and work deques (R114, R115, R176, R347 to R351). The model's choices it rests on: log 14, 16, 101. -/
def Obligations.BarriersAndDeques : Prop :=
  Claims.BarrierWords ∧ Claims.Deques

/-- The lookup group, on a lookup core only (R200, R352 to R355): `LDEDUP` keeps the first occurrence of each value,
`LPOOL` combines rows of its buffer column by column, `LGATHER` fetches its rows in order and gives the mask of the
indices outside the table, and `LHAND` completes when its chunks have all been sent. The model's choices it rests
on: log 14, 30, 106. -/
def Obligations.LookupGroup : Prop :=
  ∀ (s : State) (dd ds dk dw : DReg) (m : MemOp) (n : BitVec 3) (scope : BitVec 3) (op : BitVec 2) (rows : BitVec 4)
    (rsz : BitVec 20), Alone s →
    (s.isLookup = false → AllTrap s tIllegal [.lgather dd m n, .ldedup dd scope dk n, .lpool op dd scope ds rows rsz, .lhand ds m dw])
    ∧ (s.isLookup = true → ∀ vs : List Word, vs.length = n.toNat + 1 →
        (∀ i v, vs[i]? = some v → s.ctx.regs.dom (dk + BitVec.ofNat 6 i) = Dom.single v) →
        let kept := vs.eraseDups
        let u := s.writes 2 ((kept.zipIdx).map (fun e => Write.d (dk + BitVec.ofNat 6 e.2) (Dom.single e.1))
              ++ [.d dd (Dom.single (BitVec.ofNat 32 kept.length))])
        Room u → Completes (.ldedup dd scope dk n) s u)
    ∧ (s.isLookup = true → ∀ a b : Word, s.ctx.regs.dom dd = Dom.single a → s.ctx.regs.dom ds = Dom.single b →
        a.toNat % 16 = 0 → b.toNat % 16 = 0 → a.toNat + 16 * rsz.toNat ≤ 2 ^ 20 →
        b.toNat + 16 * rsz.toNat * (rows.toNat + 1) ≤ 2 ^ 20 → s.poison = [] →
        ∃ out : List Word, out.length = 4 * rsz.toNat ∧ (∀ c, c < 4 * rsz.toNat → out.getD c 0 = BitVec.ofNat 32 (poolColumn op
            ((List.range (rows.toNat + 1)).map (fun r =>
              leNat (s.bytes (bufferCell s.lookupNo (b.toNat + 16 * rsz.toNat * r + 4 * c)) 4)))))
          ∧ let u := s.setBytes (bufferCell s.lookupNo a.toNat) (bytesOfWords out)
            (Room u → Completes (.lpool op dd scope ds rows rsz) s u))
    ∧ (s.isLookup = true → ∀ (a : Word) (vs : List Word) (t : State), s.ctx.regs.dom dd = Dom.single a → a.toNat % 16 = 0 →
        a.toNat + 16 * m.imm.toNat * (n.toNat + 1) ≤ 2 ^ 20 → vs.length = n.toNat + 1 →
        (∀ i v, vs[i]? = some v → s.ctx.regs.dom (m.off + BitVec.ofNat 6 i) = Dom.single v) →
        let bytes := 16 * m.imm.toNat
        let rowsOf := (s.desc m.bd).len / bytes
        gatherRows (s.desc m.bd) a.toNat bytes rowsOf vs 0 [] 0 s = .ok t →
        ∃ mask : Word, (∀ i v, vs[i]? = some v → mask.getLsbD i = decide (rowsOf ≤ v.toNat))
          ∧ let u := t.dropGot.write 1 (.d dd (Dom.single mask))
            (Room u → Completes (.lgather dd m n) s u))
    ∧ (s.isLookup = true → ∀ (a off w : Word) (bar : Loc) (t u : State),
        s.ctx.regs.dom ds = Dom.single a → s.ctx.regs.dom m.off = Dom.single off → s.ctx.regs.dom dw = Dom.single w →
        let len := (m.imm.extractLsb' 0 16).toNat
        let rot := (m.imm.extractLsb' 16 4).toNat
        let d := s.desc m.bd
        a.toNat % 16 = 0 → a.toNat + 16 * len ≤ 2 ^ 20 → (d.base + off.toNat) % 16 = 0 → (rot = 0 ∨ off.toNat % 256 = 0) →
        (d.base + w.toNat) % 32 = 0 → d.kind ≠ 1 → off.toNat + 16 * len ≤ d.len → bkptOn s = false →
        locate s false d w.toNat 32 accAtomic = .ok (bar, t) → bar.offPackage = false →
        handChunks d off.toNat a.toNat rot bar (len - t.ctx.waits.sentChunks) t.ctx.waits.sentChunks t = .ok u →
        let v := u.modWaits (fun w => { w with sentChunks := 0 })
        Room v → Completes (.lhand ds m dw) s v)

/-! ## Classes 100 and 101 (R357 to R381) -/

/-- The forms that write a tile (R357, R360 to R376): in a user context, where the sources carry the tags asked for, they
complete with their tile on its way at the latency of R361. Under a writing predicate other than P0 the destination's tag
must be the tile's, and the elements where the predicate holds are the tile's, the others the destination's; a tag that does
not fit raises FORMAT, and outside a user context all are ILLEGAL. -/
def Sys2Proof.Claims.TileForms : Prop :=
  ∀ (s : State) (f t : BitVec 4) (vd va vb vc : VReg) (p : PReg) (k : BitVec 6) (op m : BitVec 2)
    (n : BitVec 5) (ds : DReg) (lo hi : Word), Alone s →
    s.ctx.regs.dom ds = Dom.single lo → (f = tagF64 → s.ctx.regs.dom (ds + 1) = Dom.single hi) →
    ∀ x ∈ tileForms s f t vd va vb vc p k op m n ds lo hi,
      let old := s.ctx.regs.vec vd
      (s.isUser = false → Traps x.1 s s tIllegal)
      ∧ (s.isUser = true → x.2.1 = false → Traps x.1 s s tFormat)
      ∧ (s.isUser = true → x.2.1 = true →
        (p = 0 → let u := s.write x.2.2.1 (.v vd x.2.2.2)
          Room u → Completes x.1 s u)
        ∧ (p ≠ 0 → old.tag ≠ x.2.2.2.tag → Traps x.1 s s tFormat)
        ∧ (p ≠ 0 → old.tag = x.2.2.2.tag → ∃ y : VTile, y.tag = old.tag
          ∧ (∀ e n o, x.2.2.2.elems[e]? = some n → old.elems[e]? = some o → y.elems[e]? = some
              (if (s.ctx.regs.pred p).getLsbD (if old.tag = tagF64 then e - e % 2 else e) = true then n else o))
          ∧ let u := s.write x.2.2.1 (.v vd y)
            (Room u → Completes x.1 s u)))

/-- What a vector instruction raises for its operands: UNRESOLVED for a splat of no singleton, ILLEGAL for a shift count that
is not below the width, for `VIOTA` code 3, and for two results in one register (R254, R363, R366, R368, R379). -/
def Sys2Proof.Claims.VectorOperandTraps : Prop :=
  ∀ (s : State) (f : BitVec 4) (vd va : VReg) (ds : DReg) (row : BitVec 4) (col : BitVec 6) (p : PReg) (n : BitVec 5), Alone s →
    s.isUser = true →
    ((s.ctx.regs.dom ds).isSingle = false → AllTrap s tUnresolved [.vsplat f vd ds p, .vinsr vd ds row col])
    ∧ (widthOf f ≤ n.toNat → (s.ctx.regs.vec va).tag = f →
        AllTrap s tIllegal [.vshl f vd va (.const n) p, .vshr f vd va (.const n) p, .vsra f vd va (.const n) p])
    ∧ AllTrap s tIllegal [.viota 3 vd p, .vquant f vd vd va, .vcompress vd vd va]

/-- The vector forms that write a tile, and what they raise (R254, R357, R360 to R376, R379). The model's choices it rests
on: log 25, 26, 99. -/
def Obligations.VectorTiles : Prop :=
  Claims.TileForms ∧ Claims.VectorOperandTraps

/-- The forms of classes 100 and 101 that write something else, or a tile with no writing predicate (R364, R365, R368,
R370, R371, R375, R378 to R381): predicates keep the bits that the writing predicate does not hold for. The model's
choices it rests on: log 100. -/
def Obligations.OtherVectorForms : Prop :=
  ∀ (s : State) (f t : BitVec 4) (rel : BitVec 3) (vd va vb vc : VReg) (pd pa pb p : PReg) (c : CReg) (dd ds : DReg)
    (row : BitVec 4) (col : BitVec 6) (m : BitVec 4) (v : Word), Alone s → s.ctx.regs.dom ds = Dom.single v →
    let a := s.ctx.regs.vec va
    let b := s.ctx.regs.vec vb
    let old := s.ctx.regs.vec vd
    let keep (new : Nat → Bool) (pair : Bool) (lat : Nat) (i : Instr) : Prop := ∃ w : BitVec 1024,
      (∀ e, e < 1024 → w.getLsbD e = if (s.ctx.regs.pred p).getLsbD (if pair then e - e % 2 else e) = true then new e
        else (s.ctx.regs.pred pd).getLsbD e)
      ∧ (Room (s.write lat (.p pd w)) → Completes i s (s.write lat (.p pd w)))
    let plain (tag : BitVec 4) : Prop := tag ≠ tagF64 ∧ tag ≠ tagScale ∧ tag ≠ tagIdx2
    (s.isUser = false → AllTrap s tIllegal [.vcmp rel f pd va vb p, .vsel vd va vb p, .vquant t vd vc va, .vclass pd va m p,
      .pand pd pa pb p, .por pd pa pb p, .pxor pd pa pb p, .pnot pd pa p, .vtrn vd va, .vany c p, .vall c p, .vcompress vd vc va,
      .vextr dd va row col, .vinsr vd ds row col])
    ∧ (s.isUser = true →
      keep (fun e => (s.ctx.regs.pred pa).getLsbD e && (s.ctx.regs.pred pb).getLsbD e) false 20 (.pand pd pa pb p)
      ∧ keep (fun e => (s.ctx.regs.pred pa).getLsbD e || (s.ctx.regs.pred pb).getLsbD e) false 20 (.por pd pa pb p)
      ∧ keep (fun e => (s.ctx.regs.pred pa).getLsbD e != (s.ctx.regs.pred pb).getLsbD e) false 20 (.pxor pd pa pb p)
      ∧ keep (fun e => !(s.ctx.regs.pred pa).getLsbD e) false 20 (.pnot pd pa p)
      ∧ AllComplete s [(.vany c p, s.write 28 (.c c (decide (∃ e : Fin 1024, (s.ctx.regs.pred p).getLsbD e.val = true)))),
        (.vall c p, s.write 28 (.c c (decide (∀ e : Fin 1024, (s.ctx.regs.pred p).getLsbD e.val = true)))),
        (.vextr dd va row col, s.write 24 (.d dd (Dom.single (a.elems.getD (64 * row.toNat + col.toNat) 0)))),
        (.vinsr vd ds row col, s.write 20 (.v vd ⟨old.tag, old.elems.set (64 * row.toNat + col.toNat) v⟩))]
      ∧ (a.tag ≠ f ∨ b.tag ≠ f → Traps (.vcmp rel f pd va vb p) s s tFormat)
      ∧ (a.tag = f → b.tag = f → f ≠ tagF64 → keep (fun e => (List.range (perElem f)).all (fun j =>
            (List.zipWith (valueRel f rel) a.values b.values).getD (perElem f * e + j) true)) false 20 (.vcmp rel f pd va vb p))
      ∧ (a.tag = f → b.tag = f → f = tagF64 → keep (fun e =>
            (List.zipWith (valueRel f rel) a.values b.values).getD (e / 2) false) true 36 (.vcmp rel f pd va vb p))
      ∧ ((a.tag = tagScale ∨ a.tag = tagIdx2) → Traps (.vclass pd va m p) s s tFormat)
      ∧ (a.tag ≠ tagScale → a.tag ≠ tagIdx2 → a.tag ≠ tagF64 → keep (fun e => (List.range (perElem a.tag)).all (fun j =>
          (a.values.map (fun x => m.getLsbD (codeClass a.tag x))).getD (perElem a.tag * e + j) true)) false 20 (.vclass pd va m p))
      ∧ (a.tag = tagF64 → keep (fun e => (a.values.map (fun x => m.getLsbD (codeClass a.tag x))).getD (e / 2) false) true 20
          (.vclass pd va m p))
      ∧ (a.tag ≠ b.tag → Traps (.vsel vd va vb p) s s tFormat)
      ∧ (a.tag = b.tag → ∃ y : VTile, y.tag = a.tag ∧ (∀ e x z, a.elems[e]? = some x → b.elems[e]? = some z →
            y.elems[e]? = some (if (s.ctx.regs.pred p).getLsbD e = true then x else z))
          ∧ (Room (s.write 20 (.v vd y)) → Completes (.vsel vd va vb p) s (s.write 20 (.v vd y))))
      ∧ (a.tag = tagF64 → Traps (.vtrn vd va) s s tFormat)
      ∧ (a.tag ≠ tagF64 → ∃ y : VTile, y.tag = a.tag ∧ y.elems.length = 1024 ∧ (∀ r c, r < 16 → c < 64 →
            y.elems.getD (64 * r + c) 0 = a.elems.getD (64 * (c % 16) + (c / 16 * 16 + r)) 0)
          ∧ (Room (s.write 36 (.v vd y)) → Completes (.vtrn vd va) s (s.write 36 (.v vd y))))
      ∧ (vd ≠ vc → (a.tag = tagF32 ∨ a.tag = tagBf16) →
          let blocks := (chunks 32 (valuesOf a.tag / 32) a.values).map (quantise a.tag t)
          let u := (s.write 28 (.v vd (.ofValues t (blocks.flatMap (·.1))))).write 28 (.v vc (.ofValues tagScale (blocks.map (·.2))))
          Room u → Completes (.vquant t vd vc va) s u)
      ∧ (vd ≠ vc → plain a.tag → ∃ y z : VTile, y.tag = a.tag ∧ z.tag = tagIdx2
          ∧ let u := (s.write 24 (.v vd y)).write 24 (.v vc z)
            (Room u → Completes (.vcompress vd vc va) s u)))

/-- The value sequence (R357): a tile of values reads back as its values, and a tile of 1,024 elements is the tile of its
values, for every tag. -/
def Sys2Proof.Claims.ValueSequence : Prop :=
  (∀ (tag : BitVec 4) (vs : List Nat), tag.toNat ≤ 9 → vs.length = valuesOf tag → (∀ v ∈ vs, v < 2 ^ widthOf tag) →
      (VTile.ofValues tag vs).values = vs ∧ (VTile.ofValues tag vs).elems.length = 1024)
  ∧ ∀ x : VTile, x.tag.toNat ≤ 9 → x.elems.length = 1024 → VTile.ofValues x.tag x.values = x

/-- Integer lanes (R362): INT32 and INT8 values add, subtract and multiply modulo 2^32 and 2^8; the smaller and the larger are
chosen as signed values, and the magnitude of the most negative value is itself. -/
def Sys2Proof.Claims.IntegerLanes : Prop :=
  ∀ (rm : BitVec 2), (∀ a b : BitVec 32,
      let v (op : VOp) : BitVec 32 := BitVec.ofNat 32 (valueOp tagI32 rm op a.toNat b.toNat 0)
      v .add = a + b ∧ v .sub = a - b ∧ v .mul = a * b ∧ v .min = (if a.slt b then a else b)
        ∧ v .max = (if a.slt b then b else a) ∧ v .abs = (if a.slt 0 then -a else a) ∧ v .neg = -a)
    ∧ ∀ a b : BitVec 8,
      let v (op : VOp) : BitVec 8 := BitVec.ofNat 8 (valueOp tagI8 rm op a.toNat b.toNat 0)
      v .add = a + b ∧ v .sub = a - b ∧ v .mul = a * b ∧ v .min = (if a.slt b then a else b)
        ∧ v .max = (if a.slt b then b else a) ∧ v .abs = (if a.slt 0 then -a else a) ∧ v .neg = -a

/-- The special inputs of the special-function unit (R377), by function number: its results for NaN, +∞, −∞, +0 and −0; a
negative number has no logarithm and no root. -/
def Sys2Proof.Claims.SpecialInputs : Prop :=
  let nan := 0x7FC00000
  let inf := 0x7F800000
  let one := 0x3F800000
  let row (fn a b c d e : Nat) : Prop := (∀ x, 0x7F800000 < x % 2 ^ 31 → x < 2 ^ 32 → sfuCode fn x = a) ∧ sfuCode fn 0x7F800000 = b
    ∧ sfuCode fn 0xFF800000 = c ∧ sfuCode fn 0 = d ∧ sfuCode fn 0x80000000 = e
  row 0 nan inf 0 one one ∧ row 1 nan inf nan 0xFF800000 0xFF800000 ∧ row 2 nan 0 0x80000000 inf 0xFF800000
    ∧ row 3 nan 0 nan inf 0xFF800000 ∧ row 4 nan inf nan 0 0x80000000 ∧ row 5 nan nan nan 0 0x80000000 ∧ row 6 nan nan nan one one
    ∧ row 7 nan one 0xBF800000 0 0x80000000 ∧ row 8 nan one 0 0x3F000000 0x3F000000 ∧ row 9 nan one 0xBF800000 0 0x80000000
    ∧ (∀ x, 0x80000000 < x → x ≤ 0xFF800000 → sfuCode 1 x = nan ∧ sfuCode 3 x = nan ∧ sfuCode 4 x = nan)

/-- Values of elements: special inputs, reductions in order, integer lanes (R357, R362, R377). The model's choices it
rests on: log 26. -/
def Obligations.ValuesOfElements : Prop :=
  Claims.SpecialInputs ∧ Claims.ValueSequence ∧ Claims.IntegerLanes

/-! ## Class 110: engine control and gloss (R225 to R230, R420 to R426) -/

/-- `ESTART` starts an idle or stopped engine at its start address plus two bytes a word, with an empty stack, or lets a
stopped one go on at its word; `ESTOP` makes it idle once what it sent has performed, and waits while a piece, row or slice is
sent in part; `ESTAT` reads its item. What
R420 does not admit is ILLEGAL, as all three are outside a user context. The model's choices it rests on: log 39. -/
def Obligations.EngineControlForms : Prop :=
  ∀ (s : State) (copy : Bool) (da dd : DReg) (n : Word) (item : BitVec 3) (k : Nat), Alone s → s.ctx.regs.dom da = Dom.single n →
    (s.isUser = false → AllTrap s tIllegal [.estart copy da, .estop copy, .estat dd copy item])
    ∧ (s.cur = .user k →
      let e := s.engine k copy
      let between : Prop := e.state = .running → e.inWord ≠ none → e.fault = none → e.sub = 0
      let from_ := (if copy then (s.core k).active.cstart else (s.core k).active.mstart) + BitVec.ofNat 48 (2 * n.toNat)
      ((e.state = .running ∨ e.state = .waitEvent ∨ e.state = .waitLease) → Traps (.estart copy da) s s tIllegal)
      ∧ (n = 0xFFFFFFFF → e.state = .idle → Traps (.estart copy da) s s tIllegal)
      ∧ (n = 0xFFFFFFFF → e.state = .stopped → e.dead = true → Traps (.estart copy da) s s tIllegal)
      ∧ (n = 0xFFFFFFFF → e.state = .stopped → e.dead = false →
          let u := s.setEngine k copy { e with state := .running, fault := none, resolved := none }
          Room u → Completes (.estart copy da) s u)
      ∧ (n ≠ 0xFFFFFFFF → (e.state = .idle ∨ e.state = .stopped) → ∃ x : Engine, x.state = .running ∧ x.word = from_
          ∧ x.step = 0 ∧ x.cls = 15 ∧ x.stack = [] ∧ x.reps = [] ∧ x.inWord = none ∧ x.window = e.window
          ∧ x.bcast.armed = e.bcast.armed ∧ let u := s.setEngine k copy x
            (Room u → Completes (.estart copy da) s u))
      ∧ (e.state = .idle → e.out = [] → Room s → Completes (.estop copy) s s)
      ∧ (e.state ≠ .idle → e.out = [] → between → ∃ u, (Room u → Completes (.estop copy) s u) ∧ (u.engine k copy).state = .idle
          ∧ (u.engine k copy).stack = [] ∧ (u.engine k copy).reps = [] ∧ u.ctx.regs = s.ctx.regs ∧ u.mem = s.mem
          ∧ (copy = false → u.holdsLease k = false) ∧ u.engine k (!copy) = s.engine k (!copy))
      ∧ (e.out ≠ [] → between → ∃ u, Stalls (.estop copy) s u ∧ (u.engine k copy).state = .idle)
      ∧ (e.state = .running → e.inWord ≠ none → e.fault = none → e.sub ≠ 0 → Stalls (.estop copy) s s)
      ∧ (item.toNat ≤ 4 → let u := s.write 1 (.d dd (Dom.single (match item.toNat with
            | 0 => e.word.extractLsb' 0 32
            | 1 => e.step
            | 2 => (match e.state with | .idle => 0 | .running => 1 | .waitEvent => 2 | .waitLease => 3 | .stopped => 4)
            | 3 => e.bcast.done
            | _ => BitVec.ofNat 32 e.stack.length)))
          Room u → Completes (.estat dd copy item) s u))

/-- The gloss instructions in a user context (R226 to R228, R423 to R426): `GOPEN` checks the list and gives a handle of its
address, version and layers; `GATTACH`, `GDETACH` and `GFOLD` have their effect at the list's home in one step, or find that
it is refused. A handle that is not open raises PROT. -/
def Sys2Proof.Claims.GlossInstructions : Prop :=
  ∀ (s : State) (g : GReg) (bd bdb : BdReg) (da db : DReg) (imm : BitVec 20) (c : CReg) (slot : BitVec 3) (tag : BitVec 4) (a b : Word),
    Alone s → s.isUser = true → s.ctx.regs.dom da = Dom.single a → s.ctx.regs.dom db = Dom.single b →
    let h := s.ctx.regs.gloss g
    let d := s.desc bd
    let e := s.desc bdb
    (hValid h = false → Traps (.gdetach c g slot) s s tProt)
    ∧ (∀ o l t, offsetOf s (operandM bd da imm) 256 256 = .ok o → translated d.kind = true → o.off + 256 ≤ d.len →
        d.base + o.off + 256 ≤ 2 ^ 48 → (d.base + o.off) % 256 = 0 → listAt s (d.base + o.off) accRead d.page = .ok (l, t) →
        let lst := t.bytesKey l.key l.cell 256
        (∀ x, listFault lst tProt tGlossOvf = some x → Traps (.gopen g bd da imm) s t x)
        ∧ (listFault lst tProt tGlossOvf = none → ∃ v : BitVec 256, (hList v).toNat = d.base + o.off ∧ hVer v = glVersion lst
          ∧ hN v = glN lst ∧ hValid v = true
          ∧ let u := (t.countFar l.cell).write 1 (.g g v)
            (Room u → Completes (.gopen g bd da imm) s u)))
    ∧ (∀ o im t l t', offsetOf s (operandM bd da imm) 32 32 = .ok o → (d.base + o.off) % 32 = 0 → hValid h = true →
        loadHeld s bd o.off 32 32 = .ok (im, t) → imageOk im = true → t.ctx.performed (BitVec.allOnes 16) false = true →
        listAt t (hList h).toNat accAtomic 0 = .ok (l, t') →
        (t'.glAttach l.key l.cell (im.take 28) = none → Traps (.gattach g bd da imm) s t' tGlossOvf)
        ∧ ∀ u, t'.glAttach l.key l.cell (im.take 28) = some u → Room (u.countFar l.cell) →
            Completes (.gattach g bd da imm) s (u.countFar l.cell))
    ∧ (∀ l t, hValid h = true → s.ctx.performed (BitVec.allOnes 16) false = true →
        listAt s (hList h).toNat accAtomic 0 = .ok (l, t) →
        (t.glDetach l.key l.cell slot.toNat = none → let u := (t.countFar l.cell).write 1 (.c c true)
          Room u → Completes (.gdetach c g slot) s u)
        ∧ ∀ x, t.glDetach l.key l.cell slot.toNat = some x → let u := (x.countFar l.cell).write 1 (.c c false)
          Room u → Completes (.gdetach c g slot) s u)
    ∧ ∀ nl t bar t' l t'', (d.base + a.toNat) % 256 = 0 → (e.base + b.toNat) % 32 = 0 → hValid h = true →
        translated d.kind = true → a.toNat + 256 ≤ d.len → d.base + a.toNat + 256 ≤ 2 ^ 48 → d.base + a.toNat ≠ (hList h).toNat →
        listAt s (d.base + a.toNat) (accRead ||| accWrite) d.page = .ok (nl, t) →
        preparedOk (t.bytesKey nl.key nl.cell 256) tag = true → locate t false e b.toNat 32 accAtomic = .ok (bar, t') →
        bar.offPackage = false → t'.ctx.performed (BitVec.allOnes 16) false = true →
        listAt t' (hList h).toNat accAtomic 0 = .ok (l, t'') →
        (t''.glFoldStart l.key l.cell = none → let u := (t''.countFar l.cell).write 1 (.c c true)
          Room u → Completes (.gfold c g bd da bdb db tag) s u)
        ∧ ∀ x, t''.glFoldStart l.key l.cell = some x → ∃ f : Fold, f.old = physAddr l.key l.cell ∧ f.snap = h
          ∧ f.newVa.toNat = d.base + a.toNat ∧ f.bar = physAddr bar.key bar.cell ∧ f.tag = tag ∧ f.fault = none
          ∧ let u := (State.countFar { x with folds := x.folds ++ [f] } l.cell).write 1 (.c c false)
            (Room u → Completes (.gfold c g bd da bdb db tag) s u)

/-- What a list's home does (R225, R228): an attach fills the next slot with DVER 0, counts it and advances VERSION, and is
refused with eight layers or on a retired list; a detach writes the new version into the slot's DVER and the list's VERSION,
and is refused for a slot that holds no attached layer; the start of a fold sets FOLDING, and is refused while a fold is in
progress or the list is retired. Every other byte stays. -/
def Sys2Proof.Claims.GlossListOperations : Prop :=
  ∀ (s : State) (key : BitVec 8) (cell slot : Nat) (im : List Byte), MemInv s → SameKey s key cell 256 → im.length = 28 → slot < 8 →
    let b := s.bytesKey key cell 256
    let n := (b.getD 23 0).toNat % 16
    let retired := (b.getD 23 0).getLsbD 6
    let v := glVersion b
    let v' : Word := if v = 0xFFFFFFFF then 1 else v + 1
    let dver (i : Nat) : List Byte := (b.drop (32 + 28 * i + 24)).take 4
    let wrote (t : State) (at_ : Nat) (bs : List Byte) : Prop := ∀ i, i < bs.length → t.byte (cell + at_ + i) = bs.getD i 0
    let away (at_ n a : Nat) : Prop := ¬ (cell + at_ ≤ a ∧ a < cell + at_ + n)
    ((8 ≤ n ∨ retired = true) → s.glAttach key cell im = none)
    ∧ (n < 8 → retired = false → ∃ t, s.glAttach key cell im = some t ∧ wrote t (32 + 28 * n) (im.take 24 ++ leBytes 4 0)
        ∧ wrote t 23 [b.getD 23 0 + 1] ∧ wrote t 28 (leBytes 4 v'.toNat)
        ∧ ∀ a, away (32 + 28 * n) 28 a → away 23 1 a → away 28 4 a → t.byte a = s.byte a)
    ∧ ((n ≤ slot ∨ dver slot ≠ leBytes 4 0) → s.glDetach key cell slot = none)
    ∧ (slot < n → dver slot = leBytes 4 0 → ∃ t, s.glDetach key cell slot = some t
        ∧ wrote t (32 + 28 * slot + 24) (leBytes 4 v'.toNat)
        ∧ wrote t 28 (leBytes 4 v'.toNat) ∧ ∀ a, away (32 + 28 * slot + 24) 4 a → away 28 4 a → t.byte a = s.byte a)
    ∧ (((b.getD 23 0).getLsbD 7 = true ∨ retired = true) → s.glFoldStart key cell = none)
    ∧ ((b.getD 23 0).getLsbD 7 = false → retired = false → ∃ t, s.glFoldStart key cell = some t
        ∧ wrote t 23 [b.getD 23 0 ||| 0x80] ∧ ∀ a, away 23 1 a → t.byte a = s.byte a)

/-- `GOPEN`, `GATTACH`, `GDETACH` and `GFOLD` COMPLETE (R423 to R426): with nothing outstanding, where the list and the other operands
can be reached, each has its effect and its bundle commits; a refused `GDETACH` or `GFOLD` sets its condition. -/
def Sys2Proof.Claims.GlossComplete : Prop :=
  ∀ (s : State) (g : GReg) (bd bdb : BdReg) (da db : DReg) (imm : BitVec 20) (c : CReg) (slot : BitVec 3) (tag : BitVec 4) (a b : Word),
    AtRest s → s.isUser = true → s.ctx.regs.dom da = Dom.single a → s.ctx.regs.dom db = Dom.single b →
    let h := s.ctx.regs.gloss g
    let d := s.desc bd
    let e := s.desc bdb
    let commits (i : Instr) (u : State) : Prop := exec i s = .next (u.boundary (stepping s))
    (∀ l t, let off := a.toNat + 256 * imm.toNat
      Within d off 256 → (d.base + off) % 256 = 0 → PlaceAt s (d.base + off) 256 accRead l t →
        let lst := t.bytesKey l.key l.cell 256
        listFault lst tProt tGlossOvf = none → ∃ v : BitVec 256, (hList v).toNat = d.base + off ∧ hVer v = glVersion lst
          ∧ hN v = glN lst ∧ hValid v = true ∧ commits (.gopen g bd da imm) ((t.countFar l.cell).write 1 (.g g v)))
    ∧ (∀ l t m u, let off := a.toNat + 32 * imm.toNat
      Within d off 32 → (d.base + off) % 32 = 0 → hValid h = true → PlaceAt s (d.base + off) 32 accRead l t →
        let im := t.bytesKey l.key l.cell 32
        imageOk im = true → physRegion l.cell = .hbm → PlaceAt t (hList h).toNat 256 accAtomic m u →
        let lst := u.bytesKey m.key m.cell 256
        glN lst < 8 → glRetired lst = false → ∃ x, u.glAttach m.key m.cell (im.take 28) = some x
          ∧ commits (.gattach g bd da imm) (x.countFar m.cell))
    ∧ (∀ l t, hValid h = true → PlaceAt s (hList h).toNat 256 accAtomic l t →
        let lst := t.bytesKey l.key l.cell 256
        let free := slot.toNat < glN lst ∧ slDver (glSlot lst slot.toNat) = 0
        (free → ∃ x, t.glDetach l.key l.cell slot.toNat = some x
            ∧ commits (.gdetach c g slot) ((x.countFar l.cell).write 1 (.c c false)))
        ∧ (¬ free → commits (.gdetach c g slot) ((t.countFar l.cell).write 1 (.c c true))))
    ∧ ∀ nl t bar u l w, Within d a.toNat 256 → (d.base + a.toNat) % 256 = 0 → Within e b.toNat 32 → (e.base + b.toNat) % 32 = 0 →
        hValid h = true → d.base + a.toNat ≠ (hList h).toNat → PlaceAt s (d.base + a.toNat) 256 (accRead ||| accWrite) nl t →
        preparedOk (t.bytesKey nl.key nl.cell 256) tag = true → PlaceAt t (e.base + b.toNat) 32 accAtomic bar u →
        PlaceAt u (hList h).toNat 256 accAtomic l w →
        let lst := w.bytesKey l.key l.cell 256
        let free := glFolding lst = false ∧ glRetired lst = false
        (free → ∃ x f, w.glFoldStart l.key l.cell = some x ∧ f.old = physAddr l.key l.cell ∧ f.snap = h
          ∧ commits (.gfold c g bd da bdb db tag) ((State.countFar { x with folds := x.folds ++ [f] } l.cell).write 1 (.c c false)))
        ∧ (¬ free → commits (.gfold c g bd da bdb db tag) ((w.countFar l.cell).write 1 (.c c true)))

/-- Gloss lists: the instructions, and the operations at the list's home (R225 to R228, R423 to R426). The model's choices
it rests on: log 14, 16, 38. -/
def Obligations.GlossInstructions : Prop :=
  Claims.GlossInstructions ∧ Claims.GlossListOperations ∧ Claims.GlossComplete

/-! ## Engine words (R268, R382 to R387, R396, R405) -/

/-- The common words (R382 to R385): each completes with the stack, the open bodies or the word address that R383 gives it,
where the stack has its operands and room, and changes nothing but its engine. -/
def Sys2Proof.Claims.CommonWords : Prop :=
  ∀ (s : State) (v : BitVec 12) (r : DReg) (bd : BdReg) (high : Bool) (k : BitVec 10),
    let e := s.eng
    let after := e.word + 2
    (e.stack.length < 8 → GoesOn (.lit v) s { e with stack := v.signExtend 32 :: e.stack } after
      ∧ GoesOn (.pushb bd high) s { e with stack := (if high then ((s.ctx.regs.desc bd).extractLsb' 112 16).setWidth 32
          else (s.ctx.regs.desc bd).extractLsb' 80 32) :: e.stack } after
      ∧ ∀ w, s.ctx.regs.dom r = Dom.single w → GoesOn (.pushd r) s { e with stack := w :: e.stack } after)
    ∧ (∀ x rest, e.stack = x :: rest → e.stack.length ≤ 8 → GoesOn .drop s { e with stack := rest } after
        ∧ GoesOn (.litx v) s { e with stack := (x * 4096 + v.setWidth 32) :: rest } after
        ∧ (e.stack.length < 8 → GoesOn .dup s { e with stack := x :: x :: rest } after))
    ∧ (∀ x y rest, e.stack = x :: y :: rest → e.stack.length ≤ 8 → GoesOn .swap s { e with stack := y :: x :: rest } after
        ∧ (e.stack.length < 8 → GoesOn .over s { e with stack := y :: x :: y :: rest } after))
    ∧ GoesOn .engineNop s e after ∧ GoesOn (.jmp k) s e (e.word + 2 * k.signExtend 48)
    ∧ GoesOn .classW s { e with cls := s.word.extractLsb' 0 4 } after
    ∧ (∀ n rest, e.bcast.armed = none → e.stack = n :: rest →
        (n = 0 → GoesOn .rep s { e with stack := rest, skip := 1 } after)
        ∧ (n ≠ 0 → e.reps.length < 4 → GoesOn .rep s { e with stack := rest, reps := ⟨after, n, false⟩ :: e.reps } after))
    ∧ (∀ n, e.bcast.armed = some n → e.bcast.skewDone = true → n ≠ 0 → e.reps.length < 4 →
        GoesOn .rep s { e with bcast := { e.bcast with armed := none, done := 0, active := true }, reps := ⟨after, n, true⟩ :: e.reps } after)
    ∧ (e.bcast.armed = some 0 → e.bcast.skewDone = true →
        GoesOn .rep s { e with bcast := { e.bcast with armed := none, done := 0, active := false }, skip := 1 } after)
    ∧ (∀ b rest, e.reps = b :: rest → b.bcast = false →
        (1 < b.left.toNat → GoesOn .endrep s { e with reps := { b with left := b.left - 1 } :: rest } b.start)
        ∧ (b.left.toNat ≤ 1 → GoesOn .endrep s { e with reps := rest } after))
    ∧ ∀ b rest, e.reps = b :: rest → b.bcast = true →
        let x : Engine := { e with bcast := { e.bcast with done := e.bcast.done + 1 } }
        (1 < b.left.toNat → GoesOn .endrep s { x with reps := { b with left := b.left - 1 } :: rest } b.start)
        ∧ (b.left.toNat ≤ 1 → GoesOn .endrep s { x with reps := rest, bcast := { x.bcast with active := false } } after)

/-- What the common words fault on (R382 to R385, R270): a missing operand and a ninth entry are STACK, as is a fifth open body;
`ENDREP` with no open body and a pattern that is no word are ILLEGAL; `PUSHD` of no singleton is UNRESOLVED. An engine fault
stops the engine, ends a matrix sequencer's lease and pends the trap with its SOURCE in the core's user context (R316). -/
def Sys2Proof.Claims.EngineFaultsTaken : Prop :=
  (∀ (s : State) (v : BitVec 12) (r : DReg) (bd : BdReg) (high : Bool),
      let e := s.eng
      (8 ≤ e.stack.length → EngineFaults (.lit v) s s tStack ∧ EngineFaults (.pushb bd high) s s tStack)
      ∧ (e.stack = [] → EngineFaults (.litx v) s s tStack ∧ EngineFaults .dup s s tStack ∧ EngineFaults .drop s s tStack)
      ∧ (e.stack.length < 2 → EngineFaults .swap s s tStack ∧ EngineFaults .over s s tStack)
      ∧ (e.stack.length < 5 → EngineFaults .mwin s s tStack)
      ∧ (e.bcast.armed = none → e.stack = [] → EngineFaults .rep s s tStack)
      ∧ (∀ n rest, e.bcast.armed = none → e.stack = n :: rest → n ≠ 0 → 4 ≤ e.reps.length → EngineFaults .rep s s tStack)
      ∧ (e.stack.length < 8 → (s.ctx.regs.dom r).isSingle = false → EngineFaults (.pushd r) s s tUnresolved)
      ∧ (e.reps = [] → EngineFaults .endrep s s tIllegal) ∧ EngineFaults .illegalEngineWord s s tIllegal)
  ∧ ∀ (u : State) (k : Nat) (copy : Bool) (code : Byte),
      let t := u.engineFault k copy code
      (t.engine k copy).state = .stopped ∧ (t.engine k copy).word = (u.engine k copy).word
      ∧ t.engine k (!copy) = u.engine k (!copy) ∧ (copy = false → t.holdsLease k = false)
      ∧ ⟨0, { code := code, source := if copy then 2 else 1 }, []⟩ ∈ (t.core k).user.deferred
      ∧ (∀ d ∈ (u.core k).user.deferred, d ∈ (t.core k).user.deferred) ∧ (t.core k).user.regs = (u.core k).user.regs
      ∧ ∀ a, t.byte a = u.byte a

/-- The words that other streams see (R174, R184, R196, R383, R386, R387, R396): an engine's `POST` and `AWAIT` count the
core's events, the latter behind what waits for the same event in the bundle stream, and in the matrix stream for a copy word, `HALT` makes it idle and ends its lease, `LEASE` goes on once the lease is held, `FREE` ends it, `MZERO` clears
the accumulators it names, and `MWIN` latches its five values. -/
def Sys2Proof.Claims.EngineWordsSeen : Prop :=
  ∀ (s : State) (k : Nat) (copy : Bool) (ev : EvNum), s.cur = (if copy then .copy k else .matrix k) →
    let e := s.eng
    let count := (s.core k).user.regs.event ev.toNat
    let passed (t : State) : Prop := t.eng.word = e.word + 2 ∧ t.eng.stack = e.stack ∧ t.eng.inWord = none
        ∧ ∀ a, t.byte a = s.byte a
    (e.out = [] → count ≠ 255 → ∃ t, exec (.enginePost ev) s = .next t ∧ passed t ∧ t.eng.state = .running
        ∧ (t.core k).user.regs.event ev.toNat = count + 1)
    ∧ (e.out = [] → count = 255 → EngineFaults (.enginePost ev) s s tEventOvf)
    ∧ (e.out ≠ [] → ∃ t, exec (.enginePost ev) s = .next t ∧ t.eng.word = e.word ∧ (t.core k).user.regs = (s.core k).user.regs)
    ∧ (count ≠ 0 → s.firstToAwait ev.toNat = true → ∃ t, exec (.engineAwait ev) s = .next t ∧ passed t ∧ t.eng.state = .running
        ∧ (t.core k).user.regs.event ev.toNat = count - 1)
    ∧ ((count = 0 ∨ s.firstToAwait ev.toNat = false) → ∃ t, exec (.engineAwait ev) s = .next t
        ∧ t.eng = { e with state := .waitEvent, awaits := ev.toNat } ∧ OnlyEngine s t)
    ∧ ((copy = true → e.out = []) → ∃ t, exec .halt s = .next t ∧ passed t ∧ t.eng.state = .idle
        ∧ (copy = false → t.holdsLease k = false) ∧ (t.core k).user = (s.core k).user)
    ∧ (copy = false →
      (s.holdsLease k = true → GoesOn .lease s e (e.word + 2))
      ∧ (s.holdsLease k = false → ∃ t, exec .lease s = .next t ∧ t.eng = { e with state := .waitLease }
          ∧ Assoc.find? (t.tile (k / 4)).lease.waitFrom (k % 4) ≠ none)
      ∧ (∃ t, exec .free s = .next t ∧ passed t ∧ t.eng.state = .running ∧ t.holdsLease k = false)
      ∧ (∃ t, exec .mzero s = .next t ∧ passed t ∧ t.eng.state = .running
          ∧ (t.core k).acc0 = (if (mzeroSet s.word).getLsbD 0 then List.replicate 4096 0 else (s.core k).acc0)
          ∧ (t.core k).acc1 = (if (mzeroSet s.word).getLsbD 1 then List.replicate 4096 0 else (s.core k).acc1))
      ∧ ∀ ib rp px ge og rest, e.stack = og :: ge :: px :: rp :: ib :: rest →
          let f (x : Word) (lo n : Nat) : Nat := (x.extractLsb' lo n).toNat
          let aligned : Prop := ib.toNat % 16 = 0 ∧ rp.toNat % 16 = 0 ∧ px.toNat % 16 = 0
          let fits : Prop := 1 ≤ f ge 0 8 ∧ 1 ≤ f ge 8 8 ∧ 1 ≤ f ge 16 4 ∧ 1 ≤ f ge 20 4 ∧ 1 ≤ f ge 24 4 ∧ 1 ≤ f ge 28 4
            ∧ 1 ≤ f og 0 8 ∧ f og 0 8 ≤ 64
          (aligned → fits → GoesOn .mwin s { e with stack := rest, window := some [ib, rp, px, ge, og] } (e.word + 2))
          ∧ (¬ aligned → EngineFaults .mwin s s tAlign) ∧ (aligned → ¬ fits → EngineFaults .mwin s s tProt))

/-- The engine words that both streams share, and engine faults (R174, R184, R196, R270, R316, R382 to R387, R396). The
model's choices it rests on: log 31, 33. -/
def Obligations.EngineWords : Prop :=
  Claims.CommonWords ∧ Claims.EngineWordsSeen ∧ Claims.EngineFaultsTaken

/-! ## Matrix and copy words (R388 to R417) -/

/-- An array word that begins pops and latches its operands, once they pass the checks of R391 to R395, R397 and R399, and
waits for the lease where its sequencer does not hold it; `MSTORE` stores its 64 rows, by packets, or in the local share once
its earlier stores of the class let it (R167), and the stream goes on. Too few operands are STACK, and operands that do not pass the checks fault with none of the effect. -/
def Sys2Proof.Claims.MatrixWords : Prop :=
  ∀ (s : State) (k : Nat), s.cur = .matrix k → s.eng.inWord = none →
    (∀ i, i ∈ [Instr.mma, .mmas, .mmasp] →
      let w := ArrayWord.ofWord s.word
      let xs := (s.eng.stack.take w.count).reverse
      (s.eng.stack.length < w.count → EngineFaults i s s tStack)
      ∧ (w.count ≤ s.eng.stack.length → ∀ c u, arrayCheck w (w.ops xs) s = .error (.trap c u) → EngineFaults i s u c)
      ∧ (w.count ≤ s.eng.stack.length → arrayCheck w (w.ops xs) s = .ok () → ∃ t, exec i s = .next t
          ∧ t.eng.inWord = some s.word ∧ t.eng.ops = xs ∧ t.eng.stack = s.eng.stack.drop w.count ∧ t.eng.step = 0
          ∧ t.eng.word = s.eng.word ∧ t.eng.satnan = s.ctx.status.satnan
          ∧ t.eng.state = (if s.holdsLease k then .running else .waitLease)
          ∧ (t.core k).acc0 = (s.core k).acc0 ∧ (t.core k).acc1 = (s.core k).acc1 ∧ ∀ a, t.byte a = s.byte a))
    ∧ let m := StoreMods.ofWord s.word
      let xs := (s.eng.stack.take (storeCount m)).reverse
      (s.eng.stack.length < storeCount m → EngineFaults .mstore s s tStack)
      ∧ (storeCount m ≤ s.eng.stack.length → ∀ c u, storeCheck m xs s = .error (.trap c u) → EngineFaults .mstore s u c)
      ∧ (storeCount m ≤ s.eng.stack.length → storeCheck m xs s = .ok () → m.d = false → s.eng.shareClear = true → s.poison = [] →
          ∃ t, exec .mstore s = .next t
          ∧ t.eng.word = s.eng.word + 2 ∧ t.eng.inWord = none ∧ t.eng.stack = s.eng.stack.drop (storeCount m)
          ∧ (t.core k).acc0 = (s.core k).acc0 ∧ (t.core k).acc1 = (s.core k).acc1 ∧ t.ctx = s.ctx
          ∧ t.mem = ((List.range 64).foldl (fun v i => shareStore v (xs.getD 0 0) (xs.getD 1 0) i (storeRow v m xs i)) (s.latch xs)).mem)
      ∧ (storeCount m ≤ s.eng.stack.length → storeCheck m xs s = .ok () → m.d = true → ∀ u, storeRows m xs 64 (s.latch xs) = .ok u →
          exec .mstore s = .next (u.modEng (fun e => Engine.next e (e.word + 2))))

/-- A pass of an array word in progress (R18, R124, R196, R392): without the lease the word waits for it; with the lease running
out before the pass, the governor's stalls included, could end, the lease ends and is asked for again; else, where the governor
does not hold the array, the share's earlier stores let it and the rows of B can be read, the pass adds its groups to every
element of its accumulator, counts a step, and the last pass completes the word and counts it toward the lease's sixteen. -/
def Sys2Proof.Claims.MatrixPasses : Prop :=
  ∀ (s : State) (k : Nat) (e : Engine) (enc : BitVec 16), s.inp.n = k → s.cur = .matrix k → s.word = enc → e = s.engine k false →
    e.inWord = some enc → e.inArray = true → e.state = .running → e.fault = none → (s.core k).engHeld = false →
    let w := ArrayWord.ofWord enc
    let o := w.ops e.ops
    let now := (s.tile (k / 4)).lease.cycles s.cycle
    (s.holdsLease k = false → ∃ t, exec .matrixPassCommit s = .next t ∧ t.engine k false = { e with state := .waitLease }
        ∧ (t.core k).acc0 = (s.core k).acc0 ∧ (t.core k).acc1 = (s.core k).acc1)
    ∧ (s.holdsLease k = true → 1024 < now + s.passSpan (k / 4) → ∃ t, exec .matrixPassCommit s = .next t ∧ t.holdsLease k = false
        ∧ t.engine k false = { e with state := .waitLease } ∧ (t.core k).acc0 = (s.core k).acc0 ∧ (t.core k).acc1 = (s.core k).acc1)
    ∧ (s.holdsLease k = true → now + s.passSpan (k / 4) ≤ 1024 → s.governed (k / 4) = true → exec .matrixPassCommit s = .next s)
    ∧ (s.holdsLease k = true → now + s.passSpan (k / 4) ≤ 1024 → s.governed (k / 4) = false → s.poison = [] → e.shareClear = true →
        (s.shareFree = true ∨ arrayCheck w o s = .ok ()) →
        let e0 := e.step.toNat * w.perPass
        let n := min w.perPass (o.k - e0)
        let q := if w.sparse then e0 / 2 * w.width / 8 else e0 * w.width / 8
        let m := if w.sparse then n / 2 * w.width / 8 else n * w.width / 8
        ∀ bss t, bRows w o q m 64 0 0 s = .ok (bss, t) → t.cur = s.cur → t.cores = s.cores → t.tiles = s.tiles →
        ∃ u, exec .matrixPassCommit s = .next u
          ∧ (u.core k).acc0 = (if w.mods.a then (s.core k).acc0 else passAcc t w o e0 n bss (s.core k).acc0)
          ∧ (u.core k).acc1 = (if w.mods.a then passAcc t w o e0 n bss (s.core k).acc1 else (s.core k).acc1)
          ∧ (w.passes o.k ≤ (e.step + 1).toNat → (u.engine k false).inWord = none ∧ (u.engine k false).word = e.word + 2
            ∧ ((s.tile (k / 4)).lease.words + 1 < 16 → u.holdsLease k = true
                ∧ (u.tile (k / 4)).lease.words = (s.tile (k / 4)).lease.words + 1)
            ∧ (16 ≤ (s.tile (k / 4)).lease.words + 1 → u.holdsLease k = false))
          ∧ ((e.step + 1).toNat < w.passes o.k → (u.engine k false).inWord = some enc ∧ (u.engine k false).step = e.step + 1
            ∧ u.holdsLease k = true))

/-- The array words, a pass and `MSTORE` COMPLETE (R392, R396, R398): an array word whose operands pass their checks begins with its
operands latched; a pass over operands of the local share adds its groups, counts its step and, the last, completes the word; `MSTORE`
in the local share stores its rows, and the stream goes on. -/
def Sys2Proof.Claims.MatrixComplete : Prop :=
  (∀ (s : State) (k : Nat) (rest : List Word), s.cur = .matrix k → s.eng.inWord = none →
    let w := ArrayWord.ofWord s.word
    let m := StoreMods.ofWord s.word
    let begun (xs : List Word) (t : State) : Prop := t.eng.inWord = some s.word ∧ t.eng.ops = xs ∧ t.eng.stack = rest
        ∧ t.eng.step = 0
      ∧ t.eng.state = (if s.holdsLease k then .running else .waitLease) ∧ t.mem = s.mem
    ∀ xs, s.eng.stack = xs.reverse ++ rest →
      (xs.length = w.count → arrayCheck w (w.ops xs) s = .ok () → (∃ t, exec .mma s = .next t ∧ begun xs t)
        ∧ (∃ t, exec .mmas s = .next t ∧ begun xs t) ∧ ∃ t, exec .mmasp s = .next t ∧ begun xs t)
      ∧ (xs.length = storeCount m → storeCheck m xs s = .ok () → m.d = false → s.eng.shareClear = true → s.poison = [] →
        ∃ t, exec .mstore s = .next t ∧ t.eng.word = s.eng.word + 2 ∧ t.eng.inWord = none ∧ t.eng.stack = rest))
  ∧ ∀ (s : State) (k : Nat) (e : Engine) (enc : BitVec 16), s.inp.n = k → s.cur = .matrix k → s.word = enc → e = s.engine k false →
    e.inWord = some enc → e.inArray = true → e.state = .running → e.fault = none → (s.core k).engHeld = false →
    let w := ArrayWord.ofWord enc
    let o := w.ops e.ops
    s.holdsLease k = true → (s.tile (k / 4)).lease.cycles s.cycle + s.passSpan (k / 4) ≤ 1024 → s.governed (k / 4) = false →
    s.poison = [] → e.shareClear = true → s.shareFree = true → w.mods.s = false →
    let e0 := e.step.toNat * w.perPass
    let n := min w.perPass (o.k - e0)
    let q := if w.sparse then e0 / 2 * w.width / 8 else e0 * w.width / 8
    let m := if w.sparse then n / 2 * w.width / 8 else n * w.width / 8
    let rows := (List.range 64).map (fun j => (List.range m).map (fun x => s.shareByte (sramOff o.b0 o.b1 j (q + x))))
    ∃ u, exec .matrixPassCommit s = .next u
      ∧ (u.core k).acc0 = (if w.mods.a then (s.core k).acc0 else passAcc s w o e0 n rows (s.core k).acc0)
      ∧ (u.core k).acc1 = (if w.mods.a then passAcc s w o e0 n rows (s.core k).acc1 else (s.core k).acc1)
      ∧ (w.passes o.k ≤ (e.step + 1).toNat → (u.engine k false).inWord = none ∧ (u.engine k false).word = e.word + 2)
      ∧ ((e.step + 1).toNat < w.passes o.k → (u.engine k false).inWord = some enc ∧ (u.engine k false).step = e.step + 1)

/-- The words of the matrix stream, and the passes of its array (R124, R196, R391 to R395, R397, R399). The model's
choices it rests on: log 34, 35, 36. -/
def Obligations.MatrixWords : Prop :=
  Claims.MatrixWords ∧ Claims.MatrixPasses ∧ Claims.MatrixComplete

/-- The copy words that begin on an idle copy engine with their operands on its stack (R405 to R416), without and with
B: they pop and latch them, and with their packets sent, counted on the barrier word that B names, the stream goes
on after them. `BARANN` waits for what was sent and initialises its barrier word at its home. The model's choices it
rests on: log 32, 40, 41. -/
def Sys2Proof.Claims.CopyWords : Prop :=
  ∀ (s : State) (k : Nat), s.cur = .copy k → s.eng.inWord = none →
    let e := s.eng
    let b := copyCounts s.word
    let top (n : Nat) : List Word := (e.stack.take n).reverse
    let arg (n i : Nat) : Nat := ((top n).getD i 0).toNat
    let sel (n : Nat) : Word := (top n).getD 0 0
    let src (n : Nat) : Desc := s.desc ((sel n).extractLsb' 8 4)
    let dst (n : Nat) : Desc := s.desc ((sel n).extractLsb' 4 4)
    let goes (i : Instr) (u : State) : Prop := exec i s = .next (u.modEng (fun e => Engine.next e (e.word + 2)))
    let bar (n i : Nat) (v : State) (l : Option Loc) (t : State) : Prop :=
      barLoc b (top n) i v = .ok (l, t) ∧ t.cores = v.cores ∧ t.cur = v.cur ∧ t.lookups = v.lookups
    (∀ l t u n, n = (if b then 5 else 4) → n ≤ e.stack.length → selOk (sel n) true true b = true →
        rangeOk s (src n) (arg n 1) (arg n 3) = true → rangeOk s (dst n) (arg n 2) (arg n 3) = true → barOk s b (top n) 4 = .ok () →
        bar n 4 (s.latch (top n)) l t →
        moveRuns (dst n) l (blockPlace (arg n 2) 1 (arg n 3) 0) (blockRead (src n) (arg n 1) (arg n 3) 0) (arg n 3) t = .ok u →
        goes .copy u)
    ∧ (∀ n, n = (if b then 5 else 4) → n ≤ e.stack.length → (selOk (sel n) true true b = false
        ∨ rangeOk s (src n) (arg n 1) (arg n 3) = false ∨ rangeOk s (dst n) (arg n 2) (arg n 3) = false) →
            EngineFaults .copy s s tProt)
    ∧ (∀ l t u n, n = (if b then 8 else 7) → n ≤ e.stack.length → selOk (sel n) true true b = true →
        blockOk s (src n) (arg n 1) (arg n 3) (arg n 4) (arg n 5) = true →
        blockOk s (dst n) (arg n 2) (arg n 3) (arg n 4) (arg n 6) = true → barOk s b (top n) 7 = .ok () →
        bar n 7 (s.latch (top n)) l t →
        moveRuns (dst n) l (blockPlace (arg n 2) (arg n 3) (arg n 4) (arg n 6))
          (blockRead (src n) (arg n 1) (arg n 4) (arg n 5)) (arg n 3 * arg n 4) t = .ok u → goes .copy2 u)
    ∧ (∀ u, 4 ≤ e.stack.length → selOk (sel 4) false true false = true → rangeOk s (dst 4) (arg 4 1) (arg 4 2) = true →
        moveRuns (dst 4) none (blockPlace (arg 4 1) 1 (arg 4 2) 0)
          (fun b n s => .ok ((List.range n).map (fun i => (leBytes 4 (arg 4 3)).getD ((b + i) % 4) 0), s)) (arg 4 2)
          (s.latch (top 4)) = .ok u → goes .fill u)
    ∧ (∀ u n, n = (if b then 7 else 6) → n ≤ e.stack.length → selOk (sel n) true false b = true →
        rangeOk s (src n) (arg n 1) (arg n 3) = true → arg n 5 * 2 ^ 32 + arg n 4 < 2 ^ s.partitionTiles.length →
        (b = true → arg n 6 % 32 = 0) →
        (∀ t ∈ maskTiles s (arg n 4) (arg n 5), let share := (shareOf (s.partition s.ctx.id.region) t).length * granuleBytes
          arg n 2 + arg n 3 ≤ share ∧ (b = true → arg n 6 + 32 ≤ share)) →
        (if maskTiles s (arg n 4) (arg n 5) = [] then .ok (s.latch (top n)) else castRuns (src n) (arg n 1) (arg n 2) (arg n 3)
          (maskTiles s (arg n 4) (arg n 5)) (if b then some (arg n 6) else none) (arg n 3) (s.latch (top n))) = Except.ok u →
        goes .mcast u)
    ∧ (∀ l x u lst t t' n, let m := GldMods.ofWord s.word
        n = (if m.b then 8 else 7) → n ≤ e.stack.length → gldTile m (top n) s = true →
        glossReader s (hList (s.ctx.regs.gloss m.h)).toNat 256 = .ok (lst, t) →
        layerHeaders glossReader (layersOf (s.ctx.regs.gloss m.h) lst) t = .ok (true, t') →
        arg n 1 + arg n 3 ≤ glRows lst → arg n 2 + arg n 4 ≤ glCols lst → gldCheck m (top n) t' = .ok () →
        let v := (t'.latch (top n)).modEng (fun e => { e with handle := s.ctx.regs.gloss m.h, glist := lst })
        barLoc m.b (top n) 7 v = .ok (l, x) → x.cores = v.cores → x.cur = v.cur → x.lookups = v.lookups →
        gldRows m (top n) lst (v.desc ((sel n).extractLsb' 4 4)) l (arg n 3) x = .ok u → goes .gld u)
    ∧ (∀ l x u p used t n, n = (if b then 4 else 3) → n ≤ e.stack.length → selOk (sel n) true true b = true →
        arg n 1 % 16 = 0 → arg n 2 % 16 = 0 → barOk s b (top n) 3 = .ok () →
        readSpr (src n) (arg n 1) s = .ok (p, used, t) → rangeOk s (dst n) (arg n 2) p.places.2 = true →
        bar n 3 (t.latch (top n)) l x →
        decompSlices (src n) (dst n) p (arg n 1) (arg n 2) used l (p.widths.length + 1) x = .ok u → goes .decomp u)
    ∧ (∀ l t, e.out = [] → 4 ≤ e.stack.length → (sel 4).extractLsb' 4 28 = 0 → arg 4 1 % 32 = 0 → arg 4 3 < 2 →
        elocate s (s.desc ((sel 4).extractLsb' 0 4)) (arg 4 1) 32 accWrite = .ok (l, t) → l.offPackage = false →
        homeTrap t l 32 true = none → ∃ w : BarWord, w.target.toNat = arg 4 2 ∧ w.count = 0
          ∧ w.gen = (t.barWord l.key l.cell).gen ∧ w.flags = (if arg 4 3 = 1 then 3 else 1)
          ∧ goes .barann ((t.setBytesKey l.key l.cell (w.bytes ++ leBytes 8 0)).edrop 4))
    ∧ (e.out ≠ [] → ∃ t, exec .barann s = .next t ∧ t.eng.word = e.word ∧ t.eng.stack = e.stack ∧ t.mem = s.mem)

/-- The copy words COMPLETE (R411 to R416): of operands that one packet holds, between cells of SRAM that can be reached, `COPY`,
`COPY2` of one row, `FILL` and `MCAST` to one tile send that packet, `GLD` of one element and `DECOMP` of an object of no slices
theirs, `BARANN` initialises its word, and the stream goes on after the word. -/
def Sys2Proof.Claims.CopiesComplete : Prop :=
  ∀ (s : State) (k : Nat) (rest : List Word) (sel soff doff len : Word) (a c : Nat), s.cur = .copy k → s.eng.inWord = none →
    copyCounts s.word = false → s.injectHold s.cur s.ctx.id.region = 0 →
    let st := s.eng.stack
    let sd := s.desc (sel.extractLsb' 8 4)
    let dd := s.desc (sel.extractLsb' 4 4)
    let n := len.toNat
    let goes (t : State) : Prop := t.eng.word = s.eng.word + 2 ∧ t.eng.inWord = none ∧ t.eng.stack = rest
    let sends (t : State) (bs : List Byte) : Prop := goes t ∧ ∃ p, t.mesh.pending = s.mesh.pending ++ [p] ∧ p.kind = 1
      ∧ p.dst = s.homeNode c ∧ p.addr = packetAddr 0 c ∧ p.data = bs
    let fits (n : Nat) : Prop := 1 ≤ n ∧ c % 64 + n ≤ 64
    (selOk sel true true false = true → fits n → InSram s sd soff.toNat n a → SramOpen s a n false → InSram s dd doff.toNat n c →
        (st = len :: doff :: soff :: sel :: rest → ∃ t, exec .copy s = .next t ∧ sends t (s.bytesKey 0 a n))
        ∧ ∀ sp dp, st = dp :: sp :: len :: 1 :: doff :: soff :: sel :: rest →
          ∃ t, exec .copy2 s = .next t ∧ sends t (s.bytesKey 0 a n))
    ∧ (∀ pat, selOk sel false true false = true → fits n → InSram s dd doff.toNat n c → st = pat :: len :: doff :: sel :: rest →
        ∃ t, exec .fill s = .next t ∧ sends t ((List.range n).map (fun i => (leBytes 4 pat.toNat).getD (i % 4) 0)))
    ∧ (∀ lo hi tile, selOk sel true false false = true → fits n → doff.toNat % 64 + n ≤ 64 → InSram s sd soff.toNat n a →
        SramOpen s a n false →
        hi.toNat * 2 ^ 32 + lo.toNat < 2 ^ s.partitionTiles.length → maskTiles s lo.toNat hi.toNat = [tile] →
        let share := shareOf (s.partition s.ctx.id.region) tile
        doff.toNat + n ≤ share.length * granuleBytes → granuleCell share doff.toNat = some c → physRegion c = .sram →
        st = hi :: lo :: len :: doff :: soff :: sel :: rest → ∃ t, exec .mcast s = .next t ∧ sends t (s.bytesKey 0 a n))
    ∧ (∀ x expect, s.eng.out = [] → sel.extractLsb' 4 28 = 0 → doff.toNat % 32 = 0 → x.toNat < 2 →
        InSram s (s.desc (sel.extractLsb' 0 4)) doff.toNat 32 c →
        SramOpen s c 32 true → st = x :: expect :: doff :: sel :: rest → ∃ t w, exec .barann s = .next t ∧ goes t
            ∧ w.target.toNat = expect.toNat
          ∧ w.count = 0 ∧ t.mem = (s.setBytesKey 0 c (BarWord.bytes w ++ leBytes 8 0)).mem)
    ∧ (∀ dp row col l t m u, let mods := GldMods.ofWord s.word
        let h := s.ctx.regs.gloss mods.h
        let size := rowSize mods.t 1
        mods.b = false → selOk sel false true false = true → hValid h = true → mods.t ≠ 6 → doff.toNat % 16 = 0 →
            dp.toNat % 16 = 0 →
        size ≤ dp.toNat → fits size → InSram s dd doff.toNat size c → (hList h).toNat % 256 = 0 →
            PlaceAt s (hList h).toNat 256 accRead l t →
        physRegion l.cell = .hbm →
        let lst := t.bytesKey l.key l.cell 256
        let width := widthOf (glFmt lst)
        let va := glBase lst + row.toNat * glPitch lst + col.toNat * width / 8
        let bytes := (width + 7) / 8
        layersOf h lst = [] → row.toNat < glRows lst → col.toNat < glCols lst → glBscale lst = 0 → va < 2 ^ 48 →
            va % 4096 + bytes ≤ 4096 →
        PlaceAt t va bytes accRead m u → physRegion m.cell = .hbm → st = dp :: doff :: 1 :: 1 :: col :: row :: sel :: rest →
        let code := codeAt (u.bytesKey m.key m.cell bytes) (col.toNat * width) width
        ∃ x, exec .gld s = .next x ∧ goes x ∧ ∃ p ∈ x.mesh.pending, p.dst = s.homeNode c
          ∧ p.data = packCodes mods.t [convert tagF32 mods.t 0 s.ctx.status.satnan (rne32 (decodeTag (glFmt lst) code))])
    ∧ ∀ b, let head := s.bytesKey 0 a 64
        selOk sel true true false = true → soff.toNat % 16 = 0 → doff.toNat % 16 = 0 → InSram s sd soff.toNat 64 a →
            SramOpen s a 64 false →
        sprCode head = 1 → glossFmtOk (sprFmt head) = true → sprClean head = true → sprRows head = 0 → sprNslice head = 0 →
        sprWoff head % 16 = 0 → sprSoff head % 16 = 0 → sprLoff head % 16 = 0 → InSram s sd (soff.toNat + sprLoff head) 256 b →
        SramOpen s b 256 false → canonicalCodes ((s.bytesKey 0 b 256).map (·.toNat)) ≠ none → InSram s dd doff.toNat 64 c →
            c % 64 = 0 →
        st = doff :: soff :: sel :: rest → ∃ t, exec .decomp s = .next t ∧ sends t (head.take 9 ++ [0] ++ (head.drop 10).take 6
          ++ leBytes 8 64 ++ leBytes 8 64 ++ leBytes 8 0 ++ (head.drop 40).take 24)

/-- The words of the copy stream (R405 to R416). The model's choices it rests on: log 32, 40, 41. -/
def Obligations.CopyWords : Prop :=
  Claims.CopyWords ∧ Claims.CopiesComplete

/-! ## The mesh (R57 to R75) -/

/-- Requests at their home (R61, R62, R65, R176): a read answers with its bytes, a write performs them and is
acknowledged, a nibble write keeps the other nibble, an atomic answers with the old value, and a barrier addition
counts; a home that refuses answers with NACK and its status, and performs nothing: 4 where its unit is out of service, 2 for
a poisoned request of kind 4 or above. The model's choices it rests on:
log 14, 48. -/
def Obligations.MeshRequests : Prop :=
  ∀ (s : State) (p : Packet) (key : BitVec 8) (cell : Nat),
    let n := p.len.toNat + 1
    let b := pktBody p
    let bs := b.take n
    (Served s p key cell n false → (∃ u, exec .meshRd s = .next (u.countFar cell)
        ∧ (Answers s u p 8 0 0 (s.bytesKey key cell n) ∧ u.mem = s.mem)))
    ∧ (Served s p key cell bs.length true → SameKey s key cell bs.length → MemInv s →
        (∃ u, exec .meshWr s = .next (u.countFar cell) ∧ (Answers s u p 9 0 0 [] ∧ Stored s u cell bs
          ∧ ∀ k, k < bs.length → u.poisoned (cell + k) 1 = p.poison))
        ∧ (∃ u, exec .meshWrb s = .next (u.countFar cell) ∧ (Answers s u p 9 0 0 []
          ∧ let v := landData s p key cell bs
            let (bkey, bcell) := fieldHome p.dst (BitVec.ofNat 40 (field p.data 56 8))
            Stored s v cell bs ∧ u.mem = (v.barAdd bkey bcell (BitVec.ofNat 64 bs.length)).mem)))
    ∧ (Served s p key cell 1 true → SameKey s key cell 1 → MemInv s →
        (∃ u, exec .meshWrn s = .next (u.countFar cell) ∧ (Answers s u p 9 0 0 [] ∧ ∃ v, Stored s u cell [v]
          ∧ v.extractLsb' 0 4 = ((if (b.getD 1 0).getLsbD 0 then b.getD 0 0 else s.byte cell)).extractLsb' 0 4
          ∧ v.extractLsb' 4 4 = ((if (b.getD 1 0).getLsbD 1 then b.getD 0 0 else s.byte cell)).extractLsb' 4 4)))
    ∧ (Served s p key cell n false →
        (p.poison = false → p.op.toNat < 7 → (∃ u, exec .meshAmo s = .next (u.countFar cell) ∧ (
          Answers s u p 0xA 0 0 (leBytes n (leNat (s.bytesKey key cell n)))
            ∧ u.mem = (s.setBytesKey key cell (leBytes n
              (atomicNew p.op.toNat (8 * n) (leNat (s.bytesKey key cell n)) (field b 0 n)))).mem)))
        ∧ (p.poison = false → p.op.toNat = 7 → (∃ u, exec .meshAmo s = .next (u.countFar cell) ∧ (
          Answers s u p 0xA 0 0 (leBytes n (leNat (s.bytesKey key cell n)))
            ∧ u.mem = (if leNat (s.bytesKey key cell n) = field b 0 n then s.setBytesKey key cell (leBytes n (field b n n)) else s).mem)))
        ∧ (7 < p.op.toNat → (∃ u, exec .meshAmo s = .next (u.countFar cell) ∧ (Answers s u p 0xB 3 0 [] ∧ u.mem = s.mem))))
    ∧ (Served s p key cell 32 false → (∃ u, exec .meshBadd s = .next (u.countFar cell) ∧ (Answers s u p 9 0 0 []
        ∧ u.mem = (s.setBytesKey key cell ((s.barWord key cell).add (BitVec.ofNat 64 (field b 0 8))).bytes).mem)))
    ∧ ∀ i w write c, (i, w, write) ∈ [(Instr.meshRd, n, false), (.meshWr, bs.length, true), (.meshWrb, bs.length, true),
          (.meshWrn, 1, true), (.meshAmo, n, false), (.meshBadd, 32, false)] →
        s.inp.pkt = some p → pktHome p = (key, cell) → offCell cell = false → ((homeNack s p key cell w write = some c →
            ∃ u, exec i s = .next u ∧ Answers s u p 0xB c 0 [] ∧ u.mem = s.mem ∧ u.poison = s.poison)
          ∧ (s.inService cell = false → homeNack s p key cell w write = some 4)
          ∧ (s.inService cell = true → p.poison = true → 4 ≤ p.kind.toNat → homeNack s p key cell w write = some 2))

/-- Home operations (R63, R115, R176, R228): each acts on its structure in one step and answers with its result and
status; a reserved kind or operation is discarded with a machine check (R61, R63). The model's choices it rests on:
log 14, 122. -/
def Obligations.HomeOperations : Prop :=
  ∀ (s : State) (p : Packet) (key : BitVec 8) (cell : Nat),
    let b := pktBody p
    let hopr (u : State) (status : BitVec 4) (data : List Byte) : Prop := Answers s u p 0xC status 0 data
    let same (u : State) (status : BitVec 4) (data : List Byte) : Prop := hopr u status data ∧ u.mem = s.mem ∧ u.folds = s.folds
    let becomes (u : State) (data : List Byte) (v : State) : Prop := hopr u 0 data ∧ u.mem = v.mem
    (Served s p key cell 32 true → (∃ u, exec .hopBinit s = .next (u.countFar cell)
        ∧ becomes u [] (s.barInit key cell (BitVec.ofNat 64 (field b 0 8)) ((b.getD 8 0).getLsbD 0))))
    ∧ (Served s p key cell 24 false → (∃ u, exec .hopBread s = .next (u.countFar cell) ∧ same u 0 (s.bytesKey key cell 24))
      ∧ let g := BitVec.ofNat 32 (field b 0 4)
        let w := s.barWord key cell
        (w.reached g = true → (∃ u, exec .hopBtimeout s = .next (u.countFar cell) ∧ same u 0 (s.bytesKey key cell 24)))
        ∧ (w.reached g = false → (∃ u, exec .hopBtimeout s = .next (u.countFar cell) ∧ (
            u.mem = (s.setBytesKey key cell { w with flags := w.flags ||| 8 }.bytes).mem ∧ hopr u 1 (u.bytesKey key cell 24)))))
    ∧ (Served s p key cell 16 true →
        (128 ≤ s.dqHeld cell → (∃ u, exec .hopWqpush s = .next (u.countFar cell) ∧ same u 1 []))
            ∧ ∀ v, s.dqPush cell (b.take 16) = some v → ∃ u, exec .hopWqpush s = .next (u.countFar cell) ∧ becomes u [] v)
    ∧ (Served s p key cell 16 false →
        (s.dqHeld cell = 0 → (∃ u, exec .hopWqpop s = .next (u.countFar cell) ∧ same u 1 [])
            ∧ (∃ u, exec .hopWqsteal s = .next (u.countFar cell) ∧ same u 1 []))
        ∧ (∀ item v, s.dqPop cell ((b.getD 0 0).getLsbD 0) = some (item, v) → ∃ u, exec .hopWqpop s = .next (u.countFar cell)
            ∧ becomes u item v)
        ∧ ∀ item v, s.dqSteal cell = some (item, v) → ∃ u, exec .hopWqsteal s = .next (u.countFar cell) ∧ becomes u item v)
    ∧ (Served s p key cell 256 false →
        let l := s.bytesKey key cell 256
        (∃ u, exec .hopGread s = .next (u.countFar cell) ∧ (u.mem = s.mem ∧ ∃ t1 t2 t3, Answers s t1 p 0xC 0 0 (l.take 64)
          ∧ Answers t1 t2 p 0xC 0 64 ((l.drop 64).take 64) ∧ Answers t2 t3 p 0xC 0 128 ((l.drop 128).take 64)
          ∧ Answers t3 u p 0xC 0 192 (l.drop 192)))
        ∧ ((8 ≤ glN l ∨ glRetired l = true) → (∃ u, exec .hopGattach s = .next (u.countFar cell) ∧ same u 1 []))
        ∧ (∀ v, s.glAttach key cell (b.take 28) = some v → ∃ u, exec .hopGattach s = .next (u.countFar cell) ∧ becomes u [] v)
        ∧ ((glN l ≤ (b.getD 0 0).toNat ∨ slDver (glSlot l (b.getD 0 0).toNat) ≠ 0) →
            (∃ u, exec .hopGdetach s = .next (u.countFar cell) ∧ same u 1 []))
        ∧ (∀ v, s.glDetach key cell (b.getD 0 0).toNat = some v → ∃ u, exec .hopGdetach s = .next (u.countFar cell)
            ∧ becomes u [] v)
        ∧ ((glFolding l = true ∨ glRetired l = true) → (∃ u, exec .hopGfold s = .next (u.countFar cell) ∧ same u 1 []))
        ∧ (glFolding l = false → glRetired l = false → (∃ u, exec .hopGfold s = .next (u.countFar cell) ∧ (hopr u 0 []
            ∧ u.mem = (s.setBytesKey key (cell + 23) [glNstat l ||| 0x80]).mem ∧ ∃ f, u.folds = s.folds ++ [f]
            ∧ f.old = physAddr key cell ∧ f.newVa = BitVec.ofNat 48 (field b 0 8) ∧ f.bar = BitVec.ofNat 52 (field b 8 8)
            ∧ f.tag = BitVec.ofNat 4 (field b 16 1) ∧ f.pasid = BitVec.ofNat 20 (field b 20 4) ∧ f.region = p.region))))
    ∧ (Served s p key cell 1 false →
        let v := s.byteKey key cell
        let w := s.setByteKey key cell (if v = 255 then 255 else v + 1)
        ((v = 255 ∨ v + 1 ≠ s.mmu.thresh) → ∃ u, exec .hopCntinc s = .next (u.countFar cell) ∧ becomes u [] w)
        ∧ (v ≠ 255 → v + 1 = s.mmu.thresh → (∃ u, exec .hopCntinc s = .next (u.countFar cell)
            ∧ (∃ x : State, Answers x u p 0xC 0 0 []
            ∧ (w.fbRoom = true → x.mmu.fbtail = s.mmu.fbtail + 1)
            ∧ (w.fbRoom = false → x.mmu.fbovf = true ∧ u.mem = w.mem)))))
    ∧ (s.inp.pkt = some p → let checked : State := { s with mgmt := { s.mgmt with checks := p.dst :: s.mgmt.checks } }
        exec .meshReservedKind s = .next checked ∧ exec .hopReserved s = .next checked)

/-- Answers reach the access they answer (R62, R64): it is no longer outstanding; data of an interlocked request go to the
bundle that waits, and data of an `LDR` to that `LDR`; a NACK traps precisely at a bundle that waits and after commit in a
context that went on, is fatal to the region where a handler had sent the request itself (R192), and faults an engine. -/
def Sys2Proof.Claims.MeshAnswers : Prop :=
  ∀ (s : State) (p : Packet) (a : Agent) (o : Access), s.inp.pkt = some p → s.findAccess p = some (a, o) →
    let code : Byte := if p.op = 1 then 0x0A else if p.op = 3 then 0x0C else 0x13
    let done (t : State) : Prop := t.outOf a = (s.outOf a).erase o
    (o.held = true → (∀ k, a ≠ .matrix k) → (∀ k, a ≠ .copy k) →
      (p.poison = false → ∃ t, exec .meshRdd s = .next t ∧ done t ∧ (t.ctxOf a).waits.reply = some (.data p.data))
      ∧ (∃ t, exec .meshAmor s = .next t ∧ done t ∧ (t.ctxOf a).waits.reply = some (.data p.data))
      ∧ (∃ t, exec .meshHopr s = .next t ∧ done t ∧ (t.ctxOf a).waits.reply = some (.data p.data))
      ∧ (p.poison = true → ∃ t, exec .meshRdd s = .next t ∧ done t ∧ (t.ctxOf a).waits.reply = some (.trap 0x13))
      ∧ ∃ t, exec .meshNack s = .next t ∧ done t ∧ (t.ctxOf a).waits.reply = some (.trap code))
    ∧ (o.held = false → (∃ k, a = .user k ∨ a = .fw k ∨ a = .lookup k) →
      (p.poison = false → ∃ t, exec .meshRdd s = .next t ∧ done t ∧ (t.ctxOf a).ldrs = (s.ctxOf a).ldrs.map (fun (l : Ldr) =>
        if l.answeredBy p then { l with data := some p.data } else l))
      ∧ ((s.ctxOf a).status.intrap = false → ∃ t, exec .meshNack s = .next t ∧ done t
          ∧ (t.ctxOf a).ldrs = (s.ctxOf a).ldrs.filter (fun l => !l.answeredBy p) ∧ ∃ e ∈ (t.ctxOf a).deferred, e.req.code = code)
      ∧ ((s.ctxOf a).status.intrap = true → (∀ k, a ≠ .fw k) → (∀ l ∈ (s.ctxOf a).ldrs, l.answeredBy p = false) →
          (s.ctxOf a).trapAt ≤ o.count → (s.ctxOf a).dbg.replayctl.extractLsb' 62 2 = 0 → ∃ t m, exec .meshNack s = .next t ∧ done t
          ∧ t.cur = s.cur ∧ t.sched = .happen .regionFault
            { n := (s.ctxOf a).id.region.toNat, m := m, value := BitVec.zeroExtend 64 code, addr := some (s.ctxOf a).pc, who := a } :: s.sched)
      ∧ (∃ t, exec .meshAmor s = .next t ∧ done t ∧ (t.ctxOf a).waits = (s.ctxOf a).waits)
      ∧ ∃ t, exec .meshHopr s = .next t ∧ done t ∧ (t.ctxOf a).waits = (s.ctxOf a).waits)
    ∧ (o.bar = none → ∃ t, exec .meshWack s = .next t ∧ done t ∧ t.mem = s.mem ∧ t.mesh = s.mesh)
    ∧ (o.held = false → ∀ k, a = .copy k →
        ∃ t, exec .meshNack s = .next t ∧ (t.engine k true).state = .stopped ∧ (t.engine k true).dead = true
          ∧ ∃ e ∈ (t.ctxOf (.user k)).deferred, e.req.code = code ∧ e.req.source = 2)

/-- The routers (R27, R57, R65, R66, R69): a cycle of a router whose neighbours have come as far counts as its next one; it makes no
packet, and loses none where no error comes in and no die is fenced: each is in flight, at a bridge, taken, or still to be injected;
a router that does not run leaves everything as it is. A response is performed as soon as it is offered, and a
request in the order of its stream: the one expected at once with those buffered behind it, up to 64 ahead buffered, others
refused (R72). -/
def Sys2Proof.Claims.MeshRouting : Prop :=
  (∀ (s : State), ∃ t, exec .routerCycle s = .next t ∧
      let count (u : State) : Nat := u.mesh.flits.length + u.mesh.crossing.length + u.mesh.offered.length + u.mesh.pending.length
      let runs : Prop := s.inp.n < 3 ∧ s.inp.m < dieWidth s.inp.n * 10 ∧ s.inp.k < 4 ∧ dieRoutes s s.inp.n = true
        ∧ routerReady s s.inp.n s.inp.m s.inp.k = true
      count t ≤ count s ∧ (s.inp.errs = [] → (∀ d, s.fences.dies.getLsbD d = false) → count t = count s) ∧ t.mem = s.mem
      ∧ (¬ runs → t = s)
      ∧ (runs → (t.routerRun s.inp.n s.inp.m s.inp.k).cycles = (s.routerRun s.inp.n s.inp.m s.inp.k).cycles + 1))
  ∧ ∀ (s : State) (p : Packet), s.mesh.offered[s.inp.n]? = some p →
      let gone := s.mesh.offered.eraseIdx s.inp.n
      ∃ t, exec .packetEject s = .next t ∧ t.mem = s.mem
        ∧ (p.x = true → t.sched = .happen (meshHappening p) { pkt := some p } :: s.sched ∧ t.mesh.flits = s.mesh.flits
            ∧ t.mesh.offered = gone)
        ∧ (p.x = false → let d := (p.seq - Assoc.get 0 s.mesh.expect (pktStream p)).toNat
          (d = 0 → t.mesh.offered = gone ∧ Assoc.get 0 t.mesh.expect (pktStream p) ≠ p.seq ∧ ∃ more, t.sched =
            .happen (meshHappening p) { pkt := some p } :: more ++ s.sched)
          ∧ (1 ≤ d → d ≤ 64 → t.mesh.offered = gone ∧ t.mesh.held = s.mesh.held ++ [p] ∧ t.sched = s.sched)
          ∧ (64 < d → t.sched = s.sched ∧ t.mesh.held = s.mesh.held ∧ t.mesh.expect = s.mesh.expect
            ∧ ((t.mesh.flits = s.mesh.flits ∧ t.mesh.offered = gone ++ [p])
              ∨ (t.mesh.offered = gone ∧ ∃ f, t.mesh.flits = s.mesh.flits ++ [f] ∧ f.pkt = p ∧ f.router = nodeRouter p.dst))))

/-- Answers of the mesh, and its routers (R27, R57, R62, R64 to R66, R69, R72, R192). The model's choices it rests on: log 47, 94. -/
def Obligations.MeshAnswersAndRouting : Prop :=
  Claims.MeshAnswers ∧ Claims.MeshRouting

/-! ## Linnor links (R32 to R49) -/

/-- Flits (R32 to R36): a flit's bytes come alternately on two lanes; a sound data flit with the number expected is accepted, and
the packets it completes arrive in order; a damaged or later flit is discarded, its credits and acknowledgement with it, and its
number asked for once, again after 2 µs, and the eighth time the link retrains; a retry request resends from the number named, and a retraining resumes from the oldest
unacknowledged flit. An acknowledgement lets flits leave the replay buffer, and a full buffer, or nothing to send,
makes an idle flit. The model's choices it rests on: log 42, 44, 45, 110, 111. -/
def Obligations.LinnorFlits : Prop :=
  ∀ (s : State), s.lnUp s.inp.n = true → s.inp.n < 64 →
    let p := s.inp.n
    let q := s.lnPort p
    let bs := fromLanes s.inp.bytes s.inp.lane1
    let h := FlitHeader.ofWord (BitVec.ofNat 64 (field bs 0 8))
    let sound := s.inp.flag = true ∧ field bs 232 8 = (crc64 (bs.take 232)).toNat ∧ bs.length = 240 ∧ h.kind.toNat < 4
    let asks (t : State) (n : Nat) : Prop := (t.lnPort p).wire.length = 256 ∧ (t.lnPort p).missing = true
      ∧ (t.lnPort p).asks = n ∧ (t.lnPort p).askedAt = s.ptime ∧ (t.lnPort p).replay = q.replay
      ∧ (t.lnPort p).creq = q.creq ∧ (t.lnPort p).crsp = q.crsp
      ∧ (FlitHeader.ofWord (BitVec.ofNat 64 (field (t.lnPort p).wire 0 8))).kind = 2
    (sound → h.kind = 0 → h.seq = q.expect → ∃ t, exec .linnorFlitReceive s = .next t
      ∧ (t.lnPort p).expect = q.expect + 1 ∧ (t.lnPort p).missing = false ∧ (t.lnPort p).creq = q.creq + h.creq.toNat
      ∧ (t.lnPort p).crsp = q.crsp + h.crsp.toNat
      ∧ let (ps, rest) := lnParse 100 (q.part ++ (bs.drop 8).take 224)
        (t.lnPort p).part = rest ∧ t.sched = ps.map (fun x => .happen (lnHappening x.kind) { n := p, lpkt := some x }) ++ s.sched)
    ∧ (sound → h.kind.toNat ≤ 1 → (h.seq - q.expect).toNat < 2048 → h.seq ≠ q.expect → q.missing = false →
        ∃ t, exec .linnorFlitReceive s = .next t ∧ asks t 1 ∧ (t.lnPort p).expect = q.expect ∧ t.sched = s.sched)
    ∧ (sound → h.kind = 1 → h.seq = q.expect → q.missing = true → exec .linnorFlitReceive s = .next s)
    ∧ (¬ sound → bs.length = 240 → q.missing = false →
        ∃ t, exec .linnorFlitReceive s = .next t ∧ asks t 1 ∧ (t.lnPort p).expect = q.expect ∧ t.sched = s.sched)
    ∧ (¬ sound → bs.length = 240 → q.missing = true →
        ∃ t, exec .linnorFlitReceive s = .next t ∧ t.lnPort p = q ∧ t.sched = s.sched)
    ∧ (sound → h.kind.toNat ≤ 1 → (h.kind = 0 ∨ q.missing = false) → h.ackv = true → h.seq = q.expect →
        ∃ t, exec .linnorFlitReceive s = .next t
        ∧ (t.lnPort p).replay = q.replay.filter (fun f => decide ((f.1 - (h.ack + 1)).toNat < 2048)))
    ∧ (s.inp.flit = .data → q.replay.length < 256 → (lnPack 224 q.sendq { q with sendq := [] } false false).rest ≠ [] →
        ∃ t, exec .linnorFlitTransmit s = .next t ∧ (t.lnPort p).next = q.next + 1 ∧ (t.lnPort p).wire.length = 256
          ∧ (t.lnPort p).replay = q.replay ++ [(q.next, (t.lnPort p).wire)])
    ∧ ((s.inp.flit = .idle ∨ s.inp.flit = .data ∧ 256 ≤ q.replay.length) → ∃ t, exec .linnorFlitTransmit s = .next t
        ∧ (t.lnPort p).next = q.next ∧ (t.lnPort p).replay = q.replay ∧ (t.lnPort p).wire.length = 256
        ∧ (FlitHeader.ofWord (BitVec.ofNat 64 (field (t.lnPort p).wire 0 8))).kind = 1)
    ∧ (∃ t, exec .linnorRetryRequest s = .next t ∧ (t.lnPort p).replay = q.replay
        ∧ (t.lnPort p).wire = (q.replay.filter (fun f => decide ((f.1 - BitVec.ofNat 12 s.inp.m).toNat < 2048))).flatMap (·.2))
    ∧ (q.missing = true → 2000 ≤ (s.ptime - q.askedAt).toNat →
        (q.asks < 8 → ∃ t, exec .retryRequestTimeout s = .next t ∧ asks t (q.asks + 1) ∧ t.sched = s.sched)
        ∧ (8 ≤ q.asks → ∃ t, exec .retryRequestTimeout s = .next t ∧ t.sched = .happen .linnorRetrain { n := p } :: s.sched))
    ∧ (∃ t, exec .linnorRetrain s = .next t ∧ (t.lnPort p).wire = q.replay.flatMap (·.2) ∧ (t.lnPort p).replay = q.replay
        ∧ (t.lnPort p).missing = false ∧ (t.lnPort p).trained = q.trained ∧ (t.lnPort p).half = q.half)
    ∧ ∀ x : LnPort, fromLanes (x.lane 0) (x.lane 1) = x.wire

/-- Requests of other devices (R38 to R40, R46, R47, R49): one for another device, one that meets an idle C7, one with a
malformed header and one that no export entry admits are answered ERR 2, 3, 6 and 2; an admitted one performs at its home and
is answered with its data, an acknowledgement or the old value; a message enters the ring or finds it full (BUSY); a wake frame
of 8 to 64 bytes that passes its port's filter wakes an idle C7 and is held, also the one that comes at another port in the same
cycle. -/
def Sys2Proof.Claims.LinnorRequests : Prop :=
  ∀ (s : State) (p : LinnorPacket), s.inp.lpkt = some p →
    let port := s.inp.n
    let n := p.len.toNat + 1
    let bs := p.data.take n
    let key := physKey p.addr
    let cell := physCell p.addr
    let answers (u : State) (kind op : BitVec 4) (data : List Byte) : Prop :=
      let r : LinnorPacket := ⟨kind, p.src, s.links.self, p.tag, BitVec.ofNat 8 (data.length - 1), op, 0, data⟩
      (u.lnPort port).sendq = (s.lnPort port).sendq ++ [⟨lnResponse kind, r⟩]
    let err (i : Instr) (c : BitVec 4) : Prop := ∃ u, exec i s = .next u ∧ answers u 9 c [] ∧ u.mem = s.mem
    let bad (i : Instr) : Prop :=
      i = .linnorRd ∧ 256 < p.addr.toNat % 256 + n ∨ i = .linnorWr ∧ 256 < p.addr.toNat % 256 + bs.length
      ∨ i = .linnorAtom ∧ (n ≠ 4 ∧ n ≠ 8 ∨ p.addr.toNat % n ≠ 0) ∨ i = .linnorMsg ∧ 192 < n ∨ i = .linnorReservedKind
      ∨ i = .linnorWake ∧ s.allGated = false ∧ (n < 8 ∨ 64 < n)
    let here := p.dst = s.links.self ∧ s.mgmt.idle ≠ .idle
    let admits (m : Nat) (write : Bool) : Prop := here ∧ exported s p m write = true ∧ outerRefuse s key cell m write = none
    (p.dst ≠ s.links.self → ∀ i ∈ [Instr.linnorRd, .linnorWr, .linnorAtom, .linnorMsg, .linnorWake, .linnorReservedKind], err i 2)
    ∧ (p.dst = s.links.self → s.mgmt.idle = .idle →
        ∀ i ∈ [Instr.linnorRd, .linnorWr, .linnorAtom, .linnorMsg], err i 3)
    ∧ (p.dst = s.links.self → s.allGated = true →
        ((wakeMatches s port p = false ∨ n < 8 ∨ 64 < n) → err .linnorWake 3)
        ∧ (wakeMatches s port p = true → s.wakeHeld port = true → err .linnorWake 4)
        ∧ (wakeMatches s port p = true → s.wakeHeld port = false → ∃ u, exec .linnorWake s = .next u
            ∧ u.mgmt.idle = .waking ∧ u.mgmt.idleCause = 2 ∧ (u.lnPort port).held = some p ∧ u.wakeHeld port = true
            ∧ (u.lnPort port).sendq = (s.lnPort port).sendq ∧ u.mem = s.mem))
    ∧ (here → (∀ i, bad i → err i 6)
        ∧ (¬ bad .linnorRd → exported s p n false = false → err .linnorRd 2)
        ∧ (¬ bad .linnorWr → exported s p bs.length true = false → err .linnorWr 2)
        ∧ (¬ bad .linnorAtom → exported s p n true = false → err .linnorAtom 2))
    ∧ (admits n false → ¬ bad .linnorRd →
        (∃ u, exec .linnorRd s = .next (u.countFar cell) ∧ (answers u 1 0 (s.bytesKey key cell n) ∧ u.mem = s.mem)))
    ∧ (admits bs.length true → ¬ bad .linnorWr → SameKey s key cell bs.length → MemInv s →
        (∃ u, exec .linnorWr s = .next (u.countFar cell) ∧ (answers u 3 0 [] ∧ Stored s u cell bs)))
    ∧ (admits n true → ¬ bad .linnorAtom → s.poisoned cell n = false →
        (p.op.toNat < 7 → (∃ u, exec .linnorAtom s = .next (u.countFar cell)
            ∧ (answers u 5 0 (leBytes n (leNat (s.bytesKey key cell n)))
          ∧ u.mem = (s.setBytesKey key cell (leBytes n
              (atomicNew p.op.toNat (8 * n) (leNat (s.bytesKey key cell n)) (field p.data 0 n)))).mem)))
        ∧ (p.op.toNat = 7 → (∃ u, exec .linnorAtom s = .next (u.countFar cell)
            ∧ (answers u 5 0 (leBytes n (leNat (s.bytesKey key cell n)))
          ∧ u.mem = (if leNat (s.bytesKey key cell n) = field p.data 0 n
              then s.setBytesKey key cell (leBytes n (field p.data n n)) else s).mem))))
    ∧ (here → (∃ u, exec .linnorReservedKind s = .next u ∧ answers u 9 6 [] ∧ u.mem = s.mem)
        ∧ let size := 2 ^ s.mgmt.msgsize.toNat
        let room := s.mgmt.msgen = true ∧ (s.mgmt.msgtail - s.mgmt.msghead).toNat < size
        let entered (u : State) : Prop := answers u 7 0 [] ∧ u.mgmt.msgtail = s.mgmt.msgtail + 1
            ∧ let base := s.mgmt.msgbase.extractLsb' 0 52
              let entry := physCell base + 256 * (s.mgmt.msgtail.toNat % size)
              (bs ≠ [] → SameKey s (physKey base) entry 256 → MemInv s →
                Stored s u entry (leBytes 2 p.src.toNat ++ [BitVec.ofNat 8 (bs.length - 1)] ++ List.replicate 5 0
                  ++ bs ++ List.replicate (248 - bs.length) 0))
        (n ≤ 192 → (room → ∃ u, exec .linnorMsg s = .next u ∧ entered u) ∧ (¬ room → err .linnorMsg 4))
        ∧ (s.allGated = false → 8 ≤ n → n ≤ 64 → s.wakeHeld port = false →
          (room → ∃ u, exec .linnorWake s = .next u ∧ entered u) ∧ (¬ room → err .linnorWake 4)))

/-- Answers to the C7's own requests (R40, R45): the request with the answer's tag is done and the mesh request it serves is
answered; an atomic's capability is learned from its first answer, and a refused one is ATOMIC_PATH; IDLE and BUSY make the
request wait, to be sent again after 4 µs and given up, as uncorrectable data, after 10 ms. A wake frame held at a port is
entered by the core it restored (R99). -/
def Sys2Proof.Claims.LinnorAnswers : Prop :=
  (∀ (s : State) (p : LinnorPacket) (r : LnReq) (o : Packet), s.inp.lpkt = some p → s.lnReq p = some r → r.orig = some o →
    r.pkt.tag = p.tag →
    let gone (t : State) : Prop := Assoc.find? t.links.reqs p.tag.toNat = none
    let d := r.pkt.dst.toNat
    let cap (t : State) (w : BitVec 64) : Prop := Assoc.get 0 t.links.route d = w
    let known := Assoc.get 0 s.links.route d
    let i := capBit r.pkt.op.toNat (r.pkt.len == 7)
    let good (t : State) (kind : BitVec 4) (data : List Byte) : Prop := Answers s t o kind 0 0 data
      ∧ gone t ∧ (r.pkt.kind ≠ 4 → t.links.route = s.links.route)
      ∧ (r.pkt.kind = 4 → known.getLsbD 62 = false → known.getLsbD (40 + i) = false →
          cap t (known ||| (1#64 <<< (40 + i)) ||| (1#64 <<< (48 + i))))
    (∃ t, exec .linnorRdrsp s = .next t ∧ good t 8 p.data) ∧ (∃ t, exec .linnorWrack s = .next t ∧ good t 9 [])
    ∧ (∃ t, exec .linnorAtomrsp s = .next t ∧ good t 0xA p.data)
    ∧ (∃ t, exec .linnorMsgack s = .next t ∧ gone t ∧ t.mesh = s.mesh)
    ∧ (p.op = 1 → ∃ t, exec .linnorErr s = .next t ∧ gone t ∧ Answers s t o 0xB (if r.pkt.kind = 4 then 3 else 1) 0 []
        ∧ (r.pkt.kind = 4 → known.getLsbD 62 = false → known.getLsbD (40 + i) = false →
            cap t ((known ||| (1#64 <<< (40 + i))) &&& ~~~(1#64 <<< (48 + i)))))
    ∧ (p.op = 5 → ∃ t, exec .linnorErr s = .next t ∧ gone t ∧ Answers s t o 0xB 2 0 [])
    ∧ ((p.op = 2 ∨ p.op = 6) → ∃ t, exec .linnorErr s = .next t ∧ gone t ∧ Answers s t o 0xB 1 0 [])
    ∧ ((p.op = 3 ∨ p.op = 4) → ∃ t, exec .linnorErr s = .next t ∧ t.mesh = s.mesh
        ∧ Assoc.find? t.links.reqs p.tag.toNat = some { r with waiting := true }))
  ∧ (∀ (s : State) (r : LnReq), Assoc.find? s.links.reqs s.inp.n = some r → r.pkt.tag.toNat = s.inp.n →
      let sent (t : State) : Prop := (t.lnPort r.port).sendq = (s.lnPort r.port).sendq ++ [⟨lnResponse r.pkt.kind, r.pkt⟩]
        ∧ Assoc.find? t.links.reqs s.inp.n = some { r with waiting := false, sentAt := s.ptime }
      (r.waiting = true → 4000 ≤ (s.ptime - r.sentAt).toNat → ∃ t, exec .linnorResendTimer s = .next t ∧ sent t)
      ∧ ((r.waiting = false ∨ (s.ptime - r.sentAt).toNat < 4000) → exec .linnorResendTimer s = .next s)
      ∧ (∀ o, r.orig = some o → r.waiting = true → 10000000 ≤ (s.ptime - r.since).toNat →
          ∃ t, exec .linnorRequestGiveup s = .next t ∧ Answers s t o 0xB 2 0 [] ∧ Assoc.find? t.links.reqs s.inp.n = none))
  ∧ ∀ (s : State) (p : LinnorPacket), (s.lnPort s.inp.m).held = some p → s.mgmt.idle ≠ .idle → s.coreGated s.inp.n = false →
      wakeCore s s.inp.m = s.inp.n →
      let size := 2 ^ s.mgmt.msgsize.toNat
      (s.mgmt.msgen = true → (s.mgmt.msgtail - s.mgmt.msghead).toNat < size → ∃ t, exec .wakeReplay s = .next t
        ∧ t.mgmt.msgtail = s.mgmt.msgtail + 1 ∧ (t.lnPort s.inp.m).held = none ∧ t.wakeHeld s.inp.m = false)
      ∧ ((s.mgmt.msgen = false ∨ size ≤ (s.mgmt.msgtail - s.mgmt.msghead).toNat) → exec .wakeReplay s = .next s)

/-- Packets of the Linnor ports: other devices' requests, and the answers to the C7's own (R38 to R40, R45 to R47, R49,
R99). The model's choices it rests on: log 46, 51. -/
def Obligations.LinnorPackets : Prop :=
  Claims.LinnorRequests ∧ Claims.LinnorAnswers

/-! ## The host (R51 to R53, R79 to R81, R98 to R100) -/

/-- What the host's BARs and other PCIe devices may do (R27, R51 to R53, R79 to R81): reads of the window give the register,
and of the host's writes only those of MSGHEAD and IDLECTL count; an aligned write of the application cores goes to the
register's own effect, any other access of the window is an error; BAR2 and translated requests reach memory at its home, and
what may not be reached is answered with an abort. The BARs are those of the port in service as an endpoint (R50); what lies behind
another port or in the Linnor aperture is asked there by requests of the port; a device's MSI-X message is an interrupt. -/
def Sys2Proof.Claims.OutsideAccesses : Prop :=
  ∀ (s : State),
    let err (t : State) : Prop := t = { s with mgmt := { s.mgmt with answer := [], answerOk := false } }
    let reaches (i : Instr) (port : Nat) (pa : BitVec 52) (write : Option (List Byte)) (n : Nat) (u : State) : Prop :=
      let key := physKey pa
      let cell := physCell pa
      let m := match write with | some bs => bs.length | none => n
      (offCell cell = true → 0 < m →
        exec i s = .next (u.outerSend { port := port, pa := pa, write := write.isSome, left := m, data := write.getD [] }))
      ∧ (offCell cell = false → (∃ c, outerRefuse u key cell m write.isSome = some c) →
        ∃ t, exec i s = .next t ∧ t.mem = u.mem ∧ t.mgmt.answerOk = false)
      ∧ (write = none → outerRefuse u key cell n false = none → ∃ t, exec i s = .next t ∧ t.mem = u.mem
          ∧ t.mgmt.answerOk = true ∧ t.mgmt.answer = u.bytesKey key cell n)
      ∧ ∀ bs, write = some bs → outerRefuse u key cell bs.length true = none → SameKey u key cell bs.length → MemInv u →
          ∃ t, exec i s = .next t ∧ t.mgmt.answerOk = true ∧ Stored u t cell bs
    (∃ t, exec .mgmtWindowBadAccess s = .next t ∧ err t) ∧ (∃ t, exec .pcieAtsPriRequest s = .next t ∧ err t)
    ∧ (s.inp.n % 8 ≠ 0 → ∀ i, i = .registerWrite ∨ i = .bar0Access → ∃ t, exec i s = .next t ∧ err t)
    ∧ (s.endpointPort = none → (∃ t, exec .bar0Access s = .next t ∧ err t) ∧ ∃ t, exec .bar2Access s = .next t ∧ err t)
    ∧ (s.endpointPort ≠ none → s.inp.n % 8 = 0 → s.inp.write = none → (s.queue ((s.inp.n - 0x10000) / 64)).waiting = [] →
        ∃ t, exec .bar0Access s = .next t
        ∧ t = { s with mgmt := { s.mgmt with answer := leBytes 8 (mgmtRead s s.inp.n).toNat, answerOk := true } })
    ∧ (s.endpointPort ≠ none → s.inp.n % 8 = 0 → s.inp.n ≠ 0x20030 → s.inp.n ≠ 0x20010 → ∀ v, s.inp.write = some v →
        ∃ t, exec .bar0Access s = .next t
        ∧ t = { s with mgmt := { s.mgmt with answer := [], answerOk := true } })
    ∧ (s.endpointPort ≠ none → s.inp.n = 0x20030 → ∀ v : BitVec 64, ∃ t, (s.inp.write = some v → exec .bar0Access s = .next t)
        ∧ (s.inp.value = v → exec .registerWrite s = .next t) ∧ t.mgmt.msghead = v.extractLsb' 0 32 ∧ t.mem = s.mem)
    ∧ (s.inp.n = 0x1000 → ∃ t, exec .registerWrite s = .next t ∧ t.links.self = s.inp.value.extractLsb' 0 10
        ∧ mgmtRead t 0x1000 = s.inp.value &&& 0x3FF)
    ∧ (s.inp.n = 0x38 → ∃ t, exec .registerWrite s = .next t ∧ mgmtRead t 0x38 = s.inp.value &&& 0x800FFFFFC0000000)
    ∧ (s.inp.n % 8 = 0 → (s.inp.n < 0x38 ∨ 0x40 ≤ s.inp.n ∧ s.inp.n < 0x1000 ∨ 0x21000 ≤ s.inp.n) →
        ∃ t, exec .registerWrite s = .next t ∧ t = { s with mgmt := { s.mgmt with answer := [], answerOk := true } })
    ∧ ((s.mgmt.bar2.getLsbD 63 = false ∨ 2 ^ 30 ≤ s.inp.n) → ∃ t, exec .bar2Access s = .next t ∧ err t)
    ∧ (s.mgmt.bar2.getLsbD 63 = true → s.inp.n < 2 ^ 30 → s.endpointPort ≠ none → s.inp.flag = false →
        let pa : BitVec 52 := s.mgmt.bar2.extractLsb' 30 22 ++ BitVec.ofNat 30 s.inp.n
        offCell (physCell pa) = false → outerRefuse s (physKey pa) (physCell pa) s.inp.m false = none →
        ∃ t, exec .bar2Access s = .next t ∧ t.mem = s.mem ∧ t.mgmt.answerOk = true
          ∧ t.mgmt.answer = s.bytesKey (physKey pa) (physCell pa) s.inp.m)
    ∧ (s.mgmt.bar2.getLsbD 63 = true → s.inp.n < 2 ^ 30 → ∀ port, s.endpointPort = some port → reaches .bar2Access port
        (s.mgmt.bar2.extractLsb' 30 22 ++ BitVec.ofNat 30 s.inp.n) (if s.inp.flag then some s.inp.bytes else none) s.inp.m s)
    ∧ ∀ r, s.inp.req = some r → s.pcieUp r.port = true →
        (∀ irq, r.msi = some irq → (s.pciePort r.port).mode ≠ .endpoint → ∃ t, exec .pcieInboundRequest s = .next t
          ∧ t.mgmt.msis = (irq.extractLsb' 32 5, irq.extractLsb' 0 11) :: s.mgmt.msis ∧ t.mem = s.mem)
        ∧ (r.msi = none → inboundPlace r (if r.write then accWrite else accRead) s = none →
            ∃ t, exec .pcieInboundRequest s = .next t ∧ err t)
        ∧ (∀ pa u, r.msi = none → inboundPlace r (if r.write then accWrite else accRead) s = some (pa, u) →
            reaches .pcieInboundRequest r.port pa (if r.write then some r.data else none) r.len u)
        ∧ ((r.atomic = none ∨ (r.len ≠ 4 ∧ r.len ≠ 8) ∨ r.addr.toNat % r.len ≠ 0) →
            ∃ t, exec .pcieAtomicopInbound s = .next t ∧ err t)
        ∧ ∀ a pa u, r.atomic = some a → a.toNat < 3 → (r.len = 4 ∨ r.len = 8) → r.addr.toNat % r.len = 0 →
            inboundPlace r accAtomic s = some (pa, u) → outerRefuse u (physKey pa) (physCell pa) r.len false = none →
            ∃ t, exec .pcieAtomicopInbound s = .next t ∧ t.mgmt.answerOk = true
              ∧ let old := leNat (u.bytesKey (physKey pa) (physCell pa) r.len)
                t.mgmt.answer = leBytes r.len old
                ∧ (a = 0 → t.mem = (u.setBytesKey (physKey pa) (physCell pa)
                    (leBytes r.len ((old + field r.data 0 r.len) % 2 ^ (8 * r.len)))).mem)
                ∧ (a = 1 → t.mem = (u.setBytesKey (physKey pa) (physCell pa) (leBytes r.len (field r.data 0 r.len))).mem)
                ∧ (a = 2 → t.mem = (if old = field r.data 0 r.len then u.setBytesKey (physKey pa) (physCell pa)
                    (leBytes r.len (field r.data r.len r.len)) else u).mem)

/-- Completions of the C7's own PCIe requests (R52, R179), where no other waits for a tag of the port (R51): the request is done,
the writes posted before it are acknowledged, and it is answered with its data; a refused one is PROT, and of an atomic
ATOMIC_PATH, and its capability is learned. A flushing read of the package itself answers nothing more. -/
def Sys2Proof.Claims.PcieCompletes : Prop :=
  ∀ (s : State) (o : PcieOut), Assoc.find? s.links.pcie s.inp.n = some o →
    (∀ p ∈ s.links.pcieWait, ((pktHome p).2 - 0xD0000000000) / 2 ^ 38 ≠ o.req.port) →
    ∃ t u acks, exec .pcieCompletion s = .next t ∧ Assoc.find? t.links.pcie s.inp.n = none ∧ t.mem = s.mem
      ∧ u.mesh.pending = s.mesh.pending ++ acks ∧ acks.map (fun p => (p.kind, p.dst, p.seq)) =
          o.flushes.map (fun p => (9, p.src, p.seq))
      ∧ (o.orig = none → t.mesh = u.mesh)
      ∧ ∀ p, o.orig = some p →
        (o.req.atomic = none → s.inp.flag = true → Answers u t p 8 0 0 s.inp.bytes)
        ∧ (o.req.atomic = none → s.inp.flag = false → Answers u t p 0xB 1 0 [])
        ∧ ∀ a, o.req.atomic = some a →
          let i := capBit (if a = 0 then 0 else if a = 1 then 6 else 7) (o.req.len == 8)
          let w := Assoc.get 0 s.links.pcieCap o.req.port
          (s.inp.flag = true → Answers u t p 0xA 0 0 s.inp.bytes)
          ∧ (s.inp.flag = false → Answers u t p 0xB 3 0 [])
          ∧ (w.getLsbD 62 = false → w.getLsbD (40 + i) = false → (Assoc.get 0 t.links.pcieCap o.req.port).getLsbD (40 + i) = true
              ∧ (Assoc.get 0 t.links.pcieCap o.req.port).getLsbD (48 + i) = s.inp.flag)

/-- What the host and other PCIe devices do, and the C7's own accesses to the host (R27, R51 to R53, R79 to R81, R179).
The model's choices it rests on: log 48, 52. -/
def Obligations.HostAccesses : Prop :=
  Claims.OutsideAccesses ∧ Claims.PcieCompletes

/-- Idle and wake (R98 to R100): the C7 goes idle only while no region exists, on IDLE_NOW at once and on EN after DELAY
microseconds with nothing to do; idle, its cores are gated; a write of IDLECTL that clears EN wakes it, and it runs again when
the first restored core reports ready. -/
def Sys2Proof.Claims.IdleAndWake : Prop :=
  ∀ (s : State),
    let goes (x : IdleState) : State := { s with mgmt := { s.mgmt with idle := x } }
    (s.regions = [] → s.mgmt.idle = .running → exec .idleNow s = .next (goes .entering))
    ∧ ((s.regions ≠ [] ∨ s.mgmt.idle ≠ .running) → exec .idleNow s = .next s)
    ∧ (s.mgmt.idle = .running → s.mgmt.idleEn = true → s.hasWork = false →
        1000 * s.mgmt.idleDelay.toNat ≤ (s.ptime - s.mgmt.quietAt).toNat → exec .idleDelayExpiry s = .next (goes .entering))
    ∧ ((s.mgmt.idle ≠ .running ∨ s.mgmt.idleEn = false ∨ s.hasWork = true
        ∨ (s.ptime - s.mgmt.quietAt).toNat < 1000 * s.mgmt.idleDelay.toNat) → exec .idleDelayExpiry s = .next s)
    ∧ (s.mgmt.idle = .entering → ∃ t, exec .idleEntered s = .next t ∧ t.mgmt.idle = .idle ∧ ∀ k, t.coreGated k = true)
    ∧ (s.mgmt.idle = .idle → s.inp.value.getLsbD 63 = false → ∃ t, exec .idlectlWakeWrite s = .next t
        ∧ t.mgmt.idle = .waking ∧ t.mgmt.idleCause = 3 ∧ t.mgmt.gated = false)
    ∧ (s.mgmt.idle = .waking → s.coreGated s.inp.n = false → exec .wakeComplete s = .next (goes .running))

/-! ## Bring-up, temperature, fences, service (R15, R22 to R31, R55, R56, R119, R161) -/

/-- Bring-up (R22 to R26): at power-on step 0 begins with nothing ready, and the journal stays; a passing instance sets its
READYMAP bit and writes a PASS record, ALT_PASS where its alternative is in force; a failing one writes a FAIL record with the
policy of the next start, and its unit leaves service; a failure of step 0 or 6 halts the start; an optional instance that
detects no partner writes nothing. -/
def Sys2Proof.Claims.BringUp : Prop :=
  (∀ (s : State), ∃ t, exec .powerOnReset s = .next t ∧ t.boot.starts = s.boot.starts + 1 ∧ t.mem = []
      ∧ t.boot.off = false ∧ t.boot.osready = false ∧ t.boot.alldone = false ∧ t.boot.tiles = 0 ∧ t.boot.meshUp = 0
      ∧ (s.boot.latest = [] → t.boot.journal = s.boot.journal ∧ t.boot.stepNow = 0 ∧ t.boot.halted = false
          ∧ t.readymap = BitVec.ofBool s.boot.replreq ++ 0#63))
  ∧ ∀ (s : State) (n i : Nat), s.inp.n = n → s.inp.m = i → s.boot.stepNow = n → i < stepCount n → s.boot.halted = false →
    s.boot.done.contains i = false → s.boot.alldone = false →
    let r := s.latest n i
    let alt := match r with | some r => r.policy = 2 ∨ r.outcome = 2 ∨ r.outcome = 4 | none => False
    let record (t : State) (outcome policy : Byte) : Prop := ∃ a : JournalRec,
      Assoc.find? t.boot.journal s.boot.next.toNat = some a ∧ a.time = s.ptime ∧ a.step.toNat = n ∧ a.inst.toNat = i
      ∧ a.outcome = outcome ∧ a.policy = policy ∧ a.detail = s.inp.value.extractLsb' 0 16 ∧ a.start = s.boot.starts
    let more := s.boot.done.length + 1 < stepCount n
    (s.inp.int ≠ 0 → stepOptional n = true → more → ∃ t, exec .bringupStepComplete s = .next t
        ∧ t.boot.journal = s.boot.journal ∧ t.boot.done = i :: s.boot.done ∧ t.readymap = s.readymap ∧ t.fences = s.fences)
    ∧ (s.inp.int = 0 → s.inp.flag = true →
        (n = 0 → s.boot.latest = [] → ∃ t, exec .bringupStepComplete s = .next t ∧ record t 0 0 ∧ t.boot.fwok = true)
        ∧ (more → ∃ t, exec .bringupStepComplete s = .next t ∧ (alt → record t 2 0) ∧ (¬ alt → record t 0 0)
          ∧ (n = 1 → t.boot.hbm.getLsbD i = true) ∧ (n = 2 → t.boot.tested.getLsbD i = true)
          ∧ (n = 3 → t.boot.meshUp.getLsbD i = true ∧ ∀ k, k < 128 →
              t.boot.tiles.getLsbD (128 * i + k) =
                (s.boot.tiles.getLsbD (128 * i + k) || (s.boot.tested.getLsbD (128 * i + k) && !s.fences.tiles.getLsbD (128 * i + k))))
          ∧ (n = 4 → t.boot.links.getLsbD i = true ∧ t.lnUp i = (!s.fences.lports.getLsbD i && !s.fences.dies.getLsbD (i / 32))
              ∧ (t.lnPort i).creq = 512 ∧ (t.lnPort i).crsp = 512 ∧ ((t.lnPort i).half = true ↔ alt))
          ∧ (n = 5 → t.boot.pcie.getLsbD i = true))
        ∧ (n = 6 → ∃ t, exec .bringupStepComplete s = .next t ∧ t.boot.osready = true ∧ t.boot.alldone = true))
    ∧ (s.inp.int = 0 → s.inp.flag = false →
        let policy : Byte := match r with
          | none => 1
          | some a => if a.policy = 2 ∨ a.outcome = 2 ∨ a.outcome = 4 then (if n = 4 ∨ n = 5 then 3 else 4)
              else if a.outcome = 1 then 2 else 1
        ((more ∨ n = 0 ∨ n = 6) → ∃ t, exec .bringupStepComplete s = .next t ∧ record t 1 policy
          ∧ ((n = 0 ∨ n = 6) → t.boot.halted = true) ∧ (n = 1 → t.fences.hbms.getLsbD i = true)
          ∧ (n = 2 → s.inp.value.getLsbD 0 = false → t.fences.tiles.getLsbD i = true)
          ∧ (n = 4 → t.fences.lports.getLsbD i = true) ∧ (n = 5 → t.fences.pports.getLsbD i = true)))

/-- The readings of the sensors and the core clock (R15): the sensors are read every 100 µs, the highest tile reading counts, and at
110 degrees a THERMAL record is written and the package turns itself off; once in 1 ms the clock falls by 100 MHz at 95 degrees or
more, not below 1.0 GHz, holds from 90 to 94, and rises below 90, not above 1.9 GHz. -/
def Sys2Proof.Claims.ThermalAndClock : Prop :=
  ∀ (s : State),
    let all := newReadings s.inp.temps s.mgmt.temps
    let m : Mgmt := { s.mgmt with temps := all, hottest := hottestOf all, polledAt := some s.ptime }
    let elapsed (since : Option (BitVec 64)) (nanos : Nat) : Prop := ∀ t, since = some t → nanos ≤ (s.ptime - t).toNat
    (∀ k v, k < 256 → Assoc.find? all k = some v → v ≤ hottestOf all)
    ∧ (¬ elapsed s.mgmt.polledAt 100000 → exec .thermalPoll s = .next s)
    ∧ (elapsed s.mgmt.polledAt 100000 → hottestOf all < 110 → exec .thermalPoll s = .next { s with mgmt := m })
    ∧ (elapsed s.mgmt.polledAt 100000 → 110 ≤ hottestOf all → ∃ t, exec .thermalPoll s = .next t ∧ t.boot.off = true ∧ t.mgmt = m
        ∧ t.boot.next = s.boot.next + 1 ∧ ∃ r, Assoc.find? t.boot.journal s.boot.next.toNat = some r ∧ r.outcome = 5
        ∧ r.step = 0xFF ∧ r.time = s.ptime)
    ∧ (¬ elapsed s.mgmt.clockAt 1000000 → exec .clockAdjustTick s = .next s)
    ∧ (elapsed s.mgmt.clockAt 1000000 → ∃ t, exec .clockAdjustTick s = .next t
        ∧ t = { s with mgmt := { s.mgmt with clock := t.mgmt.clock, clockAt := t.mgmt.clockAt } }
        ∧ (95 ≤ s.mgmt.hottest → t.mgmt.clock = max 1000 (s.mgmt.clock - 100) ∧ t.mgmt.clockAt = some s.ptime)
        ∧ (90 ≤ s.mgmt.hottest → s.mgmt.hottest < 95 → t = s)
        ∧ (s.mgmt.hottest < 90 → t.mgmt.clock = min 1900 (s.mgmt.clock + 100) ∧ t.mgmt.clockAt = some s.ptime))

/-- Bring-up after reset, and the throttles (R15, R22 to R26). The model's choices it rests on: log 54, 78, 79, 80, 97,
121. -/
def Obligations.BringUpAndHeat : Prop :=
  Claims.BringUp ∧ Claims.ThermalAndClock

/-- A run-time fence (R27 to R31): a tile's second uncorrectable error within an hour fences it, a stack's errors in more than 16
rows within an hour, and a Linnor port's resent flits; what is reported short of that is noted. The unit's READYMAP bit clears, a
FENCE record is written and replacement requested; work dispatched to a tile, and on a stack's lookup cores, faults its
regions; a port over its retry limit is fenced; of a lost compute die the survivor's distributor takes over, with a new term
(R119). The model's choices it rests on: log 78, 81, 82, 131. -/
def Obligations.RuntimeFences : Prop :=
  ∀ (s : State) (n : Nat),
    let recent (t : BitVec 64) : Prop := (s.ptime - t).toNat ≤ 3600000000000
    let again := ∃ t, Assoc.find? s.fences.tileErr n = some t ∧ recent t
    let rows := (Assoc.get [] s.fences.rowErr n).filter (fun e => decide ((s.ptime - e.2).toNat ≤ 3600000000000) && e.1 != s.inp.m)
    let recorded (t : State) : Prop := t.boot.replreq = true ∧ t.boot.next = s.boot.next + 1 ∧ ∃ r,
      Assoc.find? t.boot.journal s.boot.next.toNat = some r ∧ r.step = 0xFF ∧ r.outcome = 4 ∧ r.inst = BitVec.ofNat 16 n
    (s.inp.unit = some (.tile n) → ¬ again → exec .runtimeFence s =
        .next { s with fences := { s.fences with tileErr := Assoc.set s.fences.tileErr n s.ptime } })
    ∧ (n < 256 → s.inp.unit = some (.tile n) → again → s.tileUp n = true → ∃ t, exec .runtimeFence s = .next t ∧ recorded t
        ∧ t.tileUp n = false
        ∧ t.boot.tiles.getLsbD n = false ∧ (∀ j, j < 256 → j ≠ n → t.tileUp j = s.tileUp j)
        ∧ t.sched = (s.workOf (.tile n) s.workOn).map (fun e => .happen .regionFault { n := e.1.toNat, m := e.2, value := 0xFE }) ++ s.sched
        ∧ ∀ k, k < 4 → t.core (4 * n + k) = {})
    ∧ (s.inp.unit = some (.stack n) → rows.length < 16 → exec .runtimeFence s = .next { s with fences := { s.fences with
        rowErr := Assoc.set s.fences.rowErr n (rows ++ [(s.inp.m, s.ptime)]) } })
    ∧ (n < 12 → s.inp.unit = some (.stack n) → 16 ≤ rows.length → s.stackUp n = true → ∃ t, exec .runtimeFence s = .next t
        ∧ recorded t
        ∧ t.stackUp n = false ∧ ∀ j, j < 12 → j ≠ n → t.stackUp j = s.stackUp j)
    ∧ (s.inp.unit = some (.linnorPort n) → (s.lnPort n).resentNow s.ptime < Config.retryLimit → exec .runtimeFence s = .next s)
    ∧ (n < 64 → s.inp.unit = some (.linnorPort n) → Config.retryLimit ≤ (s.lnPort n).resentNow s.ptime → s.linkUp n = true →
        ∃ t, exec .runtimeFence s = .next t ∧ recorded t ∧ t.linkUp n = false ∧ ∀ j, j < 64 → j ≠ n → t.linkUp j = s.linkUp j)
    ∧ (n < 4 → s.inp.unit = some (.pciePort n) → s.pcieUp n = true → ∃ t, exec .runtimeFence s = .next t ∧ recorded t
        ∧ t.pcieUp n = false ∧ ∀ j, j < 4 → j ≠ n → t.pcieUp j = s.pcieUp j)
    ∧ (n < 2 → s.inp.unit = some (.die n) → s.fences.dies = 0 → s.inp.cause = .fabric → ∃ t, exec .runtimeFence s = .next t
        ∧ t.dieOut 1 = true ∧ (t.dieOut 0 = true ↔ n = 0) ∧ t.boot.replreq = true ∧ t.boot.meshUp.getLsbD n = false)
    ∧ (s.inp.n = n → Config.retryLimit ≤ (s.lnPort n).resentNow s.ptime → exec .retryLimitExceeded s =
        .next { s with sched := .happen .runtimeFence { unit := some (.linnorPort n), cause := .retryLimit } :: s.sched })
    ∧ (s.inp.n = n → (s.lnPort n).resentNow s.ptime < Config.retryLimit → exec .retryLimitExceeded s = .next s)
    ∧ (s.inp.n = n → n < 2 → s.dieOut n = true → s.dieOut (1 - n) = false → s.regions = [] → s.dist.grains = [] →
        ∃ t, exec .distributorTakeover s = .next t ∧ t.dist.term = s.dist.term + 1
          ∧ t.dist.master = BitVec.ofNat 1 (1 - n) ∧ t.mem = s.mem)
    ∧ (s.inp.n = n → (s.dieOut n = false ∨ s.dieOut (1 - n) = true) → exec .distributorTakeover s = .next s)

/-- The service ports and the seal (R24, R31, R55, R56, R136, R161, R162): the I3C port answers with journal records, the
highest reading and that of each tile and stack, and READYMAP; the boundary-scan port takes its mandatory instructions at all
times and the private one while debug access is open, and a service command clears an instance's entries; keys are installed and removed, and of a new key's
ID old data no longer read as they did; an attestation gives REPLREQ and the counts in service. -/
def Sys2Proof.Claims.ServiceAndSeal : Prop :=
  ∀ (s : State),
    let answered (bs : List Byte) : State := { s with mgmt := { s.mgmt with answer := bs, answerOk := true } }
    (∀ n r, s.inp.query = .journal n → Assoc.find? s.boot.journal n = some r → exec .i3cRequest s = .next (answered r.bytes))
    ∧ (s.inp.query = .readymap → exec .i3cRequest s = .next (answered (leBytes 8 s.readymap.toNat)))
    ∧ (s.inp.query = .sensors → exec .i3cRequest s = .next (answered
        ((s.mgmt.hottest :: (List.range 268).map (Assoc.get 0 s.mgmt.temps)).flatMap (fun x => leBytes 4 (BitVec.ofInt 32 x).toNat))))
    ∧ (∃ t, exec .i3cServiceCommand s = .next t ∧ t.boot.replreq = false ∧ t.latest s.inp.n s.inp.m = none
        ∧ (∀ e ∈ t.boot.journal, ¬ (e.2.step.toNat = s.inp.n ∧ e.2.inst.toNat = s.inp.m)) ∧ t.fences = s.fences)
    ∧ ((s.inp.n < 4 ∨ (s.inp.n = 4 ∧ s.mgmt.debugOpen = true)) → exec .jtagInstruction s =
        .next { s with mgmt := { s.mgmt with jtag := s.inp.n } })
    ∧ ((4 < s.inp.n ∨ (s.inp.n = 4 ∧ s.mgmt.debugOpen = false)) → exec .jtagInstruction s =
        .next { s with mgmt := { s.mgmt with jtag := 0 } })
    ∧ (∃ t, exec .debugAccessChallenge s = .next t ∧ t.mgmt.debugOpen = (s.mgmt.debugOpen || s.inp.flag) ∧ t.mem = s.mem)
    ∧ (∀ kid : BitVec 8, s.inp.n = kid.toNat →
        (kid = 0 → exec .sealKeyInstall s = .next s)
        ∧ (kid ≠ 0 → s.inp.flag = true → ∃ t, exec .sealKeyInstall s = .next t
            ∧ Assoc.get false t.security.keys kid.toNat = true ∧ (s.inp.m = 1 →
                Assoc.get 0 t.security.tenants s.inp.pasid.toNat = kid)
            ∧ ∀ a, (∀ e ∈ s.unitKey, e.2 = kid → e.1 ≠ a / 64) → MemInv s → t.byte a = s.byte a)
        ∧ (kid ≠ 0 → s.inp.flag = false → ∃ t, exec .sealKeyInstall s = .next t
            ∧ Assoc.get false t.security.keys kid.toNat = false ∧ t.mem = s.mem))
    ∧ (∃ t, exec .sealTraceKeyInstall s = .next t
        ∧ Assoc.find? t.security.traceKeys s.inp.pasid.toNat = some ((s.inp.bytes ++ List.replicate 32 0).take 32))
    ∧ (∃ t, exec .sealAttestation s = .next t ∧ t.security.report = [s.boot.replreq.toNat, State.countUp 256 s.tileUp,
        State.countUp 12 s.stackUp, 8 * State.countUp 12 s.stackUp, State.countUp 64 s.linkUp, State.countUp 4 s.pcieUp])

/-- Idle and wake, and the service commands (R24, R31, R55, R56, R98 to R100, R136, R161, R162). The model's choices it
rests on: log 50, 83, 84, 135, 136. -/
def Obligations.IdleAndService : Prop :=
  Claims.IdleAndWake ∧ Claims.ServiceAndSeal

/-! ## Power, the lease, clocked happenings (R18, R19, R124, R184, R196, R306, R349) -/

/-- Power of the matrix arrays (R18, R19): in issue-budget mode a tile whose array has passed for BUDGET + 1 cycles of a window, which
are those of 64 cycles of CYCLE, stalls until the next one, and what a pass has used past it is charged to the windows that follow; in
token-ring mode an arriving token stays with a tile that has matrix work ready and none in hand, else goes on to the next tile of the
die, and a burst ends with its lease, where no matrix work is ready, or after 1,024 cycles. -/
def Sys2Proof.Claims.MatrixPower : Prop :=
  ∀ (s : State) (n : Nat), s.inp.n = n → n < 256 →
    let ring := Config.tokenRing = true
    let next := if n % 128 = 127 then n - 127 else n + 1
    let x := s.tile n
    let w := s.cycle.toNat / 64
    let limit := Config.budget.toNat + 1
    let used := x.activeCycles - (w - x.window) * limit
    let others (t : State) : Prop := ∀ m, m ≠ n → t.tile m = s.tile m
    ((ring ∨ w ≤ x.window) → exec .governorWindow s = .next s)
    ∧ (¬ ring → x.window < w → ∃ t, exec .governorWindow s = .next t ∧ others t
        ∧ t.tile n = { x with activeCycles := used, window := w, govStalled := false })
    ∧ ((ring ∨ used < limit) → exec .governorBudgetStall s = .next s)
    ∧ (¬ ring → limit ≤ used → ∃ t, exec .governorBudgetStall s = .next t ∧ others t
        ∧ t.tile n = { x with activeCycles := used, window := w, govStalled := true })
    ∧ ((¬ ring ∨ x.passing = 0) → exec .tokenArrival s = .next s)
    ∧ (ring → 1 ≤ x.passing → ∃ t, exec .tokenArrival s = .next t
        ∧ (x.token = false → s.matrixReady n = true → t.tile next = s.tile next ∧
            t.tile n = { x with passing := x.passing - 1, token := true, tokenAt := s.cycle, burst := x.lease.held })
        ∧ ((x.token = true ∨ s.matrixReady n = false) →
            t.tile n = { x with passing := x.passing - 1 } ∧ (t.tile next).passing = (s.tile next).passing + 1))
    ∧ (let ends := (x.lease.held = false ∧ (x.burst = true ∨ s.matrixReady n = false)) ∨ 1024 ≤ (s.cycle - x.tokenAt).toNat
      (ring → x.token = true → ends → ∃ t, exec .tokenBurstEnd s = .next t ∧ (t.tile n).token = false ∧ (t.tile n).burst = false
        ∧ (t.tile next).passing = (s.tile next).passing + 1)
      ∧ ((¬ ring ∨ x.token = false ∨ ¬ ends) → exec .tokenBurstEnd s = .next s))

/-- The lease of a tile's matrix array (R19, R124, R196): in token-ring mode while the tile holds a token whose burst has had no
lease, it is granted to a waiting sequencer of the highest priority; of those, one
of a region within its share before others, and round-robin; after 1,024 cycles it ends, and a word in progress waits for the
next. -/
def Sys2Proof.Claims.LeaseTurns : Prop :=
  ∀ (s : State) (n : Nat), s.inp.n = n →
    let l := (s.tile n).lease
    let waits (i : Nat) : Prop := i < 4 ∧ (s.core (4 * n + i)).mat.state = .waitLease
    let prio (i : Nat) : Nat := (s.core (4 * n + i)).user.id.prio.toNat
    let past (i : Nat) : Bool := s.overShare n (s.core (4 * n + i)).user.id.region
    let barred := Config.tokenRing = true ∧ ((s.tile n).token = false ∨ (s.tile n).burst = true)
    (l.held = true → exec .leaseGrant s = .next s) ∧ ((∀ i, ¬ waits i) → exec .leaseGrant s = .next s)
    ∧ (barred → exec .leaseGrant s = .next s)
    ∧ (l.held = false → ¬ barred → (∃ i, waits i) → ∃ t i, exec .leaseGrant s = .next t ∧ waits i ∧ (t.tile n).lease.held = true
        ∧ (t.tile n).lease.holder = BitVec.ofNat 2 i ∧ (t.tile n).lease.words = 0 ∧ (t.tile n).lease.since = s.cycle
        ∧ (t.tile n).burst = (s.tile n).token
        ∧ (t.core (4 * n + i)).mat = { (s.core (4 * n + i)).mat with state := .running }
        ∧ (∀ j, j ≠ 4 * n + i → t.core j = s.core j) ∧ t.mem = s.mem
        ∧ ∀ j, waits j → prio j ≤ prio i ∧ (prio j = prio i → past j = false → past i = false)
            ∧ (prio j = prio i → past j = past i → l.lastHolder.toNat < j → l.lastHolder.toNat < i ∧ i ≤ j))
    ∧ (l.held = true → 1024 ≤ (s.cycle - l.since).toNat → let k := 4 * n + l.holder.toNat
        ∃ t, exec .leaseCycleLimit s = .next t ∧ (t.tile n).lease.held = false ∧ (t.tile n).lease.lastHolder = l.holder
        ∧ ((s.engine k false).inWord.isSome = true → (s.engine k false).inArray = true →
            (t.engine k false).state = .waitLease ∧ (t.engine k false).step = (s.engine k false).step
            ∧ (t.engine k false).inWord = (s.engine k false).inWord))
    ∧ (l.held = false → exec .leaseCycleLimit s = .next s)
    ∧ ((s.cycle - l.since).toNat < 1024 → exec .leaseCycleLimit s = .next s)

/-- The matrix power sequence and the lease of the matrix core (R18, R19, R124, R196). The model's choices it rests on:
log 105, 119. -/
def Obligations.PowerAndLeases : Prop :=
  Claims.MatrixPower ∧ Claims.LeaseTurns

/-- What comes about with time: an engine's `AWAIT` takes one from its event when it is not 0 and nothing that is served
before it waits for the same event, the bundle stream first, then the matrix stream, then the copy stream (R184); an engine's skew runs out (R306); a barrier wait past its limit sets TIMEOUT at the word's home unless its
generation has been reached (R349); a wait of replay ends after 2^24 cycles in REPLAY_DIVERGE (R140). -/
def Sys2Proof.Claims.TimeRunsOut : Prop :=
  (∀ (s : State) (k : Nat) (copy : Bool), s.inp.n = k → s.inp.flag = copy →
      let b := (s.engine k copy).bcast
      ((s.cycle - b.armedAt).toNat < b.skew.toNat → exec .loopbStartSkew s = .next s)
      ∧ (b.skew.toNat ≤ (s.cycle - b.armedAt).toNat → ∃ t, exec .loopbStartSkew s = .next t
          ∧ (t.engine k copy).bcast = { (s.engine k copy).bcast with skewDone := true }
        ∧ t.engine k (!copy) = s.engine k (!copy)))
  ∧ (∀ (s : State) (k : Nat) (copy : Bool) (w : BitVec 16) (u : State) (e : EvNum), s.inp.n = k →
      let a : Agent := if copy then .copy k else .matrix k
      let at_ : State := { s with cur := a, issue := {} }
      (s.engine k (!copy)).state ≠ .waitEvent → (s.engine k copy).state = .waitEvent → (s.engine k copy).resolved = none →
      let first := at_.firstToAwait e.toNat = true
      at_.engineReady = true → fetchWord at_ at_.eng.word = .ok (w, u) → decodeFor copy w = .engineAwait e →
          u.cores = s.cores → u.cur = a →
      ((s.core k).user.regs.event e.toNat ≠ 0 → first → ∃ t, exec .eventCycleUpdate s = .next t
        ∧ (t.core k).user.regs.event e.toNat = (s.core k).user.regs.event e.toNat - 1
        ∧ (t.engine k copy).state = .running ∧ (t.engine k copy).word = (s.engine k copy).word + 2)
      ∧ (((s.core k).user.regs.event e.toNat = 0 ∨ ¬ first) → exec .eventCycleUpdate s = .next s))
  ∧ (∀ (s : State),
      let w := (s.ctxOf s.inp.who).waits
      let word := s.barWord w.wordKey w.word
      (w.replay = true → 2 ^ 24 ≤ (s.cycle - w.since).toNat → ∃ t, exec .replayWaitTimeout s = .next t
        ∧ (t.ctxOf s.inp.who).waits = { w with replay := false, resolved := some 0x14 } ∧ t.mem = s.mem)
      ∧ ((w.replay = false ∨ (s.cycle - w.since).toNat < 2 ^ 24) → exec .replayWaitTimeout s = .next s)
      ∧ (w.barrier = true → w.limit ≠ 0 → w.limit.toNat ≤ (s.cycle - w.since).toNat → w.timedOut = false →
        (word.reached w.gen = true → exec .barwwaitTimeoutExpiry s = .next s)
        ∧ (word.reached w.gen = false → ∃ t, exec .barwwaitTimeoutExpiry s = .next t
            ∧ t.mem = (s.setBytesKey w.wordKey w.word { word with flags := word.flags ||| 8 }.bytes).mem
            ∧ (t.ctxOf s.inp.who).waits = { w with timedOut := true }))
      ∧ ((w.barrier = false ∨ w.limit = 0 ∨ (s.cycle - w.since).toNat < w.limit.toNat) →
          exec .barwwaitTimeoutExpiry s = .next s))

/-- The trace drain (R134 to R136): the oldest record of a core's quill goes to its ring and WRITTEN counts it; a full ring, or a
confidential region without a trace key, counts it in LOST; where room returns to a quill that has dropped records, a LOST record
says how many; a confidential region with a key gathers seven records to a sealed block, enciphered under it, which a time of 4,096
cycles without a new record seals early; samples come at most once in 2^(SPER + 9) cycles. -/
def Sys2Proof.Claims.TraceDrains : Prop :=
  (∀ (s : State) (k : Nat) (r : TraceRec) (rest : List TraceRec), s.inp.n = k → (s.core k).quill.fifo = r :: rest → r.kind ≠ 3 →
      let c := (s.core k).user
      let q := (s.core k).quill
      let tk := Assoc.find? s.security.traceKeys c.id.pasid.toNat
      let ring := 2 ^ ((c.dbg.tracectl.extractLsb' 54 4).toNat + 12)
      let pops (t : State) : Prop := (q.lost = 0 → (t.core k).quill.fifo = rest)
        ∧ (q.lost ≠ 0 → rest.length < 64 → ∃ x, (t.core k).quill.fifo = rest ++ [x] ∧ x.kind = 3
            ∧ x.payload = BitVec.ofNat 64 q.lost ∧ (t.core k).quill.lost = 0)
      (∀ t, ringAt s k 0 32 = .wait t → c.id.conf = false → exec .quillDrain s = .next t)
      ∧ (ringAt s k 0 32 = .gone → c.id.conf = false → ∃ t, exec .quillDrain s = .next t ∧ pops t ∧ t.mem = s.mem)
      ∧ (∀ key cell u, ringAt s k 0 32 = .ok key cell u → u.cores = s.cores →
        let w := leNat (u.bytesKey key cell 8)
        let read := leNat (u.bytesKey key (cell + 8) 8)
        let cap (size : Nat) : Nat := (ring - 64) / size
        let lost : State := u.setBytesKey key (cell + 16) (leBytes 8 (leNat (u.bytesKey key (cell + 16) 8) + 1))
        (c.id.conf = false → cap 32 ≤ w - read → ∃ t, exec .quillDrain s = .next t ∧ pops t ∧ t.mem = lost.mem)
        ∧ (c.id.conf = true → tk = none → ∃ t, exec .quillDrain s = .next t ∧ pops t ∧ t.mem = lost.mem)
        ∧ (c.id.conf = false → w - read < cap 32 → ∀ ukey ucell v, ringAt u k (64 + w % cap 32 * 32) 32 = .ok ukey ucell v →
            v.cores = s.cores → ∃ t, exec .quillDrain s = .next t ∧ pops t
              ∧ t.mem = ((v.setBytesKey ukey ucell r.bytes).setBytesKey key cell (leBytes 8 (w + 1))).mem))
      ∧ (c.id.conf = true → tk.isSome = true → q.part.length < 6 →
          ∃ t, exec .quillDrain s = .next t ∧ pops t ∧ (t.core k).quill.part = q.part ++ [r] ∧ t.mem = s.mem))
  ∧ (∀ (s : State) (k : Nat), s.inp.n = k →
      let q := (s.core k).quill
      ((s.cycle - q.lastAt).toNat < 4096 → exec .sealTimeout s = .next s)
      ∧ (q.part = [] → exec .sealTimeout s = .next s) ∧ (q.sealedAt = some s.ptime → exec .sealTimeout s = .next s)
      ∧ (4096 ≤ (s.cycle - q.lastAt).toNat → q.part ≠ [] → (∀ r ∈ q.part, r.kind ≠ 3) → q.sealedAt ≠ some s.ptime →
          ∀ tk, Assoc.find? s.security.traceKeys (s.core k).user.id.pasid.toNat = some tk →
          ∀ key cell u, ringAt s k 0 32 = .ok key cell u → u.cores = s.cores →
          let w := leNat (u.bytesKey key cell 8)
          let read := leNat (u.bytesKey key (cell + 8) 8)
          let cap := (2 ^ (((s.core k).user.dbg.tracectl.extractLsb' 54 4).toNat + 12) - 64) / 256
          let off := 64 + w % cap * 256
          w - read < cap → off % 4096 ≤ 3840 → ∀ ukey ucell v, ringAt u k off 256 = .ok ukey ucell v → v.cores = s.cores →
          let nonce := leBytes 2 k ++ [0, 0] ++ leBytes 8 s.ptime.toNat
          let plain := q.part.flatMap TraceRec.bytes ++ List.replicate (224 - 32 * q.part.length) 0
          let block := nonce ++ leBytes 4 q.part.length
            ++ aesGcm tk nonce [nonce ++ leBytes 4 q.part.length] ((List.range 14).map (fun i => (plain.drop (16 * i)).take 16))
          ∃ t, exec .sealTimeout s = .next t ∧ (t.core k).quill.part = [] ∧ (t.core k).quill.sealedAt = some s.ptime
            ∧ block.length = 256
            ∧ t.mem = ((v.setBytesKey ukey ucell block).setBytesKey key cell (leBytes 8 (w + 1))).mem))
  ∧ ∀ (s : State) (k : Nat), s.inp.n = k →
      let c := (s.core k).user
      let q := (s.core k).quill
      let sper := (c.dbg.tracectl.extractLsb' 58 4).toNat
      ((c.running = false ∨ c.id.debug = false ∨ c.dbg.tracectl.getLsbD 63 = false ∨ sper = 0
          ∨ (s.cycle - q.sampledAt).toNat < 2 ^ (sper + 9)) → exec .sampleTimer s = .next s)
      ∧ (c.running = true → c.id.debug = true → c.dbg.tracectl.getLsbD 63 = true → sper ≠ 0 →
          2 ^ (sper + 9) ≤ (s.cycle - q.sampledAt).toNat → q.fifo.length < 64 → q.lost = 0 →
          ∃ t r, exec .sampleTimer s = .next t ∧ (t.core k).quill.fifo = q.fifo ++ [r] ∧ (t.core k).quill.sampledAt = s.cycle
            ∧ r.kind = 2 ∧ r.stamp = s.ptime ∧ (r.fw = true ↔ s.inp.m % 8 = 7)
            ∧ r.pc = (if s.inp.m % 8 = 7 then (s.core k).fw.pc else c.pc))

/-- What time brings about, and the drain of a trace (R134 to R136, R140, R184, R306, R349). The model's choices it rests
on: log 65, 66, 67, 137. -/
def Obligations.TimersAndTrace : Prop :=
  Claims.TimeRunsOut ∧ Claims.TraceDrains

/-! ## PASIDs, faults, invalidation, counters (R101, R102, R149 to R159) -/

/-- The life of a PASID (R101, R102): a free one becomes active; the teardown of an active one makes it quiescing, stops its
queues, ends its regions' launches, and closes its faults; with nothing outstanding it is free, and no cached translation of it
is left. -/
def Sys2Proof.Claims.PasidsLiveAndEnd : Prop :=
  ∀ (s : State) (p : BitVec 20), s.inp.pasid = p →
    let to_ (x : PasidState) : State := { s with mmu := { s.mmu with pasids := Assoc.set s.mmu.pasids p.toNat x } }
    let moved (t : State) : State := { t with mmu := { t.mmu with pdt := BitVec.ofNat 64 (leNat s.inp.bytes) } }
    (s.pasidState p = .free → (s.inp.bytes.length ≠ 8 → exec .pasidActivate s = .next (to_ .active))
      ∧ (s.inp.bytes.length = 8 → exec .pasidActivate s = .next (moved (to_ .active))))
    ∧ (s.pasidState p ≠ .free → (s.inp.bytes.length ≠ 8 → exec .pasidActivate s = .next s)
      ∧ (s.inp.bytes.length = 8 → exec .pasidActivate s = .next (moved s)))
    ∧ exec .pasidStatusSelect s = .next { s with mmu := { s.mmu with selected := p } }
    ∧ (s.pasidState p ≠ .active → exec .pasidTeardown s = .next s)
    ∧ (s.pasidState p = .active → s.regions = [] → s.lfe.launches = [] → s.lfe.queues = [] → ∃ t, exec .pasidTeardown s = .next t
        ∧ t.pasidState p = .quiescing ∧ (∀ f ∈ t.mmu.faults, f.pasid = p → f.stale = true) ∧ t.outstanding p = 0)
    ∧ (s.pasidState p = .quiescing → s.outstanding p = 0 → ∃ t, exec .pasidTeardownComplete s = .next t ∧ t.pasidState p = .free
        ∧ (∀ n, ∀ e ∈ (t.tile n).tlb, e.pasid ≠ p) ∧ (∀ e ∈ t.lfe.tlb, e.pasid ≠ p) ∧ t.mem = s.mem
        ∧ (∀ d, ∀ e ∈ Assoc.get [] t.mmu.l2 d, e.pasid ≠ p)
        ∧ ∀ n, ∀ e ∈ (s.tile n).tlb, e.pasid ≠ p → e ∈ (t.tile n).tlb)
    ∧ ((s.pasidState p ≠ .quiescing ∨ s.outstanding p ≠ 0) → exec .pasidTeardownComplete s = .next s)

/-- Walks, fault records and resolutions (R149 to R156): a walk that finds a leaf installs it, one that faults opens a fault, and
one of a PASID that is not active does nothing; a record that waited is written once there is room; a resolution of an open
record lets what waits on its page issue again, with the trap of PAGE or PROT where it names one; an invalidation removes what it
names; a fence completes when nothing is on its way, and no posted write waits to be flushed; the counters are halved once an epoch. -/
def Sys2Proof.Claims.FaultsOpenAndClose : Prop :=
  (∀ (s : State) (w : WalkRequest), s.inp.walk = some w → s.inp.flag = false →
      (s.pasidState w.pasid ≠ .active → exec .walkComplete s = .next s)
      ∧ (s.pasidState w.pasid = .active →
        (∀ e t, s.walk w.pasid w.va w.access = .leaf e t → exec .walkComplete s = .next (t.tlbFill (WalkRequest.port w) e))
        ∧ (∀ t, s.walk w.pasid w.va w.access = .prot t → exec .walkComplete s = .next t)
        ∧ (∀ c u, s.walk w.pasid w.va w.access = .fault c u → u.fbRoom = true → u.mmu.faults = [] →
            ∃ t f, exec .walkComplete s = .next t ∧ t.mmu.faults = [f] ∧ f.index = some u.mmu.fbtail ∧ f.pasid = w.pasid
              ∧ f.va = w.va ∧ f.cause = c ∧ f.access = w.access ∧ t.mmu.fbtail = u.mmu.fbtail + 1)))
  ∧ (∀ (s : State) (f : OpenFault), s.mmu.faults = [f] → f.index = none →
      (s.fbRoom = true → ∃ t, exec .faultRecordDeferred s = .next t ∧ t.mmu.fbtail = s.mmu.fbtail + 1
          ∧ t.mmu.faults = (if f.stale then [] else [{ f with index := some s.mmu.fbtail }]))
      ∧ (s.fbRoom = false → exec .faultRecordDeferred s = .next s))
  ∧ (∀ (s : State) (i trap : _) (resolve : Instr) (f : OpenFault),
      (resolve, trap) ∈ [(Instr.fbresolveRetry, (none : Option Byte)), (.fbresolvePage, some 0x09), (.fbresolveProt, some 0x0A)] →
      s.inp.value.extractLsb' 0 32 = i →
      ((∀ g ∈ s.mmu.faults, g.index ≠ some i ∨ g.stale = true) → exec resolve s = .next s)
      ∧ (s.mmu.faults = [f] → f.index = some i → f.stale = false → s.lookups = [] → s.lfe.queues = [] → s.lfe.launches = [] →
          s.folds = [] → s.dist.adds = [] → (∀ k, (s.core k).user.ldrs = [] ∧ (s.core k).fw.ldrs = []) →
          (∃ t, exec .fbresolveRetry s = .next t ∧ t.mmu.faults = [] ∧ t.mem = s.mem)
          ∧ (∃ t, exec .fbresolvePage s = .next t ∧ t.mmu.faults = [] ∧ t.mem = s.mem)
          ∧ (∃ t, exec .fbresolveProt s = .next t ∧ t.mmu.faults = [] ∧ t.mem = s.mem)
          ∧ ∃ t, exec resolve s = .next t ∧ t.mmu.faults = [] ∧ t.mem = s.mem
          ∧ (∀ k copy va, (s.engine k copy).fault = some va → f.covers (s.core k).user.id.pasid va = true →
              (t.engine k copy).fault = none ∧ (t.engine k copy).resolved = trap)
          ∧ ∀ k, ∀ va, (s.core k).user.waits.fault = some va →
            (f.covers (s.core k).user.id.pasid va = true → (t.core k).user.waits.fault = none
              ∧ (t.core k).user.waits.resolved = trap ∧ (t.core k).user.pc = (s.core k).user.pc)
            ∧ (f.covers (s.core k).user.id.pasid va = false → (t.core k).user = (s.core k).user)))
  ∧ (∀ (s : State), ∃ t, exec .iotinvalVma s = .next t ∧ t.mem = s.mem ∧ t.cores = s.cores ∧
      let gone (e : TlbEntry) : Bool := match s.inp.addr with
        | some a => e.hits s.inp.pasid a
        | none => e.pasid == s.inp.pasid
      t.lfe.tlb = s.lfe.tlb.filter (!gone ·) ∧ ∀ n, (t.tile n).tlb = (s.tile n).tlb.filter (!gone ·))
  ∧ (∀ (s : State), let idle := s.mesh.flits = [] ∧ s.mesh.pending = [] ∧ s.mesh.offered = [] ∧ s.mesh.held = []
        ∧ s.mesh.crossing = [] ∧ s.links.reqs = [] ∧ s.links.pcie = [] ∧ s.links.pcieWait = [] ∧ s.folds = []
      let posted := ∃ e ∈ s.links.posted, e.2 ≠ []
      (idle → ¬ posted → exec .iofenceC s = .next { s with mmu := { s.mmu with fencesDone := s.mmu.fencesDone + 1 } })
      ∧ (idle → posted → ∃ t, exec .iofenceC s = .next t ∧ t.mmu = s.mmu ∧ t.mem = s.mem)
      ∧ (¬ idle → exec .iofenceC s = .next s))
  ∧ ∀ (s : State), let due := s.mmu.cnten = true ∧ s.mmu.epoch ≠ 0 ∧ 1000 * 2 ^ s.mmu.epoch.toNat ≤ (s.ptime - s.mmu.sweptAt).toNat
      let base := physCell (s.mmu.cntbase.extractLsb' 0 52)
      (¬ due → exec .counterEpochSweep s = .next s)
      ∧ (due → MemInv s → ∃ t, exec .counterEpochSweep s = .next t ∧ t.mmu.sweptAt = s.ptime ∧ MemInv t
          ∧ ∀ a, (t.byte a).toNat = if base ≤ a ∧ a < base + 192 * 2 ^ 20 then (s.byte a).toNat / 2 else (s.byte a).toNat)

/-- Process contexts and translation faults (R101, R102, R149 to R156). The model's choices it rests on: log 9, 10, 75,
76, 112. -/
def Obligations.ContextsAndFaults : Prop :=
  Claims.PasidsLiveAndEnd ∧ Claims.FaultsOpenAndClose

/-! ## Launches (R82 to R96) -/

/-- Launch queues (R82 to R86, R99): V is set with a legal SIZE and an ACTIVE PASID, else ERR 4 or 5; it is cleared between
records; a doorbell moves LQTAIL and wakes an idle C7; the LFE takes the record at LQHEAD of a queue of the highest PRIO: a bad
record stops the queue with ERR 1 and stays, a NOP is done, a WAIT holds the queue until its word has reached WAITGEN, a SIGNAL
adds and is done, a LAUNCH gets STATUS 0 and T_FETCH as it is fetched (R96) and makes a root region. -/
def Sys2Proof.Claims.LaunchQueues : Prop :=
  (∀ (s : State) (q : Nat) (v : BitVec 64), s.inp.n = q → s.inp.value = v →
      let size := (v.extractLsb' 52 6).toNat
      let active := s.pasidState (v.extractLsb' 32 20) = .active
      (∃ t, exec .lqctlEnable s = .next t ∧ (t.queue q).head = (s.queue q).head ∧ (t.queue q).pasid = v.extractLsb' 32 20
        ∧ (size < 4 ∨ 16 < size → (t.queue q).err = 4 ∧ (t.queue q).v = (s.queue q).v)
        ∧ (4 ≤ size → size ≤ 16 → ¬ active → (t.queue q).err = 5 ∧ (t.queue q).v = (s.queue q).v)
        ∧ (4 ≤ size → size ≤ 16 → active → (t.queue q).v = true ∧ (t.queue q).stop = false ∧ (t.queue q).err = 0))
      ∧ (((s.queue q).held = false → (s.queue q).fault = none) → (OpRec.kind (s.queue q).bytes = 2 ∨ (s.queue q).held = false) →
          ∃ t, exec .lqctlDisable s = .next t ∧ (t.queue q).v = false ∧ (t.queue q).head = (s.queue q).head)
      ∧ ((s.queue q).held = false → (s.queue q).fault.isSome = true →
          ∃ t, exec .lqctlDisable s = .next t ∧ t.queue q = { s.queue q with waiting := (s.queue q).waiting ++ [(0, 0)] })
      ∧ ∃ t, exec .lqtailDoorbell s = .next t ∧ t.queue q = { s.queue q with tail := v.extractLsb' 0 32 }
          ∧ t.mgmt.gated = false ∧ (s.mgmt.idle = .idle → t.mgmt.idle = .waking ∧ t.mgmt.idleCause = 1)
          ∧ (s.mgmt.idle = .entering → t.mgmt.idle = .running))
  ∧ (∀ (s : State), s.nextQueue = none → exec .lfeRecordFetch s = .next s)
  ∧ (∀ (s : State) (q : Nat), s.nextQueue = some q → ∃ e ∈ s.lfe.queues, e.1 = q ∧ e.2.ready = true
      ∧ ∀ f ∈ s.lfe.queues, f.2.ready = true → f.2.fenced = false → f.2.prio.toNat ≤ e.2.prio.toNat)
  ∧ (∀ (s : State) (q : Nat) (b : List Byte) (u : State), s.nextQueue = some q → (s.queue q).waiting = [] →
      let c := s.queue q
      let at_ : State := { s with lfe := { s.lfe with lastQueue := Assoc.set s.lfe.lastQueue c.prio.toNat q } }
      lfeRead c.pasid 2 at_ (s.recordVa q) 128 = .ok (b, u) → u.lfe.queues = s.lfe.queues →
      (OpRec.clean b = false → ∃ t, exec .lfeRecordFetch s = .next t ∧ (t.queue q).err = 1 ∧ (t.queue q).stop = true
          ∧ (t.queue q).head = c.head)
      ∧ (OpRec.clean b = true → OpRec.fence b = true → u.queueBusy q = true →
          ∃ t, exec .lfeRecordFetch s = .next t ∧ (t.queue q).fenced = true ∧ (t.queue q).head = c.head ∧ t.mem = u.mem)
      ∧ (OpRec.clean b = true → (OpRec.fence b = true → u.queueBusy q = false) →
        (OpRec.kind b = 0 → ∀ v, lfeWrite u c.pasid (s.recordVa q + 4) [2, 0, 0, 0] = .ok v → v.lfe.queues = s.lfe.queues →
          ∃ t, exec .lfeRecordFetch s = .next t ∧ (t.queue q).head = c.head + 1 ∧ t.mem = v.mem)
        ∧ (OpRec.kind b = 2 → ∃ t, exec .lfeRecordFetch s = .next t ∧ (t.queue q).held = true ∧ (t.queue q).bytes = b
            ∧ (t.queue q).head = c.head)
        ∧ (OpRec.kind b = 3 → ∃ t, exec .lfeRecordFetch s = .next t ∧ (t.queue q).held = true ∧ (t.queue q).bytes = b
            ∧ (t.queue q).head = c.head
            ∧ t.sched = .happen .signalRecord { n := q } :: u.sched)
        ∧ (OpRec.kind b = 1 → c.fetched = false →
          (∀ w, lfeWrite u c.pasid (s.recordVa q + 4) [0, 0, 0, 0] = .ok w → w.lfe.queues = s.lfe.queues → c.lrecSkip = false →
            (OpRec.lrec b = 0 → ∃ x, beginRecord u q b = .ok x ∧ x.mem = w.mem)
            ∧ (OpRec.lrec b ≠ 0 → ∀ x y, lfeWrite w c.pasid (OpRec.lrec b + 16) (leBytes 8 w.ptime.toNat) = .ok x →
                x.lfe.queues = s.lfe.queues → lfeWrite x c.pasid (OpRec.lrec b + 56) [0, 0, 0, 0] = .ok y →
                ∃ z, beginRecord u q b = .ok z ∧ z.mem = y.mem))
          ∧ ∀ x, beginRecord u q b = .ok x → x.queue q = { c with fetched := true } →
            (OpRec.ranges b = false → ∃ t, exec .lfeRecordFetch s = .next t ∧ (t.queue q).err = 1 ∧ (t.queue q).head = c.head)
            ∧ (OpRec.ranges b = true → ∀ bank v, lfeHeader x (x.queue q) b = .ok (bank, v) → v.lfe.queues = x.lfe.queues →
              (v.grantable b = false → ∃ t, exec .lfeRecordFetch s = .next t ∧ (t.queue q).err = 3 ∧ (t.queue q).head = c.head)
              ∧ (v.grantable b = true → ∀ r, v.freeRegionId = some r →
                ∃ t g, exec .lfeRecordFetch s = .next t ∧ (t.queue q).head = c.head + 1 ∧ t.region r = some g ∧ g.parent = 0
                    ∧ g.pasid = c.pasid
                  ∧ g.state = .queued ∧ g.count = BitVec.ofNat 32 (field b 36 4) ∧ g.first = BitVec.ofNat 32 (field b 32 4)
                  ∧ g.tileBudget = OpRec.tiles b ∧ g.coreBudget = OpRec.cores b ∧ g.prio = bank.prio ∧ g.tiles = []
                  ∧ ∃ l, t.launch v.lfe.nextLaunch = some l ∧ l.region = r ∧ l.stage = (if OpRec.waitbw b = 0 then 1 else 0))))))
  ∧ ∀ (s : State) (q : Nat), s.inp.n = q → (s.queue q).v = true → (s.queue q).stop = false → (s.queue q).held = true →
      (s.queue q).fault = none → (s.queue q).waiting = [] →
      let c := s.queue q
      (OpRec.kind c.bytes = 2 → ∀ u, lfeReached s c.pasid (OpRec.waitbw c.bytes) (OpRec.waitgen c.bytes) = .ok (false, u) →
        exec .waitRecordSatisfied s = .next u)
      ∧ (OpRec.kind c.bytes = 2 → ∀ u v, lfeReached s c.pasid (OpRec.waitbw c.bytes) (OpRec.waitgen c.bytes) = .ok (true, u) →
        u.lfe.queues = s.lfe.queues → lfeWrite u c.pasid (u.recordVa q + 4) [2, 0, 0, 0] = .ok v → v.lfe.queues = s.lfe.queues →
        ∃ t, exec .waitRecordSatisfied s = .next t ∧ (t.queue q).head = c.head + 1 ∧ (t.queue q).held = false ∧ t.mem = v.mem)
      ∧ (OpRec.kind c.bytes = 3 → ∀ key cell u v w, lfeCell s c.pasid (s.recordVa q + 4) 4 accWrite = .ok (key, cell, u) →
        lfeAdd u c.pasid (OpRec.donebw c.bytes) (OpRec.doneadd c.bytes) = .ok v → v.lfe.queues = s.lfe.queues →
        lfeWrite v c.pasid (v.recordVa q + 4) [2, 0, 0, 0] = .ok w → w.lfe.queues = s.lfe.queues →
        ∃ t, exec .signalRecord s = .next t ∧ (t.queue q).head = c.head + 1 ∧ (t.queue q).held = false ∧ t.mem = w.mem)

/-- Launches (R91 to R94, R116, R125): a launch waits for its word, then for its grant; a grant takes free tiles of its budget,
or asks lower roots to give way; a bank being loaded becomes loaded, swaps when its core has no work left, and is then the
active one; a launch that has ended gets its STATUS and its addition, in that order, and is forgotten. -/
def Sys2Proof.Claims.LaunchesRun : Prop :=
  (∀ (s : State) (n : Nat) (l : Launch) (g : Region), s.inp.n = n → s.launch n = some l → s.region l.region = some g →
      (l.stage = 0 → l.fault = none → l.ended = none → g.ending = none →
        (∀ u, lfeReached s l.pasid (OpRec.waitbw l.bytes) (OpRec.waitgen l.bytes) = .ok (false, u) →
          exec .launchWaitSatisfied s = .next u)
        ∧ ∀ u, lfeReached s l.pasid (OpRec.waitbw l.bytes) (OpRec.waitgen l.bytes) = .ok (true, u) →
          ∃ t, exec .launchWaitSatisfied s = .next t ∧ t.launch n = some { l with stage := 1, order := u.dist.nextOrder })
      ∧ (l.stage ≠ 0 → exec .launchWaitSatisfied s = .next s)
      ∧ (l.stage ≠ 1 → exec .launchGrant s = .next s)
      ∧ (l.stage = 1 → l.ended = none → g.ending = none → s.launchBehind n l = false →
        (∀ tiles, s.pickTiles g.tileBudget [] = some tiles → ∃ t h m, exec .launchGrant s = .next t
          ∧ t.region l.region = some h ∧ h.tiles = tiles ∧ tiles.length = g.tileBudget
          ∧ (∀ x ∈ tiles, s.tileUp x = true ∧ x ∉ s.heldTiles []) ∧ t.launch n = some m ∧ m.stage = 2 ∧ m.region = l.region)
        ∧ (s.pickTiles g.tileBudget [] = none → ∃ t, exec .launchGrant s = .next t ∧ t.regions = s.regions ∧ t.mem = s.mem
          ∧ t.sched = (s.victims g.prio g.tileBudget).map (fun r => .happen .preemptRequest { n := r.toNat }) ++ s.sched))
      ∧ (g.ending ≠ none → exec .launchWaitSatisfied s = .next s ∧ exec .launchGrant s = .next s))
  ∧ (∀ (s : State) (n : Nat) (l : Launch), s.inp.n = n → s.launch n = some l →
      (l.ended = none → exec .launchCompletion s = .next s)
      ∧ ∀ c, l.ended = some c →
        (s.pasidState l.pasid ≠ .active → ∃ t, exec .launchCompletion s = .next t ∧ t.launch n = none ∧ t.mem = s.mem)
        ∧ (s.pasidState l.pasid = .active → l.fault = none → l.starting = false → l.step = 0 → ∀ u v w x : State,
          let st : Byte := if c = 0 then 2 else 3
          (OpRec.lrec l.bytes = 0 ∧ v = s ∨ OpRec.lrec l.bytes ≠ 0
            ∧ lfeWrite s l.pasid (OpRec.lrec l.bytes + 32) (leBytes 8 s.ptime.toNat) = .ok u
            ∧ lfeWrite u l.pasid (OpRec.lrec l.bytes + 56) [st, 0, 0, 0] = .ok v) →
          lfeWrite v l.pasid (l.record + 4) [st, 0, 0, 0] = .ok w →
          lfeAdd w l.pasid (OpRec.donebw l.bytes) (OpRec.doneadd l.bytes) = .ok x →
          ∃ t, exec .launchCompletion s = .next t ∧ t.launch n = none ∧ t.mem = x.mem))
  ∧ ∀ (s : State) (k : Nat), s.inp.n = k →
      let c := s.core k
      let mine (b : Bind) : Prop := ∃ g, s.region b.region = some g ∧ g.root = c.active.region
      (c.shadowState = .loading → ∃ t, exec .shadowBankLoaded s = .next t ∧ t.core k = { c with shadowState := .loaded }
        ∧ ∀ j, j ≠ k → t.core j = s.core j)
      ∧ (c.shadowState ≠ .loading → exec .shadowBankLoaded s = .next s)
      ∧ (c.shadowState = .loaded → c.user.running = false → c.parked = none → c.enginesIdle = true → (∀ b ∈ s.armed k, ¬ mine b) →
          c.swapping = false →
          ∃ t, exec .bankSwap s = .next t ∧ t.core k = { c with swapping := true } ∧ ∀ j, j ≠ k → t.core j = s.core j)
      ∧ ((c.shadowState ≠ .loaded ∨ c.user.running = true ∨ c.parked ≠ none ∨ c.enginesIdle = false
          ∨ ∃ b ∈ s.armed k, mine b) → exec .bankSwap s = .next s)
      ∧ (c.swapping = true → ∃ t, exec .bankSwapDone s = .next t ∧ (t.core k).active = c.shadow ∧ (t.core k).swapping = false
          ∧ (t.core k).user = c.user)
      ∧ (c.swapping = false → exec .bankSwapDone s = .next s)

/-- The records of a queue COMPLETE (R84, R86, R94): a WAIT or a SIGNAL that can be read is taken up; a WAIT whose word has reached its
generation and a SIGNAL whose addition is made are done, and LQHEAD passes them; a launch that waits for no word is ready for its grant; the
completion of a launch with no counter to add to writes STATUS and forgets the launch. -/
def Sys2Proof.Claims.RecordsComplete : Prop :=
  (∀ (s : State) (q : Nat) (b : List Byte), s.nextQueue = some q → (s.queue q).waiting = [] → RecordReads s q b →
      OpRec.clean b = true →
      OpRec.fence b = false → (OpRec.kind b = 2 ∨ OpRec.kind b = 3) →
      ∃ t, exec .lfeRecordFetch s = .next t ∧ (t.queue q).held = true ∧ (t.queue q).bytes = b ∧ (t.queue q).head = (s.queue q).head)
  ∧ (∀ (s : State) (q : Nat), s.inp.n = q → (s.queue q).v = true → (s.queue q).stop = false → (s.queue q).held = true →
      (s.queue q).fault = none → (s.queue q).waiting = [] →
      let done (t : State) : Prop := (t.queue q).head = (s.queue q).head + 1 ∧ (t.queue q).held = false
      (OpRec.kind (s.queue q).bytes = 2 → WaitOver s q → ∃ t, exec .waitRecordSatisfied s = .next t ∧ done t)
      ∧ ∀ w, OpRec.kind (s.queue q).bytes = 3 → SignalMade s q w → ∃ t, exec .signalRecord s = .next t ∧ done t ∧ t.mem = w.mem)
  ∧ ∀ (s : State) (n : Nat) (l : Launch), s.inp.n = n → s.launch n = some l → l.fault = none →
      (∀ g, s.region l.region = some g → g.ending = none → l.stage = 0 → l.ended = none → OpRec.waitbw l.bytes = 0 →
        ∃ t, exec .launchWaitSatisfied s = .next t ∧ t.launch n = some { l with stage := 1, order := s.dist.nextOrder })
      ∧ ∀ c w, l.ended = some c → s.pasidState l.pasid = .active → l.starting = false → l.step = 0 → OpRec.lrec l.bytes = 0 →
        OpRec.donebw l.bytes = 0 → lfeWrite s l.pasid (l.record + 4) [if c = 0 then 2 else 3, 0, 0, 0] = .ok w →
        ∃ t, exec .launchCompletion s = .next t ∧ t.launch n = none ∧ t.mem = w.mem

/-- Launch queues, launches and shadow banks (R82 to R86, R91 to R94, R99, R116, R125). The model's choices it rests on:
log 57, 58, 60, 61. -/
def Obligations.Launches : Prop :=
  Claims.LaunchQueues ∧ Claims.LaunchesRun ∧ Claims.RecordsComplete

/-! ## Regions, tasks, continuations (R103 to R126) -/

/-- The life of a region (R103, R104, R107 to R109): a submitted control block is refused with its code, or makes a
child that is QUEUED, linked and counted; a region with nothing left completes, and is forgotten; a fault ends the
nearest fault domain above it with its whole subtree: everything that runs for it stops at once, its granules and regions go when
its traffic has drained, and a root's launch ends with the cause. The model's choices it rests on: log 53, 55, 56. -/
def Obligations.RegionsLive : Prop :=
  (∀ (s : State) (pid : BitVec 12) (rcb : BitVec 52) (p : Region), s.inp.n = pid.toNat → s.inp.value = rcb.setWidth 64 →
      s.region pid = some p →
      let key := physKey rcb
      let cell := physCell rcb
      let u := s.countFar cell
      let b := u.bytesKey key cell 128
      ((field b 4 1 ≠ 0 ∨ p.ending ≠ none) → exec .spawnValidate s = .next u)
      ∧ (field b 4 1 = 0 → p.ending = none →
        (∀ c, validate u pid p rcb b = .error c → SameKey s key (cell + 4) 2 → MemInv s →
            (keyed (cell + 4) = true → Assoc.get false s.security.keys key.toNat = true) →
            ∃ t, exec .spawnValidate s = .next t ∧ Stored s t (cell + 4) [6, c] ∧ t.regions = s.regions)
        ∧ ∀ g r, validate u pid p rcb b = .ok g → u.freeRegionId = some r → ∃ t h, exec .spawnValidate s = .next t
            ∧ t.region r = some h ∧ h.state = .queued ∧ h.parent = pid ∧ h.root = p.root ∧ h.pasid = p.pasid
            ∧ h.depth = p.depth + 1 ∧ h.prio.toNat ≤ p.prio.toNat ∧ (h.debug = true → p.debug = true) ∧ (h.conf = true →
                p.conf = true)
            ∧ (t.life r).live = h.count ∧ (t.life pid).children = (s.life pid).children + 1
            ∧ (h.count = 0 → t.sched = .happen .regionCompletion { n := r.toNat } :: s.sched))
      ∧ (rcbOk b = false → validate u pid p rcb b = .error 1)
      ∧ (rcbOk b = true → carve u pid p b = none → validate u pid p rcb b = .error 3)
      ∧ (rcbOk b = true → carve u pid p b ≠ none → 8 ≤ p.depth → validate u pid p rcb b = .error 4))
  ∧ (∀ (s : State) (r : BitVec 12) (g : Region), s.inp.n = r.toNat → s.region r = some g → MemInv s →
      (((s.life r).live ≠ 0 ∨ (s.life r).children ≠ 0 ∨ g.state = .preempted ∨ g.ending ≠ none) →
        exec .regionCompletion s = .next s)
      ∧ ((s.life r).live = 0 → (s.life r).children = 0 → g.state ≠ .preempted → g.ending = none →
        ∃ t, exec .regionCompletion s = .next t
          ∧ t.region r = none ∧ (∀ q, q ≠ r → t.region q = s.region q)
          ∧ (g.parent = 0 → ∀ n l, (s.life r).launch = some n → s.launch n = some l → t.launch n = some { l with ended := some 0 }
              ∧ ((keyed (physCell g.rcb + 4) = true → Assoc.get false s.security.keys (physKey g.rcb).toNat = true) →
                t.byteKey (physKey g.rcb) (physCell g.rcb + 4) = 4))
          ∧ (g.parent ≠ 0 → g.parent ≠ r → s.region g.parent ≠ none →
              (t.life g.parent).children = (s.life g.parent).children - 1
              ∨ ((s.life r).donebw ≠ 0 ∧ (t.life g.parent).children = (s.life g.parent).children
                ∧ ∃ a ∈ t.dist.adds, a.va = (s.life r).donebw ∧ a.n = (s.life r).doneadd ∧ a.parent = g.parent))))
  ∧ ∀ (s : State) (r : BitVec 12), s.inp.n = r.toNat →
      let cause := s.inp.value.extractLsb' 0 8
      (s.region r = none → ∃ t, exec .regionFault s = .next t ∧ (t.ctxOf s.inp.who).running = false ∧ t.mem = s.mem)
      ∧ (∀ g, s.region r = some g → g.ending = none → let d := s.faultDomain 9 r
        ∀ h, s.region d = some h → h.ending = none →
          let quiet := s.quiet (s.subtree d) = true
          ∃ t, exec .regionFault s = .next t
          ∧ (quiet → ∀ x, s.isAncestor 9 d x = true → t.region x = none)
          ∧ (¬ quiet → ∀ x, s.isAncestor 9 d x = true → s.region x ≠ none → ∃ y e, t.region x = some y ∧ y.ending = some e
              ∧ e.top = d ∧ e.cause = cause)
          ∧ (∀ x, s.isAncestor 9 d x = false → t.region x = s.region x)
          ∧ (∀ k c, (k, c) ∈ s.cores → s.core k = c → c.user.running = true → s.isAncestor 9 d c.user.id.region = true →
              s.region c.user.id.region ≠ none →
              (t.core k).user.running = false ∧ (t.core k).mat.state = .idle ∧ (t.core k).cpy.state = .idle)
          ∧ ∀ n l, quiet → h.parent = 0 → (s.life d).launch = some n → s.launch n = some l →
              t.launch n = some { l with ended := some cause })
      ∧ ∀ g e, s.region r = some g → g.ending = some e → e.top = r → cause = 0 →
          (s.quiet (s.subtree r) = false → exec .regionFault s = .next s)
          ∧ (s.quiet (s.subtree r) = true → ∃ t, exec .regionFault s = .next t
              ∧ (∀ x, s.isAncestor 9 r x = true → t.region x = none)
              ∧ ∀ n l, g.parent = 0 → (s.life r).launch = some n → s.launch n = some l →
                t.launch n = some { l with ended := some e.cause })

/-- What starts on a core (R91, R110 to R113, R117, R121, R122, R193, R200): the armed bind record with the lowest slot
number, if it may start, is disarmed and its task begins with the registers of R110 and the engines of its operator's bank; a
continuation resumes with idle engines (R183); a context image is restored or faults its region; a continuation whose words have
been reached is given its READY time and climbs a level each 2^20 cycles; a free core gets the lowest pending grain of its die when its own deque and those of its tile offer it
nothing; a firmware context that has stopped starts again; a lookup core is bound to a running region, whose LIVE counts it. -/
def Sys2Proof.Claims.TasksStart : Prop :=
  (∀ (s : State) (k : Nat), s.inp.n = k →
      let c := s.core k
      let free := c.user.running = false ∧ c.swapping = false ∧ s.coreGated k = false ∧ s.tileUp (k / 4) = true
        ∧ c.quill.fifo = [] ∧ c.quill.part = []
      (¬ free → exec .taskDispatch s = .next s)
      ∧ ((∀ b, (s.armed k).head? = some b → s.canStart k b = false) → exec .taskDispatch s = .next s)
      ∧ ∀ b g, free → (s.armed k).head? = some b → s.canStart k b = true → s.region b.region = some g → MemInv s →
          let begins (t : State) : Prop := (t.core k).user.running = true
            ∧ (t.core k).user.id.region = b.region ∧ (t.core k).user.id.pasid = g.pasid ∧ (t.core k).user.pend = []
            ∧ (t.core k).fw.id.region = b.region ∧ (t.core k).fw.id.group = (t.core k).user.id.group
            ∧ ∀ j, j ≠ k → t.core j = s.core j
          (b.kind = 1 → ∃ t, exec .taskDispatch s = .next t ∧ begins t ∧ (t.core k).user.pc = g.entry
            ∧ (t.core k).mat.word = c.active.mstart ∧ ((t.core k).mat.state = .running ↔ c.active.mstart ≠ 0)
            ∧ (t.core k).cpy.word = c.active.cstart ∧ ((t.core k).cpy.state = .running ↔ c.active.cstart ≠ 0)
            ∧ (t.core k).index = some b.index
            ∧ (t.core k).user.regs.dom 1 = Dom.single b.index ∧ (t.core k).user.regs.dom 2 = Dom.single g.first
            ∧ (t.core k).user.regs.dom 3 = Dom.single g.count
            ∧ (t.core k).user.regs.dom 4 = Dom.single (BitVec.ofNat 32 (g.rankOf k))
            ∧ ∀ r : DReg, 4 < r.toNat → (t.core k).user.regs.dom r = Dom.single 0)
          ∧ (b.kind = 2 → ∃ t, exec .taskDispatch s = .next t ∧ begins t ∧ (t.core k).mat.state = .idle
              ∧ (t.core k).cpy.state = .idle ∧ ∀ x ∈ (t.life b.region).conts, x.1 ≠ b.addr)
          ∧ (b.kind = 3 → let u := s.setByte (bindCell k b.slot) 0
              let p := imageAt u k b.region g b.addr
              (∀ q, c.parked = some q → q.addr = b.addr → p = q)
              ∧ (∀ t, restoreCore u p = some t → exec .taskDispatch s =
                  .next (t.modCore k (fun c => { c with parked := c.parked.filter (fun q => q.addr != b.addr) })))
              ∧ (restoreCore u p = none → exec .taskDispatch s =
                  .next (u.push .regionFault { n := b.region.toNat, m := k, value := 0xFF, addr := some p.ctx.pc, who := .user k }))))
  ∧ (∀ (s : State) (k : Nat), s.inp.n = k →
      ((s.core k).fw.running = false → ∃ t, exec .firmwareRestart s = .next t ∧ (t.core k).fw.running = true
        ∧ (t.core k).fw.pc = Config.firmwareEntry ∧ (t.core k).fw.id = (s.core k).fw.id ∧ (t.core k).user = (s.core k).user
            ∧ t.mem = s.mem)
      ∧ ((s.core k).fw.running = true → exec .firmwareRestart s = .next s))
  ∧ (∀ (s : State) (n : Nat) (r : BitVec 12) (g : Region), s.inp.n = n → s.inp.m = r.toNat → s.region r = some g →
      ((s.lookup n).busy = false → g.state = .running → g.ending = none → s.stackUp (n / 8) = true →
          ∃ t, exec .lookupBankWrite s = .next t
        ∧ (t.lookup n).busy = true ∧ (t.lookup n).ctx.running = true ∧ (t.lookup n).ctx.pc = s.inp.bank.entry
        ∧ (t.lookup n).ctx.id.region = r ∧ (t.life r).live = (s.life r).live + 1)
      ∧ (((s.lookup n).busy = true ∨ g.state ≠ .running ∨ g.ending ≠ none ∨ s.stackUp (n / 8) = false) →
          exec .lookupBankWrite s = .next s))
  ∧ (∀ (s : State) (r : BitVec 12) (a : BitVec 52) (g : Region), s.inp.n = r.toNat → s.inp.value = a.setWidth 64 →
      s.region r = some g →
      let key := physKey a
      let cell := physCell a
      let b := s.bytesKey key cell 384
      let ready := field b 16 8
      let level := field b 13 1 % 16
      let there := (s.life r).conts.any (fun c => c.1 == a) = true
      (∀ u, there → ready = 0 → contEligible s g b = (true, u) → exec .continuationEligible s =
        .next (u.setBytesKey key (cell + 16) (leBytes 8 u.mesh.count.toNat)))
      ∧ (∀ u, there → ready = 0 → contEligible s g b = (false, u) → exec .continuationEligible s = .next u)
      ∧ (field b 11 1 ≠ 0 → contEligible s g b = (false, s))
      ∧ (there → ready = 0 → field b 11 1 = 0 → field b 12 1 = 0 → exec .continuationEligible s =
        .next (s.setBytesKey key (cell + 16) (leBytes 8 s.mesh.count.toNat)))
      ∧ ((¬ there ∨ ready ≠ 0) → exec .continuationEligible s = .next s)
      ∧ (there → ready ≠ 0 → level < 15 → level < g.prio.toNat + (s.mesh.count.toNat - ready) / 2 ^ 20 →
          exec .levelPromotion s = .next (s.setByteKey key (cell + 13) (BitVec.ofNat 8 (level + 1))))
      ∧ ((¬ there ∨ ready = 0 ∨ 15 ≤ level ∨ g.prio.toNat + (s.mesh.count.toNat - ready) / 2 ^ 20 ≤ level) →
          exec .levelPromotion s = .next s))
  ∧ ∀ (s : State) (k : Nat) (r : BitVec 12) (g : Region) (cell : Nat), s.inp.n = k → s.inp.m = r.toNat → s.region r = some g →
      s.dequeCell r k = some cell →
      let pending (x : Grain) : Prop := x ∈ s.dist.grains ∧ x.region = r ∧ x.die.toNat = tileDie (k / 4) ∧ x.state = 0
      let may := k ∈ s.usableCores r ∧ s.seeksGrain k r = true ∧ g.state ≠ .preempted ∧ g.ending = none
      (((∀ x, ¬ pending x) ∨ ¬ may) → exec .grainRequest s = .next s)
      ∧ (((s.core k).user.running = true ∨ s.armed k ≠ []) → ¬ may)
      ∧ (may → (∃ x, pending x) → s.dqHeld cell < 128 → ∃ t x, exec .grainRequest s = .next t ∧ pending x
          ∧ (∀ y, pending y → x.first.toNat ≤ y.first.toNat) ∧ (∃ u, s.dqPush cell (rangeItem x.first.toNat x.count.toNat) = some u
            ∧ t.mem = u.mem)
          ∧ t.dist.grains = s.dist.grains.map (fun y => if y = x then { y with state := 1 } else y))
      ∧ (128 ≤ s.dqHeld cell → exec .grainRequest s = .next s)

/-- The landing of a split-phase load (R111, R187, R190, R336): its value goes to its register unless a later write has landed
there, its event counts one more, or raises EVENT_OVF at 255; a load whose context has yielded lands in its continuation record,
whose PENDING falls by one. -/
def Sys2Proof.Claims.LoadsLand : Prop :=
  ∀ (s : State) (a : Agent) (i : Nat) (l : Ldr), s.inp.who = a → s.inp.n = i → (s.ctxOf a).ldrs[i]? = some l → l.fault = none →
      MemInv s →
    (l.data = none → exec .ldrLanding s = .next s)
    ∧ ∀ d, l.data = some d →
      (l.slotOf = none → ((s.ctxOf a).regs.event l.ev.toNat ≠ 255 ∨ (s.ctxOf a).status.intrap = false ∨ l.count < (s.ctxOf a).trapAt) →
        ∃ t, exec .ldrLanding s = .next t ∧ t.mem = s.mem ∧ (t.ctxOf a).ldrs.length + 1 = (s.ctxOf a).ldrs.length
        ∧ (t.ctxOf a).pc = (s.ctxOf a).pc
        ∧ ((s.ctxOf a).regs.event l.ev.toNat ≠ 255 → (t.ctxOf a).regs.event l.ev.toNat = (s.ctxOf a).regs.event l.ev.toNat + 1
            ∧ (t.ctxOf a).deferred = (s.ctxOf a).deferred)
        ∧ ((s.ctxOf a).regs.event l.ev.toNat = 255 → ∃ e ∈ (t.ctxOf a).deferred, e.req.code = 0x0F)
        ∧ (l.size = .w → l.dd ≠ 0 → (t.ctxOf a).regs.dom l.dd =
            if l.live then Dom.single (BitVec.ofNat 32 (leNat d)) else (s.ctxOf a).regs.dom l.dd)
        ∧ ∀ r : DReg, r ≠ l.dd → r ≠ l.dd + 1 → (t.ctxOf a).regs.dom r = (s.ctxOf a).regs.dom r)
      ∧ ∀ r, l.slotOf = some r → ∃ t, exec .ldrLanding s = .next t ∧ (t.ctxOf a).regs = (s.ctxOf a).regs
          ∧ (t.ctxOf a).ldrs.length + 1 = (s.ctxOf a).ldrs.length
          ∧ t.byteKey (physKey r) (physCell r + 11) =
              BitVec.ofNat 8 (field (s.bytesKey (physKey r) (physCell r) 384) 11 1 - 1)

/-- What starts on a core, and the landing of split-phase loads (R91, R110 to R113, R117, R121, R122, R187, R190, R193,
R200, R336). The model's choices it rests on: log 68, 69, 70, 71, 77. -/
def Obligations.TasksAndLoads : Prop :=
  Claims.TasksStart ∧ Claims.LoadsLand

/-- Pre-emption (R125, R126): a root tree asked to stop dispatches nothing more, and is saved once it has stopped and
drained: every region of it is PREEMPTED and its cores are free; one whose save area cannot be written, or whose SRAM holds uncorrectable data, faults; a
pre-empted tree resumes on its own tiles, its shadow banks empty, and trees of lower priority that hold them are
asked to stop. The model's choices it rests on: log 63, 72, 73, 74. -/
def Obligations.TreesYieldAndReturn : Prop :=
  ∀ (s : State) (r : BitVec 12) (g : Region), s.inp.n = r.toNat → s.region r = some g → (∀ e ∈ s.regions, e.1 < 4096) →
    ((g.parent ≠ 0 ∨ g.state = .preempted ∨ g.ending ≠ none ∨ g.tiles = []) → exec .preemptRequest s = .next s)
    ∧ (g.parent = 0 → g.state ≠ .preempted → g.ending = none → g.tiles ≠ [] → ∃ t, exec .preemptRequest s = .next t
      ∧ ((∃ k ∈ g.cores, (s.core k).quill.fifo ≠ [] ∨ (s.core k).quill.part ≠ []) →
          t.region r = some { g with stopping := true } ∧ ∀ k ∈ g.cores, (s.core k).quill.fifo ≠ [] → (t.core k).quill.flush = true)
      ∧ ((∀ k ∈ g.cores, (s.core k).quill.fifo = [] ∧ (s.core k).quill.part = []) →
        let u := s.modRegion r (fun x => { x with stopping := true })
        (u.drained (u.subtree r) g = false → t = flushTree g u)
        ∧ (u.drained (u.subtree r) g = true → u.canSave (u.life r).save g = true →
            (∀ x ∈ s.subtree r, ∃ h, t.region x = some h ∧ h.state = .preempted ∧ h.stopping = false)
            ∧ (∀ k ∈ g.cores, (t.core k).user.running = false ∧ (t.core k).parked = none)
            ∧ (∀ e ∈ t.dist.owners, e.2 ∉ s.subtree r))
        ∧ (u.drained (u.subtree r) g = true → u.canSave (u.life r).save g = false → u.quiet (u.subtree r) = true →
            t.region r = none)))
    ∧ ((g.parent ≠ 0 ∨ g.state ≠ .preempted ∨ g.ending ≠ none ∨ g.tiles.all s.tileUp = false ∨ s.resumeBehind r g = true) →
        exec .preemptResume s = .next s)
    ∧ (g.parent = 0 → g.state = .preempted → g.ending = none → g.tiles.all s.tileUp = true → s.resumeBehind r g = false →
      (s.holders g = [] → ∀ u, loadTree r g s = some u → exec .preemptResume s = .next u ∧ (u.life r).saved = [])
      ∧ (s.holders g = [] → loadTree r g s = none → exec .preemptResume s = .next (endDomain r 0xFF 0 0 s))
      ∧ (s.holders g ≠ [] → (∀ x ∈ s.holders g, ∀ h, s.region x = some h → h.prio.toNat < g.prio.toNat) →
          ∃ t, exec .preemptResume s = .next t ∧ t.regions = s.regions ∧ t.mem = s.mem
            ∧ t.sched = (s.holders g).reverse.map (fun x => .happen .preemptRequest { n := x.toNat }) ++ s.sched)
      ∧ ((∃ x ∈ s.holders g, ∃ h, s.region x = some h ∧ g.prio.toNat ≤ h.prio.toNat) → exec .preemptResume s = .next s))

/-- Folds (R228 to R230, R426): the first fold of an engine runs to its finish and leaves the engine; one that faults
waits, and one that may not go on is abandoned: FOLDING is cleared at the old list, and the trap is raised in the
context that issued it, or kept with it where it is parked; a fold of a region that has completed goes on. The model's choices it rests on: log 38, 85, 86. -/
def Obligations.FoldsFinish : Prop :=
  ∀ (s : State) (f : Fold), s.folds.find? (fun f => f.home.toNat == s.inp.n) = some f →
    (f.fault = none → f.resolved = none → s.foldGone f = false →
      (∀ u, foldRun f s = .ok u → ∃ t, exec .foldFinish s = .next t ∧ t = { u with folds := u.folds.erase f })
      ∧ (∀ va acc c u, foldRun f s = .error (.fault va acc c u) → ∃ t, exec .foldFinish s = .next t
          ∧ (∃ h ∈ t.folds, h.fault = some va ∧ h.old = f.old) ∧ t.folds.length = s.folds.length)
      ∧ ∀ c, foldRun f s = .error (.trap c) → ∃ t, exec .foldFinish s = .next t ∧ t.mem = s.mem
          ∧ (∃ h ∈ t.folds, h.resolved = some c ∧ h.old = f.old) ∧ t.sched = .happen .foldAbandon { n := s.inp.n } :: s.sched)
    ∧ ((f.fault.isSome = true ∨ f.resolved.isSome = true ∨ s.foldGone f = true) → exec .foldFinish s = .next s)
    ∧ (f.resolved.isSome = false → s.foldGone f = true → s.inService (physCell f.old) = true →
        ∃ t, exec .foldAbandon s = .next t ∧ t.folds = s.folds.erase f
          ∧ t.mem = (s.glFoldAbandon (physKey f.old) (physCell f.old)).mem ∧ t.cores = s.cores)
    ∧ ∀ code, f.resolved = some code →
        (f.ofTask (s.core f.core).user (s.core f.core).index = true → ∃ t, exec .foldAbandon s = .next t ∧ t.folds = s.folds.erase f
          ∧ ∃ e ∈ (t.core f.core).user.deferred, e.req.code = code)
        ∧ (∀ p, f.ofTask (s.core f.core).user (s.core f.core).index = false → (s.core f.core).parked = some p → p.lookup = false →
          p.core = f.core → f.ofTask { p.ctx with running := true } p.index = true → ∃ t q, exec .foldAbandon s = .next t
          ∧ t.folds = s.folds.erase f ∧ (t.core f.core).parked = some q ∧ ∃ e ∈ q.ctx.deferred, e.req.code = code)
end

