-- ==== Sys2Proof/Laws/Bits.lean ====
section
/-!
SUPPORT. Taking fields out of concatenated bit vectors: the general facts, and their instances at the widths of the
encodings.
-/

namespace Sys2Proof.Laws

theorem extract_low {m n : Nat} (a : BitVec m) (b : BitVec n) (k l : Nat) (h : k + l ≤ n) :
    (a ++ b).extractLsb' k l = b.extractLsb' k l := by
  ext i hi
  simp only [BitVec.getElem_extractLsb', BitVec.getLsbD_append]
  rw [if_pos (by omega)]

theorem extract_high {m n : Nat} (a : BitVec m) (b : BitVec n) (k l : Nat) (h : n ≤ k) :
    (a ++ b).extractLsb' k l = a.extractLsb' (k - n) l := by
  ext i hi
  simp only [BitVec.getElem_extractLsb', BitVec.getLsbD_append]
  rw [if_neg (by omega)]
  congr 1; omega

@[simp] theorem extract_self {n : Nat} (a : BitVec n) : a.extractLsb' 0 n = a := by
  ext i hi; simp

@[simp] theorem zero_extract {n : Nat} (k l : Nat) : (0#n).extractLsb' k l = 0#l := by
  ext i hi; simp

@[simp] theorem ofBool_eq_one (b : Bool) : (BitVec.ofBool b == 1#1) = b := by cases b <;> rfl

@[simp] theorem low_1_2 (a : BitVec 1) (b : BitVec 2) (k l : Nat) (h : k + l ≤ 2) :
    (a ++ b).extractLsb' k l = b.extractLsb' k l := extract_low a b k l h
@[simp] theorem high_1_2 (a : BitVec 1) (b : BitVec 2) (k l : Nat) (h : 2 ≤ k) :
    (a ++ b).extractLsb' k l = a.extractLsb' (k - 2) l := extract_high a b k l h
@[simp] theorem low_1_3 (a : BitVec 1) (b : BitVec 3) (k l : Nat) (h : k + l ≤ 3) :
    (a ++ b).extractLsb' k l = b.extractLsb' k l := extract_low a b k l h
@[simp] theorem high_1_3 (a : BitVec 1) (b : BitVec 3) (k l : Nat) (h : 3 ≤ k) :
    (a ++ b).extractLsb' k l = a.extractLsb' (k - 3) l := extract_high a b k l h
@[simp] theorem low_1_5 (a : BitVec 1) (b : BitVec 5) (k l : Nat) (h : k + l ≤ 5) :
    (a ++ b).extractLsb' k l = b.extractLsb' k l := extract_low a b k l h
@[simp] theorem high_1_5 (a : BitVec 1) (b : BitVec 5) (k l : Nat) (h : 5 ≤ k) :
    (a ++ b).extractLsb' k l = a.extractLsb' (k - 5) l := extract_high a b k l h
@[simp] theorem low_1_10 (a : BitVec 1) (b : BitVec 10) (k l : Nat) (h : k + l ≤ 10) :
    (a ++ b).extractLsb' k l = b.extractLsb' k l := extract_low a b k l h
@[simp] theorem high_1_10 (a : BitVec 1) (b : BitVec 10) (k l : Nat) (h : 10 ≤ k) :
    (a ++ b).extractLsb' k l = a.extractLsb' (k - 10) l := extract_high a b k l h
@[simp] theorem low_1_28 (a : BitVec 1) (b : BitVec 28) (k l : Nat) (h : k + l ≤ 28) :
    (a ++ b).extractLsb' k l = b.extractLsb' k l := extract_low a b k l h
@[simp] theorem high_1_28 (a : BitVec 1) (b : BitVec 28) (k l : Nat) (h : 28 ≤ k) :
    (a ++ b).extractLsb' k l = a.extractLsb' (k - 28) l := extract_high a b k l h
@[simp] theorem low_2_3 (a : BitVec 2) (b : BitVec 3) (k l : Nat) (h : k + l ≤ 3) :
    (a ++ b).extractLsb' k l = b.extractLsb' k l := extract_low a b k l h
@[simp] theorem high_2_3 (a : BitVec 2) (b : BitVec 3) (k l : Nat) (h : 3 ≤ k) :
    (a ++ b).extractLsb' k l = a.extractLsb' (k - 3) l := extract_high a b k l h
@[simp] theorem low_2_4 (a : BitVec 2) (b : BitVec 4) (k l : Nat) (h : k + l ≤ 4) :
    (a ++ b).extractLsb' k l = b.extractLsb' k l := extract_low a b k l h
@[simp] theorem high_2_4 (a : BitVec 2) (b : BitVec 4) (k l : Nat) (h : 4 ≤ k) :
    (a ++ b).extractLsb' k l = a.extractLsb' (k - 4) l := extract_high a b k l h
@[simp] theorem low_2_10 (a : BitVec 2) (b : BitVec 10) (k l : Nat) (h : k + l ≤ 10) :
    (a ++ b).extractLsb' k l = b.extractLsb' k l := extract_low a b k l h
@[simp] theorem high_2_10 (a : BitVec 2) (b : BitVec 10) (k l : Nat) (h : 10 ≤ k) :
    (a ++ b).extractLsb' k l = a.extractLsb' (k - 10) l := extract_high a b k l h
@[simp] theorem low_2_32 (a : BitVec 2) (b : BitVec 32) (k l : Nat) (h : k + l ≤ 32) :
    (a ++ b).extractLsb' k l = b.extractLsb' k l := extract_low a b k l h
@[simp] theorem high_2_32 (a : BitVec 2) (b : BitVec 32) (k l : Nat) (h : 32 ≤ k) :
    (a ++ b).extractLsb' k l = a.extractLsb' (k - 32) l := extract_high a b k l h
@[simp] theorem low_2_38 (a : BitVec 2) (b : BitVec 38) (k l : Nat) (h : k + l ≤ 38) :
    (a ++ b).extractLsb' k l = b.extractLsb' k l := extract_low a b k l h
@[simp] theorem high_2_38 (a : BitVec 2) (b : BitVec 38) (k l : Nat) (h : 38 ≤ k) :
    (a ++ b).extractLsb' k l = a.extractLsb' (k - 38) l := extract_high a b k l h
@[simp] theorem low_2_42 (a : BitVec 2) (b : BitVec 42) (k l : Nat) (h : k + l ≤ 42) :
    (a ++ b).extractLsb' k l = b.extractLsb' k l := extract_low a b k l h
@[simp] theorem high_2_42 (a : BitVec 2) (b : BitVec 42) (k l : Nat) (h : 42 ≤ k) :
    (a ++ b).extractLsb' k l = a.extractLsb' (k - 42) l := extract_high a b k l h
@[simp] theorem low_3_1 (a : BitVec 3) (b : BitVec 1) (k l : Nat) (h : k + l ≤ 1) :
    (a ++ b).extractLsb' k l = b.extractLsb' k l := extract_low a b k l h
@[simp] theorem high_3_1 (a : BitVec 3) (b : BitVec 1) (k l : Nat) (h : 1 ≤ k) :
    (a ++ b).extractLsb' k l = a.extractLsb' (k - 1) l := extract_high a b k l h
@[simp] theorem low_3_3 (a : BitVec 3) (b : BitVec 3) (k l : Nat) (h : k + l ≤ 3) :
    (a ++ b).extractLsb' k l = b.extractLsb' k l := extract_low a b k l h
@[simp] theorem high_3_3 (a : BitVec 3) (b : BitVec 3) (k l : Nat) (h : 3 ≤ k) :
    (a ++ b).extractLsb' k l = a.extractLsb' (k - 3) l := extract_high a b k l h
@[simp] theorem low_3_4 (a : BitVec 3) (b : BitVec 4) (k l : Nat) (h : k + l ≤ 4) :
    (a ++ b).extractLsb' k l = b.extractLsb' k l := extract_low a b k l h
@[simp] theorem high_3_4 (a : BitVec 3) (b : BitVec 4) (k l : Nat) (h : 4 ≤ k) :
    (a ++ b).extractLsb' k l = a.extractLsb' (k - 4) l := extract_high a b k l h
@[simp] theorem low_4_2 (a : BitVec 4) (b : BitVec 2) (k l : Nat) (h : k + l ≤ 2) :
    (a ++ b).extractLsb' k l = b.extractLsb' k l := extract_low a b k l h
@[simp] theorem high_4_2 (a : BitVec 4) (b : BitVec 2) (k l : Nat) (h : 2 ≤ k) :
    (a ++ b).extractLsb' k l = a.extractLsb' (k - 2) l := extract_high a b k l h
@[simp] theorem low_4_4 (a : BitVec 4) (b : BitVec 4) (k l : Nat) (h : k + l ≤ 4) :
    (a ++ b).extractLsb' k l = b.extractLsb' k l := extract_low a b k l h
@[simp] theorem high_4_4 (a : BitVec 4) (b : BitVec 4) (k l : Nat) (h : 4 ≤ k) :
    (a ++ b).extractLsb' k l = a.extractLsb' (k - 4) l := extract_high a b k l h
@[simp] theorem low_4_6 (a : BitVec 4) (b : BitVec 6) (k l : Nat) (h : k + l ≤ 6) :
    (a ++ b).extractLsb' k l = b.extractLsb' k l := extract_low a b k l h
@[simp] theorem high_4_6 (a : BitVec 4) (b : BitVec 6) (k l : Nat) (h : 6 ≤ k) :
    (a ++ b).extractLsb' k l = a.extractLsb' (k - 6) l := extract_high a b k l h
@[simp] theorem low_4_12 (a : BitVec 4) (b : BitVec 12) (k l : Nat) (h : k + l ≤ 12) :
    (a ++ b).extractLsb' k l = b.extractLsb' k l := extract_low a b k l h
@[simp] theorem high_4_12 (a : BitVec 4) (b : BitVec 12) (k l : Nat) (h : 12 ≤ k) :
    (a ++ b).extractLsb' k l = a.extractLsb' (k - 12) l := extract_high a b k l h
@[simp] theorem low_4_16 (a : BitVec 4) (b : BitVec 16) (k l : Nat) (h : k + l ≤ 16) :
    (a ++ b).extractLsb' k l = b.extractLsb' k l := extract_low a b k l h
@[simp] theorem high_4_16 (a : BitVec 4) (b : BitVec 16) (k l : Nat) (h : 16 ≤ k) :
    (a ++ b).extractLsb' k l = a.extractLsb' (k - 16) l := extract_high a b k l h
@[simp] theorem low_4_18 (a : BitVec 4) (b : BitVec 18) (k l : Nat) (h : k + l ≤ 18) :
    (a ++ b).extractLsb' k l = b.extractLsb' k l := extract_low a b k l h
@[simp] theorem high_4_18 (a : BitVec 4) (b : BitVec 18) (k l : Nat) (h : 18 ≤ k) :
    (a ++ b).extractLsb' k l = a.extractLsb' (k - 18) l := extract_high a b k l h
@[simp] theorem low_4_28 (a : BitVec 4) (b : BitVec 28) (k l : Nat) (h : k + l ≤ 28) :
    (a ++ b).extractLsb' k l = b.extractLsb' k l := extract_low a b k l h
@[simp] theorem high_4_28 (a : BitVec 4) (b : BitVec 28) (k l : Nat) (h : 28 ≤ k) :
    (a ++ b).extractLsb' k l = a.extractLsb' (k - 28) l := extract_high a b k l h
@[simp] theorem low_4_38 (a : BitVec 4) (b : BitVec 38) (k l : Nat) (h : k + l ≤ 38) :
    (a ++ b).extractLsb' k l = b.extractLsb' k l := extract_low a b k l h
@[simp] theorem high_4_38 (a : BitVec 4) (b : BitVec 38) (k l : Nat) (h : 38 ≤ k) :
    (a ++ b).extractLsb' k l = a.extractLsb' (k - 38) l := extract_high a b k l h
@[simp] theorem low_5_1 (a : BitVec 5) (b : BitVec 1) (k l : Nat) (h : k + l ≤ 1) :
    (a ++ b).extractLsb' k l = b.extractLsb' k l := extract_low a b k l h
@[simp] theorem high_5_1 (a : BitVec 5) (b : BitVec 1) (k l : Nat) (h : 1 ≤ k) :
    (a ++ b).extractLsb' k l = a.extractLsb' (k - 1) l := extract_high a b k l h
@[simp] theorem low_5_3 (a : BitVec 5) (b : BitVec 3) (k l : Nat) (h : k + l ≤ 3) :
    (a ++ b).extractLsb' k l = b.extractLsb' k l := extract_low a b k l h
@[simp] theorem high_5_3 (a : BitVec 5) (b : BitVec 3) (k l : Nat) (h : 3 ≤ k) :
    (a ++ b).extractLsb' k l = a.extractLsb' (k - 3) l := extract_high a b k l h
@[simp] theorem low_6_10 (a : BitVec 6) (b : BitVec 10) (k l : Nat) (h : k + l ≤ 10) :
    (a ++ b).extractLsb' k l = b.extractLsb' k l := extract_low a b k l h
@[simp] theorem high_6_10 (a : BitVec 6) (b : BitVec 10) (k l : Nat) (h : 10 ≤ k) :
    (a ++ b).extractLsb' k l = a.extractLsb' (k - 10) l := extract_high a b k l h
@[simp] theorem low_6_22 (a : BitVec 6) (b : BitVec 22) (k l : Nat) (h : k + l ≤ 22) :
    (a ++ b).extractLsb' k l = b.extractLsb' k l := extract_low a b k l h
@[simp] theorem high_6_22 (a : BitVec 6) (b : BitVec 22) (k l : Nat) (h : 22 ≤ k) :
    (a ++ b).extractLsb' k l = a.extractLsb' (k - 22) l := extract_high a b k l h
@[simp] theorem low_6_32 (a : BitVec 6) (b : BitVec 32) (k l : Nat) (h : k + l ≤ 32) :
    (a ++ b).extractLsb' k l = b.extractLsb' k l := extract_low a b k l h
@[simp] theorem high_6_32 (a : BitVec 6) (b : BitVec 32) (k l : Nat) (h : 32 ≤ k) :
    (a ++ b).extractLsb' k l = a.extractLsb' (k - 32) l := extract_high a b k l h
@[simp] theorem low_6_38 (a : BitVec 6) (b : BitVec 38) (k l : Nat) (h : k + l ≤ 38) :
    (a ++ b).extractLsb' k l = b.extractLsb' k l := extract_low a b k l h
@[simp] theorem high_6_38 (a : BitVec 6) (b : BitVec 38) (k l : Nat) (h : 38 ≤ k) :
    (a ++ b).extractLsb' k l = a.extractLsb' (k - 38) l := extract_high a b k l h
@[simp] theorem low_7_1 (a : BitVec 7) (b : BitVec 1) (k l : Nat) (h : k + l ≤ 1) :
    (a ++ b).extractLsb' k l = b.extractLsb' k l := extract_low a b k l h
@[simp] theorem high_7_1 (a : BitVec 7) (b : BitVec 1) (k l : Nat) (h : 1 ≤ k) :
    (a ++ b).extractLsb' k l = a.extractLsb' (k - 1) l := extract_high a b k l h
@[simp] theorem low_8_18 (a : BitVec 8) (b : BitVec 18) (k l : Nat) (h : k + l ≤ 18) :
    (a ++ b).extractLsb' k l = b.extractLsb' k l := extract_low a b k l h
@[simp] theorem high_8_18 (a : BitVec 8) (b : BitVec 18) (k l : Nat) (h : 18 ≤ k) :
    (a ++ b).extractLsb' k l = a.extractLsb' (k - 18) l := extract_high a b k l h
@[simp] theorem low_8_26 (a : BitVec 8) (b : BitVec 26) (k l : Nat) (h : k + l ≤ 26) :
    (a ++ b).extractLsb' k l = b.extractLsb' k l := extract_low a b k l h
@[simp] theorem high_8_26 (a : BitVec 8) (b : BitVec 26) (k l : Nat) (h : 26 ≤ k) :
    (a ++ b).extractLsb' k l = a.extractLsb' (k - 26) l := extract_high a b k l h
@[simp] theorem low_12_20 (a : BitVec 12) (b : BitVec 20) (k l : Nat) (h : k + l ≤ 20) :
    (a ++ b).extractLsb' k l = b.extractLsb' k l := extract_low a b k l h
@[simp] theorem high_12_20 (a : BitVec 12) (b : BitVec 20) (k l : Nat) (h : 20 ≤ k) :
    (a ++ b).extractLsb' k l = a.extractLsb' (k - 20) l := extract_high a b k l h
@[simp] theorem low_13_6 (a : BitVec 13) (b : BitVec 6) (k l : Nat) (h : k + l ≤ 6) :
    (a ++ b).extractLsb' k l = b.extractLsb' k l := extract_low a b k l h
@[simp] theorem high_13_6 (a : BitVec 13) (b : BitVec 6) (k l : Nat) (h : 6 ≤ k) :
    (a ++ b).extractLsb' k l = a.extractLsb' (k - 6) l := extract_high a b k l h
@[simp] theorem low_13_16 (a : BitVec 13) (b : BitVec 16) (k l : Nat) (h : k + l ≤ 16) :
    (a ++ b).extractLsb' k l = b.extractLsb' k l := extract_low a b k l h
@[simp] theorem high_13_16 (a : BitVec 13) (b : BitVec 16) (k l : Nat) (h : 16 ≤ k) :
    (a ++ b).extractLsb' k l = a.extractLsb' (k - 16) l := extract_high a b k l h
@[simp] theorem low_14_20 (a : BitVec 14) (b : BitVec 20) (k l : Nat) (h : k + l ≤ 20) :
    (a ++ b).extractLsb' k l = b.extractLsb' k l := extract_low a b k l h
@[simp] theorem high_14_20 (a : BitVec 14) (b : BitVec 20) (k l : Nat) (h : 20 ≤ k) :
    (a ++ b).extractLsb' k l = a.extractLsb' (k - 20) l := extract_high a b k l h
@[simp] theorem low_16_4 (a : BitVec 16) (b : BitVec 4) (k l : Nat) (h : k + l ≤ 4) :
    (a ++ b).extractLsb' k l = b.extractLsb' k l := extract_low a b k l h
@[simp] theorem high_16_4 (a : BitVec 16) (b : BitVec 4) (k l : Nat) (h : 4 ≤ k) :
    (a ++ b).extractLsb' k l = a.extractLsb' (k - 4) l := extract_high a b k l h
@[simp] theorem low_18_16 (a : BitVec 18) (b : BitVec 16) (k l : Nat) (h : k + l ≤ 16) :
    (a ++ b).extractLsb' k l = b.extractLsb' k l := extract_low a b k l h
@[simp] theorem high_18_16 (a : BitVec 18) (b : BitVec 16) (k l : Nat) (h : 16 ≤ k) :
    (a ++ b).extractLsb' k l = a.extractLsb' (k - 16) l := extract_high a b k l h
@[simp] theorem low_22_12 (a : BitVec 22) (b : BitVec 12) (k l : Nat) (h : k + l ≤ 12) :
    (a ++ b).extractLsb' k l = b.extractLsb' k l := extract_low a b k l h
@[simp] theorem high_22_12 (a : BitVec 22) (b : BitVec 12) (k l : Nat) (h : 12 ≤ k) :
    (a ++ b).extractLsb' k l = a.extractLsb' (k - 12) l := extract_high a b k l h
@[simp] theorem low_23_5 (a : BitVec 23) (b : BitVec 5) (k l : Nat) (h : k + l ≤ 5) :
    (a ++ b).extractLsb' k l = b.extractLsb' k l := extract_low a b k l h
@[simp] theorem high_23_5 (a : BitVec 23) (b : BitVec 5) (k l : Nat) (h : 5 ≤ k) :
    (a ++ b).extractLsb' k l = a.extractLsb' (k - 5) l := extract_high a b k l h
@[simp] theorem low_23_6 (a : BitVec 23) (b : BitVec 6) (k l : Nat) (h : k + l ≤ 6) :
    (a ++ b).extractLsb' k l = b.extractLsb' k l := extract_low a b k l h
@[simp] theorem high_23_6 (a : BitVec 23) (b : BitVec 6) (k l : Nat) (h : 6 ≤ k) :
    (a ++ b).extractLsb' k l = a.extractLsb' (k - 6) l := extract_high a b k l h
@[simp] theorem low_23_11 (a : BitVec 23) (b : BitVec 11) (k l : Nat) (h : k + l ≤ 11) :
    (a ++ b).extractLsb' k l = b.extractLsb' k l := extract_low a b k l h
@[simp] theorem high_23_11 (a : BitVec 23) (b : BitVec 11) (k l : Nat) (h : 11 ≤ k) :
    (a ++ b).extractLsb' k l = a.extractLsb' (k - 11) l := extract_high a b k l h
@[simp] theorem low_24_10 (a : BitVec 24) (b : BitVec 10) (k l : Nat) (h : k + l ≤ 10) :
    (a ++ b).extractLsb' k l = b.extractLsb' k l := extract_low a b k l h
@[simp] theorem high_24_10 (a : BitVec 24) (b : BitVec 10) (k l : Nat) (h : 10 ≤ k) :
    (a ++ b).extractLsb' k l = a.extractLsb' (k - 10) l := extract_high a b k l h
@[simp] theorem low_25_4 (a : BitVec 25) (b : BitVec 4) (k l : Nat) (h : k + l ≤ 4) :
    (a ++ b).extractLsb' k l = b.extractLsb' k l := extract_low a b k l h
@[simp] theorem high_25_4 (a : BitVec 25) (b : BitVec 4) (k l : Nat) (h : 4 ≤ k) :
    (a ++ b).extractLsb' k l = a.extractLsb' (k - 4) l := extract_high a b k l h
@[simp] theorem low_26_3 (a : BitVec 26) (b : BitVec 3) (k l : Nat) (h : k + l ≤ 3) :
    (a ++ b).extractLsb' k l = b.extractLsb' k l := extract_low a b k l h
@[simp] theorem high_26_3 (a : BitVec 26) (b : BitVec 3) (k l : Nat) (h : 3 ≤ k) :
    (a ++ b).extractLsb' k l = a.extractLsb' (k - 3) l := extract_high a b k l h
@[simp] theorem low_27_2 (a : BitVec 27) (b : BitVec 2) (k l : Nat) (h : k + l ≤ 2) :
    (a ++ b).extractLsb' k l = b.extractLsb' k l := extract_low a b k l h
@[simp] theorem high_27_2 (a : BitVec 27) (b : BitVec 2) (k l : Nat) (h : 2 ≤ k) :
    (a ++ b).extractLsb' k l = a.extractLsb' (k - 2) l := extract_high a b k l h
@[simp] theorem low_27_7 (a : BitVec 27) (b : BitVec 7) (k l : Nat) (h : k + l ≤ 7) :
    (a ++ b).extractLsb' k l = b.extractLsb' k l := extract_low a b k l h
@[simp] theorem high_27_7 (a : BitVec 27) (b : BitVec 7) (k l : Nat) (h : 7 ≤ k) :
    (a ++ b).extractLsb' k l = a.extractLsb' (k - 7) l := extract_high a b k l h
@[simp] theorem low_28_1 (a : BitVec 28) (b : BitVec 1) (k l : Nat) (h : k + l ≤ 1) :
    (a ++ b).extractLsb' k l = b.extractLsb' k l := extract_low a b k l h
@[simp] theorem high_28_1 (a : BitVec 28) (b : BitVec 1) (k l : Nat) (h : 1 ≤ k) :
    (a ++ b).extractLsb' k l = a.extractLsb' (k - 1) l := extract_high a b k l h
@[simp] theorem low_29_5 (a : BitVec 29) (b : BitVec 5) (k l : Nat) (h : k + l ≤ 5) :
    (a ++ b).extractLsb' k l = b.extractLsb' k l := extract_low a b k l h
@[simp] theorem high_29_5 (a : BitVec 29) (b : BitVec 5) (k l : Nat) (h : 5 ≤ k) :
    (a ++ b).extractLsb' k l = a.extractLsb' (k - 5) l := extract_high a b k l h
@[simp] theorem low_30_4 (a : BitVec 30) (b : BitVec 4) (k l : Nat) (h : k + l ≤ 4) :
    (a ++ b).extractLsb' k l = b.extractLsb' k l := extract_low a b k l h
@[simp] theorem high_30_4 (a : BitVec 30) (b : BitVec 4) (k l : Nat) (h : 4 ≤ k) :
    (a ++ b).extractLsb' k l = a.extractLsb' (k - 4) l := extract_high a b k l h
@[simp] theorem low_39_3 (a : BitVec 39) (b : BitVec 3) (k l : Nat) (h : k + l ≤ 3) :
    (a ++ b).extractLsb' k l = b.extractLsb' k l := extract_low a b k l h
@[simp] theorem high_39_3 (a : BitVec 39) (b : BitVec 3) (k l : Nat) (h : 3 ≤ k) :
    (a ++ b).extractLsb' k l = a.extractLsb' (k - 3) l := extract_high a b k l h

end Sys2Proof.Laws
end

