-- ==== Sys2Proof/Laws/Dispatch.lean ====
section
/-!
SUPPORT. The arms of `exec`, one equation each: a bundle syllable runs its effect in the frame `syllable`, an engine word in
`engineWord`, and a machine step has its own meaning.
-/

namespace Sys2Proof.Laws

open Sys2Proof.Machine

@[simp] theorem exec_add dd da db (s) : exec (.add dd da db) s = syllable (functional2 Fn.add 1 dd da db) s := rfl
@[simp] theorem exec_addI dd da imm (s) : exec (.addI dd da imm) s = syllable (functionalI Fn.add 1 dd da imm) s := rfl
@[simp] theorem exec_addR dd da db (s) : exec (.addR dd da db) s =
    syllable (relational (entryRRR 0x00 dd da db) false) s := rfl
@[simp] theorem exec_addRk dd da db (s) : exec (.addRk dd da db) s =
    syllable (relational (entryRRR 0x00 dd da db) true) s := rfl
@[simp] theorem exec_addIR dd da imm (s) : exec (.addIR dd da imm) s =
    syllable (relational (entryRRI 0x80 dd da imm) false) s := rfl
@[simp] theorem exec_addIRk dd da imm (s) : exec (.addIRk dd da imm) s =
    syllable (relational (entryRRI 0x80 dd da imm) true) s := rfl
@[simp] theorem exec_sub dd da db (s) : exec (.sub dd da db) s = syllable (functional2 Fn.sub 1 dd da db) s := rfl
@[simp] theorem exec_subI dd da imm (s) : exec (.subI dd da imm) s = syllable (functionalI Fn.sub 1 dd da imm) s := rfl
@[simp] theorem exec_subR dd da db (s) : exec (.subR dd da db) s =
    syllable (relational (entryRRR 0x01 dd da db) false) s := rfl
@[simp] theorem exec_subRk dd da db (s) : exec (.subRk dd da db) s =
    syllable (relational (entryRRR 0x01 dd da db) true) s := rfl
@[simp] theorem exec_subIR dd da imm (s) : exec (.subIR dd da imm) s =
    syllable (relational (entryRRI 0x81 dd da imm) false) s := rfl
@[simp] theorem exec_subIRk dd da imm (s) : exec (.subIRk dd da imm) s =
    syllable (relational (entryRRI 0x81 dd da imm) true) s := rfl
@[simp] theorem exec_mul dd da db (s) : exec (.mul dd da db) s = syllable (functional2 Fn.mul 3 dd da db) s := rfl
@[simp] theorem exec_mulI dd da imm (s) : exec (.mulI dd da imm) s = syllable (functionalI Fn.mul 3 dd da imm) s := rfl
@[simp] theorem exec_mulR dd da db (s) : exec (.mulR dd da db) s =
    syllable (relational (entryRRR 0x02 dd da db) false) s := rfl
@[simp] theorem exec_mulRk dd da db (s) : exec (.mulRk dd da db) s =
    syllable (relational (entryRRR 0x02 dd da db) true) s := rfl
@[simp] theorem exec_mulIR dd da imm (s) : exec (.mulIR dd da imm) s =
    syllable (relational (entryRRI 0x82 dd da imm) false) s := rfl
@[simp] theorem exec_mulIRk dd da imm (s) : exec (.mulIRk dd da imm) s =
    syllable (relational (entryRRI 0x82 dd da imm) true) s := rfl
@[simp] theorem exec_min dd da db (s) : exec (.min dd da db) s = syllable (functional2 Fn.min 1 dd da db) s := rfl
@[simp] theorem exec_minI dd da imm (s) : exec (.minI dd da imm) s = syllable (functionalI Fn.min 1 dd da imm) s := rfl
@[simp] theorem exec_minR dd da db (s) : exec (.minR dd da db) s =
    syllable (relational (entryRRR 0x03 dd da db) false) s := rfl
@[simp] theorem exec_minRk dd da db (s) : exec (.minRk dd da db) s =
    syllable (relational (entryRRR 0x03 dd da db) true) s := rfl
@[simp] theorem exec_minIR dd da imm (s) : exec (.minIR dd da imm) s =
    syllable (relational (entryRRI 0x83 dd da imm) false) s := rfl
@[simp] theorem exec_minIRk dd da imm (s) : exec (.minIRk dd da imm) s =
    syllable (relational (entryRRI 0x83 dd da imm) true) s := rfl
@[simp] theorem exec_max dd da db (s) : exec (.max dd da db) s = syllable (functional2 Fn.max 1 dd da db) s := rfl
@[simp] theorem exec_maxI dd da imm (s) : exec (.maxI dd da imm) s = syllable (functionalI Fn.max 1 dd da imm) s := rfl
@[simp] theorem exec_maxR dd da db (s) : exec (.maxR dd da db) s =
    syllable (relational (entryRRR 0x04 dd da db) false) s := rfl
@[simp] theorem exec_maxRk dd da db (s) : exec (.maxRk dd da db) s =
    syllable (relational (entryRRR 0x04 dd da db) true) s := rfl
@[simp] theorem exec_maxIR dd da imm (s) : exec (.maxIR dd da imm) s =
    syllable (relational (entryRRI 0x84 dd da imm) false) s := rfl
@[simp] theorem exec_maxIRk dd da imm (s) : exec (.maxIRk dd da imm) s =
    syllable (relational (entryRRI 0x84 dd da imm) true) s := rfl
@[simp] theorem exec_abs dd da (s) : exec (.abs dd da) s = syllable (functional1 Fn.abs dd da) s := rfl
@[simp] theorem exec_absR dd da (s) : exec (.absR dd da) s =
    syllable (relational (entryRRR 0x05 dd da 0) false) s := rfl
@[simp] theorem exec_absRk dd da (s) : exec (.absRk dd da) s =
    syllable (relational (entryRRR 0x05 dd da 0) true) s := rfl
@[simp] theorem exec_neg dd da (s) : exec (.neg dd da) s = syllable (functional1 Fn.neg dd da) s := rfl
@[simp] theorem exec_negR dd da (s) : exec (.negR dd da) s =
    syllable (relational (entryRRR 0x06 dd da 0) false) s := rfl
@[simp] theorem exec_negRk dd da (s) : exec (.negRk dd da) s =
    syllable (relational (entryRRR 0x06 dd da 0) true) s := rfl
@[simp] theorem exec_mov dd da (s) : exec (.mov dd da) s = syllable (functional1 id dd da) s := rfl
@[simp] theorem exec_movR dd da (s) : exec (.movR dd da) s =
    syllable (relational (entryRRR 0x07 dd da 0) false) s := rfl
@[simp] theorem exec_movRk dd da (s) : exec (.movRk dd da) s =
    syllable (relational (entryRRR 0x07 dd da 0) true) s := rfl
@[simp] theorem exec_mulh dd da db (s) : exec (.mulh dd da db) s = syllable (functional2 Fn.mulh 3 dd da db) s := rfl
@[simp] theorem exec_mulhI dd da imm (s) : exec (.mulhI dd da imm) s =
    syllable (functionalI Fn.mulh 3 dd da imm) s := rfl
@[simp] theorem exec_div dd da db (s) : exec (.div dd da db) s = syllable (functional2 Fn.div 12 dd da db) s := rfl
@[simp] theorem exec_divI dd da imm (s) : exec (.divI dd da imm) s = syllable (functionalI Fn.div 12 dd da imm) s := rfl
@[simp] theorem exec_rem dd da db (s) : exec (.rem dd da db) s = syllable (functional2 Fn.rem 12 dd da db) s := rfl
@[simp] theorem exec_remI dd da imm (s) : exec (.remI dd da imm) s = syllable (functionalI Fn.rem 12 dd da imm) s := rfl
@[simp] theorem exec_and dd da db (s) : exec (.and dd da db) s = syllable (functional2 Fn.and 1 dd da db) s := rfl
@[simp] theorem exec_andI dd da imm (s) : exec (.andI dd da imm) s = syllable (functionalI Fn.and 1 dd da imm) s := rfl
@[simp] theorem exec_or dd da db (s) : exec (.or dd da db) s = syllable (functional2 Fn.or 1 dd da db) s := rfl
@[simp] theorem exec_orI dd da imm (s) : exec (.orI dd da imm) s = syllable (functionalI Fn.or 1 dd da imm) s := rfl
@[simp] theorem exec_xor dd da db (s) : exec (.xor dd da db) s = syllable (functional2 Fn.xor 1 dd da db) s := rfl
@[simp] theorem exec_xorI dd da imm (s) : exec (.xorI dd da imm) s = syllable (functionalI Fn.xor 1 dd da imm) s := rfl
@[simp] theorem exec_andn dd da db (s) : exec (.andn dd da db) s = syllable (functional2 Fn.andn 1 dd da db) s := rfl
@[simp] theorem exec_andnI dd da imm (s) : exec (.andnI dd da imm) s =
    syllable (functionalI Fn.andn 1 dd da imm) s := rfl
@[simp] theorem exec_shl dd da db (s) : exec (.shl dd da db) s = syllable (functional2 Fn.shl 1 dd da db) s := rfl
@[simp] theorem exec_shlI dd da imm (s) : exec (.shlI dd da imm) s = syllable (functionalI Fn.shl 1 dd da imm) s := rfl
@[simp] theorem exec_shr dd da db (s) : exec (.shr dd da db) s = syllable (functional2 Fn.shr 1 dd da db) s := rfl
@[simp] theorem exec_shrI dd da imm (s) : exec (.shrI dd da imm) s = syllable (functionalI Fn.shr 1 dd da imm) s := rfl
@[simp] theorem exec_sra dd da db (s) : exec (.sra dd da db) s = syllable (functional2 Fn.sra 1 dd da db) s := rfl
@[simp] theorem exec_sraI dd da imm (s) : exec (.sraI dd da imm) s = syllable (functionalI Fn.sra 1 dd da imm) s := rfl
@[simp] theorem exec_clz dd da (s) : exec (.clz dd da) s = syllable (functional1 Fn.clz dd da) s := rfl
@[simp] theorem exec_popc dd da (s) : exec (.popc dd da) s = syllable (functional1 Fn.popc dd da) s := rfl
@[simp] theorem exec_sext dd da imm (s) : exec (.sext dd da imm) s =
    syllable (functional1 (Fn.sext imm.toNat) dd da) s := rfl
@[simp] theorem exec_zext dd da imm (s) : exec (.zext dd da imm) s =
    syllable (functional1 (Fn.zext imm.toNat) dd da) s := rfl
@[simp] theorem exec_movi dd imm (s) : exec (.movi dd imm) s =
    syllable (fun s => .ok (s.write 1 (.d dd (Dom.single imm)))) s := rfl
@[simp] theorem exec_eq dd da db (s) : exec (.eq dd da db) s =
    syllable (functional2 (Fn.compare .eq) 1 dd da db) s := rfl
@[simp] theorem exec_eqI dd da imm (s) : exec (.eqI dd da imm) s =
    syllable (functionalI (Fn.compare .eq) 1 dd da imm) s := rfl
@[simp] theorem exec_eqR dd da db (s) : exec (.eqR dd da db) s =
    syllable (relational (entryRRR 0x20 dd da db) false) s := rfl
@[simp] theorem exec_eqRk dd da db (s) : exec (.eqRk dd da db) s =
    syllable (relational (entryRRR 0x20 dd da db) true) s := rfl
@[simp] theorem exec_eqIR dd da imm (s) : exec (.eqIR dd da imm) s =
    syllable (relational (entryRRI 0xA0 dd da imm) false) s := rfl
@[simp] theorem exec_eqIRk dd da imm (s) : exec (.eqIRk dd da imm) s =
    syllable (relational (entryRRI 0xA0 dd da imm) true) s := rfl
@[simp] theorem exec_ne dd da db (s) : exec (.ne dd da db) s =
    syllable (functional2 (Fn.compare .ne) 1 dd da db) s := rfl
@[simp] theorem exec_neI dd da imm (s) : exec (.neI dd da imm) s =
    syllable (functionalI (Fn.compare .ne) 1 dd da imm) s := rfl
@[simp] theorem exec_neR dd da db (s) : exec (.neR dd da db) s =
    syllable (relational (entryRRR 0x21 dd da db) false) s := rfl
@[simp] theorem exec_neRk dd da db (s) : exec (.neRk dd da db) s =
    syllable (relational (entryRRR 0x21 dd da db) true) s := rfl
@[simp] theorem exec_neIR dd da imm (s) : exec (.neIR dd da imm) s =
    syllable (relational (entryRRI 0xA1 dd da imm) false) s := rfl
@[simp] theorem exec_neIRk dd da imm (s) : exec (.neIRk dd da imm) s =
    syllable (relational (entryRRI 0xA1 dd da imm) true) s := rfl
@[simp] theorem exec_lt dd da db (s) : exec (.lt dd da db) s =
    syllable (functional2 (Fn.compare .lt) 1 dd da db) s := rfl
@[simp] theorem exec_ltI dd da imm (s) : exec (.ltI dd da imm) s =
    syllable (functionalI (Fn.compare .lt) 1 dd da imm) s := rfl
@[simp] theorem exec_ltR dd da db (s) : exec (.ltR dd da db) s =
    syllable (relational (entryRRR 0x22 dd da db) false) s := rfl
@[simp] theorem exec_ltRk dd da db (s) : exec (.ltRk dd da db) s =
    syllable (relational (entryRRR 0x22 dd da db) true) s := rfl
@[simp] theorem exec_ltIR dd da imm (s) : exec (.ltIR dd da imm) s =
    syllable (relational (entryRRI 0xA2 dd da imm) false) s := rfl
@[simp] theorem exec_ltIRk dd da imm (s) : exec (.ltIRk dd da imm) s =
    syllable (relational (entryRRI 0xA2 dd da imm) true) s := rfl
@[simp] theorem exec_le dd da db (s) : exec (.le dd da db) s =
    syllable (functional2 (Fn.compare .le) 1 dd da db) s := rfl
@[simp] theorem exec_leI dd da imm (s) : exec (.leI dd da imm) s =
    syllable (functionalI (Fn.compare .le) 1 dd da imm) s := rfl
@[simp] theorem exec_leR dd da db (s) : exec (.leR dd da db) s =
    syllable (relational (entryRRR 0x23 dd da db) false) s := rfl
@[simp] theorem exec_leRk dd da db (s) : exec (.leRk dd da db) s =
    syllable (relational (entryRRR 0x23 dd da db) true) s := rfl
@[simp] theorem exec_leIR dd da imm (s) : exec (.leIR dd da imm) s =
    syllable (relational (entryRRI 0xA3 dd da imm) false) s := rfl
@[simp] theorem exec_leIRk dd da imm (s) : exec (.leIRk dd da imm) s =
    syllable (relational (entryRRI 0xA3 dd da imm) true) s := rfl
@[simp] theorem exec_inR dd da (s) : exec (.inR dd da) s = syllable (relational (entryRRR 0x24 dd da 0) false) s := rfl
@[simp] theorem exec_inRk dd da (s) : exec (.inRk dd da) s = syllable (relational (entryRRR 0x24 dd da 0) true) s := rfl
@[simp] theorem exec_alldiffR dd imm (s) : exec (.alldiffR dd imm) s =
    syllable (relational ⟨0x25, dd, 0, 0, imm⟩ false) s := rfl
@[simp] theorem exec_alldiffRk dd imm (s) : exec (.alldiffRk dd imm) s =
    syllable (relational ⟨0x25, dd, 0, 0, imm⟩ true) s := rfl
@[simp] theorem exec_dset dd da db (s) : exec (.dset dd da db) s = syllable (dset dd da db) s := rfl
@[simp] theorem exec_dfull dd (s) : exec (.dfull dd) s = syllable (fun s => .ok (s.write 1 (.d dd Dom.full))) s := rfl
@[simp] theorem exec_dmask dd da imm (s) : exec (.dmask dd da imm) s = syllable (dmask dd da imm) s := rfl
@[simp] theorem exec_dlo dd da (s) : exec (.dlo dd da) s =
    syllable (functional1 (fun a => Dom.single a.lo) dd da) s := rfl
@[simp] theorem exec_dhi dd da (s) : exec (.dhi dd da) s =
    syllable (functional1 (fun a => Dom.single a.hi) dd da) s := rfl
@[simp] theorem exec_dsize dd da (s) : exec (.dsize dd da) s =
    syllable (functional1 (fun a => Dom.single (sizeWord a)) dd da) s := rfl
@[simp] theorem exec_dexcl dd db (s) : exec (.dexcl dd db) s = syllable (dexcl 0x32 dd (.inl db)) s := rfl
@[simp] theorem exec_dexclI dd imm (s) : exec (.dexclI dd imm) s = syllable (dexcl 0xB2 dd (.inr imm)) s := rfl
@[simp] theorem exec_dpick dd (s) : exec (.dpick dd) s = syllable (point (fun _ => .ok ()) [dd] (pick dd)) s := rfl
@[simp] theorem exec_restore mark (s) : exec (.restore mark) s = syllable (restore mark.toNat) s := rfl
@[simp] theorem exec_prep bt off (s) : exec (.prep bt off) s = syllable (prep bt off) s := rfl
@[simp] theorem exec_prepi bt da k (s) : exec (.prepi bt da k) s = syllable (prepi bt da k) s := rfl
@[simp] theorem exec_prepj bt da bd count off (s) : exec (.prepj bt da bd count off) s =
    syllable (prepj bt da bd count off) s := rfl
@[simp] theorem exec_cmp rel neg c da db (s) : exec (.cmp rel neg c da db) s =
    syllable (cmpReg true rel neg c da db) s := rfl
@[simp] theorem exec_cmpI rel neg c da imm (s) : exec (.cmpI rel neg c da imm) s =
    syllable (cmpImm true rel neg c da imm) s := rfl
@[simp] theorem exec_cmpu rel neg c da db (s) : exec (.cmpu rel neg c da db) s =
    syllable (cmpReg false rel neg c da db) s := rfl
@[simp] theorem exec_cmpuI rel neg c da imm (s) : exec (.cmpuI rel neg c da imm) s =
    syllable (cmpImm false rel neg c da imm) s := rfl
@[simp] theorem exec_cmpdSingle neg c da (s) : exec (.cmpdSingle neg c da) s =
    syllable (fun s => cmpd testSingle neg c da (.ok 0) s) s := rfl
@[simp] theorem exec_cmpdHas neg c da db (s) : exec (.cmpdHas neg c da db) s =
    syllable (fun s => cmpd testHas neg c da (single s db) s) s := rfl
@[simp] theorem exec_cmpdHasI neg c da imm (s) : exec (.cmpdHasI neg c da imm) s =
    syllable (fun s => cmpd testHas neg c da (.ok imm) s) s := rfl
@[simp] theorem exec_cmpdWidth neg c da db (s) : exec (.cmpdWidth neg c da db) s =
    syllable (fun s => cmpd testWidth neg c da (single s db) s) s := rfl
@[simp] theorem exec_cmpdWidthI neg c da imm (s) : exec (.cmpdWidthI neg c da imm) s =
    syllable (fun s => cmpd testWidth neg c da (.ok imm) s) s := rfl
@[simp] theorem exec_xfer bt (s) : exec (.xfer bt) s = syllable (xfer bt none (fun _ => true)) s := rfl
@[simp] theorem exec_xferC bt neg c (s) : exec (.xferC bt neg c) s = syllable (xfer bt none (condHolds neg c)) s := rfl
@[simp] theorem exec_xferl bt bl (s) : exec (.xferl bt bl) s = syllable (xfer bt (some bl) (fun _ => true)) s := rfl
@[simp] theorem exec_xferlC bt bl neg c (s) : exec (.xferlC bt bl neg c) s =
    syllable (xfer bt (some bl) (condHolds neg c)) s := rfl
@[simp] theorem exec_loopb da mskew cskew (s) : exec (.loopb da mskew cskew) s =
    syllable (loopb da mskew cskew) s := rfl
@[simp] theorem exec_loopcut da (s) : exec (.loopcut da) s = syllable (fun s => loopcut (single s da) s) s := rfl
@[simp] theorem exec_loopcutI k (s) : exec (.loopcutI k) s = syllable (loopcut (.ok k)) s := rfl
@[simp] theorem exec_postD da (s) : exec (.postD da) s = syllable (fun s => do post (← single s da).toNat s) s := rfl
@[simp] theorem exec_post k (s) : exec (.post k) s = syllable (post k.toNat) s := rfl
@[simp] theorem exec_awaitD da (s) : exec (.awaitD da) s = syllable (fun s => do await (← single s da).toNat s) s := rfl
@[simp] theorem exec_await k (s) : exec (.await k) s = syllable (await k.toNat) s := rfl
@[simp] theorem exec_spawn bd da imm (s) : exec (.spawn bd da imm) s = syllable (spawn bd da imm) s := rfl
@[simp] theorem exec_yield bd da imm (s) : exec (.yield bd da imm) s = syllable (yield bd da imm) s := rfl
@[simp] theorem exec_trap k (s) : exec (.trap k) s = syllable (trapK k) s := rfl
@[simp] theorem exec_syscall k (s) : exec (.syscall k) s = syllable (sysCall k) s := rfl
@[simp] theorem exec_brk k (s) : exec (.brk k) s = syllable (brk k) s := rfl
@[simp] theorem exec_mfsr da r high (s) : exec (.mfsr da r high) s = syllable (mfsr da r high) s := rfl
@[simp] theorem exec_mtsr r da db (s) : exec (.mtsr r da db) s = syllable (mtsr r da db) s := rfl
@[simp] theorem exec_bdset bd part da (s) : exec (.bdset bd part da) s = syllable (bdset bd part da) s := rfl
@[simp] theorem exec_temit da db (s) : exec (.temit da db) s = syllable (temit da db) s := rfl
@[simp] theorem exec_rfbegin bd da imm (s) : exec (.rfbegin bd da imm) s = syllable (rfbegin bd da imm) s := rfl
@[simp] theorem exec_rftest v (s) : exec (.rftest v) s = syllable (rftest v) s := rfl
@[simp] theorem exec_ld z dd m (s) : exec (.ld z dd m) s = syllable (ld z dd m) s := rfl
@[simp] theorem exec_st z ds m (s) : exec (.st z ds m) s = syllable (st z ds m) s := rfl
@[simp] theorem exec_stn ds m mask (s) : exec (.stn ds m mask) s = syllable (stn ds m mask) s := rfl
@[simp] theorem exec_ldr z dd m k (s) : exec (.ldr z dd m k) s = syllable (ldr z dd m k) s := rfl
@[simp] theorem exec_ldv v m dp (s) : exec (.ldv v m dp) s = syllable (ldv v m dp) s := rfl
@[simp] theorem exec_stv v m dp (s) : exec (.stv v m dp) s = syllable (stv v m dp) s := rfl
@[simp] theorem exec_ldvp v m p (s) : exec (.ldvp v m p) s = syllable (ldvp v m p) s := rfl
@[simp] theorem exec_gathv v m vi (s) : exec (.gathv v m vi) s = syllable (gathv v m vi) s := rfl
@[simp] theorem exec_scatv v m vi (s) : exec (.scatv v m vi) s = syllable (scatv v m vi) s := rfl
@[simp] theorem exec_pagereq m (s) : exec (.pagereq m) s = syllable (pagereq m) s := rfl
@[simp] theorem exec_prefetch dn m (s) : exec (.prefetch dn m) s = syllable (prefetch dn m) s := rfl
@[simp] theorem exec_sopen kind f m dq (s) : exec (.sopen kind f m dq) s = syllable (sopen kind f m dq) s := rfl
@[simp] theorem exec_sadv f dn (s) : exec (.sadv f dn) s = syllable (sadv f dn) s := rfl
@[simp] theorem exec_sget dd f (s) : exec (.sget dd f) s = syllable (sget dd f) s := rfl
@[simp] theorem exec_vsget v f (s) : exec (.vsget v f) s = syllable (vsget v f) s := rfl
@[simp] theorem exec_stend c f (s) : exec (.stend c f) s = syllable (stend c f) s := rfl
@[simp] theorem exec_sclose f (s) : exec (.sclose f) s = syllable (sclose f) s := rfl
@[simp] theorem exec_wset w m dn (s) : exec (.wset w m dn) s = syllable (wset w m dn) s := rfl
@[simp] theorem exec_amoAdd w dd m ds (s) : exec (.amoAdd w dd m ds) s = syllable (atomicOp 0 w dd m ds) s := rfl
@[simp] theorem exec_amoMin w dd m ds (s) : exec (.amoMin w dd m ds) s = syllable (atomicOp 1 w dd m ds) s := rfl
@[simp] theorem exec_amoMax w dd m ds (s) : exec (.amoMax w dd m ds) s = syllable (atomicOp 2 w dd m ds) s := rfl
@[simp] theorem exec_amoAnd w dd m ds (s) : exec (.amoAnd w dd m ds) s = syllable (atomicOp 3 w dd m ds) s := rfl
@[simp] theorem exec_amoOr w dd m ds (s) : exec (.amoOr w dd m ds) s = syllable (atomicOp 4 w dd m ds) s := rfl
@[simp] theorem exec_amoXor w dd m ds (s) : exec (.amoXor w dd m ds) s = syllable (atomicOp 5 w dd m ds) s := rfl
@[simp] theorem exec_amoSwap w dd m ds (s) : exec (.amoSwap w dd m ds) s = syllable (atomicOp 6 w dd m ds) s := rfl
@[simp] theorem exec_cas w dd m ds (s) : exec (.cas w dd m ds) s = syllable (atomicOp 7 w dd m ds) s := rfl
@[simp] theorem exec_lda w dd m (s) : exec (.lda w dd m) s = syllable (lda w dd m) s := rfl
@[simp] theorem exec_stl w ds m (s) : exec (.stl w ds m) s = syllable (stl w ds m) s := rfl
@[simp] theorem exec_fence scope mask (s) : exec (.fence scope mask) s = syllable (fence scope mask) s := rfl
@[simp] theorem exec_barwinit dt m exact (s) : exec (.barwinit dt m exact) s = syllable (barwinit dt m exact) s := rfl
@[simp] theorem exec_barwadd dn m (s) : exec (.barwadd dn m) s = syllable (barwadd dn m) s := rfl
@[simp] theorem exec_barwwait dg m dt (s) : exec (.barwwait dg m dt) s = syllable (barwwait dg m dt) s := rfl
@[simp] theorem exec_barwtry dg m c (s) : exec (.barwtry dg m c) s = syllable (barwtry dg m c) s := rfl
@[simp] theorem exec_wqpush q m c (s) : exec (.wqpush q m c) s = syllable (wqpush q m c) s := rfl
@[simp] theorem exec_wqpop q m c (s) : exec (.wqpop q m c) s =
    syllable (wqtake (fun s a => s.dqPop a false) q m c) s := rfl
@[simp] theorem exec_wqpopOne q m c (s) : exec (.wqpopOne q m c) s =
    syllable (wqtake (fun s a => s.dqPop a true) q m c) s := rfl
@[simp] theorem exec_wqsteal q m c (s) : exec (.wqsteal q m c) s = syllable (wqtake State.dqSteal q m c) s := rfl
@[simp] theorem exec_lgather dd m n (s) : exec (.lgather dd m n) s = syllable (lgather dd m n) s := rfl
@[simp] theorem exec_ldedup dd _scope dk n (s) : exec (.ldedup dd _scope dk n) s = syllable (ldedup dd dk n) s := rfl
@[simp] theorem exec_lpool op dd scope ds rows rsz (s) : exec (.lpool op dd scope ds rows rsz) s =
    execLpool op dd scope ds rows rsz s := rfl
@[simp] theorem exec_lhand ds m dw (s) : exec (.lhand ds m dw) s = syllable (lhand ds m dw) s := rfl
@[simp] theorem exec_vadd f vd va vb p (s) : exec (.vadd f vd va vb p) s = syllable (varith .add f vd va vb p) s := rfl
@[simp] theorem exec_vsub f vd va vb p (s) : exec (.vsub f vd va vb p) s = syllable (varith .sub f vd va vb p) s := rfl
@[simp] theorem exec_vmul f vd va vb p (s) : exec (.vmul f vd va vb p) s = syllable (varith .mul f vd va vb p) s := rfl
@[simp] theorem exec_vfma f vd va vb vc p (s) : exec (.vfma f vd va vb vc p) s =
    syllable (vfused .fma f vd va vb vc p) s := rfl
@[simp] theorem exec_vfms f vd va vb vc p (s) : exec (.vfms f vd va vb vc p) s =
    syllable (vfused .fms f vd va vb vc p) s := rfl
@[simp] theorem exec_vmin f vd va vb p (s) : exec (.vmin f vd va vb p) s = syllable (varith .min f vd va vb p) s := rfl
@[simp] theorem exec_vmax f vd va vb p (s) : exec (.vmax f vd va vb p) s = syllable (varith .max f vd va vb p) s := rfl
@[simp] theorem exec_vabs f vd va p (s) : exec (.vabs f vd va p) s = syllable (vunary .abs f vd va p) s := rfl
@[simp] theorem exec_vneg f vd va p (s) : exec (.vneg f vd va p) s = syllable (vunary .neg f vd va p) s := rfl
@[simp] theorem exec_vand vd va vb p (s) : exec (.vand vd va vb p) s = syllable (vbitwise (· &&& ·) vd va vb p) s := rfl
@[simp] theorem exec_vor vd va vb p (s) : exec (.vor vd va vb p) s = syllable (vbitwise (· ||| ·) vd va vb p) s := rfl
@[simp] theorem exec_vxor vd va vb p (s) : exec (.vxor vd va vb p) s = syllable (vbitwise (· ^^^ ·) vd va vb p) s := rfl
@[simp] theorem exec_vshl f vd va cnt p (s) : exec (.vshl f vd va cnt p) s =
    syllable (vshift .left f vd va cnt p) s := rfl
@[simp] theorem exec_vshr f vd va cnt p (s) : exec (.vshr f vd va cnt p) s =
    syllable (vshift .logical f vd va cnt p) s := rfl
@[simp] theorem exec_vsra f vd va cnt p (s) : exec (.vsra f vd va cnt p) s =
    syllable (vshift .arithmetic f vd va cnt p) s := rfl
@[simp] theorem exec_vcmp rel f pd va vb p (s) : exec (.vcmp rel f pd va vb p) s =
    syllable (vcmp rel f pd va vb p) s := rfl
@[simp] theorem exec_vsel vd va vb sel (s) : exec (.vsel vd va vb sel) s = syllable (vsel vd va vb sel) s := rfl
@[simp] theorem exec_vmov vd va p (s) : exec (.vmov vd va p) s = syllable (vmov vd va p) s := rfl
@[simp] theorem exec_vsplat f vd ds p (s) : exec (.vsplat f vd ds p) s = syllable (vsplat f vd ds p) s := rfl
@[simp] theorem exec_viota m vd p (s) : exec (.viota m vd p) s = syllable (viota m vd p) s := rfl
@[simp] theorem exec_vcvt t vd va p (s) : exec (.vcvt t vd va p) s = syllable (vcvt t vd va p) s := rfl
@[simp] theorem exec_vquant t vd vc va (s) : exec (.vquant t vd vc va) s = syllable (vquant t vd vc va) s := rfl
@[simp] theorem exec_vdeq vd va vb p (s) : exec (.vdeq vd va vb p) s = syllable (vdeq vd va vb p) s := rfl
@[simp] theorem exec_vclass pd va m p (s) : exec (.vclass pd va m p) s = syllable (vclass pd va m p) s := rfl
@[simp] theorem exec_pand pd pa pb p (s) : exec (.pand pd pa pb p) s = syllable (plogic (· &&& ·) pd pa pb p) s := rfl
@[simp] theorem exec_por pd pa pb p (s) : exec (.por pd pa pb p) s = syllable (plogic (· ||| ·) pd pa pb p) s := rfl
@[simp] theorem exec_pxor pd pa pb p (s) : exec (.pxor pd pa pb p) s = syllable (plogic (· ^^^ ·) pd pa pb p) s := rfl
@[simp] theorem exec_pnot pd pa p (s) : exec (.pnot pd pa p) s = syllable (pnot pd pa p) s := rfl
@[simp] theorem exec_vrotr vd va k p (s) : exec (.vrotr vd va k p) s =
    syllable (vmove 24 (evenF64 k) (fun _ r c => (r, (c + 64 - k.toNat) % 64)) vd va p) s := rfl
@[simp] theorem exec_vrotc vd va k p (s) : exec (.vrotc vd va k p) s =
    syllable (vmove 36 (fun _ => true) (fun _ r c => ((r + 16 - k.toNat % 16) % 16, c)) vd va p) s := rfl
@[simp] theorem exec_vbcr vd va k p (s) : exec (.vbcr vd va k p) s =
    syllable (vmove 24 (evenF64 k) (fun tag r c => (r, if tag == tagF64 then k.toNat + c % 2 else k.toNat)) vd va p) s := rfl
@[simp] theorem exec_vbcc vd va k p (s) : exec (.vbcc vd va k p) s =
    syllable (vmove 36 (fun _ => true) (fun _ _ c => (k.toNat, c)) vd va p) s := rfl
@[simp] theorem exec_vredr op f vd va p (s) : exec (.vredr op f vd va p) s =
    syllable (vlines 28 reduceLine false op f vd va p) s := rfl
@[simp] theorem exec_vredc op f vd va p (s) : exec (.vredc op f vd va p) s =
    syllable (vlines 40 reduceLine true op f vd va p) s := rfl
@[simp] theorem exec_vscanr op f vd va p (s) : exec (.vscanr op f vd va p) s =
    syllable (vlines 28 scanLine false op f vd va p) s := rfl
@[simp] theorem exec_vscanc op f vd va p (s) : exec (.vscanc op f vd va p) s =
    syllable (vlines 40 scanLine true op f vd va p) s := rfl
@[simp] theorem exec_vtrn vd va (s) : exec (.vtrn vd va) s = syllable (vtrn vd va) s := rfl
@[simp] theorem exec_vsfuExp2 vd va p (s) : exec (.vsfuExp2 vd va p) s = syllable (vsfu 0 vd va p) s := rfl
@[simp] theorem exec_vsfuLog2 vd va p (s) : exec (.vsfuLog2 vd va p) s = syllable (vsfu 1 vd va p) s := rfl
@[simp] theorem exec_vsfuRcp vd va p (s) : exec (.vsfuRcp vd va p) s = syllable (vsfu 2 vd va p) s := rfl
@[simp] theorem exec_vsfuRsqrt vd va p (s) : exec (.vsfuRsqrt vd va p) s = syllable (vsfu 3 vd va p) s := rfl
@[simp] theorem exec_vsfuSqrt vd va p (s) : exec (.vsfuSqrt vd va p) s = syllable (vsfu 4 vd va p) s := rfl
@[simp] theorem exec_vsfuSinpi vd va p (s) : exec (.vsfuSinpi vd va p) s = syllable (vsfu 5 vd va p) s := rfl
@[simp] theorem exec_vsfuCospi vd va p (s) : exec (.vsfuCospi vd va p) s = syllable (vsfu 6 vd va p) s := rfl
@[simp] theorem exec_vsfuTanh vd va p (s) : exec (.vsfuTanh vd va p) s = syllable (vsfu 7 vd va p) s := rfl
@[simp] theorem exec_vsfuSigm vd va p (s) : exec (.vsfuSigm vd va p) s = syllable (vsfu 8 vd va p) s := rfl
@[simp] theorem exec_vsfuErf vd va p (s) : exec (.vsfuErf vd va p) s = syllable (vsfu 9 vd va p) s := rfl
@[simp] theorem exec_vany c p (s) : exec (.vany c p) s = syllable (vote (· != 0) c p) s := rfl
@[simp] theorem exec_vall c p (s) : exec (.vall c p) s = syllable (vote (· == BitVec.allOnes 1024) c p) s := rfl
@[simp] theorem exec_vcompress vd vc va (s) : exec (.vcompress vd vc va) s = syllable (vcompress vd vc va) s := rfl
@[simp] theorem exec_vexpand vd va vb p (s) : exec (.vexpand vd va vb p) s = syllable (vexpand vd va vb p) s := rfl
@[simp] theorem exec_vextr dd va row col (s) : exec (.vextr dd va row col) s = syllable (vextr dd va row col) s := rfl
@[simp] theorem exec_vinsr vd ds row col (s) : exec (.vinsr vd ds row col) s = syllable (vinsr vd ds row col) s := rfl
@[simp] theorem exec_estart copy da (s) : exec (.estart copy da) s = syllable (estart copy da) s := rfl
@[simp] theorem exec_estop copy (s) : exec (.estop copy) s = syllable (estop copy) s := rfl
@[simp] theorem exec_estat dd copy item (s) : exec (.estat dd copy item) s = syllable (estat dd copy item) s := rfl
@[simp] theorem exec_gopen g bd da imm (s) : exec (.gopen g bd da imm) s = syllable (gopen g bd da imm) s := rfl
@[simp] theorem exec_gattach g bd da imm (s) : exec (.gattach g bd da imm) s = syllable (gattach g bd da imm) s := rfl
@[simp] theorem exec_gdetach c g slot (s) : exec (.gdetach c g slot) s = syllable (gdetach c g slot) s := rfl
@[simp] theorem exec_gfold c g bda da bdb db tag (s) : exec (.gfold c g bda da bdb db tag) s =
    execGfold c g bda da bdb db tag s := rfl
@[simp] theorem exec_lit v (s) : exec (.lit v) s = engineWord (ewLit v) s := rfl
@[simp] theorem exec_litx v (s) : exec (.litx v) s = engineWord (ewLitx v) s := rfl
@[simp] theorem exec_pushd n (s) : exec (.pushd n) s = engineWord (ewPushd n) s := rfl
@[simp] theorem exec_pushb n high (s) : exec (.pushb n high) s = engineWord (ewPushb n high) s := rfl
@[simp] theorem exec_jmp k (s) : exec (.jmp k) s = engineWord (ewJmp k) s := rfl
@[simp] theorem exec_enginePost k (s) : exec (.enginePost k) s = engineWord (ewPost k) s := rfl
@[simp] theorem exec_engineAwait k (s) : exec (.engineAwait k) s = engineWord (ewAwait k) s := rfl
@[simp] theorem exec_powerOnReset (s) : exec .powerOnReset s = execPowerOnReset s := rfl
@[simp] theorem exec_bringupStepComplete (s) : exec .bringupStepComplete s = execBringupStepComplete s := rfl
@[simp] theorem exec_thermalPoll (s) : exec .thermalPoll s = execThermalPoll s := rfl
@[simp] theorem exec_clockAdjustTick (s) : exec .clockAdjustTick s = execClockAdjustTick s := rfl
@[simp] theorem exec_governorWindow (s) : exec .governorWindow s = execGovernorWindow s := rfl
@[simp] theorem exec_governorBudgetStall (s) : exec .governorBudgetStall s = execGovernorBudgetStall s := rfl
@[simp] theorem exec_tokenArrival (s) : exec .tokenArrival s = execTokenArrival s := rfl
@[simp] theorem exec_tokenBurstEnd (s) : exec .tokenBurstEnd s = execTokenBurstEnd s := rfl
@[simp] theorem exec_runtimeFence (s) : exec .runtimeFence s = execRuntimeFence s := rfl
@[simp] theorem exec_distributorTakeover (s) : exec .distributorTakeover s = execDistributorTakeover s := rfl
@[simp] theorem exec_i3cRequest (s) : exec .i3cRequest s = execI3cRequest s := rfl
@[simp] theorem exec_i3cServiceCommand (s) : exec .i3cServiceCommand s = execI3cServiceCommand s := rfl
@[simp] theorem exec_jtagInstruction (s) : exec .jtagInstruction s = execJtagInstruction s := rfl
@[simp] theorem exec_debugAccessChallenge (s) : exec .debugAccessChallenge s = execDebugAccessChallenge s := rfl
@[simp] theorem exec_sealKeyInstall (s) : exec .sealKeyInstall s = execSealKeyInstall s := rfl
@[simp] theorem exec_sealTraceKeyInstall (s) : exec .sealTraceKeyInstall s = execSealTraceKeyInstall s := rfl
@[simp] theorem exec_sealAttestation (s) : exec .sealAttestation s = execSealAttestation s := rfl
@[simp] theorem exec_linnorFlitReceive (s) : exec .linnorFlitReceive s = execLinnorFlitReceive s := rfl
@[simp] theorem exec_linnorFlitTransmit (s) : exec .linnorFlitTransmit s = execLinnorFlitTransmit s := rfl
@[simp] theorem exec_linnorRetryRequest (s) : exec .linnorRetryRequest s = execLinnorRetryRequest s := rfl
@[simp] theorem exec_retryRequestTimeout (s) : exec .retryRequestTimeout s = execRetryRequestTimeout s := rfl
@[simp] theorem exec_linnorRetrain (s) : exec .linnorRetrain s = execLinnorRetrain s := rfl
@[simp] theorem exec_retryLimitExceeded (s) : exec .retryLimitExceeded s = execRetryLimitExceeded s := rfl
@[simp] theorem exec_linnorRd (s) : exec .linnorRd s = execLinnorRd s := rfl
@[simp] theorem exec_linnorWr (s) : exec .linnorWr s = execLinnorWr s := rfl
@[simp] theorem exec_linnorAtom (s) : exec .linnorAtom s = execLinnorAtom s := rfl
@[simp] theorem exec_linnorMsg (s) : exec .linnorMsg s = execLinnorMsg s := rfl
@[simp] theorem exec_linnorWake (s) : exec .linnorWake s = execLinnorWake s := rfl
@[simp] theorem exec_linnorReservedKind (s) : exec .linnorReservedKind s = execLinnorReservedKind s := rfl
@[simp] theorem exec_linnorRdrsp (s) : exec .linnorRdrsp s = execLinnorRdrsp s := rfl
@[simp] theorem exec_linnorWrack (s) : exec .linnorWrack s = execLinnorWrack s := rfl
@[simp] theorem exec_linnorAtomrsp (s) : exec .linnorAtomrsp s = execLinnorAtomrsp s := rfl
@[simp] theorem exec_linnorMsgack (s) : exec .linnorMsgack s = execLinnorMsgack s := rfl
@[simp] theorem exec_linnorErr (s) : exec .linnorErr s = execLinnorErr s := rfl
@[simp] theorem exec_linnorResendTimer (s) : exec .linnorResendTimer s = execLinnorResendTimer s := rfl
@[simp] theorem exec_linnorRequestGiveup (s) : exec .linnorRequestGiveup s = execLinnorRequestGiveup s := rfl
@[simp] theorem exec_wakeReplay (s) : exec .wakeReplay s = execWakeReplay s := rfl
@[simp] theorem exec_pcieInboundRequest (s) : exec .pcieInboundRequest s = execPcieInboundRequest s := rfl
@[simp] theorem exec_pcieAtsPriRequest (s) : exec .pcieAtsPriRequest s = execPcieAtsPriRequest s := rfl
@[simp] theorem exec_pcieAtomicopInbound (s) : exec .pcieAtomicopInbound s = execPcieAtomicopInbound s := rfl
@[simp] theorem exec_bar0Access (s) : exec .bar0Access s = execBar0Access s := rfl
@[simp] theorem exec_bar2Access (s) : exec .bar2Access s = execBar2Access s := rfl
@[simp] theorem exec_mgmtWindowBadAccess (s) : exec .mgmtWindowBadAccess s = execMgmtWindowBadAccess s := rfl
@[simp] theorem exec_registerWrite (s) : exec .registerWrite s = execRegisterWrite s := rfl
@[simp] theorem exec_routerCycle (s) : exec .routerCycle s = execRouterCycle s := rfl
@[simp] theorem exec_packetEject (s) : exec .packetEject s = execPacketEject s := rfl
@[simp] theorem exec_meshRd (s) : exec .meshRd s = execMeshRd s := rfl
@[simp] theorem exec_meshWr (s) : exec .meshWr s = execMeshWr s := rfl
@[simp] theorem exec_meshWrb (s) : exec .meshWrb s = execMeshWrb s := rfl
@[simp] theorem exec_meshWrn (s) : exec .meshWrn s = execMeshWrn s := rfl
@[simp] theorem exec_meshAmo (s) : exec .meshAmo s = execMeshAmo s := rfl
@[simp] theorem exec_meshBadd (s) : exec .meshBadd s = execMeshBadd s := rfl
@[simp] theorem exec_hopBinit (s) : exec .hopBinit s = execHopBinit s := rfl
@[simp] theorem exec_hopBread (s) : exec .hopBread s = execHopBread s := rfl
@[simp] theorem exec_hopBtimeout (s) : exec .hopBtimeout s = execHopBtimeout s := rfl
@[simp] theorem exec_hopWqpush (s) : exec .hopWqpush s = execHopWqpush s := rfl
@[simp] theorem exec_hopWqpop (s) : exec .hopWqpop s = execHopWqpop s := rfl
@[simp] theorem exec_hopWqsteal (s) : exec .hopWqsteal s = execHopWqsteal s := rfl
@[simp] theorem exec_hopGread (s) : exec .hopGread s = execHopGread s := rfl
@[simp] theorem exec_hopGattach (s) : exec .hopGattach s = execHopGattach s := rfl
@[simp] theorem exec_hopGdetach (s) : exec .hopGdetach s = execHopGdetach s := rfl
@[simp] theorem exec_hopGfold (s) : exec .hopGfold s = execHopGfold s := rfl
@[simp] theorem exec_hopCntinc (s) : exec .hopCntinc s = execHopCntinc s := rfl
@[simp] theorem exec_hopReserved (s) : exec .hopReserved s = execHopReserved s := rfl
@[simp] theorem exec_meshReservedKind (s) : exec .meshReservedKind s = execMeshReservedKind s := rfl
@[simp] theorem exec_meshRdd (s) : exec .meshRdd s = execMeshRdd s := rfl
@[simp] theorem exec_meshWack (s) : exec .meshWack s = execMeshWack s := rfl
@[simp] theorem exec_meshAmor (s) : exec .meshAmor s = execMeshAmor s := rfl
@[simp] theorem exec_meshNack (s) : exec .meshNack s = execMeshNack s := rfl
@[simp] theorem exec_meshHopr (s) : exec .meshHopr s = execMeshHopr s := rfl
@[simp] theorem exec_lqctlEnable (s) : exec .lqctlEnable s = execLqctlEnable s := rfl
@[simp] theorem exec_lqctlDisable (s) : exec .lqctlDisable s = execLqctlDisable s := rfl
@[simp] theorem exec_lqtailDoorbell (s) : exec .lqtailDoorbell s = execLqtailDoorbell s := rfl
@[simp] theorem exec_lfeRecordFetch (s) : exec .lfeRecordFetch s = execLfeRecordFetch s := rfl
@[simp] theorem exec_waitRecordSatisfied (s) : exec .waitRecordSatisfied s = execWaitRecordSatisfied s := rfl
@[simp] theorem exec_signalRecord (s) : exec .signalRecord s = execSignalRecord s := rfl
@[simp] theorem exec_launchWaitSatisfied (s) : exec .launchWaitSatisfied s = execLaunchWaitSatisfied s := rfl
@[simp] theorem exec_launchGrant (s) : exec .launchGrant s = execLaunchGrant s := rfl
@[simp] theorem exec_shadowBankLoaded (s) : exec .shadowBankLoaded s = execShadowBankLoaded s := rfl
@[simp] theorem exec_bankSwap (s) : exec .bankSwap s = execBankSwap s := rfl
@[simp] theorem exec_bankSwapDone (s) : exec .bankSwapDone s = execBankSwapDone s := rfl
@[simp] theorem exec_launchCompletion (s) : exec .launchCompletion s = execLaunchCompletion s := rfl
@[simp] theorem exec_idleNow (s) : exec .idleNow s = execIdleNow s := rfl
@[simp] theorem exec_idlectlWakeWrite (s) : exec .idlectlWakeWrite s = execIdlectlWakeWrite s := rfl
@[simp] theorem exec_idleDelayExpiry (s) : exec .idleDelayExpiry s = execIdleDelayExpiry s := rfl
@[simp] theorem exec_idleEntered (s) : exec .idleEntered s = execIdleEntered s := rfl
@[simp] theorem exec_wakeComplete (s) : exec .wakeComplete s = execWakeComplete s := rfl
@[simp] theorem exec_pasidActivate (s) : exec .pasidActivate s = execPasidActivate s := rfl
@[simp] theorem exec_pasidTeardown (s) : exec .pasidTeardown s = execPasidTeardown s := rfl
@[simp] theorem exec_pasidStatusSelect (s) : exec .pasidStatusSelect s = execPasidStatusSelect s := rfl
@[simp] theorem exec_pasidTeardownComplete (s) : exec .pasidTeardownComplete s = execPasidTeardownComplete s := rfl
@[simp] theorem exec_walkComplete (s) : exec .walkComplete s = execWalkComplete s := rfl
@[simp] theorem exec_faultRecordDeferred (s) : exec .faultRecordDeferred s = execFaultRecordDeferred s := rfl
@[simp] theorem exec_fbresolveRetry (s) : exec .fbresolveRetry s = execFbresolveRetry s := rfl
@[simp] theorem exec_fbresolvePage (s) : exec .fbresolvePage s = execFbresolvePage s := rfl
@[simp] theorem exec_fbresolveProt (s) : exec .fbresolveProt s = execFbresolveProt s := rfl
@[simp] theorem exec_iotinvalVma (s) : exec .iotinvalVma s = execIotinvalVma s := rfl
@[simp] theorem exec_iofenceC (s) : exec .iofenceC s = execIofenceC s := rfl
@[simp] theorem exec_counterEpochSweep (s) : exec .counterEpochSweep s = execCounterEpochSweep s := rfl
@[simp] theorem exec_spawnValidate (s) : exec .spawnValidate s = execSpawnValidate s := rfl
@[simp] theorem exec_regionCompletion (s) : exec .regionCompletion s = execRegionCompletion s := rfl
@[simp] theorem exec_regionFault (s) : exec .regionFault s = execRegionFault s := rfl
@[simp] theorem exec_taskDispatch (s) : exec .taskDispatch s = execTaskDispatch s := rfl
@[simp] theorem exec_continuationEligible (s) : exec .continuationEligible s = execContinuationEligible s := rfl
@[simp] theorem exec_levelPromotion (s) : exec .levelPromotion s = execLevelPromotion s := rfl
@[simp] theorem exec_grainRequest (s) : exec .grainRequest s = execGrainRequest s := rfl
@[simp] theorem exec_preemptRequest (s) : exec .preemptRequest s = execPreemptRequest s := rfl
@[simp] theorem exec_preemptResume (s) : exec .preemptResume s = execPreemptResume s := rfl
@[simp] theorem exec_leaseGrant (s) : exec .leaseGrant s = execLeaseGrant s := rfl
@[simp] theorem exec_leaseCycleLimit (s) : exec .leaseCycleLimit s = execLeaseCycleLimit s := rfl
@[simp] theorem exec_eventCycleUpdate (s) : exec .eventCycleUpdate s = execEventCycleUpdate s := rfl
@[simp] theorem exec_deferredTrap (s) : exec .deferredTrap s = execDeferredTrap s := rfl
@[simp] theorem exec_firmwareRestart (s) : exec .firmwareRestart s = execFirmwareRestart s := rfl
@[simp] theorem exec_syscallRelease (s) : exec .syscallRelease s = execSyscallRelease s := rfl
@[simp] theorem exec_lookupBankWrite (s) : exec .lookupBankWrite s = execLookupBankWrite s := rfl
@[simp] theorem exec_sampleTimer (s) : exec .sampleTimer s = execSampleTimer s := rfl
@[simp] theorem exec_quillDrain (s) : exec .quillDrain s = execQuillDrain s := rfl
@[simp] theorem exec_sealTimeout (s) : exec .sealTimeout s = execSealTimeout s := rfl
@[simp] theorem exec_replayWaitTimeout (s) : exec .replayWaitTimeout s = execReplayWaitTimeout s := rfl
@[simp] theorem exec_barwwaitTimeoutExpiry (s) : exec .barwwaitTimeoutExpiry s = execBarwwaitTimeoutExpiry s := rfl
@[simp] theorem exec_matrixPassCommit (s) : exec .matrixPassCommit s = execMatrixPassCommit s := rfl
@[simp] theorem exec_foldFinish (s) : exec .foldFinish s = execFoldFinish s := rfl
@[simp] theorem exec_foldAbandon (s) : exec .foldAbandon s = execFoldAbandon s := rfl
@[simp] theorem exec_prop (s) : exec .prop s = syllable (point (fun _ => .ok ()) [] .ok) s := rfl
@[simp] theorem exec_ckpt (s) : exec .ckpt s =
    syllable (point (fun s => need (s.issue.phase = 2 || s.ctx.cons.marks.length < 16) tCkptOvf s) [] pushMark) s := rfl
@[simp] theorem exec_commit (s) : exec .commit s = syllable commitMark s := rfl
@[simp] theorem exec_nop (s) : exec .nop s = syllable .ok s := rfl
@[simp] theorem exec_transferTakesPlace (s) : exec .transferTakesPlace s = execTransferTakesPlace s := rfl
@[simp] theorem exec_retire (s) : exec .retire s = syllable retire s := rfl
@[simp] theorem exec_eret (s) : exec .eret s = syllable eret s := rfl
@[simp] theorem exec_idle (s) : exec .idle s = syllable (fun s => .ok (s.request .idle)) s := rfl
@[simp] theorem exec_rfnext (s) : exec .rfnext s = syllable rfnext s := rfl
@[simp] theorem exec_rfend (s) : exec .rfend s = syllable rfend s := rfl
@[simp] theorem exec_ldrLanding (s) : exec .ldrLanding s = execLdrLanding s := rfl
@[simp] theorem exec_dup (s) : exec .dup s = engineWord (ewStack 1 (fun xs => xs ++ xs)) s := rfl
@[simp] theorem exec_drop (s) : exec .drop s = engineWord (ewStack 1 (fun _ => [])) s := rfl
@[simp] theorem exec_swap (s) : exec .swap s = engineWord (ewStack 2 List.reverse) s := rfl
@[simp] theorem exec_over (s) : exec .over s = engineWord (ewStack 2 (fun xs => xs ++ xs.take 1)) s := rfl
@[simp] theorem exec_rep (s) : exec .rep s = engineWord ewRep s := rfl
@[simp] theorem exec_endrep (s) : exec .endrep s = engineWord ewEndrep s := rfl
@[simp] theorem exec_engineNop (s) : exec .engineNop s = engineWord (fun s => .ok s.wordDone) s := rfl
@[simp] theorem exec_halt (s) : exec .halt s = engineWord ewHalt s := rfl
@[simp] theorem exec_classW (s) : exec .classW s = engineWord ewClass s := rfl
@[simp] theorem exec_lease (s) : exec .lease s = engineWord ewLease s := rfl
@[simp] theorem exec_free (s) : exec .free s = engineWord ewFree s := rfl
@[simp] theorem exec_mzero (s) : exec .mzero s = engineWord ewMzero s := rfl
@[simp] theorem exec_mwin (s) : exec .mwin s = engineWord ewMwin s := rfl
@[simp] theorem exec_mma (s) : exec .mma s = engineWord ewArray s := rfl
@[simp] theorem exec_mmas (s) : exec .mmas s = engineWord (fun s => ewArray s) s := rfl
@[simp] theorem exec_mmasp (s) : exec .mmasp s = engineWord (fun s => ewArray s) s := rfl
@[simp] theorem exec_mstore (s) : exec .mstore s = engineWord ewMstore s := rfl
@[simp] theorem exec_copy (s) : exec .copy s = engineWord ewCopy s := rfl
@[simp] theorem exec_copy2 (s) : exec .copy2 s = engineWord ewCopy2 s := rfl
@[simp] theorem exec_mcast (s) : exec .mcast s = engineWord ewMcast s := rfl
@[simp] theorem exec_gld (s) : exec .gld s = engineWord ewGld s := rfl
@[simp] theorem exec_decomp (s) : exec .decomp s = engineWord ewDecomp s := rfl
@[simp] theorem exec_fill (s) : exec .fill s = engineWord ewFill s := rfl
@[simp] theorem exec_barann (s) : exec .barann s = engineWord ewBarann s := rfl
@[simp] theorem exec_pcieCompletion (s) : exec .pcieCompletion s = execPcieCompletion s := rfl
@[simp] theorem exec_illegalBundle (s) : exec .illegalBundle s = syllable illegalBundle s := rfl
@[simp] theorem exec_illegalEngineWord (s) : exec .illegalEngineWord s = engineWord ewIllegal s := rfl
@[simp] theorem exec_loopbStartSkew (s) : exec .loopbStartSkew s = execLoopbStartSkew s := rfl

end Sys2Proof.Laws
end

