-- ==== Sys2Proof/Laws/Encoding.lean ====
section
/-!
SUPPORT. The fields of a syllable's bits are the fields it was made of (R253).
-/

namespace Sys2Proof.Laws

theorem class_split {m n k : Nat} (a : BitVec m) (h : BitVec n) (r : BitVec k) :
    (a ++ (h ++ r)).extractLsb' k (m + n) = a ++ h := by
  apply BitVec.eq_of_getLsbD_eq
  intro i hi
  simp only [BitVec.getLsbD_extractLsb', BitVec.getLsbD_append, hi, decide_true, Bool.true_and,
    show ¬ k + i < k by omega, if_false, show k + i - k = i by omega]
  by_cases h1 : i < n
  · rw [if_pos (by omega), if_pos h1]
  · rw [if_neg (by omega), if_neg h1]; congr 1; omega

/-- Cutting a syllable's 63 bits gives back the fields. -/
theorem ofBits_bits (r : Raw) : Raw.ofBits r.bits = some r := by
  cases r with
  | dr r =>
    obtain ⟨op, mode, dd, da, db, imm⟩ := r
    simp [Raw.bits, Raw.ofBits, @extract_low 3 60, @extract_high 3 60, @extract_low 8 52, @extract_high 8 52,
      @extract_low 2 50, @extract_high 2 50, @extract_low 6 44, @extract_high 6 44, @extract_low 6 38, @extract_high 6 38,
      @extract_low 6 32, @extract_high 6 32]
  | ct r =>
    obtain ⟨op, n, c, bt, da, db, off⟩ := r
    simp [Raw.bits, Raw.ofBits, @extract_low 3 60, @extract_high 3 60, @extract_low 8 52, @extract_high 8 52,
      @extract_low 1 51, @extract_high 1 51, @extract_low 3 48, @extract_high 3 48, @extract_low 2 46, @extract_high 2 46,
      @extract_low 6 40, @extract_high 6 40, @extract_low 6 34, @extract_high 6 34]
  | mm r =>
    obtain ⟨hi, dc, op, oclass, scope, amode, data, bd, off, ix, imm⟩ := r
    have h : hi = 0 ∨ hi = 1 := by revert hi; decide
    rcases h with rfl | rfl <;>
    simp [-BitVec.extractLsb'_toNat, Raw.bits, Raw.ofBits, @class_split 2 1 60, @extract_low 2 61, @extract_high 2 61, @extract_low 1 60, @extract_high 1 60,
      @extract_low 1 59, @extract_high 1 59, @extract_low 7 52, @extract_high 7 52, @extract_low 4 48, @extract_high 4 48,
      @extract_low 3 45, @extract_high 3 45, @extract_low 3 42, @extract_high 3 42, @extract_low 6 36, @extract_high 6 36,
      @extract_low 4 32, @extract_high 4 32, @extract_low 6 26, @extract_high 6 26, @extract_low 6 20, @extract_high 6 20]
  | vv r =>
    obtain ⟨hi, op, vd, va, vb, vc, p, func, imm⟩ := r
    have h : hi = 0 ∨ hi = 1 := by revert hi; decide
    rcases h with rfl | rfl <;>
    simp [-BitVec.extractLsb'_toNat, Raw.bits, Raw.ofBits, @class_split 2 1 60, @extract_low 2 61, @extract_high 2 61, @extract_low 1 60, @extract_high 1 60,
      @extract_low 8 52, @extract_high 8 52, @extract_low 4 48, @extract_high 4 48, @extract_low 4 44, @extract_high 4 44,
      @extract_low 4 40, @extract_high 4 40, @extract_low 4 36, @extract_high 4 36, @extract_low 3 33, @extract_high 3 33,
      @extract_low 4 29, @extract_high 4 29]
  | eq r =>
    obtain ⟨op, aux, opnd⟩ := r
    simp [Raw.bits, Raw.ofBits, @extract_low 3 60, @extract_high 3 60, @extract_low 8 52, @extract_high 8 52,
      @extract_low 8 44, @extract_high 8 44]

end Sys2Proof.Laws
end

