-- ==== Sys2Proof/Laws/Memory.lean ====
section
/-!
SUPPORT. Memory: what a byte read after a write gives, and that every operation on memory keeps its canonical form.
-/

namespace Sys2Proof.Laws

open Sys2Proof.Machine

/-! ### Cells -/

theorem read_put (m : List Host.Cell) (a b : Nat) (v : Byte) :
    Memory.read (Memory.put m a v) b = if b = a then v else Memory.read m b := by
  induction m with
  | nil => simp [Memory.put, Memory.read, eq_comm]
  | cons c rest ih =>
    obtain ⟨k, u⟩ := c
    unfold Memory.put
    split
    · subst_vars
      simp only [Memory.read]
      by_cases h : k = b
      · simp [h]
      · simp [h, Ne.symm h]
    · split
      · simp only [Memory.read, eq_comm (a := b) (b := a)]
      · simp only [Memory.read, ih]
        by_cases h : k = b
        · have : b ≠ a := by omega
          simp [h, this]
        · simp [h]

theorem wfFrom_head {lo : Option Nat} {b : Nat} {v : Byte} {rest : List Host.Cell}
    (h : Memory.wfFrom lo ((b, v) :: rest) = true) :
    (∀ l, lo = some l → l < b) ∧ v ≠ Memory.blank ∧ Memory.wfFrom (some b) rest = true := by
  cases lo <;> simp_all [Memory.wfFrom]

theorem wfFrom_cons {lo : Option Nat} {b : Nat} {v : Byte} {rest : List Host.Cell}
    (h1 : ∀ l, lo = some l → l < b) (h2 : v ≠ Memory.blank) (h3 : Memory.wfFrom (some b) rest = true) :
    Memory.wfFrom lo ((b, v) :: rest) = true := by
  cases lo <;> simp_all [Memory.wfFrom]

theorem wfFrom_lower {m : List Host.Cell} {l k : Nat} (h : Memory.wfFrom (some k) m = true) (hl : l ≤ k) :
    Memory.wfFrom (some l) m = true := by
  cases m with
  | nil => rfl
  | cons c rest =>
    obtain ⟨b, v⟩ := c
    obtain ⟨h1, h2, h3⟩ := wfFrom_head h
    exact wfFrom_cons (by intro x hx; have := h1 k rfl; cases hx; omega) h2 h3

/-- A canonical list that begins above an address reads as blank there. -/
theorem read_low {m : List Host.Cell} {a : Nat} (h : Memory.wfFrom (some a) m = true) :
    Memory.read m a = Memory.blank := by
  induction m with
  | nil => rfl
  | cons c rest ih =>
    obtain ⟨b, v⟩ := c
    obtain ⟨h1, _, h3⟩ := wfFrom_head h
    have hb := h1 a rfl
    simp only [Memory.read, show b ≠ a by omega, if_false]
    exact ih (wfFrom_lower h3 (by omega))

theorem read_drop {m : List Host.Cell} {lo : Option Nat} (a b : Nat) (hw : Memory.wfFrom lo m = true) :
    Memory.read (Memory.drop m a) b = if b = a then Memory.blank else Memory.read m b := by
  induction m generalizing lo with
  | nil => simp [Memory.drop, Memory.read]
  | cons c rest ih =>
    obtain ⟨k, u⟩ := c
    obtain ⟨_, _, h3⟩ := wfFrom_head hw
    unfold Memory.drop
    split
    · subst_vars
      split
      · subst_vars; exact read_low h3
      · simp only [Memory.read]; rw [if_neg (by omega)]
    · split
      · split
        · subst_vars
          exact read_low (wfFrom_cons (by intro l hl; cases hl; assumption) (wfFrom_head hw).2.1 h3)
        · rfl
      · simp only [Memory.read, ih h3]
        by_cases h : k = b
        · have : b ≠ a := by omega
          simp [h, this]
        · simp [h]

/-- A byte read after a byte written. -/
theorem read_write {m : List Host.Cell} (a b : Nat) (v : Byte) (hw : Memory.wf m = true) :
    Memory.read (Memory.write m a v) b = if b = a then v else Memory.read m b := by
  unfold Memory.write
  split
  · subst_vars; exact read_drop a b hw
  · exact read_put m a b v

theorem wfFrom_put {m : List Host.Cell} {lo : Option Nat} {a : Nat} {v : Byte} (hv : v ≠ Memory.blank)
    (ha : ∀ l, lo = some l → l < a) (hw : Memory.wfFrom lo m = true) :
    Memory.wfFrom lo (Memory.put m a v) = true := by
  induction m generalizing lo with
  | nil => exact wfFrom_cons ha hv rfl
  | cons c rest ih =>
    obtain ⟨k, u⟩ := c
    obtain ⟨h1, h2, h3⟩ := wfFrom_head hw
    unfold Memory.put
    split
    · subst_vars; exact wfFrom_cons ha hv h3
    · split
      · exact wfFrom_cons ha hv (wfFrom_cons (by intro l hl; cases hl; assumption) h2 h3)
      · exact wfFrom_cons h1 h2 (ih (by intro l hl; cases hl; omega) h3)

theorem wfFrom_drop {m : List Host.Cell} {lo : Option Nat} (a : Nat) (hw : Memory.wfFrom lo m = true) :
    Memory.wfFrom lo (Memory.drop m a) = true := by
  induction m generalizing lo with
  | nil => rfl
  | cons c rest ih =>
    obtain ⟨k, u⟩ := c
    obtain ⟨h1, h2, h3⟩ := wfFrom_head hw
    unfold Memory.drop
    split
    · cases lo with
      | none => cases rest with
        | nil => rfl
        | cons d r =>
          obtain ⟨h4, h5, h6⟩ := wfFrom_head h3
          exact wfFrom_cons (by intro l hl; cases hl) h5 h6
      | some l => exact wfFrom_lower h3 (by have := h1 l rfl; omega)
    · split
      · exact hw
      · exact wfFrom_cons h1 h2 (ih h3)

/-- A write keeps the canonical form. -/
theorem wf_write {m : List Host.Cell} (a : Nat) (v : Byte) (hw : Memory.wf m = true) :
    Memory.wf (Memory.write m a v) = true := by
  unfold Memory.write
  split
  · exact wfFrom_drop a hw
  · exact wfFrom_put ‹_› (by intro l hl; cases hl) hw

/-! ### Bytes of the state -/

@[simp] theorem setByte_mem (s : State) (a : Nat) (v : Byte) : (s.setByte a v).mem = Memory.write s.mem a v := rfl

theorem setByte_wf (s : State) (a : Nat) (v : Byte) (h : Memory.wf s.mem = true) :
    Memory.wf (s.setByte a v).mem = true := wf_write a v h

theorem foldl_wf {α : Type} (f : State → α → State) (hf : ∀ s x, Memory.wf s.mem = true → Memory.wf (f s x).mem = true)
    (xs : List α) (s : State) (h : Memory.wf s.mem = true) : Memory.wf (xs.foldl f s).mem = true := by
  induction xs generalizing s with
  | nil => exact h
  | cons x rest ih => exact ih _ (hf s x h)

theorem rekey_wf (s : State) (key : BitVec 8) (u : Nat) (h : Memory.wf s.mem = true) :
    Memory.wf (s.rekey key u).mem = true := by
  unfold State.rekey
  simp only
  split
  · exact h
  · exact foldl_wf _ (fun t i ht => setByte_wf t _ _ ht) _ s h

theorem setByteKey_wf (s : State) (key : BitVec 8) (a : Nat) (v : Byte) (h : Memory.wf s.mem = true) :
    Memory.wf (s.setByteKey key a v).mem = true := by
  have put (t : State) (ht : Memory.wf t.mem = true) :
      Memory.wf (if (t.setByte a v).poison = [] then t.setByte a v
        else { t.setByte a v with poison := Assoc.erase (t.setByte a v).poison a }).mem = true := by
    split <;> exact setByte_wf t a v ht
  unfold State.setByteKey
  by_cases hk : keyed a = true
  · simp only [hk, if_true]; exact put _ (rekey_wf s key _ h)
  · simp only [hk]; exact put s h

/-- A write of bytes keeps the canonical form. -/
theorem setBytesKey_wf (s : State) (key : BitVec 8) (a : Nat) (vs : List Byte) (h : Memory.wf s.mem = true) :
    Memory.wf (s.setBytesKey key a vs).mem = true := by
  induction vs generalizing s a with
  | nil => exact h
  | cons v vs ih => exact ih _ _ (setByteKey_wf s key a v h)

theorem setBytes_wf (s : State) (a : Nat) (vs : List Byte) (h : Memory.wf s.mem = true) :
    Memory.wf (s.setBytes a vs).mem = true := setBytesKey_wf s 0 a vs h

@[simp] theorem setPoison_mem (s : State) (a n : Nat) : (s.setPoison a n).mem = s.mem := rfl

/-! ### Little-endian values -/

theorem leBytes_length (n v : Nat) : (leBytes n v).length = n := by
  induction n generalizing v with
  | zero => rfl
  | succ n ih => simp [leBytes, ih]

/-- The bytes of a number stand for it. -/
theorem leNat_leBytes (n v : Nat) (h : v < 256 ^ n) : leNat (leBytes n v) = v := by
  induction n generalizing v with
  | zero => simp at h; simp [leBytes, leNat, h]
  | succ n ih =>
    have : v / 256 < 256 ^ n := by
      rw [Nat.div_lt_iff_lt_mul (by decide)]; rw [Nat.pow_succ] at h; exact h
    simp only [leBytes, leNat, ih _ this, BitVec.toNat_ofNat]
    omega

end Sys2Proof.Laws
end

