-- ==== Sys2Proof/Laws/State.lean ====
section
/-!
SUPPORT. What each small update of the state leaves as it was, field by field, and what reading gives after it.
-/

namespace Sys2Proof.Laws

open Sys2Proof.Machine

/-! ### Fields that an update leaves -/

@[simp] theorem setCore_cycle (s : State) (k : Nat) (c : Core) : (s.setCore k c).cycle = s.cycle := rfl
@[simp] theorem setCore_ptime (s : State) (k : Nat) (c : Core) : (s.setCore k c).ptime = s.ptime := rfl
@[simp] theorem setCore_fresh (s : State) (k : Nat) (c : Core) : (s.setCore k c).fresh = s.fresh := rfl
@[simp] theorem setCore_cur (s : State) (k : Nat) (c : Core) : (s.setCore k c).cur = s.cur := rfl
@[simp] theorem setCore_sched (s : State) (k : Nat) (c : Core) : (s.setCore k c).sched = s.sched := rfl
@[simp] theorem setCore_inp (s : State) (k : Nat) (c : Core) : (s.setCore k c).inp = s.inp := rfl
@[simp] theorem setCore_issue (s : State) (k : Nat) (c : Core) : (s.setCore k c).issue = s.issue := rfl
@[simp] theorem setCore_word (s : State) (k : Nat) (c : Core) : (s.setCore k c).word = s.word := rfl
@[simp] theorem setCore_lookups (s : State) (k : Nat) (c : Core) : (s.setCore k c).lookups = s.lookups := rfl
@[simp] theorem setCore_tiles (s : State) (k : Nat) (c : Core) : (s.setCore k c).tiles = s.tiles := rfl
@[simp] theorem setCore_regions (s : State) (k : Nat) (c : Core) : (s.setCore k c).regions = s.regions := rfl
@[simp] theorem setCore_lives (s : State) (k : Nat) (c : Core) : (s.setCore k c).lives = s.lives := rfl
@[simp] theorem setCore_dist (s : State) (k : Nat) (c : Core) : (s.setCore k c).dist = s.dist := rfl
@[simp] theorem setCore_lfe (s : State) (k : Nat) (c : Core) : (s.setCore k c).lfe = s.lfe := rfl
@[simp] theorem setCore_mmu (s : State) (k : Nat) (c : Core) : (s.setCore k c).mmu = s.mmu := rfl
@[simp] theorem setCore_mesh (s : State) (k : Nat) (c : Core) : (s.setCore k c).mesh = s.mesh := rfl
@[simp] theorem setCore_links (s : State) (k : Nat) (c : Core) : (s.setCore k c).links = s.links := rfl
@[simp] theorem setCore_boot (s : State) (k : Nat) (c : Core) : (s.setCore k c).boot = s.boot := rfl
@[simp] theorem setCore_fences (s : State) (k : Nat) (c : Core) : (s.setCore k c).fences = s.fences := rfl
@[simp] theorem setCore_mgmt (s : State) (k : Nat) (c : Core) : (s.setCore k c).mgmt = s.mgmt := rfl
@[simp] theorem setCore_security (s : State) (k : Nat) (c : Core) : (s.setCore k c).security = s.security := rfl
@[simp] theorem setCore_folds (s : State) (k : Nat) (c : Core) : (s.setCore k c).folds = s.folds := rfl
@[simp] theorem setCore_unitKey (s : State) (k : Nat) (c : Core) : (s.setCore k c).unitKey = s.unitKey := rfl
@[simp] theorem setCore_poison (s : State) (k : Nat) (c : Core) : (s.setCore k c).poison = s.poison := rfl
@[simp] theorem setCore_mem (s : State) (k : Nat) (c : Core) : (s.setCore k c).mem = s.mem := rfl
@[simp] theorem modCore_cycle (s : State) (k : Nat) (f : Core → Core) : (s.modCore k f).cycle = s.cycle := rfl
@[simp] theorem modCore_ptime (s : State) (k : Nat) (f : Core → Core) : (s.modCore k f).ptime = s.ptime := rfl
@[simp] theorem modCore_fresh (s : State) (k : Nat) (f : Core → Core) : (s.modCore k f).fresh = s.fresh := rfl
@[simp] theorem modCore_cur (s : State) (k : Nat) (f : Core → Core) : (s.modCore k f).cur = s.cur := rfl
@[simp] theorem modCore_sched (s : State) (k : Nat) (f : Core → Core) : (s.modCore k f).sched = s.sched := rfl
@[simp] theorem modCore_inp (s : State) (k : Nat) (f : Core → Core) : (s.modCore k f).inp = s.inp := rfl
@[simp] theorem modCore_issue (s : State) (k : Nat) (f : Core → Core) : (s.modCore k f).issue = s.issue := rfl
@[simp] theorem modCore_word (s : State) (k : Nat) (f : Core → Core) : (s.modCore k f).word = s.word := rfl
@[simp] theorem modCore_lookups (s : State) (k : Nat) (f : Core → Core) : (s.modCore k f).lookups = s.lookups := rfl
@[simp] theorem modCore_tiles (s : State) (k : Nat) (f : Core → Core) : (s.modCore k f).tiles = s.tiles := rfl
@[simp] theorem modCore_regions (s : State) (k : Nat) (f : Core → Core) : (s.modCore k f).regions = s.regions := rfl
@[simp] theorem modCore_lives (s : State) (k : Nat) (f : Core → Core) : (s.modCore k f).lives = s.lives := rfl
@[simp] theorem modCore_dist (s : State) (k : Nat) (f : Core → Core) : (s.modCore k f).dist = s.dist := rfl
@[simp] theorem modCore_lfe (s : State) (k : Nat) (f : Core → Core) : (s.modCore k f).lfe = s.lfe := rfl
@[simp] theorem modCore_mmu (s : State) (k : Nat) (f : Core → Core) : (s.modCore k f).mmu = s.mmu := rfl
@[simp] theorem modCore_mesh (s : State) (k : Nat) (f : Core → Core) : (s.modCore k f).mesh = s.mesh := rfl
@[simp] theorem modCore_links (s : State) (k : Nat) (f : Core → Core) : (s.modCore k f).links = s.links := rfl
@[simp] theorem modCore_boot (s : State) (k : Nat) (f : Core → Core) : (s.modCore k f).boot = s.boot := rfl
@[simp] theorem modCore_fences (s : State) (k : Nat) (f : Core → Core) : (s.modCore k f).fences = s.fences := rfl
@[simp] theorem modCore_mgmt (s : State) (k : Nat) (f : Core → Core) : (s.modCore k f).mgmt = s.mgmt := rfl
@[simp] theorem modCore_security (s : State) (k : Nat) (f : Core → Core) : (s.modCore k f).security = s.security := rfl
@[simp] theorem modCore_folds (s : State) (k : Nat) (f : Core → Core) : (s.modCore k f).folds = s.folds := rfl
@[simp] theorem modCore_unitKey (s : State) (k : Nat) (f : Core → Core) : (s.modCore k f).unitKey = s.unitKey := rfl
@[simp] theorem modCore_poison (s : State) (k : Nat) (f : Core → Core) : (s.modCore k f).poison = s.poison := rfl
@[simp] theorem modCore_mem (s : State) (k : Nat) (f : Core → Core) : (s.modCore k f).mem = s.mem := rfl
@[simp] theorem setLookup_cycle (s : State) (n : Nat) (l : Lookup) : (s.setLookup n l).cycle = s.cycle := rfl
@[simp] theorem setLookup_ptime (s : State) (n : Nat) (l : Lookup) : (s.setLookup n l).ptime = s.ptime := rfl
@[simp] theorem setLookup_fresh (s : State) (n : Nat) (l : Lookup) : (s.setLookup n l).fresh = s.fresh := rfl
@[simp] theorem setLookup_cur (s : State) (n : Nat) (l : Lookup) : (s.setLookup n l).cur = s.cur := rfl
@[simp] theorem setLookup_sched (s : State) (n : Nat) (l : Lookup) : (s.setLookup n l).sched = s.sched := rfl
@[simp] theorem setLookup_inp (s : State) (n : Nat) (l : Lookup) : (s.setLookup n l).inp = s.inp := rfl
@[simp] theorem setLookup_issue (s : State) (n : Nat) (l : Lookup) : (s.setLookup n l).issue = s.issue := rfl
@[simp] theorem setLookup_word (s : State) (n : Nat) (l : Lookup) : (s.setLookup n l).word = s.word := rfl
@[simp] theorem setLookup_cores (s : State) (n : Nat) (l : Lookup) : (s.setLookup n l).cores = s.cores := rfl
@[simp] theorem setLookup_tiles (s : State) (n : Nat) (l : Lookup) : (s.setLookup n l).tiles = s.tiles := rfl
@[simp] theorem setLookup_regions (s : State) (n : Nat) (l : Lookup) : (s.setLookup n l).regions = s.regions := rfl
@[simp] theorem setLookup_lives (s : State) (n : Nat) (l : Lookup) : (s.setLookup n l).lives = s.lives := rfl
@[simp] theorem setLookup_dist (s : State) (n : Nat) (l : Lookup) : (s.setLookup n l).dist = s.dist := rfl
@[simp] theorem setLookup_lfe (s : State) (n : Nat) (l : Lookup) : (s.setLookup n l).lfe = s.lfe := rfl
@[simp] theorem setLookup_mmu (s : State) (n : Nat) (l : Lookup) : (s.setLookup n l).mmu = s.mmu := rfl
@[simp] theorem setLookup_mesh (s : State) (n : Nat) (l : Lookup) : (s.setLookup n l).mesh = s.mesh := rfl
@[simp] theorem setLookup_links (s : State) (n : Nat) (l : Lookup) : (s.setLookup n l).links = s.links := rfl
@[simp] theorem setLookup_boot (s : State) (n : Nat) (l : Lookup) : (s.setLookup n l).boot = s.boot := rfl
@[simp] theorem setLookup_fences (s : State) (n : Nat) (l : Lookup) : (s.setLookup n l).fences = s.fences := rfl
@[simp] theorem setLookup_mgmt (s : State) (n : Nat) (l : Lookup) : (s.setLookup n l).mgmt = s.mgmt := rfl
@[simp] theorem setLookup_security (s : State) (n : Nat) (l : Lookup) : (s.setLookup n l).security = s.security := rfl
@[simp] theorem setLookup_folds (s : State) (n : Nat) (l : Lookup) : (s.setLookup n l).folds = s.folds := rfl
@[simp] theorem setLookup_unitKey (s : State) (n : Nat) (l : Lookup) : (s.setLookup n l).unitKey = s.unitKey := rfl
@[simp] theorem setLookup_poison (s : State) (n : Nat) (l : Lookup) : (s.setLookup n l).poison = s.poison := rfl
@[simp] theorem setLookup_mem (s : State) (n : Nat) (l : Lookup) : (s.setLookup n l).mem = s.mem := rfl
@[simp] theorem setTile_cycle (s : State) (t : Nat) (x : TileState) : (s.setTile t x).cycle = s.cycle := rfl
@[simp] theorem setTile_ptime (s : State) (t : Nat) (x : TileState) : (s.setTile t x).ptime = s.ptime := rfl
@[simp] theorem setTile_fresh (s : State) (t : Nat) (x : TileState) : (s.setTile t x).fresh = s.fresh := rfl
@[simp] theorem setTile_cur (s : State) (t : Nat) (x : TileState) : (s.setTile t x).cur = s.cur := rfl
@[simp] theorem setTile_sched (s : State) (t : Nat) (x : TileState) : (s.setTile t x).sched = s.sched := rfl
@[simp] theorem setTile_inp (s : State) (t : Nat) (x : TileState) : (s.setTile t x).inp = s.inp := rfl
@[simp] theorem setTile_issue (s : State) (t : Nat) (x : TileState) : (s.setTile t x).issue = s.issue := rfl
@[simp] theorem setTile_word (s : State) (t : Nat) (x : TileState) : (s.setTile t x).word = s.word := rfl
@[simp] theorem setTile_cores (s : State) (t : Nat) (x : TileState) : (s.setTile t x).cores = s.cores := rfl
@[simp] theorem setTile_lookups (s : State) (t : Nat) (x : TileState) : (s.setTile t x).lookups = s.lookups := rfl
@[simp] theorem setTile_regions (s : State) (t : Nat) (x : TileState) : (s.setTile t x).regions = s.regions := rfl
@[simp] theorem setTile_lives (s : State) (t : Nat) (x : TileState) : (s.setTile t x).lives = s.lives := rfl
@[simp] theorem setTile_dist (s : State) (t : Nat) (x : TileState) : (s.setTile t x).dist = s.dist := rfl
@[simp] theorem setTile_lfe (s : State) (t : Nat) (x : TileState) : (s.setTile t x).lfe = s.lfe := rfl
@[simp] theorem setTile_mmu (s : State) (t : Nat) (x : TileState) : (s.setTile t x).mmu = s.mmu := rfl
@[simp] theorem setTile_mesh (s : State) (t : Nat) (x : TileState) : (s.setTile t x).mesh = s.mesh := rfl
@[simp] theorem setTile_links (s : State) (t : Nat) (x : TileState) : (s.setTile t x).links = s.links := rfl
@[simp] theorem setTile_boot (s : State) (t : Nat) (x : TileState) : (s.setTile t x).boot = s.boot := rfl
@[simp] theorem setTile_fences (s : State) (t : Nat) (x : TileState) : (s.setTile t x).fences = s.fences := rfl
@[simp] theorem setTile_mgmt (s : State) (t : Nat) (x : TileState) : (s.setTile t x).mgmt = s.mgmt := rfl
@[simp] theorem setTile_security (s : State) (t : Nat) (x : TileState) : (s.setTile t x).security = s.security := rfl
@[simp] theorem setTile_folds (s : State) (t : Nat) (x : TileState) : (s.setTile t x).folds = s.folds := rfl
@[simp] theorem setTile_unitKey (s : State) (t : Nat) (x : TileState) : (s.setTile t x).unitKey = s.unitKey := rfl
@[simp] theorem setTile_poison (s : State) (t : Nat) (x : TileState) : (s.setTile t x).poison = s.poison := rfl
@[simp] theorem setTile_mem (s : State) (t : Nat) (x : TileState) : (s.setTile t x).mem = s.mem := rfl
@[simp] theorem modTile_cycle (s : State) (t : Nat) (f : TileState → TileState) : (s.modTile t f).cycle = s.cycle := rfl
@[simp] theorem modTile_ptime (s : State) (t : Nat) (f : TileState → TileState) : (s.modTile t f).ptime = s.ptime := rfl
@[simp] theorem modTile_fresh (s : State) (t : Nat) (f : TileState → TileState) : (s.modTile t f).fresh = s.fresh := rfl
@[simp] theorem modTile_cur (s : State) (t : Nat) (f : TileState → TileState) : (s.modTile t f).cur = s.cur := rfl
@[simp] theorem modTile_sched (s : State) (t : Nat) (f : TileState → TileState) : (s.modTile t f).sched = s.sched := rfl
@[simp] theorem modTile_inp (s : State) (t : Nat) (f : TileState → TileState) : (s.modTile t f).inp = s.inp := rfl
@[simp] theorem modTile_issue (s : State) (t : Nat) (f : TileState → TileState) : (s.modTile t f).issue = s.issue := rfl
@[simp] theorem modTile_word (s : State) (t : Nat) (f : TileState → TileState) : (s.modTile t f).word = s.word := rfl
@[simp] theorem modTile_cores (s : State) (t : Nat) (f : TileState → TileState) : (s.modTile t f).cores = s.cores := rfl
@[simp] theorem modTile_lookups (s : State) (t : Nat) (f : TileState → TileState) : (s.modTile t f).lookups = s.lookups := rfl
@[simp] theorem modTile_regions (s : State) (t : Nat) (f : TileState → TileState) : (s.modTile t f).regions = s.regions := rfl
@[simp] theorem modTile_lives (s : State) (t : Nat) (f : TileState → TileState) : (s.modTile t f).lives = s.lives := rfl
@[simp] theorem modTile_dist (s : State) (t : Nat) (f : TileState → TileState) : (s.modTile t f).dist = s.dist := rfl
@[simp] theorem modTile_lfe (s : State) (t : Nat) (f : TileState → TileState) : (s.modTile t f).lfe = s.lfe := rfl
@[simp] theorem modTile_mmu (s : State) (t : Nat) (f : TileState → TileState) : (s.modTile t f).mmu = s.mmu := rfl
@[simp] theorem modTile_mesh (s : State) (t : Nat) (f : TileState → TileState) : (s.modTile t f).mesh = s.mesh := rfl
@[simp] theorem modTile_links (s : State) (t : Nat) (f : TileState → TileState) : (s.modTile t f).links = s.links := rfl
@[simp] theorem modTile_boot (s : State) (t : Nat) (f : TileState → TileState) : (s.modTile t f).boot = s.boot := rfl
@[simp] theorem modTile_fences (s : State) (t : Nat) (f : TileState → TileState) : (s.modTile t f).fences = s.fences := rfl
@[simp] theorem modTile_mgmt (s : State) (t : Nat) (f : TileState → TileState) : (s.modTile t f).mgmt = s.mgmt := rfl
@[simp] theorem modTile_security (s : State) (t : Nat) (f : TileState → TileState) : (s.modTile t f).security = s.security := rfl
@[simp] theorem modTile_folds (s : State) (t : Nat) (f : TileState → TileState) : (s.modTile t f).folds = s.folds := rfl
@[simp] theorem modTile_unitKey (s : State) (t : Nat) (f : TileState → TileState) : (s.modTile t f).unitKey = s.unitKey := rfl
@[simp] theorem modTile_poison (s : State) (t : Nat) (f : TileState → TileState) : (s.modTile t f).poison = s.poison := rfl
@[simp] theorem modTile_mem (s : State) (t : Nat) (f : TileState → TileState) : (s.modTile t f).mem = s.mem := rfl
@[simp] theorem setEngine_cycle (s : State) (k : Nat) (c : Bool) (e : Engine) : (s.setEngine k c e).cycle = s.cycle := rfl
@[simp] theorem setEngine_ptime (s : State) (k : Nat) (c : Bool) (e : Engine) : (s.setEngine k c e).ptime = s.ptime := rfl
@[simp] theorem setEngine_fresh (s : State) (k : Nat) (c : Bool) (e : Engine) : (s.setEngine k c e).fresh = s.fresh := rfl
@[simp] theorem setEngine_cur (s : State) (k : Nat) (c : Bool) (e : Engine) : (s.setEngine k c e).cur = s.cur := rfl
@[simp] theorem setEngine_sched (s : State) (k : Nat) (c : Bool) (e : Engine) : (s.setEngine k c e).sched = s.sched := rfl
@[simp] theorem setEngine_inp (s : State) (k : Nat) (c : Bool) (e : Engine) : (s.setEngine k c e).inp = s.inp := rfl
@[simp] theorem setEngine_issue (s : State) (k : Nat) (c : Bool) (e : Engine) : (s.setEngine k c e).issue = s.issue := rfl
@[simp] theorem setEngine_word (s : State) (k : Nat) (c : Bool) (e : Engine) : (s.setEngine k c e).word = s.word := rfl
@[simp] theorem setEngine_lookups (s : State) (k : Nat) (c : Bool) (e : Engine) : (s.setEngine k c e).lookups = s.lookups := rfl
@[simp] theorem setEngine_tiles (s : State) (k : Nat) (c : Bool) (e : Engine) : (s.setEngine k c e).tiles = s.tiles := rfl
@[simp] theorem setEngine_regions (s : State) (k : Nat) (c : Bool) (e : Engine) : (s.setEngine k c e).regions = s.regions := rfl
@[simp] theorem setEngine_lives (s : State) (k : Nat) (c : Bool) (e : Engine) : (s.setEngine k c e).lives = s.lives := rfl
@[simp] theorem setEngine_dist (s : State) (k : Nat) (c : Bool) (e : Engine) : (s.setEngine k c e).dist = s.dist := rfl
@[simp] theorem setEngine_lfe (s : State) (k : Nat) (c : Bool) (e : Engine) : (s.setEngine k c e).lfe = s.lfe := rfl
@[simp] theorem setEngine_mmu (s : State) (k : Nat) (c : Bool) (e : Engine) : (s.setEngine k c e).mmu = s.mmu := rfl
@[simp] theorem setEngine_mesh (s : State) (k : Nat) (c : Bool) (e : Engine) : (s.setEngine k c e).mesh = s.mesh := rfl
@[simp] theorem setEngine_links (s : State) (k : Nat) (c : Bool) (e : Engine) : (s.setEngine k c e).links = s.links := rfl
@[simp] theorem setEngine_boot (s : State) (k : Nat) (c : Bool) (e : Engine) : (s.setEngine k c e).boot = s.boot := rfl
@[simp] theorem setEngine_fences (s : State) (k : Nat) (c : Bool) (e : Engine) : (s.setEngine k c e).fences = s.fences := rfl
@[simp] theorem setEngine_mgmt (s : State) (k : Nat) (c : Bool) (e : Engine) : (s.setEngine k c e).mgmt = s.mgmt := rfl
@[simp] theorem setEngine_security (s : State) (k : Nat) (c : Bool) (e : Engine) : (s.setEngine k c e).security = s.security := rfl
@[simp] theorem setEngine_folds (s : State) (k : Nat) (c : Bool) (e : Engine) : (s.setEngine k c e).folds = s.folds := rfl
@[simp] theorem setEngine_unitKey (s : State) (k : Nat) (c : Bool) (e : Engine) : (s.setEngine k c e).unitKey = s.unitKey := rfl
@[simp] theorem setEngine_poison (s : State) (k : Nat) (c : Bool) (e : Engine) : (s.setEngine k c e).poison = s.poison := rfl
@[simp] theorem setEngine_mem (s : State) (k : Nat) (c : Bool) (e : Engine) : (s.setEngine k c e).mem = s.mem := rfl
@[simp] theorem setCtxOf_cycle (s : State) (a : Agent) (c : Ctx) : (s.setCtxOf a c).cycle = s.cycle := by cases a <;> rfl
@[simp] theorem setCtxOf_ptime (s : State) (a : Agent) (c : Ctx) : (s.setCtxOf a c).ptime = s.ptime := by cases a <;> rfl
@[simp] theorem setCtxOf_fresh (s : State) (a : Agent) (c : Ctx) : (s.setCtxOf a c).fresh = s.fresh := by cases a <;> rfl
@[simp] theorem setCtxOf_cur (s : State) (a : Agent) (c : Ctx) : (s.setCtxOf a c).cur = s.cur := by cases a <;> rfl
@[simp] theorem setCtxOf_sched (s : State) (a : Agent) (c : Ctx) : (s.setCtxOf a c).sched = s.sched := by cases a <;> rfl
@[simp] theorem setCtxOf_inp (s : State) (a : Agent) (c : Ctx) : (s.setCtxOf a c).inp = s.inp := by cases a <;> rfl
@[simp] theorem setCtxOf_issue (s : State) (a : Agent) (c : Ctx) : (s.setCtxOf a c).issue = s.issue := by cases a <;> rfl
@[simp] theorem setCtxOf_word (s : State) (a : Agent) (c : Ctx) : (s.setCtxOf a c).word = s.word := by cases a <;> rfl
@[simp] theorem setCtxOf_tiles (s : State) (a : Agent) (c : Ctx) : (s.setCtxOf a c).tiles = s.tiles := by cases a <;> rfl
@[simp] theorem setCtxOf_regions (s : State) (a : Agent) (c : Ctx) : (s.setCtxOf a c).regions = s.regions := by cases a <;> rfl
@[simp] theorem setCtxOf_lives (s : State) (a : Agent) (c : Ctx) : (s.setCtxOf a c).lives = s.lives := by cases a <;> rfl
@[simp] theorem setCtxOf_dist (s : State) (a : Agent) (c : Ctx) : (s.setCtxOf a c).dist = s.dist := by cases a <;> rfl
@[simp] theorem setCtxOf_lfe (s : State) (a : Agent) (c : Ctx) : (s.setCtxOf a c).lfe = s.lfe := by cases a <;> rfl
@[simp] theorem setCtxOf_mmu (s : State) (a : Agent) (c : Ctx) : (s.setCtxOf a c).mmu = s.mmu := by cases a <;> rfl
@[simp] theorem setCtxOf_mesh (s : State) (a : Agent) (c : Ctx) : (s.setCtxOf a c).mesh = s.mesh := by cases a <;> rfl
@[simp] theorem setCtxOf_links (s : State) (a : Agent) (c : Ctx) : (s.setCtxOf a c).links = s.links := by cases a <;> rfl
@[simp] theorem setCtxOf_boot (s : State) (a : Agent) (c : Ctx) : (s.setCtxOf a c).boot = s.boot := by cases a <;> rfl
@[simp] theorem setCtxOf_fences (s : State) (a : Agent) (c : Ctx) : (s.setCtxOf a c).fences = s.fences := by cases a <;> rfl
@[simp] theorem setCtxOf_mgmt (s : State) (a : Agent) (c : Ctx) : (s.setCtxOf a c).mgmt = s.mgmt := by cases a <;> rfl
@[simp] theorem setCtxOf_security (s : State) (a : Agent) (c : Ctx) : (s.setCtxOf a c).security = s.security := by cases a <;> rfl
@[simp] theorem setCtxOf_folds (s : State) (a : Agent) (c : Ctx) : (s.setCtxOf a c).folds = s.folds := by cases a <;> rfl
@[simp] theorem setCtxOf_unitKey (s : State) (a : Agent) (c : Ctx) : (s.setCtxOf a c).unitKey = s.unitKey := by cases a <;> rfl
@[simp] theorem setCtxOf_poison (s : State) (a : Agent) (c : Ctx) : (s.setCtxOf a c).poison = s.poison := by cases a <;> rfl
@[simp] theorem setCtxOf_mem (s : State) (a : Agent) (c : Ctx) : (s.setCtxOf a c).mem = s.mem := by cases a <;> rfl
@[simp] theorem modCtxOf_cycle (s : State) (a : Agent) (f : Ctx → Ctx) : (s.modCtxOf a f).cycle = s.cycle := by cases a <;> rfl
@[simp] theorem modCtxOf_ptime (s : State) (a : Agent) (f : Ctx → Ctx) : (s.modCtxOf a f).ptime = s.ptime := by cases a <;> rfl
@[simp] theorem modCtxOf_fresh (s : State) (a : Agent) (f : Ctx → Ctx) : (s.modCtxOf a f).fresh = s.fresh := by cases a <;> rfl
@[simp] theorem modCtxOf_cur (s : State) (a : Agent) (f : Ctx → Ctx) : (s.modCtxOf a f).cur = s.cur := by cases a <;> rfl
@[simp] theorem modCtxOf_sched (s : State) (a : Agent) (f : Ctx → Ctx) : (s.modCtxOf a f).sched = s.sched := by cases a <;> rfl
@[simp] theorem modCtxOf_inp (s : State) (a : Agent) (f : Ctx → Ctx) : (s.modCtxOf a f).inp = s.inp := by cases a <;> rfl
@[simp] theorem modCtxOf_issue (s : State) (a : Agent) (f : Ctx → Ctx) : (s.modCtxOf a f).issue = s.issue := by cases a <;> rfl
@[simp] theorem modCtxOf_word (s : State) (a : Agent) (f : Ctx → Ctx) : (s.modCtxOf a f).word = s.word := by cases a <;> rfl
@[simp] theorem modCtxOf_tiles (s : State) (a : Agent) (f : Ctx → Ctx) : (s.modCtxOf a f).tiles = s.tiles := by cases a <;> rfl
@[simp] theorem modCtxOf_regions (s : State) (a : Agent) (f : Ctx → Ctx) : (s.modCtxOf a f).regions = s.regions := by cases a <;> rfl
@[simp] theorem modCtxOf_lives (s : State) (a : Agent) (f : Ctx → Ctx) : (s.modCtxOf a f).lives = s.lives := by cases a <;> rfl
@[simp] theorem modCtxOf_dist (s : State) (a : Agent) (f : Ctx → Ctx) : (s.modCtxOf a f).dist = s.dist := by cases a <;> rfl
@[simp] theorem modCtxOf_lfe (s : State) (a : Agent) (f : Ctx → Ctx) : (s.modCtxOf a f).lfe = s.lfe := by cases a <;> rfl
@[simp] theorem modCtxOf_mmu (s : State) (a : Agent) (f : Ctx → Ctx) : (s.modCtxOf a f).mmu = s.mmu := by cases a <;> rfl
@[simp] theorem modCtxOf_mesh (s : State) (a : Agent) (f : Ctx → Ctx) : (s.modCtxOf a f).mesh = s.mesh := by cases a <;> rfl
@[simp] theorem modCtxOf_links (s : State) (a : Agent) (f : Ctx → Ctx) : (s.modCtxOf a f).links = s.links := by cases a <;> rfl
@[simp] theorem modCtxOf_boot (s : State) (a : Agent) (f : Ctx → Ctx) : (s.modCtxOf a f).boot = s.boot := by cases a <;> rfl
@[simp] theorem modCtxOf_fences (s : State) (a : Agent) (f : Ctx → Ctx) : (s.modCtxOf a f).fences = s.fences := by cases a <;> rfl
@[simp] theorem modCtxOf_mgmt (s : State) (a : Agent) (f : Ctx → Ctx) : (s.modCtxOf a f).mgmt = s.mgmt := by cases a <;> rfl
@[simp] theorem modCtxOf_security (s : State) (a : Agent) (f : Ctx → Ctx) : (s.modCtxOf a f).security = s.security := by cases a <;> rfl
@[simp] theorem modCtxOf_folds (s : State) (a : Agent) (f : Ctx → Ctx) : (s.modCtxOf a f).folds = s.folds := by cases a <;> rfl
@[simp] theorem modCtxOf_unitKey (s : State) (a : Agent) (f : Ctx → Ctx) : (s.modCtxOf a f).unitKey = s.unitKey := by cases a <;> rfl
@[simp] theorem modCtxOf_poison (s : State) (a : Agent) (f : Ctx → Ctx) : (s.modCtxOf a f).poison = s.poison := by cases a <;> rfl
@[simp] theorem modCtxOf_mem (s : State) (a : Agent) (f : Ctx → Ctx) : (s.modCtxOf a f).mem = s.mem := by cases a <;> rfl
@[simp] theorem setCtx_cycle (s : State) (c : Ctx) : (s.setCtx c).cycle = s.cycle := setCtxOf_cycle s s.cur c
@[simp] theorem setCtx_ptime (s : State) (c : Ctx) : (s.setCtx c).ptime = s.ptime := setCtxOf_ptime s s.cur c
@[simp] theorem setCtx_fresh (s : State) (c : Ctx) : (s.setCtx c).fresh = s.fresh := setCtxOf_fresh s s.cur c
@[simp] theorem setCtx_cur (s : State) (c : Ctx) : (s.setCtx c).cur = s.cur := setCtxOf_cur s s.cur c
@[simp] theorem setCtx_sched (s : State) (c : Ctx) : (s.setCtx c).sched = s.sched := setCtxOf_sched s s.cur c
@[simp] theorem setCtx_inp (s : State) (c : Ctx) : (s.setCtx c).inp = s.inp := setCtxOf_inp s s.cur c
@[simp] theorem setCtx_issue (s : State) (c : Ctx) : (s.setCtx c).issue = s.issue := setCtxOf_issue s s.cur c
@[simp] theorem setCtx_word (s : State) (c : Ctx) : (s.setCtx c).word = s.word := setCtxOf_word s s.cur c
@[simp] theorem setCtx_tiles (s : State) (c : Ctx) : (s.setCtx c).tiles = s.tiles := setCtxOf_tiles s s.cur c
@[simp] theorem setCtx_regions (s : State) (c : Ctx) : (s.setCtx c).regions = s.regions := setCtxOf_regions s s.cur c
@[simp] theorem setCtx_lives (s : State) (c : Ctx) : (s.setCtx c).lives = s.lives := setCtxOf_lives s s.cur c
@[simp] theorem setCtx_dist (s : State) (c : Ctx) : (s.setCtx c).dist = s.dist := setCtxOf_dist s s.cur c
@[simp] theorem setCtx_lfe (s : State) (c : Ctx) : (s.setCtx c).lfe = s.lfe := setCtxOf_lfe s s.cur c
@[simp] theorem setCtx_mmu (s : State) (c : Ctx) : (s.setCtx c).mmu = s.mmu := setCtxOf_mmu s s.cur c
@[simp] theorem setCtx_mesh (s : State) (c : Ctx) : (s.setCtx c).mesh = s.mesh := setCtxOf_mesh s s.cur c
@[simp] theorem setCtx_links (s : State) (c : Ctx) : (s.setCtx c).links = s.links := setCtxOf_links s s.cur c
@[simp] theorem setCtx_boot (s : State) (c : Ctx) : (s.setCtx c).boot = s.boot := setCtxOf_boot s s.cur c
@[simp] theorem setCtx_fences (s : State) (c : Ctx) : (s.setCtx c).fences = s.fences := setCtxOf_fences s s.cur c
@[simp] theorem setCtx_mgmt (s : State) (c : Ctx) : (s.setCtx c).mgmt = s.mgmt := setCtxOf_mgmt s s.cur c
@[simp] theorem setCtx_security (s : State) (c : Ctx) : (s.setCtx c).security = s.security := setCtxOf_security s s.cur c
@[simp] theorem setCtx_folds (s : State) (c : Ctx) : (s.setCtx c).folds = s.folds := setCtxOf_folds s s.cur c
@[simp] theorem setCtx_unitKey (s : State) (c : Ctx) : (s.setCtx c).unitKey = s.unitKey := setCtxOf_unitKey s s.cur c
@[simp] theorem setCtx_poison (s : State) (c : Ctx) : (s.setCtx c).poison = s.poison := setCtxOf_poison s s.cur c
@[simp] theorem setCtx_mem (s : State) (c : Ctx) : (s.setCtx c).mem = s.mem := setCtxOf_mem s s.cur c
@[simp] theorem modCtx_cycle (s : State) (f : Ctx → Ctx) : (s.modCtx f).cycle = s.cycle := setCtxOf_cycle s s.cur (f s.ctx)
@[simp] theorem modCtx_ptime (s : State) (f : Ctx → Ctx) : (s.modCtx f).ptime = s.ptime := setCtxOf_ptime s s.cur (f s.ctx)
@[simp] theorem modCtx_fresh (s : State) (f : Ctx → Ctx) : (s.modCtx f).fresh = s.fresh := setCtxOf_fresh s s.cur (f s.ctx)
@[simp] theorem modCtx_cur (s : State) (f : Ctx → Ctx) : (s.modCtx f).cur = s.cur := setCtxOf_cur s s.cur (f s.ctx)
@[simp] theorem modCtx_sched (s : State) (f : Ctx → Ctx) : (s.modCtx f).sched = s.sched := setCtxOf_sched s s.cur (f s.ctx)
@[simp] theorem modCtx_inp (s : State) (f : Ctx → Ctx) : (s.modCtx f).inp = s.inp := setCtxOf_inp s s.cur (f s.ctx)
@[simp] theorem modCtx_issue (s : State) (f : Ctx → Ctx) : (s.modCtx f).issue = s.issue := setCtxOf_issue s s.cur (f s.ctx)
@[simp] theorem modCtx_word (s : State) (f : Ctx → Ctx) : (s.modCtx f).word = s.word := setCtxOf_word s s.cur (f s.ctx)
@[simp] theorem modCtx_tiles (s : State) (f : Ctx → Ctx) : (s.modCtx f).tiles = s.tiles := setCtxOf_tiles s s.cur (f s.ctx)
@[simp] theorem modCtx_regions (s : State) (f : Ctx → Ctx) : (s.modCtx f).regions = s.regions := setCtxOf_regions s s.cur (f s.ctx)
@[simp] theorem modCtx_lives (s : State) (f : Ctx → Ctx) : (s.modCtx f).lives = s.lives := setCtxOf_lives s s.cur (f s.ctx)
@[simp] theorem modCtx_dist (s : State) (f : Ctx → Ctx) : (s.modCtx f).dist = s.dist := setCtxOf_dist s s.cur (f s.ctx)
@[simp] theorem modCtx_lfe (s : State) (f : Ctx → Ctx) : (s.modCtx f).lfe = s.lfe := setCtxOf_lfe s s.cur (f s.ctx)
@[simp] theorem modCtx_mmu (s : State) (f : Ctx → Ctx) : (s.modCtx f).mmu = s.mmu := setCtxOf_mmu s s.cur (f s.ctx)
@[simp] theorem modCtx_mesh (s : State) (f : Ctx → Ctx) : (s.modCtx f).mesh = s.mesh := setCtxOf_mesh s s.cur (f s.ctx)
@[simp] theorem modCtx_links (s : State) (f : Ctx → Ctx) : (s.modCtx f).links = s.links := setCtxOf_links s s.cur (f s.ctx)
@[simp] theorem modCtx_boot (s : State) (f : Ctx → Ctx) : (s.modCtx f).boot = s.boot := setCtxOf_boot s s.cur (f s.ctx)
@[simp] theorem modCtx_fences (s : State) (f : Ctx → Ctx) : (s.modCtx f).fences = s.fences := setCtxOf_fences s s.cur (f s.ctx)
@[simp] theorem modCtx_mgmt (s : State) (f : Ctx → Ctx) : (s.modCtx f).mgmt = s.mgmt := setCtxOf_mgmt s s.cur (f s.ctx)
@[simp] theorem modCtx_security (s : State) (f : Ctx → Ctx) : (s.modCtx f).security = s.security := setCtxOf_security s s.cur (f s.ctx)
@[simp] theorem modCtx_folds (s : State) (f : Ctx → Ctx) : (s.modCtx f).folds = s.folds := setCtxOf_folds s s.cur (f s.ctx)
@[simp] theorem modCtx_unitKey (s : State) (f : Ctx → Ctx) : (s.modCtx f).unitKey = s.unitKey := setCtxOf_unitKey s s.cur (f s.ctx)
@[simp] theorem modCtx_poison (s : State) (f : Ctx → Ctx) : (s.modCtx f).poison = s.poison := setCtxOf_poison s s.cur (f s.ctx)
@[simp] theorem modCtx_mem (s : State) (f : Ctx → Ctx) : (s.modCtx f).mem = s.mem := setCtxOf_mem s s.cur (f s.ctx)
@[simp] theorem write_cycle (s : State) (lat : Nat) (w : Write) : (s.write lat w).cycle = s.cycle := modCtx_cycle s _
@[simp] theorem write_ptime (s : State) (lat : Nat) (w : Write) : (s.write lat w).ptime = s.ptime := modCtx_ptime s _
@[simp] theorem write_fresh (s : State) (lat : Nat) (w : Write) : (s.write lat w).fresh = s.fresh := modCtx_fresh s _
@[simp] theorem write_cur (s : State) (lat : Nat) (w : Write) : (s.write lat w).cur = s.cur := modCtx_cur s _
@[simp] theorem write_sched (s : State) (lat : Nat) (w : Write) : (s.write lat w).sched = s.sched := modCtx_sched s _
@[simp] theorem write_inp (s : State) (lat : Nat) (w : Write) : (s.write lat w).inp = s.inp := modCtx_inp s _
@[simp] theorem write_issue (s : State) (lat : Nat) (w : Write) : (s.write lat w).issue = s.issue := modCtx_issue s _
@[simp] theorem write_word (s : State) (lat : Nat) (w : Write) : (s.write lat w).word = s.word := modCtx_word s _
@[simp] theorem write_tiles (s : State) (lat : Nat) (w : Write) : (s.write lat w).tiles = s.tiles := modCtx_tiles s _
@[simp] theorem write_regions (s : State) (lat : Nat) (w : Write) : (s.write lat w).regions = s.regions := modCtx_regions s _
@[simp] theorem write_lives (s : State) (lat : Nat) (w : Write) : (s.write lat w).lives = s.lives := modCtx_lives s _
@[simp] theorem write_dist (s : State) (lat : Nat) (w : Write) : (s.write lat w).dist = s.dist := modCtx_dist s _
@[simp] theorem write_lfe (s : State) (lat : Nat) (w : Write) : (s.write lat w).lfe = s.lfe := modCtx_lfe s _
@[simp] theorem write_mmu (s : State) (lat : Nat) (w : Write) : (s.write lat w).mmu = s.mmu := modCtx_mmu s _
@[simp] theorem write_mesh (s : State) (lat : Nat) (w : Write) : (s.write lat w).mesh = s.mesh := modCtx_mesh s _
@[simp] theorem write_links (s : State) (lat : Nat) (w : Write) : (s.write lat w).links = s.links := modCtx_links s _
@[simp] theorem write_boot (s : State) (lat : Nat) (w : Write) : (s.write lat w).boot = s.boot := modCtx_boot s _
@[simp] theorem write_fences (s : State) (lat : Nat) (w : Write) : (s.write lat w).fences = s.fences := modCtx_fences s _
@[simp] theorem write_mgmt (s : State) (lat : Nat) (w : Write) : (s.write lat w).mgmt = s.mgmt := modCtx_mgmt s _
@[simp] theorem write_security (s : State) (lat : Nat) (w : Write) : (s.write lat w).security = s.security := modCtx_security s _
@[simp] theorem write_folds (s : State) (lat : Nat) (w : Write) : (s.write lat w).folds = s.folds := modCtx_folds s _
@[simp] theorem write_unitKey (s : State) (lat : Nat) (w : Write) : (s.write lat w).unitKey = s.unitKey := modCtx_unitKey s _
@[simp] theorem write_poison (s : State) (lat : Nat) (w : Write) : (s.write lat w).poison = s.poison := modCtx_poison s _
@[simp] theorem write_mem (s : State) (lat : Nat) (w : Write) : (s.write lat w).mem = s.mem := modCtx_mem s _
@[simp] theorem setLife_cycle (s : State) (r : BitVec 12) (l : RegionLife) : (s.setLife r l).cycle = s.cycle := rfl
@[simp] theorem setLife_ptime (s : State) (r : BitVec 12) (l : RegionLife) : (s.setLife r l).ptime = s.ptime := rfl
@[simp] theorem setLife_fresh (s : State) (r : BitVec 12) (l : RegionLife) : (s.setLife r l).fresh = s.fresh := rfl
@[simp] theorem setLife_cur (s : State) (r : BitVec 12) (l : RegionLife) : (s.setLife r l).cur = s.cur := rfl
@[simp] theorem setLife_sched (s : State) (r : BitVec 12) (l : RegionLife) : (s.setLife r l).sched = s.sched := rfl
@[simp] theorem setLife_inp (s : State) (r : BitVec 12) (l : RegionLife) : (s.setLife r l).inp = s.inp := rfl
@[simp] theorem setLife_issue (s : State) (r : BitVec 12) (l : RegionLife) : (s.setLife r l).issue = s.issue := rfl
@[simp] theorem setLife_word (s : State) (r : BitVec 12) (l : RegionLife) : (s.setLife r l).word = s.word := rfl
@[simp] theorem setLife_cores (s : State) (r : BitVec 12) (l : RegionLife) : (s.setLife r l).cores = s.cores := rfl
@[simp] theorem setLife_lookups (s : State) (r : BitVec 12) (l : RegionLife) : (s.setLife r l).lookups = s.lookups := rfl
@[simp] theorem setLife_tiles (s : State) (r : BitVec 12) (l : RegionLife) : (s.setLife r l).tiles = s.tiles := rfl
@[simp] theorem setLife_regions (s : State) (r : BitVec 12) (l : RegionLife) : (s.setLife r l).regions = s.regions := rfl
@[simp] theorem setLife_dist (s : State) (r : BitVec 12) (l : RegionLife) : (s.setLife r l).dist = s.dist := rfl
@[simp] theorem setLife_lfe (s : State) (r : BitVec 12) (l : RegionLife) : (s.setLife r l).lfe = s.lfe := rfl
@[simp] theorem setLife_mmu (s : State) (r : BitVec 12) (l : RegionLife) : (s.setLife r l).mmu = s.mmu := rfl
@[simp] theorem setLife_mesh (s : State) (r : BitVec 12) (l : RegionLife) : (s.setLife r l).mesh = s.mesh := rfl
@[simp] theorem setLife_links (s : State) (r : BitVec 12) (l : RegionLife) : (s.setLife r l).links = s.links := rfl
@[simp] theorem setLife_boot (s : State) (r : BitVec 12) (l : RegionLife) : (s.setLife r l).boot = s.boot := rfl
@[simp] theorem setLife_fences (s : State) (r : BitVec 12) (l : RegionLife) : (s.setLife r l).fences = s.fences := rfl
@[simp] theorem setLife_mgmt (s : State) (r : BitVec 12) (l : RegionLife) : (s.setLife r l).mgmt = s.mgmt := rfl
@[simp] theorem setLife_security (s : State) (r : BitVec 12) (l : RegionLife) : (s.setLife r l).security = s.security := rfl
@[simp] theorem setLife_folds (s : State) (r : BitVec 12) (l : RegionLife) : (s.setLife r l).folds = s.folds := rfl
@[simp] theorem setLife_unitKey (s : State) (r : BitVec 12) (l : RegionLife) : (s.setLife r l).unitKey = s.unitKey := rfl
@[simp] theorem setLife_poison (s : State) (r : BitVec 12) (l : RegionLife) : (s.setLife r l).poison = s.poison := rfl
@[simp] theorem setLife_mem (s : State) (r : BitVec 12) (l : RegionLife) : (s.setLife r l).mem = s.mem := rfl
@[simp] theorem push_cycle (s : State) (i : Instr) (inp : Input) : (s.push i inp).cycle = s.cycle := rfl
@[simp] theorem push_ptime (s : State) (i : Instr) (inp : Input) : (s.push i inp).ptime = s.ptime := rfl
@[simp] theorem push_fresh (s : State) (i : Instr) (inp : Input) : (s.push i inp).fresh = s.fresh := rfl
@[simp] theorem push_cur (s : State) (i : Instr) (inp : Input) : (s.push i inp).cur = s.cur := rfl
@[simp] theorem push_inp (s : State) (i : Instr) (inp : Input) : (s.push i inp).inp = s.inp := rfl
@[simp] theorem push_issue (s : State) (i : Instr) (inp : Input) : (s.push i inp).issue = s.issue := rfl
@[simp] theorem push_word (s : State) (i : Instr) (inp : Input) : (s.push i inp).word = s.word := rfl
@[simp] theorem push_cores (s : State) (i : Instr) (inp : Input) : (s.push i inp).cores = s.cores := rfl
@[simp] theorem push_lookups (s : State) (i : Instr) (inp : Input) : (s.push i inp).lookups = s.lookups := rfl
@[simp] theorem push_tiles (s : State) (i : Instr) (inp : Input) : (s.push i inp).tiles = s.tiles := rfl
@[simp] theorem push_regions (s : State) (i : Instr) (inp : Input) : (s.push i inp).regions = s.regions := rfl
@[simp] theorem push_lives (s : State) (i : Instr) (inp : Input) : (s.push i inp).lives = s.lives := rfl
@[simp] theorem push_dist (s : State) (i : Instr) (inp : Input) : (s.push i inp).dist = s.dist := rfl
@[simp] theorem push_lfe (s : State) (i : Instr) (inp : Input) : (s.push i inp).lfe = s.lfe := rfl
@[simp] theorem push_mmu (s : State) (i : Instr) (inp : Input) : (s.push i inp).mmu = s.mmu := rfl
@[simp] theorem push_mesh (s : State) (i : Instr) (inp : Input) : (s.push i inp).mesh = s.mesh := rfl
@[simp] theorem push_links (s : State) (i : Instr) (inp : Input) : (s.push i inp).links = s.links := rfl
@[simp] theorem push_boot (s : State) (i : Instr) (inp : Input) : (s.push i inp).boot = s.boot := rfl
@[simp] theorem push_fences (s : State) (i : Instr) (inp : Input) : (s.push i inp).fences = s.fences := rfl
@[simp] theorem push_mgmt (s : State) (i : Instr) (inp : Input) : (s.push i inp).mgmt = s.mgmt := rfl
@[simp] theorem push_security (s : State) (i : Instr) (inp : Input) : (s.push i inp).security = s.security := rfl
@[simp] theorem push_folds (s : State) (i : Instr) (inp : Input) : (s.push i inp).folds = s.folds := rfl
@[simp] theorem push_unitKey (s : State) (i : Instr) (inp : Input) : (s.push i inp).unitKey = s.unitKey := rfl
@[simp] theorem push_poison (s : State) (i : Instr) (inp : Input) : (s.push i inp).poison = s.poison := rfl
@[simp] theorem push_mem (s : State) (i : Instr) (inp : Input) : (s.push i inp).mem = s.mem := rfl

/-! ### Reading after an update -/

@[simp] theorem setCore_core (s : State) (k : Nat) (c : Core) (j : Nat) :
    (s.setCore k c).core j = if j = k then c else s.core j := Assoc.get_set _ _ _ _ _
@[simp] theorem modCore_core (s : State) (k : Nat) (f : Core → Core) (j : Nat) :
    (s.modCore k f).core j = if j = k then f (s.core k) else s.core j := Assoc.get_set _ _ _ _ _
@[simp] theorem setLookup_lookup (s : State) (n : Nat) (l : Lookup) (j : Nat) :
    (s.setLookup n l).lookup j = if j = n then l else s.lookup j := Assoc.get_set _ _ _ _ _
@[simp] theorem setTile_tile (s : State) (t : Nat) (x : TileState) (j : Nat) :
    (s.setTile t x).tile j = if j = t then x else s.tile j := Assoc.get_set _ _ _ _ _
@[simp] theorem setLookup_core (s : State) (n : Nat) (l : Lookup) (j : Nat) : (s.setLookup n l).core j = s.core j := rfl
@[simp] theorem setCore_lookup (s : State) (k : Nat) (c : Core) (j : Nat) : (s.setCore k c).lookup j = s.lookup j := rfl

/-- An agent's context after it has been replaced. -/
@[simp] theorem setCtxOf_ctxOf (s : State) (a : Agent) (c : Ctx) : (s.setCtxOf a c).ctxOf a = c := by
  cases a <;> simp [State.setCtxOf, State.ctxOf]
@[simp] theorem modCtxOf_ctxOf (s : State) (a : Agent) (f : Ctx → Ctx) : (s.modCtxOf a f).ctxOf a = f (s.ctxOf a) := by
  simp [State.modCtxOf]
@[simp] theorem setCtx_ctx (s : State) (c : Ctx) : (s.setCtx c).ctx = c := by
  unfold State.ctx State.setCtx; rw [setCtxOf_cur]; simp
@[simp] theorem modCtx_ctx (s : State) (f : Ctx → Ctx) : (s.modCtx f).ctx = f s.ctx := setCtx_ctx s _
@[simp] theorem write_ctx (s : State) (lat : Nat) (w : Write) :
    (s.write lat w).ctx =
      { s.ctx with pend := insertPend ⟨lat, false, s.issue.slot, s.ctx.count, w⟩ s.ctx.pend } := modCtx_ctx s _

/-- The context in progress depends on who is in progress, the cores and the lookup cores alone. -/
theorem ctx_congr (s t : State) (h1 : s.cur = t.cur) (h2 : s.cores = t.cores) (h3 : s.lookups = t.lookups) :
    s.ctx = t.ctx := by
  unfold State.ctx State.ctxOf State.core State.lookup; rw [h1, h2, h3]

/-- With no snapshot a syllable reads the context as it stands. -/
theorem src_of_alone (s : State) (h : s.issue.snap = none) : s.src = s.ctx := by
  unfold State.src; rw [h]; rfl

/-- With a snapshot it reads that. -/
theorem src_of_snap (s : State) (c : Ctx) (h : s.issue.snap = some c) : s.src = c := by
  unfold State.src; rw [h]; rfl

/-! ### Registers -/

@[simp] theorem dom_zero (r : Regs) : r.dom 0 = Dom.single 0 := rfl
@[simp] theorem pred_zero (r : Regs) : r.pred 0 = BitVec.allOnes 1024 := rfl

/-- A domain register after a result has landed: D0 discards it. -/
theorem dom_write (r : Regs) (k j : DReg) (x : Dom) :
    (r.write (.d k x)).dom j = if j = k ∧ k ≠ 0 then x else r.dom j := by
  unfold Regs.write Regs.dom
  dsimp only
  by_cases hk : k = 0
  · rw [if_pos hk, if_neg (c := j = k ∧ k ≠ 0) (fun h => h.2 hk)]
  · rw [if_neg hk]
    by_cases hj : j = 0
    · rw [if_pos hj, if_neg (c := j = k ∧ k ≠ 0) (fun h => hk (h.1 ▸ hj)), if_pos hj]
    · rw [if_neg hj, if_neg hj, Assoc.get_set]
      by_cases h : j = k
      · rw [if_pos (congrArg BitVec.toNat h), if_pos ⟨h, hk⟩]
      · rw [if_neg (fun e => h (BitVec.eq_of_toNat_eq e)), if_neg (fun e => h e.1)]

theorem vec_write (r : Regs) (k j : VReg) (x : VTile) :
    (r.write (.v k x)).vec j = if j = k then x else r.vec j := by
  unfold Regs.write Regs.vec
  rw [Assoc.get_set]; simp [BitVec.toNat_inj]

theorem pred_write (r : Regs) (k j : PReg) (x : BitVec 1024) :
    (r.write (.p k x)).pred j = if j = k ∧ k ≠ 0 then x else r.pred j := by
  unfold Regs.write Regs.pred
  dsimp only
  by_cases hk : k = 0
  · rw [if_pos hk, if_neg (c := j = k ∧ k ≠ 0) (fun h => h.2 hk)]
  · rw [if_neg hk]
    by_cases hj : j = 0
    · rw [if_pos hj, if_neg (c := j = k ∧ k ≠ 0) (fun h => hk (h.1 ▸ hj)), if_pos hj]
    · rw [if_neg hj, if_neg hj, Assoc.get_set]
      by_cases h : j = k
      · rw [if_pos (congrArg BitVec.toNat h), if_pos ⟨h, hk⟩]
      · rw [if_neg (fun e => h (BitVec.eq_of_toNat_eq e)), if_neg (fun e => h e.1)]

theorem target_write (r : Regs) (k j : BReg) (x : Addr) :
    (r.write (.b k x)).target j = if j = k then x else r.target j := by
  unfold Regs.write Regs.target
  rw [Assoc.get_set]; simp [BitVec.toNat_inj]

theorem one_bit (k j : CReg) : (1#8 <<< k.toNat).getLsbD j.toNat = decide (j = k) := by
  revert k j; decide

theorem cond_write (r : Regs) (k j : CReg) (x : Bool) :
    (r.write (.c k x)).cond j = if j = k then x else r.cond j := by
  have hj : j.toNat < 8 := j.isLt
  unfold Regs.write Regs.cond
  dsimp only
  cases x
  · simp only [Bool.false_eq_true, if_false, BitVec.getLsbD_and, BitVec.getLsbD_not, one_bit, hj, decide_true]
    by_cases h : j = k <;> simp [h]
  · simp only [if_true, BitVec.getLsbD_or, one_bit]
    by_cases h : j = k <;> simp [h]

end Sys2Proof.Laws
end

