-- ==== Sys2Proof/Laws/Ops.lean ====
section
/-!
SUPPORT. What the shared operations can do: a syllable's three ends, the commit of its bundle, the boundary, the landing
of results, and the entry into a trap.
-/

namespace Sys2Proof.Laws

open Sys2Proof.Machine Sys2Proof.Safety

/-! ### Effects -/

@[simp] theorem need_true (c : Byte) (s : State) : need true c s = .ok () := rfl
@[simp] theorem need_false (c : Byte) (s : State) : need false c s = .error (.trap { code := c } s) := rfl
@[simp] theorem waitFor_true (t : State) : waitFor true t = .ok () := rfl
@[simp] theorem waitFor_false (t : State) : waitFor false t = .error (.stall t) := rfl
@[simp] theorem eff_ok_bind {α β : Type} (a : α) (f : α → Eff β) : ((Except.ok a : Eff α) >>= f) = f a := rfl
@[simp] theorem eff_pure_bind {α β : Type} (a : α) (f : α → Eff β) : ((pure a : Eff α) >>= f) = f a := rfl
@[simp] theorem eff_error_bind {α β : Type} (h : Halt) (f : α → Eff β) : ((Except.error h : Eff α) >>= f) = .error h := rfl
@[simp] theorem eff_pure {α : Type} (a : α) : (pure a : Eff α) = .ok a := rfl

/-- A singleton source register gives its value. -/
theorem single_ok (s : State) (r : DReg) (h : (s.src.regs.dom r).isSingle = true) :
    single s r = .ok (s.src.regs.dom r).lo := by
  simp [single, h]

/-- A wider source register raises UNRESOLVED. -/
theorem single_not (s : State) (r : DReg) (h : (s.src.regs.dom r).isSingle = false) :
    single s r = .error (.trap { code := tUnresolved } s) := by
  simp [single, h, raise]

/-! ### The ends of a syllable -/

theorem commit_room (s0 s : State) (h : Room s) : s0.commit s = s.boundary (stepping s0) := by
  unfold State.commit stepping; rw [h]; rfl

/-- A syllable alone in its bundle that runs commits. -/
theorem syllable_completes {body : State → Eff State} {s u : State} (ha : Alone s) (hb : body s = .ok u) (hr : Room u) :
    syllable body s = .next (u.boundary (stepping s)) := by
  unfold syllable; rw [ha.1, hb]; simp [commit_room s u hr]

/-- A syllable alone in its bundle that raises a trap takes it. -/
theorem syllable_traps {body : State → Eff State} {s u : State} {t : TrapReq} (ha : Alone s)
    (hb : body s = .error (.trap t u)) : syllable body s = .next (u.takeTrap t) := by
  unfold syllable; rw [ha.1, hb]; rfl

/-- A syllable alone in its bundle that an interlock holds. -/
theorem syllable_waits {body : State → Eff State} {s u : State} (ha : Alone s)
    (hb : body s = .error (.stall u)) : syllable body s = .next { u with issue := {} } := by
  unfold syllable; rw [ha.1, hb]; rfl

/-- A syllable alone in its bundle that a page fault holds. -/
theorem syllable_faults {body : State → Eff State} {s u : State} (ha : Alone s)
    (hb : body s = .error (.fault u)) : syllable body s = .next { u with issue := {} } := by
  unfold syllable; rw [ha.1, hb]; rfl

/-- A syllable of a larger bundle that runs leaves the state it made. -/
theorem syllable_inner {body : State → Eff State} {s u : State} (ha : s.issue.inner = true) (hb : body s = .ok u) :
    syllable body s = .next u := by
  unfold syllable; rw [ha, hb]; rfl

/-- A syllable always answers a next state. -/
theorem syllable_next (body : State → Eff State) (s : State) : ∃ t, syllable body s = .next t := by
  unfold syllable
  split <;> split <;> exact ⟨_, rfl⟩

/-! ### Results in flight -/

theorem insertPend_mem {p q : Pend} {l : List Pend} : q ∈ insertPend p l ↔ q = p ∨ q ∈ l := by
  induction l with
  | nil => simp [insertPend]
  | cons x rest ih =>
    unfold insertPend
    split
    · simp
    · simp [ih]; tauto

/-- A result of the bundle in progress goes behind those of earlier bundles. -/
theorem insertPend_last {p : Pend} {l : List Pend} (h : ∀ q ∈ l, q.count < p.count) : insertPend p l = l ++ [p] := by
  induction l with
  | nil => rfl
  | cons x rest ih =>
    have hx := h x (by simp)
    have hb : p.before x = false := by
      simp only [Pend.before]
      rw [Bool.or_eq_false_iff, Bool.and_eq_false_iff]
      constructor
      · simp; omega
      · left; simp; omega
    unfold insertPend
    simp only [hb, Bool.false_eq_true, if_false]
    rw [ih (fun q hq => h q (by simp [hq]))]; rfl

theorem land_regs (c : Ctx) (p : Pend) : (c.land p).regs = c.regs.write p.wr := rfl

theorem foldl_land_append (c : Ctx) (l : List Pend) (p : Pend) :
    ((l ++ [p]).foldl Ctx.land c) = (l.foldl Ctx.land c).land p := by
  simp [List.foldl_append]

/-- The registers after results have landed are the registers with each written in turn. -/
theorem foldl_land_regs (l : List Pend) (c : Ctx) :
    (l.foldl Ctx.land c).regs = l.foldl (fun r p => r.write p.wr) c.regs := by
  induction l generalizing c with
  | nil => rfl
  | cons p rest ih => simp only [List.foldl_cons]; rw [ih]; rfl

/-! ### The end of a bundle -/

theorem SpecialKept.refl' (c : Ctx) : SpecialKept c c := by simp [SpecialKept]
theorem specialKept_trans {a b c : Ctx} (h : SpecialKept a b) (h' : SpecialKept b c) : SpecialKept a c := by
  simp only [SpecialKept] at *; simp_all

/-- Landing changes the registers, the results in flight and the `LDR`s only. -/
theorem foldl_land_keeps (l : List Pend) (d : Ctx) :
    (l.foldl Ctx.land d).pc = d.pc ∧ (l.foldl Ctx.land d).count = d.count ∧ SpecialKept d (l.foldl Ctx.land d)
      ∧ (l.foldl Ctx.land d).deferred = d.deferred ∧ (l.foldl Ctx.land d).waits = d.waits
      ∧ (l.foldl Ctx.land d).running = d.running ∧ (l.foldl Ctx.land d).status = d.status
      ∧ (l.foldl Ctx.land d).window = d.window ∧ (l.foldl Ctx.land d).taken = d.taken
      ∧ (l.foldl Ctx.land d).due = d.due ∧ (l.foldl Ctx.land d).trapAt = d.trapAt := by
  induction l generalizing d with
  | nil => simp [SpecialKept]
  | cons p r ih =>
    obtain ⟨h1, h2, h3, h4⟩ := ih (d.land p)
    exact ⟨h1, h2, by simpa [SpecialKept, Ctx.land] using h3, h4⟩

/-- Landing leaves in flight only what was. -/
theorem foldl_land_pend (l : List Pend) (d : Ctx) : ∀ q ∈ (l.foldl Ctx.land d).pend, q ∈ d.pend := by
  induction l generalizing d with
  | nil => exact fun q h => h
  | cons p r ih =>
    intro q h
    have := ih _ q h
    simp only [Ctx.land, List.mem_filter] at this
    exact this.1

theorem age_keeps (c : Ctx) :
    c.age.pc = c.pc ∧ c.age.count = c.count + 1 ∧ SpecialKept c c.age ∧ c.age.deferred = c.deferred
      ∧ c.age.waits = c.waits ∧ c.age.running = c.running ∧ c.age.status = c.status ∧ c.age.window = c.window
      ∧ c.age.taken = c.taken ∧ c.age.due = c.due ∧ c.age.trapAt = c.trapAt :=
  foldl_land_keeps _ _

/-- After a bundle the registers hold what was due. -/
theorem age_regs (c : Ctx) : c.age.regs = regsNext c := by
  unfold Ctx.age
  simp only
  rw [foldl_land_regs]
  unfold regsNext dueNow
  simp only
  generalize c.regs = r
  induction c.pend generalizing r with
  | nil => rfl
  | cons p l ih =>
    cases hf : p.frozen
    · by_cases hd : p.dist ≤ 1
      · have : p.dist - 1 = 0 := by omega
        simp [List.filter_cons, hf, this, hd, ih]
      · have : p.dist - 1 ≠ 0 := by omega
        simp [List.filter_cons, hf, this, hd, ih]
    · simp [List.filter_cons, hf, ih]

/-- What is in flight after a bundle was in flight before it, one bundle further away. -/
theorem age_pend (c : Ctx) : ∀ q ∈ c.age.pend, ∃ p ∈ c.pend, (p.frozen = true ∧ q = p) ∨
    (p.frozen = false ∧ 2 ≤ p.dist ∧ q = { p with dist := p.dist - 1 }) := by
  intro q hq
  have := foldl_land_pend _ _ q hq
  simp only [List.mem_filter, List.mem_map] at this
  obtain ⟨⟨p, hp, rfl⟩, h2⟩ := this
  refine ⟨p, hp, ?_⟩
  cases hf : p.frozen
  · right; simp [hf] at h2 ⊢; omega
  · left; simp [hf]

/-- Where nothing is due, every result in flight stays so. -/
theorem age_quiet (c : Ctx) (h : ∀ p ∈ c.pend, p.frozen = true ∨ 2 ≤ p.dist) :
    c.age.pend = c.pend.map (fun p => if p.frozen then p else { p with dist := p.dist - 1 }) := by
  have hq (q : Pend) (hq : q ∈ c.pend.map (fun p => if p.frozen then p else { p with dist := p.dist - 1 })) :
      q.frozen = true ∨ q.dist ≠ 0 := by
    simp only [List.mem_map] at hq
    obtain ⟨p, hp, rfl⟩ := hq
    rcases h p hp with h1 | h1
    · simp [h1]
    · cases hf : p.frozen
      · right; simp; omega
      · simp [hf]
  have hdue : List.filter (fun p : Pend => !p.frozen && p.dist == 0)
      (c.pend.map (fun p => if p.frozen then p else { p with dist := p.dist - 1 })) = [] := by
    rw [List.filter_eq_nil_iff]; intro q hq'
    rcases hq q hq' with h1 | h1 <;> simp [h1]
  unfold Ctx.age
  simp only [hdue, List.foldl_nil]
  rw [List.filter_eq_self]
  intro q hq'
  rcases hq q hq' with h1 | h1 <;> simp [h1]

theorem passWindow_keeps (c : Ctx) :
    c.passWindow.pc = c.pc ∧ c.passWindow.count = c.count ∧ SpecialKept c c.passWindow
      ∧ c.passWindow.deferred = c.deferred ∧ c.passWindow.regs = c.regs ∧ c.passWindow.pend = c.pend
      ∧ c.passWindow.running = c.running ∧ c.passWindow.waits = c.waits := by
  unfold Ctx.passWindow
  split
  · simp [SpecialKept]
  · simp only; split <;> simp [SpecialKept]

theorem setCtx_with (s : State) (c : Ctx) (i : Issue) :
    ({ s with issue := i } : State).setCtx c = { s.setCtx c with issue := i } := by
  obtain ⟨_, _, _, cur, _, _, _, _, _, _, _, _, _, _, _, _, _, _, _, _, _, _, _, _, _, _⟩ := s
  cases cur <;> rfl

@[simp] theorem ctx_with (s : State) (i : Issue) : ({ s with issue := i } : State).ctx = s.ctx := rfl

/-- The context after a bundle that asks nothing of its boundary. -/
def endCtx (step : Bool) (len : Nat) (c : Ctx) : Ctx :=
  let d := c.age.passWindow
  let d := { d with pc := d.pc + BitVec.ofNat 48 (8 * len), dbg := { d.dbg with suppress := false } }
  if step then { d with deferred := insertDeferred ⟨2, { code := tDebug, dbg := 1 }, []⟩ d.deferred } else d

/-- The boundary of such a bundle, in one equation. -/
theorem boundary_plain (u : State) (step : Bool) (h : Plain u) :
    u.boundary step = { u.setCtx (endCtx step u.issue.len u.ctx) with issue := {} } := by
  unfold State.boundary
  obtain ⟨h1, h2⟩ := h
  simp only [h1, h2, State.afterBundle, State.modCtx, Bool.false_and, Bool.false_eq_true, if_false, ctx_with, setCtx_with]
  rfl

theorem endCtx_keeps (step : Bool) (len : Nat) (c : Ctx) :
    SpecialKept c (endCtx step len c) ∧ (endCtx step len c).pc = c.pc + BitVec.ofNat 48 (8 * len)
      ∧ (endCtx step len c).count = c.count + 1 ∧ (endCtx step len c).regs = regsNext c
      ∧ (endCtx step len c).pend = c.age.pend ∧ (endCtx step len c).running = c.running
      ∧ (endCtx step len c).waits = c.waits := by
  obtain ⟨a1, a2, a3, -, a5, a6, -⟩ := age_keeps c
  obtain ⟨b1, b2, b3, -, b5, b6, b7, b8⟩ := passWindow_keeps c.age
  have h := specialKept_trans a3 b3
  cases step <;> exact ⟨by simpa [endCtx, SpecialKept] using h, by simp [endCtx, b1, a1], by simp [endCtx, b2, a2],
    by simp [endCtx, b5, age_regs], by simp [endCtx, b6], by simp [endCtx, b7, a6], by simp [endCtx, b8, a5]⟩

/-- A result sent by the bundle in progress lands last. -/
theorem regsNext_write (s : State) (w : Write) (h : Older s.ctx) :
    regsNext (s.write 1 w).ctx = (regsNext s.ctx).write w := by
  have : (s.write 1 w).ctx.pend = s.ctx.pend ++ [⟨1, false, s.issue.slot, s.ctx.count, w⟩] := by
    simp [State.write, State.modCtx, insertPend_last (p := ⟨1, false, s.issue.slot, s.ctx.count, w⟩) h]
  unfold regsNext dueNow
  rw [this]
  have hr : (s.write 1 w).ctx.regs = s.ctx.regs := by simp [State.write, State.modCtx]
  simp [hr, List.filter_append, List.foldl_append, List.filter_cons]

/-- A longer result does not land yet. -/
theorem regsNext_write_later (s : State) (lat : Nat) (w : Write) (hl : 2 ≤ lat) (h : Older s.ctx) :
    regsNext (s.write lat w).ctx = regsNext s.ctx := by
  have : (s.write lat w).ctx.pend = s.ctx.pend ++ [⟨lat, false, s.issue.slot, s.ctx.count, w⟩] := by
    simp [State.write, State.modCtx, insertPend_last (p := ⟨lat, false, s.issue.slot, s.ctx.count, w⟩) h]
  unfold regsNext dueNow
  rw [this]
  have hr : (s.write lat w).ctx.regs = s.ctx.regs := by simp [State.write, State.modCtx]
  have : ¬ lat ≤ 1 := by omega
  simp [hr, List.filter_append, List.filter_cons, this]

/-! ### Traps -/

/-- Outside record and replay a trap other than DEBUG is taken as it arose. -/
theorem replayTrap_off (s : State) (q : TrapReq) (h : s.ctx.dbg.replayctl.extractLsb' 62 2 = 0) (hq : q.code ≠ tDebug) :
    ({ s with issue := {} } : State).loggedTrap q = .ok (q, { s with issue := {} }) := by
  have hm : ({ s with issue := {} } : State).replayMode = 0 := by unfold State.replayMode State.src; simp [h]
  have hr : ({ s with issue := {} } : State).replayTrap q = .ok (q, { s with issue := {} }) := by
    unfold State.replayTrap State.record
    simp [hq, hm]
  unfold State.loggedTrap
  rw [hr]

/-- A vectored trap in one equation (R316). -/
theorem takeTrap_vectored (s : State) (q : TrapReq) (hf : s.trapFatal q = false)
    (h : s.ctx.dbg.replayctl.extractLsb' 62 2 = 0) (hq : q.code ≠ tDebug) :
    s.takeTrap q = { s.setCtx (s.ctx.enterTrap q) with issue := {} } := by
  have h1 : ({ s with issue := {} } : State).trapFatal q = false := hf
  unfold State.takeTrap
  rw [replayTrap_off s q h hq]
  simp only [State.enter]
  simp only [h1, hq, if_false, Bool.false_eq_true, State.modCtx, ctx_with, setCtx_with]

/-- A fatal trap in one equation (R315). -/
theorem takeTrap_fatal (s : State) (q : TrapReq) (hf : s.trapFatal q = true)
    (h : s.ctx.dbg.replayctl.extractLsb' 62 2 = 0) (hq : q.code ≠ tDebug) :
    s.takeTrap q = ({ s with issue := {} } : State).fatalTrap q := by
  have h1 : ({ s with issue := {} } : State).trapFatal q = true := hf
  unfold State.takeTrap
  rw [replayTrap_off s q h hq]
  simp only [State.enter]
  simp only [h1, if_true]

end Sys2Proof.Laws
end

