-- ==== Sys2Proof/Laws/PerInstr.lean ====
section
/-!
SUPPORT. Per instruction: the fields that encode a well-formed syllable are read back as that instruction (R253 to R267).
-/

namespace Sys2Proof.Laws

set_option Elab.async false
set_option linter.unusedSimpArgs false
set_option linter.unnecessarySeqFocus false

theorem sysreg_code (r : SysReg) : SysReg.ofCode r.code = some r := by
  cases r with
  | bkpt n => revert n; decide
  | _ => rfl

/-- The fields that encode a well-formed instruction decode to it. -/
def SyllableFields.Statement (i : Instr) : Prop := i.wf = true → ∀ r, encodeRaw i = some r → decodeRaw r = some i

theorem SyllableFields.add : ∀ dd da db, SyllableFields.Statement (.add dd da db) := by
  intro dd da db _ r h; cases h; rfl
theorem SyllableFields.addI : ∀ dd da imm, SyllableFields.Statement (.addI dd da imm) := by
  intro dd da imm _ r h; cases h; rfl
theorem SyllableFields.addR : ∀ dd da db, SyllableFields.Statement (.addR dd da db) := by
  intro dd da db _ r h; cases h; rfl
theorem SyllableFields.addRk : ∀ dd da db, SyllableFields.Statement (.addRk dd da db) := by
  intro dd da db _ r h; cases h; rfl
theorem SyllableFields.addIR : ∀ dd da imm, SyllableFields.Statement (.addIR dd da imm) := by
  intro dd da imm _ r h; cases h; rfl
theorem SyllableFields.addIRk : ∀ dd da imm, SyllableFields.Statement (.addIRk dd da imm) := by
  intro dd da imm _ r h; cases h; rfl
theorem SyllableFields.sub : ∀ dd da db, SyllableFields.Statement (.sub dd da db) := by
  intro dd da db _ r h; cases h; rfl
theorem SyllableFields.subI : ∀ dd da imm, SyllableFields.Statement (.subI dd da imm) := by
  intro dd da imm _ r h; cases h; rfl
theorem SyllableFields.subR : ∀ dd da db, SyllableFields.Statement (.subR dd da db) := by
  intro dd da db _ r h; cases h; rfl
theorem SyllableFields.subRk : ∀ dd da db, SyllableFields.Statement (.subRk dd da db) := by
  intro dd da db _ r h; cases h; rfl
theorem SyllableFields.subIR : ∀ dd da imm, SyllableFields.Statement (.subIR dd da imm) := by
  intro dd da imm _ r h; cases h; rfl
theorem SyllableFields.subIRk : ∀ dd da imm, SyllableFields.Statement (.subIRk dd da imm) := by
  intro dd da imm _ r h; cases h; rfl
theorem SyllableFields.mul : ∀ dd da db, SyllableFields.Statement (.mul dd da db) := by
  intro dd da db _ r h; cases h; rfl
theorem SyllableFields.mulI : ∀ dd da imm, SyllableFields.Statement (.mulI dd da imm) := by
  intro dd da imm _ r h; cases h; rfl
theorem SyllableFields.mulR : ∀ dd da db, SyllableFields.Statement (.mulR dd da db) := by
  intro dd da db _ r h; cases h; rfl
theorem SyllableFields.mulRk : ∀ dd da db, SyllableFields.Statement (.mulRk dd da db) := by
  intro dd da db _ r h; cases h; rfl
theorem SyllableFields.mulIR : ∀ dd da imm, SyllableFields.Statement (.mulIR dd da imm) := by
  intro dd da imm _ r h; cases h; rfl
theorem SyllableFields.mulIRk : ∀ dd da imm, SyllableFields.Statement (.mulIRk dd da imm) := by
  intro dd da imm _ r h; cases h; rfl
theorem SyllableFields.min : ∀ dd da db, SyllableFields.Statement (.min dd da db) := by
  intro dd da db _ r h; cases h; rfl
theorem SyllableFields.minI : ∀ dd da imm, SyllableFields.Statement (.minI dd da imm) := by
  intro dd da imm _ r h; cases h; rfl
theorem SyllableFields.minR : ∀ dd da db, SyllableFields.Statement (.minR dd da db) := by
  intro dd da db _ r h; cases h; rfl
theorem SyllableFields.minRk : ∀ dd da db, SyllableFields.Statement (.minRk dd da db) := by
  intro dd da db _ r h; cases h; rfl
theorem SyllableFields.minIR : ∀ dd da imm, SyllableFields.Statement (.minIR dd da imm) := by
  intro dd da imm _ r h; cases h; rfl
theorem SyllableFields.minIRk : ∀ dd da imm, SyllableFields.Statement (.minIRk dd da imm) := by
  intro dd da imm _ r h; cases h; rfl
theorem SyllableFields.max : ∀ dd da db, SyllableFields.Statement (.max dd da db) := by
  intro dd da db _ r h; cases h; rfl
theorem SyllableFields.maxI : ∀ dd da imm, SyllableFields.Statement (.maxI dd da imm) := by
  intro dd da imm _ r h; cases h; rfl
theorem SyllableFields.maxR : ∀ dd da db, SyllableFields.Statement (.maxR dd da db) := by
  intro dd da db _ r h; cases h; rfl
theorem SyllableFields.maxRk : ∀ dd da db, SyllableFields.Statement (.maxRk dd da db) := by
  intro dd da db _ r h; cases h; rfl
theorem SyllableFields.maxIR : ∀ dd da imm, SyllableFields.Statement (.maxIR dd da imm) := by
  intro dd da imm _ r h; cases h; rfl
theorem SyllableFields.maxIRk : ∀ dd da imm, SyllableFields.Statement (.maxIRk dd da imm) := by
  intro dd da imm _ r h; cases h; rfl
theorem SyllableFields.abs : ∀ dd da, SyllableFields.Statement (.abs dd da) := by
  intro dd da _ r h; cases h; rfl
theorem SyllableFields.absR : ∀ dd da, SyllableFields.Statement (.absR dd da) := by
  intro dd da _ r h; cases h; rfl
theorem SyllableFields.absRk : ∀ dd da, SyllableFields.Statement (.absRk dd da) := by
  intro dd da _ r h; cases h; rfl
theorem SyllableFields.neg : ∀ dd da, SyllableFields.Statement (.neg dd da) := by
  intro dd da _ r h; cases h; rfl
theorem SyllableFields.negR : ∀ dd da, SyllableFields.Statement (.negR dd da) := by
  intro dd da _ r h; cases h; rfl
theorem SyllableFields.negRk : ∀ dd da, SyllableFields.Statement (.negRk dd da) := by
  intro dd da _ r h; cases h; rfl
theorem SyllableFields.mov : ∀ dd da, SyllableFields.Statement (.mov dd da) := by
  intro dd da _ r h; cases h; rfl
theorem SyllableFields.movR : ∀ dd da, SyllableFields.Statement (.movR dd da) := by
  intro dd da _ r h; cases h; rfl
theorem SyllableFields.movRk : ∀ dd da, SyllableFields.Statement (.movRk dd da) := by
  intro dd da _ r h; cases h; rfl
theorem SyllableFields.mulh : ∀ dd da db, SyllableFields.Statement (.mulh dd da db) := by
  intro dd da db _ r h; cases h; rfl
theorem SyllableFields.mulhI : ∀ dd da imm, SyllableFields.Statement (.mulhI dd da imm) := by
  intro dd da imm _ r h; cases h; rfl
theorem SyllableFields.div : ∀ dd da db, SyllableFields.Statement (.div dd da db) := by
  intro dd da db _ r h; cases h; rfl
theorem SyllableFields.divI : ∀ dd da imm, SyllableFields.Statement (.divI dd da imm) := by
  intro dd da imm _ r h; cases h; rfl
theorem SyllableFields.rem : ∀ dd da db, SyllableFields.Statement (.rem dd da db) := by
  intro dd da db _ r h; cases h; rfl
theorem SyllableFields.remI : ∀ dd da imm, SyllableFields.Statement (.remI dd da imm) := by
  intro dd da imm _ r h; cases h; rfl
theorem SyllableFields.and : ∀ dd da db, SyllableFields.Statement (.and dd da db) := by
  intro dd da db _ r h; cases h; rfl
theorem SyllableFields.andI : ∀ dd da imm, SyllableFields.Statement (.andI dd da imm) := by
  intro dd da imm _ r h; cases h; rfl
theorem SyllableFields.or : ∀ dd da db, SyllableFields.Statement (.or dd da db) := by
  intro dd da db _ r h; cases h; rfl
theorem SyllableFields.orI : ∀ dd da imm, SyllableFields.Statement (.orI dd da imm) := by
  intro dd da imm _ r h; cases h; rfl
theorem SyllableFields.xor : ∀ dd da db, SyllableFields.Statement (.xor dd da db) := by
  intro dd da db _ r h; cases h; rfl
theorem SyllableFields.xorI : ∀ dd da imm, SyllableFields.Statement (.xorI dd da imm) := by
  intro dd da imm _ r h; cases h; rfl
theorem SyllableFields.andn : ∀ dd da db, SyllableFields.Statement (.andn dd da db) := by
  intro dd da db _ r h; cases h; rfl
theorem SyllableFields.andnI : ∀ dd da imm, SyllableFields.Statement (.andnI dd da imm) := by
  intro dd da imm _ r h; cases h; rfl
theorem SyllableFields.shl : ∀ dd da db, SyllableFields.Statement (.shl dd da db) := by
  intro dd da db _ r h; cases h; rfl
theorem SyllableFields.shlI : ∀ dd da imm, SyllableFields.Statement (.shlI dd da imm) := by
  intro dd da imm _ r h; cases h; rfl
theorem SyllableFields.shr : ∀ dd da db, SyllableFields.Statement (.shr dd da db) := by
  intro dd da db _ r h; cases h; rfl
theorem SyllableFields.shrI : ∀ dd da imm, SyllableFields.Statement (.shrI dd da imm) := by
  intro dd da imm _ r h; cases h; rfl
theorem SyllableFields.sra : ∀ dd da db, SyllableFields.Statement (.sra dd da db) := by
  intro dd da db _ r h; cases h; rfl
theorem SyllableFields.sraI : ∀ dd da imm, SyllableFields.Statement (.sraI dd da imm) := by
  intro dd da imm _ r h; cases h; rfl
theorem SyllableFields.clz : ∀ dd da, SyllableFields.Statement (.clz dd da) := by
  intro dd da _ r h; cases h; rfl
theorem SyllableFields.popc : ∀ dd da, SyllableFields.Statement (.popc dd da) := by
  intro dd da _ r h; cases h; rfl
theorem SyllableFields.sext : ∀ dd da imm, SyllableFields.Statement (.sext dd da imm) := by
  intro dd da imm _ r h; cases h; rfl
theorem SyllableFields.zext : ∀ dd da imm, SyllableFields.Statement (.zext dd da imm) := by
  intro dd da imm _ r h; cases h; rfl
theorem SyllableFields.movi : ∀ dd imm, SyllableFields.Statement (.movi dd imm) := by
  intro dd imm _ r h; cases h; rfl
theorem SyllableFields.eq : ∀ dd da db, SyllableFields.Statement (.eq dd da db) := by
  intro dd da db _ r h; cases h; rfl
theorem SyllableFields.eqI : ∀ dd da imm, SyllableFields.Statement (.eqI dd da imm) := by
  intro dd da imm _ r h; cases h; rfl
theorem SyllableFields.eqR : ∀ dd da db, SyllableFields.Statement (.eqR dd da db) := by
  intro dd da db _ r h; cases h; rfl
theorem SyllableFields.eqRk : ∀ dd da db, SyllableFields.Statement (.eqRk dd da db) := by
  intro dd da db _ r h; cases h; rfl
theorem SyllableFields.eqIR : ∀ dd da imm, SyllableFields.Statement (.eqIR dd da imm) := by
  intro dd da imm _ r h; cases h; rfl
theorem SyllableFields.eqIRk : ∀ dd da imm, SyllableFields.Statement (.eqIRk dd da imm) := by
  intro dd da imm _ r h; cases h; rfl
theorem SyllableFields.ne : ∀ dd da db, SyllableFields.Statement (.ne dd da db) := by
  intro dd da db _ r h; cases h; rfl
theorem SyllableFields.neI : ∀ dd da imm, SyllableFields.Statement (.neI dd da imm) := by
  intro dd da imm _ r h; cases h; rfl
theorem SyllableFields.neR : ∀ dd da db, SyllableFields.Statement (.neR dd da db) := by
  intro dd da db _ r h; cases h; rfl
theorem SyllableFields.neRk : ∀ dd da db, SyllableFields.Statement (.neRk dd da db) := by
  intro dd da db _ r h; cases h; rfl
theorem SyllableFields.neIR : ∀ dd da imm, SyllableFields.Statement (.neIR dd da imm) := by
  intro dd da imm _ r h; cases h; rfl
theorem SyllableFields.neIRk : ∀ dd da imm, SyllableFields.Statement (.neIRk dd da imm) := by
  intro dd da imm _ r h; cases h; rfl
theorem SyllableFields.lt : ∀ dd da db, SyllableFields.Statement (.lt dd da db) := by
  intro dd da db _ r h; cases h; rfl
theorem SyllableFields.ltI : ∀ dd da imm, SyllableFields.Statement (.ltI dd da imm) := by
  intro dd da imm _ r h; cases h; rfl
theorem SyllableFields.ltR : ∀ dd da db, SyllableFields.Statement (.ltR dd da db) := by
  intro dd da db _ r h; cases h; rfl
theorem SyllableFields.ltRk : ∀ dd da db, SyllableFields.Statement (.ltRk dd da db) := by
  intro dd da db _ r h; cases h; rfl
theorem SyllableFields.ltIR : ∀ dd da imm, SyllableFields.Statement (.ltIR dd da imm) := by
  intro dd da imm _ r h; cases h; rfl
theorem SyllableFields.ltIRk : ∀ dd da imm, SyllableFields.Statement (.ltIRk dd da imm) := by
  intro dd da imm _ r h; cases h; rfl
theorem SyllableFields.le : ∀ dd da db, SyllableFields.Statement (.le dd da db) := by
  intro dd da db _ r h; cases h; rfl
theorem SyllableFields.leI : ∀ dd da imm, SyllableFields.Statement (.leI dd da imm) := by
  intro dd da imm _ r h; cases h; rfl
theorem SyllableFields.leR : ∀ dd da db, SyllableFields.Statement (.leR dd da db) := by
  intro dd da db _ r h; cases h; rfl
theorem SyllableFields.leRk : ∀ dd da db, SyllableFields.Statement (.leRk dd da db) := by
  intro dd da db _ r h; cases h; rfl
theorem SyllableFields.leIR : ∀ dd da imm, SyllableFields.Statement (.leIR dd da imm) := by
  intro dd da imm _ r h; cases h; rfl
theorem SyllableFields.leIRk : ∀ dd da imm, SyllableFields.Statement (.leIRk dd da imm) := by
  intro dd da imm _ r h; cases h; rfl
theorem SyllableFields.inR : ∀ dd da, SyllableFields.Statement (.inR dd da) := by
  intro dd da _ r h; cases h; rfl
theorem SyllableFields.inRk : ∀ dd da, SyllableFields.Statement (.inRk dd da) := by
  intro dd da _ r h; cases h; rfl
theorem SyllableFields.alldiffR : ∀ dd imm, SyllableFields.Statement (.alldiffR dd imm) := by
  intro dd imm _ r h; cases h; rfl
theorem SyllableFields.alldiffRk : ∀ dd imm, SyllableFields.Statement (.alldiffRk dd imm) := by
  intro dd imm _ r h; cases h; rfl
theorem SyllableFields.dset : ∀ dd da db, SyllableFields.Statement (.dset dd da db) := by
  intro dd da db _ r h; cases h; rfl
theorem SyllableFields.dfull : ∀ dd, SyllableFields.Statement (.dfull dd) := by
  intro dd _ r h; cases h; rfl
theorem SyllableFields.dmask : ∀ dd da imm, SyllableFields.Statement (.dmask dd da imm) := by
  intro dd da imm _ r h; cases h; rfl
theorem SyllableFields.dlo : ∀ dd da, SyllableFields.Statement (.dlo dd da) := by
  intro dd da _ r h; cases h; rfl
theorem SyllableFields.dhi : ∀ dd da, SyllableFields.Statement (.dhi dd da) := by
  intro dd da _ r h; cases h; rfl
theorem SyllableFields.dsize : ∀ dd da, SyllableFields.Statement (.dsize dd da) := by
  intro dd da _ r h; cases h; rfl
theorem SyllableFields.dexcl : ∀ dd db, SyllableFields.Statement (.dexcl dd db) := by
  intro dd db _ r h; cases h; rfl
theorem SyllableFields.dexclI : ∀ dd imm, SyllableFields.Statement (.dexclI dd imm) := by
  intro dd imm _ r h; cases h; rfl
theorem SyllableFields.dpick : ∀ dd, SyllableFields.Statement (.dpick dd) := by
  intro dd _ r h; cases h; rfl
theorem SyllableFields.restore : ∀ mark, SyllableFields.Statement (.restore mark) := by
  intro mark _ r h; cases h; rfl
theorem SyllableFields.prep : ∀ bt off, SyllableFields.Statement (.prep bt off) := by
  intro bt off _ r h; cases h; rfl
theorem SyllableFields.prepi : ∀ bt da k, SyllableFields.Statement (.prepi bt da k) := by
  intro bt da k _ r h; cases h; rfl
theorem SyllableFields.prepj : ∀ bt da bd count off, SyllableFields.Statement (.prepj bt da bd count off) := by
  intro bt da bd count off _ r h; cases h
  simp [decodeRaw, decodeCt, rowIf]
theorem SyllableFields.cmp : ∀ rel neg c da db, SyllableFields.Statement (.cmp rel neg c da db) := by
  intro rel neg c da db _ r h; cases h
  simp [decodeRaw, decodeCt, rowIf]
theorem SyllableFields.cmpI : ∀ rel neg c da imm, SyllableFields.Statement (.cmpI rel neg c da imm) := by
  intro rel neg c da imm _ r h; cases h
  simp [decodeRaw, decodeCt, rowIf]
theorem SyllableFields.cmpu : ∀ rel neg c da db, SyllableFields.Statement (.cmpu rel neg c da db) := by
  intro rel neg c da db _ r h; cases h
  simp [decodeRaw, decodeCt, rowIf]
theorem SyllableFields.cmpuI : ∀ rel neg c da imm, SyllableFields.Statement (.cmpuI rel neg c da imm) := by
  intro rel neg c da imm _ r h; cases h
  simp [decodeRaw, decodeCt, rowIf]
theorem SyllableFields.cmpdSingle : ∀ neg c da, SyllableFields.Statement (.cmpdSingle neg c da) := by
  intro neg c da _ r h; cases h
  simp [decodeRaw, decodeCt, rowIf]
theorem SyllableFields.cmpdHas : ∀ neg c da db, SyllableFields.Statement (.cmpdHas neg c da db) := by
  intro neg c da db _ r h; cases h
  simp [decodeRaw, decodeCt, rowIf]
theorem SyllableFields.cmpdHasI : ∀ neg c da imm, SyllableFields.Statement (.cmpdHasI neg c da imm) := by
  intro neg c da imm _ r h; cases h
  simp [decodeRaw, decodeCt, rowIf]
theorem SyllableFields.cmpdWidth : ∀ neg c da db, SyllableFields.Statement (.cmpdWidth neg c da db) := by
  intro neg c da db _ r h; cases h
  simp [decodeRaw, decodeCt, rowIf]
theorem SyllableFields.cmpdWidthI : ∀ neg c da imm, SyllableFields.Statement (.cmpdWidthI neg c da imm) := by
  intro neg c da imm _ r h; cases h
  simp [decodeRaw, decodeCt, rowIf]
theorem SyllableFields.xfer : ∀ bt, SyllableFields.Statement (.xfer bt) := by
  intro bt _ r h; cases h; rfl
theorem SyllableFields.xferC : ∀ bt neg c, SyllableFields.Statement (.xferC bt neg c) := by
  intro bt neg c _ r h; cases h
  simp [decodeRaw, decodeCt, rowIf]
theorem SyllableFields.xferl : ∀ bt bl, SyllableFields.Statement (.xferl bt bl) := by
  intro bt bl _ r h; cases h
  simp [decodeRaw, decodeCt, rowIf]
theorem SyllableFields.xferlC : ∀ bt bl neg c, SyllableFields.Statement (.xferlC bt bl neg c) := by
  intro bt bl neg c _ r h; cases h
  simp [decodeRaw, decodeCt, rowIf]
theorem SyllableFields.loopb : ∀ da mskew cskew, SyllableFields.Statement (.loopb da mskew cskew) := by
  intro da mskew cskew _ r h; cases h
  simp [decodeRaw, decodeCt, rowIf]
theorem SyllableFields.loopcut : ∀ da, SyllableFields.Statement (.loopcut da) := by
  intro da _ r h; cases h; rfl
theorem SyllableFields.loopcutI : ∀ k, SyllableFields.Statement (.loopcutI k) := by
  intro k _ r h; cases h
  simp [decodeRaw, decodeCt, rowIf]
theorem SyllableFields.postD : ∀ da, SyllableFields.Statement (.postD da) := by
  intro da _ r h; cases h; rfl
theorem SyllableFields.post : ∀ k, SyllableFields.Statement (.post k) := by
  intro k _ r h; cases h
  simp [decodeRaw, decodeCt, rowIf]
theorem SyllableFields.awaitD : ∀ da, SyllableFields.Statement (.awaitD da) := by
  intro da _ r h; cases h; rfl
theorem SyllableFields.await : ∀ k, SyllableFields.Statement (.await k) := by
  intro k _ r h; cases h
  simp [decodeRaw, decodeCt, rowIf]
theorem SyllableFields.spawn : ∀ bd da imm, SyllableFields.Statement (.spawn bd da imm) := by
  intro bd da imm _ r h; cases h
  simp [decodeRaw, decodeCt, rowIf]
theorem SyllableFields.yield : ∀ bd da imm, SyllableFields.Statement (.yield bd da imm) := by
  intro bd da imm _ r h; cases h
  simp [decodeRaw, decodeCt, rowIf]
theorem SyllableFields.trap : ∀ k, SyllableFields.Statement (.trap k) := by
  intro k _ r h; cases h
  simp [decodeRaw, decodeCt, rowIf]
theorem SyllableFields.syscall : ∀ k, SyllableFields.Statement (.syscall k) := by
  intro k _ r h; cases h
  simp [decodeRaw, decodeCt, rowIf]
theorem SyllableFields.brk : ∀ k, SyllableFields.Statement (.brk k) := by
  intro k _ r h; cases h
  simp [decodeRaw, decodeCt, rowIf]
theorem SyllableFields.mfsr : ∀ da r high, SyllableFields.Statement (.mfsr da r high) := by
  intro da r high _ raw h; cases h; simp [decodeRaw, decodeCt, rowIf, sysreg_code]
theorem SyllableFields.mtsr : ∀ r da db, SyllableFields.Statement (.mtsr r da db) := by
  intro r da db _ raw h; cases h; simp [decodeRaw, decodeCt, rowIf, sysreg_code]
theorem SyllableFields.bdset : ∀ bd part da, SyllableFields.Statement (.bdset bd part da) := by
  intro bd part da _ r h; cases h
  simp [decodeRaw, decodeCt, rowIf]
theorem SyllableFields.temit : ∀ da db, SyllableFields.Statement (.temit da db) := by
  intro da db _ r h; cases h; rfl
theorem SyllableFields.rfbegin : ∀ bd da imm, SyllableFields.Statement (.rfbegin bd da imm) := by
  intro bd da imm _ r h; cases h
  simp [decodeRaw, decodeCt, rowIf]
theorem SyllableFields.rftest : ∀ v, SyllableFields.Statement (.rftest v) := by
  intro v _ r h; cases h
  simp [decodeRaw, decodeCt, rowIf]
theorem SyllableFields.ld : ∀ z dd m, SyllableFields.Statement (.ld z dd m) := by
  intro z dd m hw r h
  obtain ⟨dc, oc, sc, mode, bd, off, imm⟩ := m
  cases mode <;> cases z <;> simp [Instr.wf, MemOp.ok, ModeSet.admits] at hw <;> cases h <;>
    simp [decodeRaw, decodeM2, LoadSize.code, RawMm.modeIx, RawMm.offPost, RawMm.mem, RawMm.atom, AMode.bits, AMode.ix, rowIf]
theorem SyllableFields.st : ∀ z ds m, SyllableFields.Statement (.st z ds m) := by
  intro z ds m hw r h
  obtain ⟨dc, oc, sc, mode, bd, off, imm⟩ := m
  cases mode <;> cases z <;> simp [Instr.wf, MemOp.ok, ModeSet.admits] at hw <;> cases h <;>
    simp [decodeRaw, decodeM2, StoreSize.code, RawMm.modeIx, RawMm.offPost, RawMm.mem, RawMm.atom, AMode.bits, AMode.ix, rowIf]
theorem SyllableFields.stn : ∀ ds m mask, SyllableFields.Statement (.stn ds m mask) := by
  intro ds m mask hw r h
  obtain ⟨dc, oc, sc, mode, bd, off, imm⟩ := m
  cases mode <;> simp [Instr.wf, MemOp.ok, ModeSet.admits] at hw <;> cases h <;>
    simp [decodeRaw, decodeM2, RawMm.modeIx, RawMm.offPost, RawMm.mem, RawMm.atom, AMode.bits, AMode.ix, rowIf]
theorem SyllableFields.ldr : ∀ z dd m k, SyllableFields.Statement (.ldr z dd m k) := by
  intro z dd m k hw r h
  obtain ⟨dc, oc, sc, mode, bd, off, imm⟩ := m
  cases mode <;> cases z <;> simp [Instr.wf, MemOp.ok, ModeSet.admits] at hw <;> cases h <;>
    simp [decodeRaw, decodeM2, LoadSize.code, RawMm.modeIx, RawMm.offPost, RawMm.mem, RawMm.atom, AMode.bits, AMode.ix, rowIf]
theorem SyllableFields.ldv : ∀ v m dp, SyllableFields.Statement (.ldv v m dp) := by
  intro v m dp hw r h
  obtain ⟨dc, oc, sc, mode, bd, off, imm⟩ := m
  cases mode <;> simp [Instr.wf, MemOp.ok, ModeSet.admits] at hw <;> cases h <;>
    simp [decodeRaw, decodeM2, RawMm.modeIx, RawMm.offPost, RawMm.mem, RawMm.atom, AMode.bits, AMode.ix, rowIf]
theorem SyllableFields.stv : ∀ v m dp, SyllableFields.Statement (.stv v m dp) := by
  intro v m dp hw r h
  obtain ⟨dc, oc, sc, mode, bd, off, imm⟩ := m
  cases mode <;> simp [Instr.wf, MemOp.ok, ModeSet.admits] at hw <;> cases h <;>
    simp [decodeRaw, decodeM2, RawMm.modeIx, RawMm.offPost, RawMm.mem, RawMm.atom, AMode.bits, AMode.ix, rowIf]
theorem SyllableFields.ldvp : ∀ v m p, SyllableFields.Statement (.ldvp v m p) := by
  intro v m p hw r h
  obtain ⟨dc, oc, sc, mode, bd, off, imm⟩ := m
  cases mode <;> simp [Instr.wf, MemOp.ok, ModeSet.admits] at hw <;> cases h <;>
    simp [decodeRaw, decodeM2, RawMm.modeIx, RawMm.offPost, RawMm.mem, RawMm.atom, AMode.bits, AMode.ix, rowIf]
theorem SyllableFields.gathv : ∀ v m vi, SyllableFields.Statement (.gathv v m vi) := by
  intro v m vi hw r h
  obtain ⟨dc, oc, sc, mode, bd, off, imm⟩ := m
  cases mode <;> simp [Instr.wf, MemOp.ok, ModeSet.admits] at hw <;> cases h <;>
    simp [decodeRaw, decodeM2, RawMm.modeIx, RawMm.offPost, RawMm.mem, RawMm.atom, AMode.bits, AMode.ix, rowIf]
theorem SyllableFields.scatv : ∀ v m vi, SyllableFields.Statement (.scatv v m vi) := by
  intro v m vi hw r h
  obtain ⟨dc, oc, sc, mode, bd, off, imm⟩ := m
  cases mode <;> simp [Instr.wf, MemOp.ok, ModeSet.admits] at hw <;> cases h <;>
    simp [decodeRaw, decodeM2, RawMm.modeIx, RawMm.offPost, RawMm.mem, RawMm.atom, AMode.bits, AMode.ix, rowIf]
theorem SyllableFields.pagereq : ∀ m, SyllableFields.Statement (.pagereq m) := by
  intro m hw r h
  obtain ⟨dc, oc, sc, mode, bd, off, imm⟩ := m
  cases mode <;> simp [Instr.wf, MemOp.ok, ModeSet.admits] at hw <;> cases h <;>
    simp [decodeRaw, decodeM2, RawMm.modeIx, RawMm.offPost, RawMm.mem, RawMm.atom, AMode.bits, AMode.ix, rowIf]
theorem SyllableFields.prefetch : ∀ dn m, SyllableFields.Statement (.prefetch dn m) := by
  intro dn m hw r h
  obtain ⟨dc, oc, sc, mode, bd, off, imm⟩ := m
  cases mode <;> simp [Instr.wf, MemOp.ok, ModeSet.admits] at hw <;> cases h <;>
    simp [decodeRaw, decodeM2, RawMm.modeIx, RawMm.offPost, RawMm.mem, RawMm.atom, AMode.bits, AMode.ix, rowIf]
theorem SyllableFields.sopen : ∀ kind f m dq, SyllableFields.Statement (.sopen kind f m dq) := by
  intro kind f m dq hw r h
  obtain ⟨dc, oc, sc, mode, bd, off, imm⟩ := m
  cases mode <;> simp [Instr.wf, MemOp.ok, ModeSet.admits] at hw <;> cases h <;>
    simp [decodeRaw, decodeM2, RawMm.modeIx, RawMm.offPost, RawMm.mem, RawMm.atom, AMode.bits, AMode.ix, rowIf]
theorem SyllableFields.sadv : ∀ f dn, SyllableFields.Statement (.sadv f dn) := by
  intro f dn _ r h; cases h
  simp [decodeRaw, decodeM2, rowIf]
theorem SyllableFields.sget : ∀ dd f, SyllableFields.Statement (.sget dd f) := by
  intro dd f _ r h; cases h
  simp [decodeRaw, decodeM2, rowIf]
theorem SyllableFields.vsget : ∀ v f, SyllableFields.Statement (.vsget v f) := by
  intro v f _ r h; cases h
  simp [decodeRaw, decodeM2, rowIf]
theorem SyllableFields.stend : ∀ c f, SyllableFields.Statement (.stend c f) := by
  intro c f _ r h; cases h
  simp [decodeRaw, decodeM2, rowIf]
theorem SyllableFields.sclose : ∀ f, SyllableFields.Statement (.sclose f) := by
  intro f _ r h; cases h
  simp [decodeRaw, decodeM2, rowIf]
theorem SyllableFields.wset : ∀ w m dn, SyllableFields.Statement (.wset w m dn) := by
  intro w m dn hw r h
  obtain ⟨dc, oc, sc, mode, bd, off, imm⟩ := m
  cases mode <;> simp [Instr.wf, MemOp.ok, ModeSet.admits] at hw <;> cases h <;>
    simp [decodeRaw, decodeM2, RawMm.modeIx, RawMm.offPost, RawMm.mem, RawMm.atom, AMode.bits, AMode.ix, rowIf]
theorem SyllableFields.amoAdd : ∀ wide dd m ds, SyllableFields.Statement (.amoAdd wide dd m ds) := by
  intro wide dd m ds hw r h
  obtain ⟨dc, oc, sc, fl, od, bd, off, imm⟩ := m
  cases wide <;> cases h <;>
    simp [decodeRaw, decodeM3, wideBit, RawMm.modeIx, RawMm.offPost, RawMm.mem, RawMm.atom, AMode.bits, AMode.ix, rowIf]
theorem SyllableFields.amoMin : ∀ wide dd m ds, SyllableFields.Statement (.amoMin wide dd m ds) := by
  intro wide dd m ds hw r h
  obtain ⟨dc, oc, sc, fl, od, bd, off, imm⟩ := m
  cases wide <;> cases h <;>
    simp [decodeRaw, decodeM3, wideBit, RawMm.modeIx, RawMm.offPost, RawMm.mem, RawMm.atom, AMode.bits, AMode.ix, rowIf]
theorem SyllableFields.amoMax : ∀ wide dd m ds, SyllableFields.Statement (.amoMax wide dd m ds) := by
  intro wide dd m ds hw r h
  obtain ⟨dc, oc, sc, fl, od, bd, off, imm⟩ := m
  cases wide <;> cases h <;>
    simp [decodeRaw, decodeM3, wideBit, RawMm.modeIx, RawMm.offPost, RawMm.mem, RawMm.atom, AMode.bits, AMode.ix, rowIf]
theorem SyllableFields.amoAnd : ∀ wide dd m ds, SyllableFields.Statement (.amoAnd wide dd m ds) := by
  intro wide dd m ds hw r h
  obtain ⟨dc, oc, sc, fl, od, bd, off, imm⟩ := m
  cases wide <;> cases h <;>
    simp [decodeRaw, decodeM3, wideBit, RawMm.modeIx, RawMm.offPost, RawMm.mem, RawMm.atom, AMode.bits, AMode.ix, rowIf]
theorem SyllableFields.amoOr : ∀ wide dd m ds, SyllableFields.Statement (.amoOr wide dd m ds) := by
  intro wide dd m ds hw r h
  obtain ⟨dc, oc, sc, fl, od, bd, off, imm⟩ := m
  cases wide <;> cases h <;>
    simp [decodeRaw, decodeM3, wideBit, RawMm.modeIx, RawMm.offPost, RawMm.mem, RawMm.atom, AMode.bits, AMode.ix, rowIf]
theorem SyllableFields.amoXor : ∀ wide dd m ds, SyllableFields.Statement (.amoXor wide dd m ds) := by
  intro wide dd m ds hw r h
  obtain ⟨dc, oc, sc, fl, od, bd, off, imm⟩ := m
  cases wide <;> cases h <;>
    simp [decodeRaw, decodeM3, wideBit, RawMm.modeIx, RawMm.offPost, RawMm.mem, RawMm.atom, AMode.bits, AMode.ix, rowIf]
theorem SyllableFields.amoSwap : ∀ wide dd m ds, SyllableFields.Statement (.amoSwap wide dd m ds) := by
  intro wide dd m ds hw r h
  obtain ⟨dc, oc, sc, fl, od, bd, off, imm⟩ := m
  cases wide <;> cases h <;>
    simp [decodeRaw, decodeM3, wideBit, RawMm.modeIx, RawMm.offPost, RawMm.mem, RawMm.atom, AMode.bits, AMode.ix, rowIf]
theorem SyllableFields.cas : ∀ wide dd m ds, SyllableFields.Statement (.cas wide dd m ds) := by
  intro wide dd m ds hw r h
  obtain ⟨dc, oc, sc, fl, od, bd, off, imm⟩ := m
  cases wide <;> cases h <;>
    simp [decodeRaw, decodeM3, wideBit, RawMm.modeIx, RawMm.offPost, RawMm.mem, RawMm.atom, AMode.bits, AMode.ix, rowIf]
theorem SyllableFields.lda : ∀ wide dd m, SyllableFields.Statement (.lda wide dd m) := by
  intro wide dd m hw r h
  obtain ⟨dc, oc, sc, mode, bd, off, imm⟩ := m
  cases mode <;> cases wide <;> simp [Instr.wf, MemOp.ok, ModeSet.admits] at hw <;> cases h <;>
    simp [decodeRaw, decodeM3, RawMm.modeIx, RawMm.offPost, RawMm.mem, RawMm.atom, AMode.bits, AMode.ix, rowIf]
theorem SyllableFields.stl : ∀ wide ds m, SyllableFields.Statement (.stl wide ds m) := by
  intro wide ds m hw r h
  obtain ⟨dc, oc, sc, mode, bd, off, imm⟩ := m
  cases mode <;> cases wide <;> simp [Instr.wf, MemOp.ok, ModeSet.admits] at hw <;> cases h <;>
    simp [decodeRaw, decodeM3, RawMm.modeIx, RawMm.offPost, RawMm.mem, RawMm.atom, AMode.bits, AMode.ix, rowIf]
theorem SyllableFields.fence : ∀ scope mask, SyllableFields.Statement (.fence scope mask) := by
  intro scope mask _ r h; cases h
  simp [decodeRaw, decodeM3, rowIf]
theorem SyllableFields.barwinit : ∀ dt m exact, SyllableFields.Statement (.barwinit dt m exact) := by
  intro dt m exact hw r h
  obtain ⟨dc, oc, sc, mode, bd, off, imm⟩ := m
  cases mode <;> simp [Instr.wf, MemOp.ok, ModeSet.admits] at hw <;> cases h <;>
    simp [decodeRaw, decodeM3, RawMm.modeIx, RawMm.offPost, RawMm.mem, RawMm.atom, AMode.bits, AMode.ix, rowIf]
theorem SyllableFields.barwadd : ∀ dn m, SyllableFields.Statement (.barwadd dn m) := by
  intro dn m hw r h
  obtain ⟨dc, oc, sc, fl, od, bd, off, imm⟩ := m
  cases h
  simp [decodeRaw, decodeM3, RawMm.modeIx, RawMm.offPost, RawMm.mem, RawMm.atom, AMode.bits, AMode.ix, rowIf]
theorem SyllableFields.barwwait : ∀ dg m dt, SyllableFields.Statement (.barwwait dg m dt) := by
  intro dg m dt hw r h
  obtain ⟨dc, oc, sc, mode, bd, off, imm⟩ := m
  cases mode <;> simp [Instr.wf, MemOp.ok, ModeSet.admits] at hw <;> cases h <;>
    simp [decodeRaw, decodeM3, RawMm.modeIx, RawMm.offPost, RawMm.mem, RawMm.atom, AMode.bits, AMode.ix, rowIf]
theorem SyllableFields.barwtry : ∀ dg m c, SyllableFields.Statement (.barwtry dg m c) := by
  intro dg m c hw r h
  obtain ⟨dc, oc, sc, mode, bd, off, imm⟩ := m
  cases mode <;> simp [Instr.wf, MemOp.ok, ModeSet.admits] at hw <;> cases h <;>
    simp [decodeRaw, decodeM3, RawMm.modeIx, RawMm.offPost, RawMm.mem, RawMm.atom, AMode.bits, AMode.ix, rowIf]
theorem SyllableFields.wqpush : ∀ q m c, SyllableFields.Statement (.wqpush q m c) := by
  intro q m c hw r h
  obtain ⟨dc, oc, sc, mode, bd, off, imm⟩ := m
  cases mode <;> simp [Instr.wf, MemOp.ok, ModeSet.admits] at hw <;> cases h <;>
    simp [decodeRaw, decodeM3, RawMm.modeIx, RawMm.offPost, RawMm.mem, RawMm.atom, AMode.bits, AMode.ix, rowIf]
theorem SyllableFields.wqpop : ∀ q m c, SyllableFields.Statement (.wqpop q m c) := by
  intro q m c hw r h
  obtain ⟨dc, oc, sc, mode, bd, off, imm⟩ := m
  cases mode <;> simp [Instr.wf, MemOp.ok, ModeSet.admits] at hw <;> cases h <;>
    simp [decodeRaw, decodeM3, RawMm.modeIx, RawMm.offPost, RawMm.mem, RawMm.atom, AMode.bits, AMode.ix, rowIf]
theorem SyllableFields.wqpopOne : ∀ q m c, SyllableFields.Statement (.wqpopOne q m c) := by
  intro q m c hw r h
  obtain ⟨dc, oc, sc, mode, bd, off, imm⟩ := m
  cases mode <;> simp [Instr.wf, MemOp.ok, ModeSet.admits] at hw <;> cases h <;>
    simp [decodeRaw, decodeM3, RawMm.modeIx, RawMm.offPost, RawMm.mem, RawMm.atom, AMode.bits, AMode.ix, rowIf]
theorem SyllableFields.wqsteal : ∀ q m c, SyllableFields.Statement (.wqsteal q m c) := by
  intro q m c hw r h
  obtain ⟨dc, oc, sc, mode, bd, off, imm⟩ := m
  cases mode <;> simp [Instr.wf, MemOp.ok, ModeSet.admits] at hw <;> cases h <;>
    simp [decodeRaw, decodeM3, RawMm.modeIx, RawMm.offPost, RawMm.mem, RawMm.atom, AMode.bits, AMode.ix, rowIf]
theorem SyllableFields.lgather : ∀ dd m n, SyllableFields.Statement (.lgather dd m n) := by
  intro dd m n hw r h
  obtain ⟨dc, oc, sc, mode, bd, off, imm⟩ := m
  cases mode <;> simp [Instr.wf, MemOp.ok, ModeSet.admits] at hw <;> cases h <;>
    simp [decodeRaw, decodeM3, RawMm.modeIx, RawMm.offPost, RawMm.mem, RawMm.atom, AMode.bits, AMode.ix, rowIf]
theorem SyllableFields.ldedup : ∀ dd scope dk n, SyllableFields.Statement (.ldedup dd scope dk n) := by
  intro dd scope dk n hw r h; simp [Instr.wf] at hw; cases h
  simp [decodeRaw, decodeM3, rowIf, hw.1]
theorem SyllableFields.lpool : ∀ op dd scope ds rows rsz, SyllableFields.Statement (.lpool op dd scope ds rows rsz) := by
  intro op dd scope ds rows rsz hw r h; simp [Instr.wf] at hw; cases h
  simp [decodeRaw, decodeM3, rowIf, hw.1]
theorem SyllableFields.lhand : ∀ ds m dw, SyllableFields.Statement (.lhand ds m dw) := by
  intro ds m dw hw r h
  obtain ⟨dc, oc, sc, mode, bd, off, imm⟩ := m
  cases mode <;> simp [Instr.wf, MemOp.ok, ModeSet.admits] at hw <;> cases h <;>
    simp [decodeRaw, decodeM3, RawMm.modeIx, RawMm.offPost, RawMm.mem, RawMm.atom, AMode.bits, AMode.ix, rowIf]
theorem SyllableFields.vadd : ∀ f vd va vb p, SyllableFields.Statement (.vadd f vd va vb p) := by
  intro f vd va vb p _ r h; cases h; rfl
theorem SyllableFields.vsub : ∀ f vd va vb p, SyllableFields.Statement (.vsub f vd va vb p) := by
  intro f vd va vb p _ r h; cases h; rfl
theorem SyllableFields.vmul : ∀ f vd va vb p, SyllableFields.Statement (.vmul f vd va vb p) := by
  intro f vd va vb p _ r h; cases h; rfl
theorem SyllableFields.vfma : ∀ f vd va vb vc p, SyllableFields.Statement (.vfma f vd va vb vc p) := by
  intro f vd va vb vc p _ r h; cases h; rfl
theorem SyllableFields.vfms : ∀ f vd va vb vc p, SyllableFields.Statement (.vfms f vd va vb vc p) := by
  intro f vd va vb vc p _ r h; cases h; rfl
theorem SyllableFields.vmin : ∀ f vd va vb p, SyllableFields.Statement (.vmin f vd va vb p) := by
  intro f vd va vb p _ r h; cases h; rfl
theorem SyllableFields.vmax : ∀ f vd va vb p, SyllableFields.Statement (.vmax f vd va vb p) := by
  intro f vd va vb p _ r h; cases h; rfl
theorem SyllableFields.vabs : ∀ f vd va p, SyllableFields.Statement (.vabs f vd va p) := by
  intro f vd va p _ r h; cases h; rfl
theorem SyllableFields.vneg : ∀ f vd va p, SyllableFields.Statement (.vneg f vd va p) := by
  intro f vd va p _ r h; cases h; rfl
theorem SyllableFields.vand : ∀ vd va vb p, SyllableFields.Statement (.vand vd va vb p) := by
  intro vd va vb p _ r h; cases h; rfl
theorem SyllableFields.vor : ∀ vd va vb p, SyllableFields.Statement (.vor vd va vb p) := by
  intro vd va vb p _ r h; cases h; rfl
theorem SyllableFields.vxor : ∀ vd va vb p, SyllableFields.Statement (.vxor vd va vb p) := by
  intro vd va vb p _ r h; cases h; rfl
theorem SyllableFields.vshl : ∀ f vd va cnt p, SyllableFields.Statement (.vshl f vd va cnt p) := by
  intro f vd va cnt p _ r h; cases cnt <;> cases h <;> simp [decodeRaw, decodeV4, rowIf]
theorem SyllableFields.vshr : ∀ f vd va cnt p, SyllableFields.Statement (.vshr f vd va cnt p) := by
  intro f vd va cnt p _ r h; cases cnt <;> cases h <;> simp [decodeRaw, decodeV4, rowIf]
theorem SyllableFields.vsra : ∀ f vd va cnt p, SyllableFields.Statement (.vsra f vd va cnt p) := by
  intro f vd va cnt p _ r h; cases cnt <;> cases h <;> simp [decodeRaw, decodeV4, rowIf]
theorem SyllableFields.vcmp : ∀ rel f pd va vb p, SyllableFields.Statement (.vcmp rel f pd va vb p) := by
  intro rel f pd va vb p _ r h; cases h
  simp [decodeRaw, decodeV4, rowIf]
theorem SyllableFields.vsel : ∀ vd va vb sel, SyllableFields.Statement (.vsel vd va vb sel) := by
  intro vd va vb sel _ r h; cases h; rfl
theorem SyllableFields.vmov : ∀ vd va p, SyllableFields.Statement (.vmov vd va p) := by
  intro vd va p _ r h; cases h; rfl
theorem SyllableFields.vsplat : ∀ f vd ds p, SyllableFields.Statement (.vsplat f vd ds p) := by
  intro f vd ds p _ r h; cases h
  simp [decodeRaw, decodeV4, rowIf]
theorem SyllableFields.viota : ∀ m vd p, SyllableFields.Statement (.viota m vd p) := by
  intro m vd p _ r h; cases h
  simp [decodeRaw, decodeV4, rowIf]
theorem SyllableFields.vcvt : ∀ t vd va p, SyllableFields.Statement (.vcvt t vd va p) := by
  intro t vd va p _ r h; cases h; rfl
theorem SyllableFields.vquant : ∀ t vd vc va, SyllableFields.Statement (.vquant t vd vc va) := by
  intro t vd vc va _ r h; cases h; rfl
theorem SyllableFields.vdeq : ∀ vd va vb p, SyllableFields.Statement (.vdeq vd va vb p) := by
  intro vd va vb p _ r h; cases h; rfl
theorem SyllableFields.vclass : ∀ pd va m p, SyllableFields.Statement (.vclass pd va m p) := by
  intro pd va m p _ r h; cases h
  simp [decodeRaw, decodeV4, rowIf]
theorem SyllableFields.pand : ∀ pd pa pb p, SyllableFields.Statement (.pand pd pa pb p) := by
  intro pd pa pb p _ r h; cases h
  simp [decodeRaw, decodeV4, rowIf]
theorem SyllableFields.por : ∀ pd pa pb p, SyllableFields.Statement (.por pd pa pb p) := by
  intro pd pa pb p _ r h; cases h
  simp [decodeRaw, decodeV4, rowIf]
theorem SyllableFields.pxor : ∀ pd pa pb p, SyllableFields.Statement (.pxor pd pa pb p) := by
  intro pd pa pb p _ r h; cases h
  simp [decodeRaw, decodeV4, rowIf]
theorem SyllableFields.pnot : ∀ pd pa p, SyllableFields.Statement (.pnot pd pa p) := by
  intro pd pa p _ r h; cases h
  simp [decodeRaw, decodeV4, rowIf]
theorem SyllableFields.vrotr : ∀ vd va k p, SyllableFields.Statement (.vrotr vd va k p) := by
  intro vd va k p _ r h; cases h
  simp [decodeRaw, decodeV5, rowIf]
theorem SyllableFields.vrotc : ∀ vd va k p, SyllableFields.Statement (.vrotc vd va k p) := by
  intro vd va k p _ r h; cases h
  simp [decodeRaw, decodeV5, rowIf]
theorem SyllableFields.vbcr : ∀ vd va k p, SyllableFields.Statement (.vbcr vd va k p) := by
  intro vd va k p _ r h; cases h
  simp [decodeRaw, decodeV5, rowIf]
theorem SyllableFields.vbcc : ∀ vd va k p, SyllableFields.Statement (.vbcc vd va k p) := by
  intro vd va k p _ r h; cases h
  simp [decodeRaw, decodeV5, rowIf]
theorem SyllableFields.vredr : ∀ op f vd va p, SyllableFields.Statement (.vredr op f vd va p) := by
  intro op f vd va p _ r h; cases h
  simp [decodeRaw, decodeV5, rowIf]
theorem SyllableFields.vredc : ∀ op f vd va p, SyllableFields.Statement (.vredc op f vd va p) := by
  intro op f vd va p _ r h; cases h
  simp [decodeRaw, decodeV5, rowIf]
theorem SyllableFields.vscanr : ∀ op f vd va p, SyllableFields.Statement (.vscanr op f vd va p) := by
  intro op f vd va p _ r h; cases h
  simp [decodeRaw, decodeV5, rowIf]
theorem SyllableFields.vscanc : ∀ op f vd va p, SyllableFields.Statement (.vscanc op f vd va p) := by
  intro op f vd va p _ r h; cases h
  simp [decodeRaw, decodeV5, rowIf]
theorem SyllableFields.vtrn : ∀ vd va, SyllableFields.Statement (.vtrn vd va) := by
  intro vd va _ r h; cases h; rfl
theorem SyllableFields.vsfuExp2 : ∀ vd va p, SyllableFields.Statement (.vsfuExp2 vd va p) := by
  intro vd va p _ r h; cases h; rfl
theorem SyllableFields.vsfuLog2 : ∀ vd va p, SyllableFields.Statement (.vsfuLog2 vd va p) := by
  intro vd va p _ r h; cases h; rfl
theorem SyllableFields.vsfuRcp : ∀ vd va p, SyllableFields.Statement (.vsfuRcp vd va p) := by
  intro vd va p _ r h; cases h; rfl
theorem SyllableFields.vsfuRsqrt : ∀ vd va p, SyllableFields.Statement (.vsfuRsqrt vd va p) := by
  intro vd va p _ r h; cases h; rfl
theorem SyllableFields.vsfuSqrt : ∀ vd va p, SyllableFields.Statement (.vsfuSqrt vd va p) := by
  intro vd va p _ r h; cases h; rfl
theorem SyllableFields.vsfuSinpi : ∀ vd va p, SyllableFields.Statement (.vsfuSinpi vd va p) := by
  intro vd va p _ r h; cases h; rfl
theorem SyllableFields.vsfuCospi : ∀ vd va p, SyllableFields.Statement (.vsfuCospi vd va p) := by
  intro vd va p _ r h; cases h; rfl
theorem SyllableFields.vsfuTanh : ∀ vd va p, SyllableFields.Statement (.vsfuTanh vd va p) := by
  intro vd va p _ r h; cases h; rfl
theorem SyllableFields.vsfuSigm : ∀ vd va p, SyllableFields.Statement (.vsfuSigm vd va p) := by
  intro vd va p _ r h; cases h; rfl
theorem SyllableFields.vsfuErf : ∀ vd va p, SyllableFields.Statement (.vsfuErf vd va p) := by
  intro vd va p _ r h; cases h; rfl
theorem SyllableFields.vany : ∀ c p, SyllableFields.Statement (.vany c p) := by
  intro c p _ r h; cases h
  simp [decodeRaw, decodeV5, rowIf]
theorem SyllableFields.vall : ∀ c p, SyllableFields.Statement (.vall c p) := by
  intro c p _ r h; cases h
  simp [decodeRaw, decodeV5, rowIf]
theorem SyllableFields.vcompress : ∀ vd vc va, SyllableFields.Statement (.vcompress vd vc va) := by
  intro vd vc va _ r h; cases h; rfl
theorem SyllableFields.vexpand : ∀ vd va vb p, SyllableFields.Statement (.vexpand vd va vb p) := by
  intro vd va vb p _ r h; cases h; rfl
theorem SyllableFields.vextr : ∀ dd va row col, SyllableFields.Statement (.vextr dd va row col) := by
  intro dd va row col _ r h; cases h
  simp [decodeRaw, decodeV5, rowIf]
theorem SyllableFields.vinsr : ∀ vd ds row col, SyllableFields.Statement (.vinsr vd ds row col) := by
  intro vd ds row col _ r h; cases h
  simp [decodeRaw, decodeV5, rowIf]
theorem SyllableFields.estart : ∀ copy da, SyllableFields.Statement (.estart copy da) := by
  intro copy da _ r h; cases h
  simp [decodeRaw, decodeEq, rowIf]
theorem SyllableFields.estop : ∀ copy, SyllableFields.Statement (.estop copy) := by
  intro copy _ r h; cases h
  simp [decodeRaw, decodeEq, rowIf]
theorem SyllableFields.estat : ∀ dd copy item, SyllableFields.Statement (.estat dd copy item) := by
  intro dd copy item _ r h; cases h
  simp [decodeRaw, decodeEq, rowIf]
theorem SyllableFields.gopen : ∀ g bd da imm, SyllableFields.Statement (.gopen g bd da imm) := by
  intro g bd da imm _ r h; cases h
  simp [decodeRaw, decodeEq, rowIf]
theorem SyllableFields.gattach : ∀ g bd da imm, SyllableFields.Statement (.gattach g bd da imm) := by
  intro g bd da imm _ r h; cases h
  simp [decodeRaw, decodeEq, rowIf]
theorem SyllableFields.gdetach : ∀ c g slot, SyllableFields.Statement (.gdetach c g slot) := by
  intro c g slot _ r h; cases h
  simp [decodeRaw, decodeEq, rowIf]
theorem SyllableFields.gfold : ∀ c g bda da bdb db tag, SyllableFields.Statement (.gfold c g bda da bdb db tag) := by
  intro c g bda da bdb db tag _ r h; cases h
  simp [decodeRaw, decodeEq, rowIf]
theorem SyllableFields.lit : ∀ v, SyllableFields.Statement (.lit v) := by
  intro v _ r h; cases h
theorem SyllableFields.litx : ∀ v, SyllableFields.Statement (.litx v) := by
  intro v _ r h; cases h
theorem SyllableFields.pushd : ∀ n, SyllableFields.Statement (.pushd n) := by
  intro n _ r h; cases h
theorem SyllableFields.pushb : ∀ n high, SyllableFields.Statement (.pushb n high) := by
  intro n high _ r h; cases h
theorem SyllableFields.jmp : ∀ k, SyllableFields.Statement (.jmp k) := by
  intro k _ r h; cases h
theorem SyllableFields.enginePost : ∀ k, SyllableFields.Statement (.enginePost k) := by
  intro k _ r h; cases h
theorem SyllableFields.engineAwait : ∀ k, SyllableFields.Statement (.engineAwait k) := by
  intro k _ r h; cases h
theorem SyllableFields.powerOnReset : SyllableFields.Statement .powerOnReset := by
  intro _ r h; cases h
theorem SyllableFields.bringupStepComplete : SyllableFields.Statement .bringupStepComplete := by
  intro _ r h; cases h
theorem SyllableFields.thermalPoll : SyllableFields.Statement .thermalPoll := by
  intro _ r h; cases h
theorem SyllableFields.clockAdjustTick : SyllableFields.Statement .clockAdjustTick := by
  intro _ r h; cases h
theorem SyllableFields.governorWindow : SyllableFields.Statement .governorWindow := by
  intro _ r h; cases h
theorem SyllableFields.governorBudgetStall : SyllableFields.Statement .governorBudgetStall := by
  intro _ r h; cases h
theorem SyllableFields.tokenArrival : SyllableFields.Statement .tokenArrival := by
  intro _ r h; cases h
theorem SyllableFields.tokenBurstEnd : SyllableFields.Statement .tokenBurstEnd := by
  intro _ r h; cases h
theorem SyllableFields.runtimeFence : SyllableFields.Statement .runtimeFence := by
  intro _ r h; cases h
theorem SyllableFields.distributorTakeover : SyllableFields.Statement .distributorTakeover := by
  intro _ r h; cases h
theorem SyllableFields.i3cRequest : SyllableFields.Statement .i3cRequest := by
  intro _ r h; cases h
theorem SyllableFields.i3cServiceCommand : SyllableFields.Statement .i3cServiceCommand := by
  intro _ r h; cases h
theorem SyllableFields.jtagInstruction : SyllableFields.Statement .jtagInstruction := by
  intro _ r h; cases h
theorem SyllableFields.debugAccessChallenge : SyllableFields.Statement .debugAccessChallenge := by
  intro _ r h; cases h
theorem SyllableFields.sealKeyInstall : SyllableFields.Statement .sealKeyInstall := by
  intro _ r h; cases h
theorem SyllableFields.sealTraceKeyInstall : SyllableFields.Statement .sealTraceKeyInstall := by
  intro _ r h; cases h
theorem SyllableFields.sealAttestation : SyllableFields.Statement .sealAttestation := by
  intro _ r h; cases h
theorem SyllableFields.linnorFlitReceive : SyllableFields.Statement .linnorFlitReceive := by
  intro _ r h; cases h
theorem SyllableFields.linnorFlitTransmit : SyllableFields.Statement .linnorFlitTransmit := by
  intro _ r h; cases h
theorem SyllableFields.linnorRetryRequest : SyllableFields.Statement .linnorRetryRequest := by
  intro _ r h; cases h
theorem SyllableFields.retryRequestTimeout : SyllableFields.Statement .retryRequestTimeout := by
  intro _ r h; cases h
theorem SyllableFields.linnorRetrain : SyllableFields.Statement .linnorRetrain := by
  intro _ r h; cases h
theorem SyllableFields.retryLimitExceeded : SyllableFields.Statement .retryLimitExceeded := by
  intro _ r h; cases h
theorem SyllableFields.linnorRd : SyllableFields.Statement .linnorRd := by
  intro _ r h; cases h
theorem SyllableFields.linnorWr : SyllableFields.Statement .linnorWr := by
  intro _ r h; cases h
theorem SyllableFields.linnorAtom : SyllableFields.Statement .linnorAtom := by
  intro _ r h; cases h
theorem SyllableFields.linnorMsg : SyllableFields.Statement .linnorMsg := by
  intro _ r h; cases h
theorem SyllableFields.linnorWake : SyllableFields.Statement .linnorWake := by
  intro _ r h; cases h
theorem SyllableFields.linnorReservedKind : SyllableFields.Statement .linnorReservedKind := by
  intro _ r h; cases h
theorem SyllableFields.linnorRdrsp : SyllableFields.Statement .linnorRdrsp := by
  intro _ r h; cases h
theorem SyllableFields.linnorWrack : SyllableFields.Statement .linnorWrack := by
  intro _ r h; cases h
theorem SyllableFields.linnorAtomrsp : SyllableFields.Statement .linnorAtomrsp := by
  intro _ r h; cases h
theorem SyllableFields.linnorMsgack : SyllableFields.Statement .linnorMsgack := by
  intro _ r h; cases h
theorem SyllableFields.linnorErr : SyllableFields.Statement .linnorErr := by
  intro _ r h; cases h
theorem SyllableFields.linnorResendTimer : SyllableFields.Statement .linnorResendTimer := by
  intro _ r h; cases h
theorem SyllableFields.linnorRequestGiveup : SyllableFields.Statement .linnorRequestGiveup := by
  intro _ r h; cases h
theorem SyllableFields.wakeReplay : SyllableFields.Statement .wakeReplay := by
  intro _ r h; cases h
theorem SyllableFields.pcieInboundRequest : SyllableFields.Statement .pcieInboundRequest := by
  intro _ r h; cases h
theorem SyllableFields.pcieAtsPriRequest : SyllableFields.Statement .pcieAtsPriRequest := by
  intro _ r h; cases h
theorem SyllableFields.pcieAtomicopInbound : SyllableFields.Statement .pcieAtomicopInbound := by
  intro _ r h; cases h
theorem SyllableFields.bar0Access : SyllableFields.Statement .bar0Access := by
  intro _ r h; cases h
theorem SyllableFields.bar2Access : SyllableFields.Statement .bar2Access := by
  intro _ r h; cases h
theorem SyllableFields.mgmtWindowBadAccess : SyllableFields.Statement .mgmtWindowBadAccess := by
  intro _ r h; cases h
theorem SyllableFields.registerWrite : SyllableFields.Statement .registerWrite := by
  intro _ r h; cases h
theorem SyllableFields.routerCycle : SyllableFields.Statement .routerCycle := by
  intro _ r h; cases h
theorem SyllableFields.packetEject : SyllableFields.Statement .packetEject := by
  intro _ r h; cases h
theorem SyllableFields.meshRd : SyllableFields.Statement .meshRd := by
  intro _ r h; cases h
theorem SyllableFields.meshWr : SyllableFields.Statement .meshWr := by
  intro _ r h; cases h
theorem SyllableFields.meshWrb : SyllableFields.Statement .meshWrb := by
  intro _ r h; cases h
theorem SyllableFields.meshWrn : SyllableFields.Statement .meshWrn := by
  intro _ r h; cases h
theorem SyllableFields.meshAmo : SyllableFields.Statement .meshAmo := by
  intro _ r h; cases h
theorem SyllableFields.meshBadd : SyllableFields.Statement .meshBadd := by
  intro _ r h; cases h
theorem SyllableFields.hopBinit : SyllableFields.Statement .hopBinit := by
  intro _ r h; cases h
theorem SyllableFields.hopBread : SyllableFields.Statement .hopBread := by
  intro _ r h; cases h
theorem SyllableFields.hopBtimeout : SyllableFields.Statement .hopBtimeout := by
  intro _ r h; cases h
theorem SyllableFields.hopWqpush : SyllableFields.Statement .hopWqpush := by
  intro _ r h; cases h
theorem SyllableFields.hopWqpop : SyllableFields.Statement .hopWqpop := by
  intro _ r h; cases h
theorem SyllableFields.hopWqsteal : SyllableFields.Statement .hopWqsteal := by
  intro _ r h; cases h
theorem SyllableFields.hopGread : SyllableFields.Statement .hopGread := by
  intro _ r h; cases h
theorem SyllableFields.hopGattach : SyllableFields.Statement .hopGattach := by
  intro _ r h; cases h
theorem SyllableFields.hopGdetach : SyllableFields.Statement .hopGdetach := by
  intro _ r h; cases h
theorem SyllableFields.hopGfold : SyllableFields.Statement .hopGfold := by
  intro _ r h; cases h
theorem SyllableFields.hopCntinc : SyllableFields.Statement .hopCntinc := by
  intro _ r h; cases h
theorem SyllableFields.hopReserved : SyllableFields.Statement .hopReserved := by
  intro _ r h; cases h
theorem SyllableFields.meshReservedKind : SyllableFields.Statement .meshReservedKind := by
  intro _ r h; cases h
theorem SyllableFields.meshRdd : SyllableFields.Statement .meshRdd := by
  intro _ r h; cases h
theorem SyllableFields.meshWack : SyllableFields.Statement .meshWack := by
  intro _ r h; cases h
theorem SyllableFields.meshAmor : SyllableFields.Statement .meshAmor := by
  intro _ r h; cases h
theorem SyllableFields.meshNack : SyllableFields.Statement .meshNack := by
  intro _ r h; cases h
theorem SyllableFields.meshHopr : SyllableFields.Statement .meshHopr := by
  intro _ r h; cases h
theorem SyllableFields.lqctlEnable : SyllableFields.Statement .lqctlEnable := by
  intro _ r h; cases h
theorem SyllableFields.lqctlDisable : SyllableFields.Statement .lqctlDisable := by
  intro _ r h; cases h
theorem SyllableFields.lqtailDoorbell : SyllableFields.Statement .lqtailDoorbell := by
  intro _ r h; cases h
theorem SyllableFields.lfeRecordFetch : SyllableFields.Statement .lfeRecordFetch := by
  intro _ r h; cases h
theorem SyllableFields.waitRecordSatisfied : SyllableFields.Statement .waitRecordSatisfied := by
  intro _ r h; cases h
theorem SyllableFields.signalRecord : SyllableFields.Statement .signalRecord := by
  intro _ r h; cases h
theorem SyllableFields.launchWaitSatisfied : SyllableFields.Statement .launchWaitSatisfied := by
  intro _ r h; cases h
theorem SyllableFields.launchGrant : SyllableFields.Statement .launchGrant := by
  intro _ r h; cases h
theorem SyllableFields.shadowBankLoaded : SyllableFields.Statement .shadowBankLoaded := by
  intro _ r h; cases h
theorem SyllableFields.bankSwap : SyllableFields.Statement .bankSwap := by
  intro _ r h; cases h
theorem SyllableFields.bankSwapDone : SyllableFields.Statement .bankSwapDone := by
  intro _ r h; cases h
theorem SyllableFields.launchCompletion : SyllableFields.Statement .launchCompletion := by
  intro _ r h; cases h
theorem SyllableFields.idleNow : SyllableFields.Statement .idleNow := by
  intro _ r h; cases h
theorem SyllableFields.idlectlWakeWrite : SyllableFields.Statement .idlectlWakeWrite := by
  intro _ r h; cases h
theorem SyllableFields.idleDelayExpiry : SyllableFields.Statement .idleDelayExpiry := by
  intro _ r h; cases h
theorem SyllableFields.idleEntered : SyllableFields.Statement .idleEntered := by
  intro _ r h; cases h
theorem SyllableFields.wakeComplete : SyllableFields.Statement .wakeComplete := by
  intro _ r h; cases h
theorem SyllableFields.pasidActivate : SyllableFields.Statement .pasidActivate := by
  intro _ r h; cases h
theorem SyllableFields.pasidTeardown : SyllableFields.Statement .pasidTeardown := by
  intro _ r h; cases h
theorem SyllableFields.pasidStatusSelect : SyllableFields.Statement .pasidStatusSelect := by
  intro _ r h; cases h
theorem SyllableFields.pasidTeardownComplete : SyllableFields.Statement .pasidTeardownComplete := by
  intro _ r h; cases h
theorem SyllableFields.walkComplete : SyllableFields.Statement .walkComplete := by
  intro _ r h; cases h
theorem SyllableFields.faultRecordDeferred : SyllableFields.Statement .faultRecordDeferred := by
  intro _ r h; cases h
theorem SyllableFields.fbresolveRetry : SyllableFields.Statement .fbresolveRetry := by
  intro _ r h; cases h
theorem SyllableFields.fbresolvePage : SyllableFields.Statement .fbresolvePage := by
  intro _ r h; cases h
theorem SyllableFields.fbresolveProt : SyllableFields.Statement .fbresolveProt := by
  intro _ r h; cases h
theorem SyllableFields.iotinvalVma : SyllableFields.Statement .iotinvalVma := by
  intro _ r h; cases h
theorem SyllableFields.iofenceC : SyllableFields.Statement .iofenceC := by
  intro _ r h; cases h
theorem SyllableFields.counterEpochSweep : SyllableFields.Statement .counterEpochSweep := by
  intro _ r h; cases h
theorem SyllableFields.spawnValidate : SyllableFields.Statement .spawnValidate := by
  intro _ r h; cases h
theorem SyllableFields.regionCompletion : SyllableFields.Statement .regionCompletion := by
  intro _ r h; cases h
theorem SyllableFields.regionFault : SyllableFields.Statement .regionFault := by
  intro _ r h; cases h
theorem SyllableFields.taskDispatch : SyllableFields.Statement .taskDispatch := by
  intro _ r h; cases h
theorem SyllableFields.continuationEligible : SyllableFields.Statement .continuationEligible := by
  intro _ r h; cases h
theorem SyllableFields.levelPromotion : SyllableFields.Statement .levelPromotion := by
  intro _ r h; cases h
theorem SyllableFields.grainRequest : SyllableFields.Statement .grainRequest := by
  intro _ r h; cases h
theorem SyllableFields.preemptRequest : SyllableFields.Statement .preemptRequest := by
  intro _ r h; cases h
theorem SyllableFields.preemptResume : SyllableFields.Statement .preemptResume := by
  intro _ r h; cases h
theorem SyllableFields.leaseGrant : SyllableFields.Statement .leaseGrant := by
  intro _ r h; cases h
theorem SyllableFields.leaseCycleLimit : SyllableFields.Statement .leaseCycleLimit := by
  intro _ r h; cases h
theorem SyllableFields.eventCycleUpdate : SyllableFields.Statement .eventCycleUpdate := by
  intro _ r h; cases h
theorem SyllableFields.deferredTrap : SyllableFields.Statement .deferredTrap := by
  intro _ r h; cases h
theorem SyllableFields.firmwareRestart : SyllableFields.Statement .firmwareRestart := by
  intro _ r h; cases h
theorem SyllableFields.syscallRelease : SyllableFields.Statement .syscallRelease := by
  intro _ r h; cases h
theorem SyllableFields.lookupBankWrite : SyllableFields.Statement .lookupBankWrite := by
  intro _ r h; cases h
theorem SyllableFields.sampleTimer : SyllableFields.Statement .sampleTimer := by
  intro _ r h; cases h
theorem SyllableFields.quillDrain : SyllableFields.Statement .quillDrain := by
  intro _ r h; cases h
theorem SyllableFields.sealTimeout : SyllableFields.Statement .sealTimeout := by
  intro _ r h; cases h
theorem SyllableFields.replayWaitTimeout : SyllableFields.Statement .replayWaitTimeout := by
  intro _ r h; cases h
theorem SyllableFields.barwwaitTimeoutExpiry : SyllableFields.Statement .barwwaitTimeoutExpiry := by
  intro _ r h; cases h
theorem SyllableFields.matrixPassCommit : SyllableFields.Statement .matrixPassCommit := by
  intro _ r h; cases h
theorem SyllableFields.foldFinish : SyllableFields.Statement .foldFinish := by
  intro _ r h; cases h
theorem SyllableFields.foldAbandon : SyllableFields.Statement .foldAbandon := by
  intro _ r h; cases h
theorem SyllableFields.prop : SyllableFields.Statement .prop := by
  intro _ r h; cases h; rfl
theorem SyllableFields.ckpt : SyllableFields.Statement .ckpt := by
  intro _ r h; cases h; rfl
theorem SyllableFields.commit : SyllableFields.Statement .commit := by
  intro _ r h; cases h; rfl
theorem SyllableFields.nop : SyllableFields.Statement .nop := by
  intro _ r h; cases h; rfl
theorem SyllableFields.transferTakesPlace : SyllableFields.Statement .transferTakesPlace := by
  intro _ r h; cases h
theorem SyllableFields.retire : SyllableFields.Statement .retire := by
  intro _ r h; cases h; rfl
theorem SyllableFields.eret : SyllableFields.Statement .eret := by
  intro _ r h; cases h; rfl
theorem SyllableFields.idle : SyllableFields.Statement .idle := by
  intro _ r h; cases h; rfl
theorem SyllableFields.rfnext : SyllableFields.Statement .rfnext := by
  intro _ r h; cases h; rfl
theorem SyllableFields.rfend : SyllableFields.Statement .rfend := by
  intro _ r h; cases h; rfl
theorem SyllableFields.ldrLanding : SyllableFields.Statement .ldrLanding := by
  intro _ r h; cases h
theorem SyllableFields.dup : SyllableFields.Statement .dup := by
  intro _ r h; cases h
theorem SyllableFields.drop : SyllableFields.Statement .drop := by
  intro _ r h; cases h
theorem SyllableFields.swap : SyllableFields.Statement .swap := by
  intro _ r h; cases h
theorem SyllableFields.over : SyllableFields.Statement .over := by
  intro _ r h; cases h
theorem SyllableFields.rep : SyllableFields.Statement .rep := by
  intro _ r h; cases h
theorem SyllableFields.endrep : SyllableFields.Statement .endrep := by
  intro _ r h; cases h
theorem SyllableFields.engineNop : SyllableFields.Statement .engineNop := by
  intro _ r h; cases h
theorem SyllableFields.halt : SyllableFields.Statement .halt := by
  intro _ r h; cases h
theorem SyllableFields.classW : SyllableFields.Statement .classW := by
  intro _ r h; cases h
theorem SyllableFields.lease : SyllableFields.Statement .lease := by
  intro _ r h; cases h
theorem SyllableFields.free : SyllableFields.Statement .free := by
  intro _ r h; cases h
theorem SyllableFields.mzero : SyllableFields.Statement .mzero := by
  intro _ r h; cases h
theorem SyllableFields.mwin : SyllableFields.Statement .mwin := by
  intro _ r h; cases h
theorem SyllableFields.mma : SyllableFields.Statement .mma := by
  intro _ r h; cases h
theorem SyllableFields.mmas : SyllableFields.Statement .mmas := by
  intro _ r h; cases h
theorem SyllableFields.mmasp : SyllableFields.Statement .mmasp := by
  intro _ r h; cases h
theorem SyllableFields.mstore : SyllableFields.Statement .mstore := by
  intro _ r h; cases h
theorem SyllableFields.copy : SyllableFields.Statement .copy := by
  intro _ r h; cases h
theorem SyllableFields.copy2 : SyllableFields.Statement .copy2 := by
  intro _ r h; cases h
theorem SyllableFields.mcast : SyllableFields.Statement .mcast := by
  intro _ r h; cases h
theorem SyllableFields.gld : SyllableFields.Statement .gld := by
  intro _ r h; cases h
theorem SyllableFields.decomp : SyllableFields.Statement .decomp := by
  intro _ r h; cases h
theorem SyllableFields.fill : SyllableFields.Statement .fill := by
  intro _ r h; cases h
theorem SyllableFields.barann : SyllableFields.Statement .barann := by
  intro _ r h; cases h
theorem SyllableFields.pcieCompletion : SyllableFields.Statement .pcieCompletion := by
  intro _ r h; cases h
theorem SyllableFields.illegalBundle : SyllableFields.Statement .illegalBundle := by
  intro _ r h; cases h
theorem SyllableFields.illegalEngineWord : SyllableFields.Statement .illegalEngineWord := by
  intro _ r h; cases h
theorem SyllableFields.loopbStartSkew : SyllableFields.Statement .loopbStartSkew := by
  intro _ r h; cases h

end Sys2Proof.Laws
end

