-- ==== Sys2Proof/Tests/Slice0.lean ====
section
/-!
SUPPORT. Tests of one step each, ill-formed terms that `WellFormed` refuses, words written out from the encodings, and
witnesses of the hypotheses of the statements: `witness_X` is about `Obligations.X` or `Claims.X`.
-/

set_option maxRecDepth 100000
set_option Elab.async false

namespace Sys2Proof.Tests

open Sys2Proof Sys2Proof.Machine Sys2Proof.Safety

/-! ### States -/

/-- A page of 1 GiB at 0 that maps to stack 0, with every right. -/
def page : TlbEntry := { pasid := 0, va := 0, size := 3, pa := 0, r := true, w := true, x := true, d := true }

/-- The context of one process, with its root table at page `root`, as the process directory holds it. -/
def process (root : Nat) : List Byte := leBytes 8 1 ++ leBytes 8 (9 * 2 ^ 60 + root)

/-- A directory of one level at page 0x30. -/
def directory : BitVec 64 := 0x1000000000000030

/-- Region 1: a root of PASID 0 on tiles 0 and 1, with four granules of SRAM. -/
def tree : Region :=
  { rcb := 0x800000, pasid := 0, parent := 0, root := 1, depth := 0, state := .running, prio := 5, fdom := true, debug := false
    conf := false, mxshare := 16, swshare := 16, tiles := [0, 1], cores := [0, 1, 2, 3, 4, 5, 6, 7], tileBudget := 2
    coreBudget := 8, sramBudget := 4, carved := 7, granules := [0, 1, 96, 97], first := 0, count := 10, entry := 0x1000
    args := 0x3000 }

/-- A package in service: every stack and tile answers, and addresses below 1 GiB map to themselves. -/
def plant : State :=
  { State.reset with
    boot := { State.reset.boot with hbm := BitVec.allOnes 12, tiles := BitVec.allOnes 256, meshUp := 3 }
    mmu := { State.reset.mmu with l2 := [(0, [page])], pasids := [(0, .active)] }
    regions := [(1, tree)], lives := [(1, { live := 2, pool := 0x900000 })]
    dist := { State.reset.dist with owners := [(0, 1), (1, 1), (96, 1), (97, 1)] } }

/-- A task at 0x1000 of region 1 with the registers `rs`. BD1 is memory from 0x4000, BD2 the tile's own SRAM, BD3 all the
region's SRAM, of which offsets from 0x20000 lie on tile 1. -/
def task (rs : List (DReg × Word)) : Ctx :=
  { running := true, pc := 0x1000, count := 5, id := { region := 1, prio := 5 }
    regs := rs.foldl (fun r x => r.write (.d x.1 (Dom.single x.2)))
      { bd := [(1, descBits 0x4000 0x4000 0 0 2), (2, descBits 0 0x20000 0 1 1), (3, descBits 0 0x40000 0 2 3)] } }

/-- Core 0 runs a task with the registers `rs`. -/
def home (rs : List (DReg × Word)) : State := { plant with cores := [(0, { user := task rs })] }

/-- The same, in the firmware context. -/
def firm (rs : List (DReg × Word)) : State := { plant with cur := .fw 0, cores := [(0, { fw := task rs })] }

/-- Lookup core 0 runs a task. -/
def probe (rs : List (DReg × Word)) : State :=
  { plant with cur := .lookup 0, lookups := [(0, { busy := true, ctx := task rs })] }

/-- The copy sequencer of core 0 runs at 0x2000 with the stack `st`, the top first, and the word `w`. -/
def copier (w : BitVec 16) (st : List Word) : State :=
  { plant with
    cur := .copy 0, word := w
    cores := [(0, { user := task [], cpy := { state := .running, word := 0x2000, stack := st } })] }

/-- The matrix sequencer of core 0 runs at 0x2000 with the stack `st`, the top first, and the word `w`. -/
def array (w : BitVec 16) (st : List Word) : State :=
  { plant with
    cur := .matrix 0, word := w
    cores := [(0, { user := task [], mat := { state := .running, word := 0x2000, stack := st } })] }

/-- The state after `i`, if there is one. -/
def ran (i : Instr) (s : State) : Option State := match exec i s with | .next t => some t | _ => none

/-- The context after `i`. -/
def after (i : Instr) (s : State) : Ctx := ((ran i s).getD State.reset).ctx

/-- The state after one step. -/
def stepped (s : State) : Option State := match step s with | .next t => some t | _ => none

/-- A result in flight. -/
def coming (dist : Nat) (frozen : Bool) (r : DReg) (v : Word) : Pend := ⟨dist, frozen, 0, 3, .d r (Dom.single v)⟩

/-- An access that a context has sent and that is not answered. -/
def sentAccess : Access := { cls := 2, dst := 0, seq := 0, x := false, addr := 0x4000, len := 4, off := false, write := true }

/-! ### Encodings -/

theorem witness_SyllableRoundTrip :
    isSyllable (.addI 63 1 0xFFFFFFFF) = true ∧ (Instr.addI 63 1 0xFFFFFFFF).wf = true
      ∧ (encode true (.addI 63 1 0xFFFFFFFF)).isSome = true := by decide +kernel

theorem witness_ReservedClass : syllableClass 0x7000000000000000 = 7 ∧ syllableClass 0xFFFFFFFFFFFFFFFF = 7
    ∧ ([0x0000000000000000#64, 0x01B0500000000028#64].all (fun v => !v.getLsbD 63)) = true := by decide +kernel

theorem witness_EngineWordRoundTrip :
    encodeEngine .halt = some 0x4C01 ∧ (⟨false, 0, 0, false, false⟩ : ArrayMods).okMma = true := by decide +kernel

/-! ### Steps -/

/-- `MOVI D5, 40` stands at 0x1000. -/
def atPc : State := (home []).setBytes 0x1000 (leBytes 8 0x81B0500000000028)

theorem issuing_atPc : Issuing atPc :=
  ⟨rfl, rfl, ⟨0, .inl rfl⟩, fun k h => by cases h; decide +kernel, by decide +kernel, by decide +kernel, by decide +kernel,
    by decide +kernel, by decide +kernel, by decide +kernel, by decide +kernel, by decide +kernel⟩

theorem witness_StepRunsSyllable :
    Issuing atPc ∧ SyllableAt { atPc with issue := {} } 0x81B0500000000028 { atPc with issue := {} }
      ∧ NoBreak { atPc with issue := {} } atPc.ctx.pc
      ∧ decodeSyllable 0x81B0500000000028 = some (.movi 5 40)
      ∧ slotOf (syllableClass 0x81B0500000000028) none = some .da :=
  ⟨issuing_atPc, ⟨0x1000, by decide +kernel, by decide +kernel, by decide +kernel⟩, by unfold NoBreak; decide +kernel,
    by decide +kernel, by decide +kernel⟩

theorem test_step_movi : (stepped atPc).map (fun t => (t.ctx.regs.dom 5, t.ctx.pc, t.ctx.count))
    = some (Dom.single 40, 0x1008, 6) := by decide +kernel

/-- `MOV D5, D6` and `MOV D6, D5` make one bundle at 0x1000. -/
def atPair : State := (home [(5, 11), (6, 22)]).setBytes 0x1000
  (leBytes 8 ((encode false (.mov 5 6)).getD 0).toNat ++ leBytes 8 ((encode true (.mov 6 5)).getD 0).toNat)

theorem issuing_atPair : Issuing atPair :=
  ⟨rfl, rfl, ⟨0, .inl rfl⟩, fun k h => by cases h; decide +kernel, by decide +kernel, by decide +kernel, by decide +kernel,
    by decide +kernel, by decide +kernel, by decide +kernel, by decide +kernel, by decide +kernel⟩

theorem witness_StepRunsBundle :
    Issuing atPair ∧ fetchSyllables 4 { atPair with issue := {} } atPair.ctx.pc
        = .got [(encode false (.mov 5 6)).getD 0, (encode true (.mov 6 5)).getD 0] { atPair with issue := {} }
      ∧ NoBreak { atPair with issue := {} } atPair.ctx.pc
      ∧ decodeBundle [(encode false (.mov 5 6)).getD 0, (encode true (.mov 6 5)).getD 0]
        = some [(.da, .mov 5 6), (.db, .mov 6 5)] :=
  ⟨issuing_atPair, by decide +kernel, by unfold NoBreak; decide +kernel, by decide +kernel⟩

/-- A bundle exchanges two registers (R187). -/
theorem test_bundle_exchange : (stepped atPair).map (fun t => (t.ctx.regs.dom 5, t.ctx.regs.dom 6, t.ctx.pc))
    = some (Dom.single 22, Dom.single 11, 0x1010) := by decide +kernel

/-- A word of class 111 at 0x1000. -/
def atHole : State := (home []).setBytes 0x1000 (leBytes 8 0xF000000000000000)

theorem witness_StepRunsBundle_none :
    (fetchSyllables 4 { atHole with issue := {} } atHole.ctx.pc
        = .got [0xF000000000000000] { atHole with issue := {} }) ∧ decodeBundle [0xF000000000000000] = none := by decide +kernel

/-- `AWAIT E0` stands at 0x2000 in a matrix stream. -/
def atWord : State := (array 0 []).setBytes 0x2000 (leBytes 2 0x5800)

theorem witness_StepRunsEngineWord : Streaming atWord ∧ WordAt { atWord with issue := {} } 0x5800 { atWord with issue := {} } :=
  ⟨⟨rfl, rfl, ⟨0, .inl rfl⟩, fun k h => by cases h; decide +kernel, by decide +kernel, by decide +kernel, by decide +kernel,
    by decide +kernel, by decide +kernel⟩, 0x2000, by decide +kernel, by decide +kernel, by decide +kernel, by decide +kernel⟩

theorem witness_StepTakesTurns :
    (isHappening .routerCycle = true ∧ (ran .routerCycle (home [])).isSome = true)
      ∧ (isHappening .powerOnReset = true ∧ offHappening .powerOnReset = true
        ∧ (ran .powerOnReset State.reset).isSome = true) := by decide +kernel

theorem witness_MemoryStaysCanonical : MemInv atPc ∧ (stepped atPc).isSome = true := by
  unfold MemInv; decide +kernel

theorem witness_off : stepped { State.reset with boot := { State.reset.boot with off := true } } = none := by decide +kernel

/-! ### Bundles -/

/-- Core 0 with results in flight: D4 comes in the next bundle, D5 in two, D6 is frozen. -/
def inFlight : State := (home [(1, 7), (2, 3)]).modCtx
  (fun c => { c with pend := [coming 1 false 4 44, coming 2 false 5 55, coming 1 true 6 66] })

theorem witness_BundleEnd : Plain inFlight
    ∧ (∀ p ∈ (home []).ctx.pend ++ [coming 1 true 6 66, coming 2 false 5 55], p.frozen = true ∨ 2 ≤ p.dist) := by
  unfold Plain; decide +kernel

theorem witness_ResultLands : Plain inFlight ∧ Older inFlight.ctx := by unfold Plain Older; decide +kernel

theorem witness_ResultWaits : 1 ≤ 3 ∧ (home []).ctx.pend = [] ∧ 2 < 3 := by decide +kernel

theorem test_three_bundles : let c := { (home []).ctx with pend := [⟨3, false, 0, 5, .d 7 (Dom.single 9)⟩] }
    (Ctx.age c.age).regs.dom 7 = Dom.single 0 ∧ c.age.age.age.regs.dom 7 = Dom.single 9 := by decide +kernel

/-- As many results in flight as R188 admits, none of them due. -/
def full : State := (home [(1, 7), (2, 3)]).modCtx
  (fun c => { c with pend := (List.range 64).map (fun k => coming 9 false (BitVec.ofNat 6 k) 1) })

theorem witness_InFlightLimit : Alone full ∧ coming 9 false 0 1 ∈ full.ctx.pend
    ∧ (full.write 3 (.d 5 (Fn.mul (full.ctx.regs.dom 1) (full.ctx.regs.dom 2)))).ctx.overLimit = true := by
  unfold Alone; decide +kernel

theorem test_in_flight_limit : (after (.mul 5 1 2) full).pc = 0x1000 ∧ (after (.mul 5 1 2) full).count = 6 := by decide +kernel

theorem witness_BundleReadsBefore :
    let s := home [(1, 7), (2, 3)]
    (.mul 5 1 2, 3, Fn.mul (s.ctx.regs.dom 1) (s.ctx.regs.dom 2)) ∈ domainForms 5 1 2 0 (s.ctx.regs.dom 1) (s.ctx.regs.dom 2)
      ∧ (.add 1 5 2, 1, Fn.add (s.ctx.regs.dom 5) (s.ctx.regs.dom 2))
        ∈ domainForms 1 5 2 0 (s.ctx.regs.dom 5) (s.ctx.regs.dom 2)
      ∧ s.issue = {} ∧ Room (((({ s with issue := { len := 2, slot := 0 } } : State).write 3
          (.d 5 (Fn.mul (s.ctx.regs.dom 1) (s.ctx.regs.dom 2)))) : State).write 1 (.d 1 (Fn.add (s.ctx.regs.dom 5) (s.ctx.regs.dom 2)))) := by
  unfold Room; decide +kernel

/-! ### Class 000, functional -/

theorem witness_SingletonResults :
    let s := home [(1, 0x80000000), (2, 0xFFFFFFFF)]
    Alone s ∧ s.ctx.regs.dom 1 = Dom.single 0x80000000 ∧ s.ctx.regs.dom 2 = Dom.single 0xFFFFFFFF
      ∧ Room (s.write 12 (.d 3 (Dom.single 0x80000000))) := by
  unfold Alone Room; decide +kernel

/-- R275's corners: the least number divided by -1, division by zero, counts of 32, the most negative absolute value. -/
theorem test_corners : let s := home [(1, 0x80000000), (2, 0xFFFFFFFF), (3, 32)]
    ((after (.div 4 1 2) s).pend.map (·.wr), (after (.rem 4 1 2) s).pend.map (·.wr), (after (.div 4 1 0) s).pend.map (·.wr))
      = ([.d 4 (Dom.single 0x80000000)], [.d 4 (Dom.single 0)], [.d 4 (Dom.single 0xFFFFFFFF)])
    ∧ ((after (.abs 4 1) s).regs.dom 4, (after (.shl 4 2 3) s).regs.dom 4, (after (.clz 4 0) s).regs.dom 4)
      = (Dom.single 0x80000000, Dom.single 0xFFFFFFFF, Dom.single 32) := by decide +kernel

theorem witness_ExtensionResults :
    let s := home [(1, 0x80000080)]
    Alone s ∧ 1 ≤ (32 : Word).toNat ∧ (32 : Word).toNat ≤ 32 ∧ 1 ≤ (1 : Word).toNat ∧ s.ctx.regs.dom 1 = Dom.single 0x80000080 := by
  unfold Alone; decide +kernel

theorem test_extensions : let s := home [(1, 0x80000080)]
    ((after (.sext 4 1 8) s).regs.dom 4, (after (.zext 4 1 8) s).regs.dom 4, (after (.sext 4 1 32) s).regs.dom 4)
      = (Dom.single 0xFFFFFF80, Dom.single 0x80, Dom.single 0x80000080) := by decide +kernel

theorem witness_FunctionalForms :
    Alone inFlight ∧ Plain inFlight ∧ Older inFlight.ctx
      ∧ (.mul 5 1 2, 3, Fn.mul (inFlight.ctx.regs.dom 1) (inFlight.ctx.regs.dom 2))
        ∈ domainForms 5 1 2 0 (inFlight.ctx.regs.dom 1) (inFlight.ctx.regs.dom 2)
      ∧ Room (inFlight.write 3 (.d 5 (Fn.mul (inFlight.ctx.regs.dom 1) (inFlight.ctx.regs.dom 2)))) := by
  unfold Alone Plain Older Room; decide +kernel

theorem witness_FunctionalSound : (Dom.mk 3 70 0xF00000000000000F).canonical = true ∧ (Dom.mk 3 70 0xF00000000000000F).mem 5 = true
    ∧ (Dom.mk 3 70 0xF00000000000000F).mem 70 = true := by decide +kernel

/-! ### Traps -/

/-- Core 0 with both vectors set and two results in flight. -/
def vectored : State := (home []).modCtx (fun c => { c with
  trapvec := 0x8000, failvec := 0x9000, pend := [coming 1 false 4 44, coming 2 false 5 55] })

theorem witness_TrapEntry : vectored.trapFatal { code := tProt } = false ∧ vectored.trapFatal { code := tFail } = false
    ∧ vectored.ctx.dbg.replayctl.extractLsb' 62 2 = 0 ∧ tProt ≠ tDebug ∧ tFail ≠ tDebug := by decide +kernel

theorem test_trap_entry : let c := (vectored.takeTrap { code := tFail, arg := 5 }).ctx
    (c.pc, c.trappc, c.trapcode, c.status.intrap, c.pend.map (·.frozen)) = (0x9000, 0x1000, 0x50000 + BitVec.zeroExtend 64 tFail, true, [true, true]) := by
  decide +kernel

theorem witness_FatalTrap : (home []).ctx.dbg.replayctl.extractLsb' 62 2 = 0 ∧ (home []).trapFatal { code := tProt } = true
    ∧ (home []).isFw = false ∧ (firm []).isFw = true ∧ (firm []).ctx.dbg.replayctl.extractLsb' 62 2 = 0
    ∧ (vectored.trapFatal { code := tProt }) = false := by decide +kernel

/-- Core 0 in a handler, with a result frozen. -/
def handling (ps : List Pend) : State := (home []).modCtx (fun c => { c with
  status := { c.status with intrap := true }, trappc := 0x1238, pend := ps, trapAt := 4 })

theorem witness_ReturnFromTrap : Alone (handling [coming 2 true 5 55]) ∧ Plain (handling [coming 2 true 5 55])
    ∧ (handling [coming 2 true 5 55]).ctx.status.intrap = true ∧ (handling []).ctx.window = 0
    ∧ (handling []).ctx.ldrs = [] ∧ (∀ p ∈ (handling [coming 2 true 5 55]).ctx.pend, p.frozen = true)
    ∧ Room (handling [coming 2 true 5 55]) ∧ coming 2 false 4 4 ∈ (handling [coming 2 true 5 55, coming 2 false 4 4]).ctx.pend
    ∧ (home []).ctx.status.intrap = false
    ∧ ((handling []).modCtx (fun c => { c with window := 1 })).ctx.window ≠ 0 := by
  unfold Alone Plain Room; decide +kernel

theorem test_eret : (after .eret (handling [coming 2 true 5 55])).pc = 0x1238
    ∧ (after .eret (handling [coming 2 true 5 55])).pend = [coming 2 false 5 55] := by decide +kernel

/-- Core 0 whose D15 is no singleton. -/
def wide15 : State := (home []).modCtx (fun c => { c with regs := c.regs.write (.d 15 Dom.full) })

/-- Core 0 bound to a region with the debug capability. -/
def debugged : State := (home []).modCtx (fun c => { c with id := { c.id with debug := true } })

theorem witness_SoftwareTraps : Alone (home []) ∧ Plain (home []) ∧ Room (home []) ∧ (home []).ctx.status.intrap = false
    ∧ debugged.debugCap = true ∧ (home []).debugCap = false ∧ (home []).isUser = true ∧ (firm []).isUser = false
    ∧ (∀ k : Fin 8, ((home []).ctx.regs.dom (BitVec.ofNat 6 (8 + k.val))).isSingle = true)
    ∧ (wide15.ctx.regs.dom 15).isSingle = false ∧ wide15.isUser = true := by
  unfold Alone Plain Room; decide +kernel

/-- A trap of `TRAP 5` waits at core 0, and one of `SYSCALL 5` at core 4. -/
def pendingTraps : State := { plant with
  cores := [(0, { user := { running := true, pc := 0x1008, trapvec := 0x8000, deferred := [⟨4, { code := tTrap, arg := 5 }, []⟩] } }),
    (4, { user := { running := true, pc := 0x1010
                    deferred := [⟨3, { code := tSyscall, arg := 5 }, [1, 2, 3, 4, 5, 6, 7, 8]⟩] } })] }

theorem witness_DeferredTraps :
    (pendingTraps.ctxOf (.user 0)).nextDeferred = some ⟨4, { code := tTrap, arg := 5 }, []⟩
      ∧ (pendingTraps.core 4).user.nextDeferred = some ⟨3, { code := tSyscall, arg := 5 }, [1, 2, 3, 4, 5, 6, 7, 8]⟩
      ∧ (pendingTraps.core 4).user.dbg.replayctl.extractLsb' 62 2 = 0 ∧ MemInv pendingTraps := by
  unfold MemInv; decide +kernel

theorem test_trap_taken : (ran .deferredTrap { pendingTraps with inp := { who := .user 0 } }).map
    (fun t => ((t.core 0).user.pc, (t.core 0).user.trappc, (t.core 0).user.trapcode, (t.core 0).user.status.intrap))
      = some (0x8000, 0x1008, 0x50000 + (BitVec.zeroExtend 64 tTrap), true) := by decide +kernel

/-- Core 0 waits in `SYSCALL`, and its firmware has set RET and cleared PENDING. -/
def waiting : State := ((home []).modCtx (fun c => { c with waits := { c.waits with syscall := true } })).setBytes
  (storeCell 0 0x128) (leBytes 4 77)

theorem witness_SyscallRelease : (waiting.core 0).user.waits.syscall = true
    ∧ waiting.bytes (storeCell 0 0x100) 4 = [0, 0, 0, 0] := by decide +kernel

theorem test_syscall_release : (ran .syscallRelease waiting).map (fun t => ((t.core 0).user.regs.dom 8, (t.core 0).user.waits.syscall))
    = some (Dom.single 77, false) := by decide +kernel

/-! ### Building domains, relations, propagation -/

/-- Core 0 with domains: D1 = 3 to 70, D2 = 0 to 9, D3 = 5. -/
def ranged : State := (home [(3, 5)]).modCtx (fun c => { c with
  regs := (c.regs.write (.d 1 ((Dom.dense 3 70).getD Dom.full))).write (.d 2 ((Dom.dense 0 9).getD Dom.full)) })

theorem witness_DomainBuilding : Alone (home [(1, 3), (2, 70)])
    ∧ ((home [(1, 3), (2, 70)]).ctx.regs.dom 1).isSingle = true ∧ ((home [(1, 3), (2, 70)]).ctx.regs.dom 2).isSingle = true
    ∧ ((home [(1, 3), (2, 70)]).ctx.regs.dom 1).l ≤ ((home [(1, 3), (2, 70)]).ctx.regs.dom 2).l
    ∧ (ranged.ctx.regs.dom 1).isSingle = false
    ∧ ((home [(1, 3), (2, 2)]).ctx.regs.dom 2).l < ((home [(1, 3), (2, 2)]).ctx.regs.dom 1).l
    ∧ Room ((home [(1, 3), (2, 70)]).write 1 (.d 5 Dom.full)) := by
  unfold Alone Room; decide +kernel

theorem test_dset : (after (.dset 5 1 2) (home [(1, 3), (2, 70)])).regs.dom 5 = ⟨3, 70, 0xFFFFFFFFFFFFFFFF⟩
    ∧ (after (.dset 5 1 2) (home [(1, 3), (2, 3)])).regs.dom 5 = Dom.single 3 := by decide +kernel

theorem test_dset_empty : ((after (.dset 5 2 1) (home [(1, 3), (2, 70)])).failinfo.extractLsb' 56 8,
    (ran (.dset 5 2 1) (home [(1, 3), (2, 70)])).map (·.sched.length)) = (0x30, some 1) := by decide +kernel

theorem witness_ExclusionResults : Alone ranged ∧ Landed ranged.ctx [2] ∧ Landed ranged.ctx [2, 3]
    ∧ ranged.ctx.regs.dom 3 = Dom.single 5 ∧ (ranged.ctx.regs.dom 2).exclude 5 = some ⟨0, 9, 0x3DF⟩
    ∧ (⟨0, 9, 0x3DF⟩ : Dom) ≠ ranged.ctx.regs.dom 2 ∧ ranged.isFw = false ∧ ranged.ctx.cons.trailFull 1 = false
    ∧ (ranged.ctx.regs.dom 3).exclude 5 = none ∧ (ranged.ctx.regs.dom 2).exclude 10 = some (ranged.ctx.regs.dom 2)
    ∧ Room (ranged.write 2 (.d 2 ⟨0, 9, 0x3DF⟩)) := by
  unfold Alone Landed Room; decide +kernel

/-- D1 = D2 + D3 over `ranged`: D1 becomes 5 to 14. -/
def added : StoreEntry := ⟨0x00, 1, 2, 3, 0⟩

theorem witness_RelationalForms : Alone ranged ∧ ranged.isFw = false
    ∧ (.addR 1 2 3, .addRk 1 2 3, added) ∈ relationalForms 1 2 3 0 ∧ Landed ranged.ctx added.names
    ∧ (match passOf added ranged.ctx.regs.dom with
      | .ok env => !ranged.ctx.cons.trailFull (changedRegs added.names ranged.ctx.regs.dom env).length
        && Assoc.find? env 1 == some ⟨5, 14, 0x3FF⟩
      | .error _ => false) = true
    ∧ ranged.ctx.cons.store.length < 256 := by
  unfold Alone Landed; decide +kernel

theorem test_add_relation : (after (.addRk 1 2 3) ranged).pend.map (·.wr) = [.d 1 ⟨5, 14, 0x3FF⟩]
    ∧ (after (.addRk 1 2 3) ranged).cons.store = [added] := by decide +kernel

theorem witness_RelationalTraps : Alone ranged ∧ (firm []).isFw = true
    ∧ (match passOf (⟨0xA0, 0, 1, 0, 2⟩ : StoreEntry) ranged.ctx.regs.dom with | .ok _ => none | .error r => some r) = some 1
    ∧ (let s := ranged.modCtx (fun c => { c with pend := [coming 2 false 2 1] })
       (∀ r ∈ added.names, s.ctx.ldrTo r = false) ∧ (2 : DReg) ∈ added.names ∧ s.ctx.inFlight (2 : DReg).toNat = true)
    ∧ (ranged.modCtx (fun c => { c with cons := { c.cons with
        marks := [(0, 0)], trail := List.replicate 4096 (1, Dom.full) } })).ctx.cons.trailFull 1 = true := by
  unfold Alone; decide +kernel

theorem witness_RelationalSound : (∀ r : DReg, (ranged.ctx.regs.dom r).canonical = true) ∧ ranged.ctx.regs.dom 0 = Dom.single 0
    ∧ (Instr.addR 1 2 3).wf = true := by
  refine ⟨?_, by decide +kernel, by decide +kernel⟩
  have h : ∀ k : Fin 64, (ranged.ctx.regs.dom (BitVec.ofFin k)).canonical = true := by decide +kernel
  exact fun r => h r.toFin

/-- The same with the relation in the store and in the queue, and a mark. -/
def queued : State := ranged.modCtx (fun c => { c with cons := { c.cons with store := [added], queue := [0], marks := [(0, 1)] } })

/-- The registers that the entry at the head of the queue changes. -/
def headEnv (s : State) : Assoc Dom := match passOf added s.ctx.regs.dom with | .ok env => env | .error _ => []

/-- `queued` after one run, and after two. -/
def ranOnce : State := applyRun ((pointStart queued).modCtx
  (fun c => { c with cons := { c.cons with queue := [], runs := c.cons.runs + 1 } }))
  (changedRegs added.names (pointStart queued).ctx.regs.dom (headEnv (pointStart queued)))

def ranTwice : State := applyRun (ranOnce.modCtx
  (fun c => { c with cons := { c.cons with queue := [], runs := c.cons.runs + 1 } }))
  (changedRegs added.names ranOnce.ctx.regs.dom (headEnv ranOnce))

/-- The narrowing of the first run wakes its own entry; the second run changes nothing. -/
theorem runs_queued : RunsTo (pointStart queued) ranTwice :=
  .more ⟨0, [], added, headEnv (pointStart queued), by decide +kernel, by decide +kernel, by decide +kernel,
    by decide +kernel, by decide +kernel, rfl⟩
    (.more ⟨0, [], added, headEnv ranOnce, by decide +kernel, by decide +kernel, by decide +kernel, by decide +kernel,
      by decide +kernel, rfl⟩ (.zero _))

theorem witness_PropagationPoints : PointReady queued [1] ∧ RunsTo (pointStart queued) ranTwice ∧ ranTwice.ctx.cons.queue = []
    ∧ queued.ctx.cons.marks.length < 16 := by
  refine ⟨?_, runs_queued, by decide +kernel, by decide +kernel⟩
  unfold PointReady Alone Landed; decide +kernel

theorem test_prop : let c := after .prop queued
    (c.regs.dom 1, c.cons.queue, c.cons.trail, c.cons.pstate, c.cons.runs)
      = (⟨5, 14, 0x3FF⟩, [], [(1, (Dom.dense 3 70).getD Dom.full)], 1, 2) := by decide +kernel

theorem test_dpick : (after (.dpick 1) queued).regs.dom 1 = Dom.single 5 := by decide +kernel

/-- With a limit of 0 runs the point ends in BUDGET at once. -/
theorem witness_PropagationPoints_budget :
    let s := queued.modCtx (fun c => { c with cons := { c.cons with limit := 1, queue := [0, 0] } })
    PointReady s [1] ∧ (pointStart s).ctx.cons.queue ≠ [] ∧ (after .prop s).cons.pstate = 2 := by
  unfold PointReady Alone Landed; decide +kernel

/-- A store entry whose pass fails stands at the head. -/
def doomed : State := ranged.modCtx (fun c => { c with cons := { c.cons with store := [⟨0xA0, 0, 1, 0, 2⟩], queue := [0] } })

theorem witness_PropagationFails : PointReady doomed [1] ∧ RunsTo (pointStart doomed) (pointStart doomed)
    ∧ (pointStart doomed).ctx.cons.queue = [0] ∧ (pointStart doomed).ctx.cons.runs.toNat ≠ (pointStart doomed).ctx.cons.runLimit
    ∧ (pointStart doomed).ctx.cons.store[0]? = some ⟨0xA0, 0, 1, 0, 2⟩
    ∧ (match passOf (⟨0xA0, 0, 1, 0, 2⟩ : StoreEntry) (pointStart doomed).ctx.regs.dom with | .ok _ => none | .error r => some r)
      = some 1 := by
  refine ⟨by unfold PointReady Alone Landed; decide +kernel, .zero _, by decide +kernel⟩

/-- A mark stands, and D1 has been narrowed since. -/
def marked : State := ranged.modCtx (fun c => { c with cons := { c.cons with
  marks := [(0, 0)], trail := [(1, Dom.full)], store := [added], queue := [0] } })

theorem witness_RestoreUndoes : Alone marked ∧ marked.isFw = false ∧ marked.ctx.cons.marks[(0 : Word).toNat]? = some (0, 0)
    ∧ 0 ≤ marked.ctx.cons.trail.length ∧ Landed marked.ctx ((marked.ctx.cons.trail.take 1).map (·.1))
    ∧ marked.ctx.cons.marks[(1 : Word).toNat]? = none := by
  unfold Alone Landed; decide +kernel

theorem test_restore : let c := after (.restore 0) marked
    c.regs.dom 1 = Dom.full ∧ (c.cons.store, c.cons.queue) = ([], []) ∧ (c.cons.marks, c.cons.trail) = ([], []) := by decide +kernel

theorem witness_CommitRemovesMark : Alone marked ∧ marked.isFw = false ∧ marked.ctx.cons.marks = [] ++ [(0, 0)] ∧ Room marked
    ∧ ranged.ctx.cons.marks = [] ∧ (firm []).isFw = true := by
  unfold Alone Room; decide +kernel

theorem test_commit : ((after .commit marked).cons.marks, (after .commit marked).cons.trail, (after .commit marked).cons.queue)
    = ([], [], [0]) := by decide +kernel

/-! ### Class 001: targets, transfers, loops, events -/

/-- The outcome of an operand's check. -/
def holds (x : Eff α) (f : α → Bool) : Bool := match x with | .ok a => f a | .error _ => false

/-- The table of a `PREPJ` at 0x4000. -/
def jumping : State := (home [(1, 1), (2, 2)]).setBytes 0x4008 (leBytes 8 0x7770)

theorem witness_TargetsAndConditions : Alone jumping ∧ jumping.ctx.regs.dom 1 = Dom.single 1 ∧ jumping.ctx.regs.dom 2 = Dom.single 2
    ∧ (1 : Word).toNat < (2 : BitVec 14).toNat ∧ (1 : BitVec 14).toNat ≤ (1 : Word).toNat
    ∧ holds (loadHeld jumping 1 (8 * (1 : Word).toNat) 8 8) (fun x => BitVec.ofNat 64 (leNat x.1) == 0x7770) = true
    ∧ holds (loadHeld (jumping.setBytes 0x4008 [1]) 1 8 8 8) (fun x => (BitVec.ofNat 64 (leNat x.1)).extractLsb' 0 3 != 0) = true
    ∧ Room (jumping.write 3 (.b 0 0x7770)) := by
  unfold Alone Room; decide +kernel

theorem test_prepj : (after (.prepj 0 1 1 2 5) jumping).pend.map (·.wr) = [.b 0 0x7770]
    ∧ (after (.prepj 0 1 1 1 5) jumping).pend.map (·.wr) = [.b 0 0x1028] := by decide +kernel

theorem test_cmp : (after (.cmpI 1 false 2 3 1) (home [(3, 0xFFFFFFFF)])).regs.cond 2 = true
    ∧ (after (.cmpuI 1 false 2 3 1) (home [(3, 0xFFFFFFFF)])).regs.cond 2 = false := by decide +kernel

/-- Core 0 with a target in B1 and C2 true; `w` delay bundles are still to issue. -/
def branching (w : Nat) : State := (home []).modCtx
  (fun c => { c with regs := (c.regs.write (.b 1 0x7000)).write (.c 2 true), window := w, taken := w != 0 })

theorem witness_TransfersTakePlace : Alone (branching 0) ∧ Plain (branching 0) ∧ Room (branching 0) ∧ (branching 0).ctx.window = 0
    ∧ ((branching 0).ctx.regs.cond 2 != false) = true ∧ ((branching 0).ctx.regs.cond 2 != true) = false
    ∧ (branching 1).ctx.window ≠ 0 ∧ Plain (branching 2) ∧ (branching 2).ctx.taken = true
    ∧ (((branching 1).boundary false).ctxOf (.user 0)).due = true := by
  unfold Alone Plain Room; decide +kernel

theorem test_transfer : let a := (after (.xferlC 1 0 false 2) (branching 0))
    (a.window, a.status.xdist, a.status.xtgt, a.status.xlv, a.pc) = (2, 2, 0xE00, true, 0x1008)
    ∧ (after (.xferC 1 true 2) (branching 0)).taken = false := by decide +kernel

theorem test_transfer_lands : (ran .transferTakesPlace { ((branching 1).modCtx
    (fun c => { c with status := { c.status with xtgt := 0xE00, xlv := true, xlb := 3 } })).boundary false with
      inp := { who := .user 0 } }).map (fun t => (t.ctx.pc, t.ctx.regs.target 3)) = some (0x7000, 0x1008) := by decide +kernel

/-- Core 0 with loops armed on both engines. -/
def armed : State := (home [(1, 4)]).modCore 0 (fun c => { c with
  mat := { c.mat with bcast := { c.mat.bcast with armed := some 9 } }
  cpy := { c.cpy with reps := [⟨0x2002, 3, true⟩], bcast := { c.cpy.bcast with active := true, done := 2 } } })

theorem witness_EngineLoops : Alone (home [(1, 4)]) ∧ (home [(1, 4)]).cur = .user 0 ∧ (home [(1, 4)]).ctx.regs.dom 1 = Dom.single 4
    ∧ ((home [(1, 4)]).core 0).mat.bcast.armed = none ∧ ((home [(1, 4)]).core 0).cpy.bcast.armed = none
    ∧ Room (home [(1, 4)]) ∧ (armed.core 0).mat.bcast.armed = some 9 ∧ (firm []).isUser = false
    ∧ (armed.core 0).cpy.bcast.armed = none ∧ (armed.core 0).cpy.bcast.active = true
    ∧ (armed.core 0).cpy.reps = [⟨0x2002, 3, true⟩] := by
  unfold Alone Room; decide +kernel

theorem test_loopcut : (armed.core 0).cpy.cut 4 = { (armed.core 0).cpy with reps := [⟨0x2002, 2, true⟩], bcast :=
    { (armed.core 0).cpy.bcast with cut := ((armed.core 0).cpy.cut 4).bcast.cut } }
    ∧ ((armed.core 0).mat.cut 4).bcast.armed = some 4 := by decide +kernel

/-- Core 0 whose event 3 has the count `n`. -/
def counted (n : Byte) : State := (home [(1, 3), (2, 32)]).modCtx (fun c => { c with regs := c.regs.setEvent 3 n })

theorem witness_EventsCount : Alone (counted 1) ∧ (counted 1).isFw = false ∧ (counted 1).ctx.performed (BitVec.allOnes 16) false = true
    ∧ (counted 1).ctx.regs.event 3 ≠ 255 ∧ (counted 255).ctx.regs.event 3 = 255 ∧ (counted 0).ctx.regs.event 3 = 0
    ∧ (counted 1).ctx.regs.dom 1 = Dom.single ((3 : EvNum).setWidth 32) ∧ (firm []).isFw = true ∧ 8 ≤ (8 : EvNum).toNat
    ∧ (counted 1).ctx.regs.dom 2 = Dom.single 32 ∧ (ranged.ctx.regs.dom 1).isSingle = false ∧ Room (counted 1) := by
  unfold Alone Room; decide +kernel

theorem test_events : (after (.post 3) (counted 254)).regs.event 3 = 255 ∧ (after (.awaitD 1) (counted 1)).regs.event 3 = 0
    ∧ (after (.await 3) (counted 0)).pc = 0x1000 := by decide +kernel

/-! ### Class 001: tasks, system registers, refinement -/

theorem witness_TasksHandOver : Alone (home []) ∧ Room (home []) ∧ Plain (home []) ∧ (home []).isUser = true ∧ (home []).isFw = false
    ∧ (home []).ctx.window = 0 ∧ (home []).enginesIdle = true ∧ (home []).quillEmpty = true ∧ (home []).ctx.ldrs = []
    ∧ (home []).ctx.performed (BitVec.allOnes 16) false = true ∧ (firm []).isFw = true ∧ (branching 1).ctx.window ≠ 0
    ∧ holds (offsetOf (home []) (operandM 1 0 0) 128 128) (fun o => ((home []).desc 1).base + o.off == 0x4000) = true
    ∧ holds (locate (home []) false ((home []).desc 1) 0 128 (accRead ||| accWrite)) (fun x => x.2.ctx.performed (BitVec.allOnes 16) false) = true
    ∧ holds (offsetOf (home [(1, 64)]) (operandM 1 1 0) 128 128) (fun o => (((home []).desc 1).base + o.off) % 128 != 0) = true
    ∧ holds (loadHeld (home []) 1 0 64 16) (fun x => (YieldReq.ofBytes x.1).ok x.2.ctx) = true
    ∧ holds (loadHeld ((home []).setBytes 0x4000 [1]) 1 0 64 16) (fun x => !(YieldReq.ofBytes x.1).ok x.2.ctx) = true
    ∧ (array 0 []).enginesIdle = false := by
  unfold Alone Room Plain; decide +kernel

theorem test_retire : (ran .retire (home [])).map (fun t => (t.ctx.running, (t.life 1).live)) = some (false, 1) := by decide +kernel

theorem test_yield : (ran (.yield 1 0 0) (home [])).map (fun t => (t.ctx.running, (t.life 1).conts.map (·.1)))
    = some (false, [0x900000]) := by decide +kernel

theorem witness_RegistersRead : Alone (home []) ∧ (home []).isFw = false ∧ SysReg.prio ≠ .cycle ∧ (firm []).isFw = true
    ∧ SysReg.trapcode ∉ [SysReg.status, .ctxid, .groupid, .regionid, .pasid, .prio, .fwshare, .cycle, .ptime, .evpending,
        .leasestat, .mgovstat, .swthrottle]
    ∧ Room ((home []).write 1 (.d 5 (Dom.single 5))) ∧ (home []).ctx.dbg.replayctl.extractLsb' 62 2 = 0 ∧ (firm []).cur = .fw 0 := by
  unfold Alone Room; decide +kernel

theorem test_mfsr : (after (.mfsr 5 .prio false) (home [])).regs.dom 5 = Dom.single 5
    ∧ (after (.mfsr 5 .cycle false) (home [])).cycleLatch = some 0 := by decide +kernel

theorem witness_IdentityRegisters : (1023 : Nat) < 1024 ∧ (home []).cur = .user 0 ∧ (home []).issue.snap = none
    ∧ (probe []).cur = .lookup 0 := by decide +kernel

theorem test_ctxid : (firm []).sysreg .ctxid = 0x400 ∧ (probe []).sysreg .ctxid = 0x800 ∧ (home []).sysreg .regionid = 1 := by
  decide +kernel

theorem witness_RegistersWritten : Alone (home [(1, 0xFFFFFFFF)]) ∧ (home [(1, 0xFFFFFFFF)]).ctx.regs.dom 1 = Dom.single 0xFFFFFFFF
    ∧ isDebug .debugctl = true ∧ (home []).ctx.id.debug = false ∧ (home []).isFw = false ∧ isDebug .trapvec = false
    ∧ debugged.ctx.id.debug = true ∧ (firm []).cur = .fw 0 ∧ Room (home [])
    ∧ (0xC000000000000000#64).extractLsb' 62 2 = 3 := by
  unfold Alone Room; decide +kernel

theorem test_mtsr : (after (.mtsr .trapvec 1 1) (home [(1, 0xFFFFFFFF)])).trapvec = 0xFFFFFFFFFFF8
    ∧ (after (.mtsr .status 1 1) (home [(1, 0xFFFFFFFF)])).status = { satnan := true, rm := 3 }
    ∧ (after (.mtsr .prio 1 1) (home [(1, 0xFFFFFFFF)])).id = (home []).ctx.id := by decide +kernel

theorem witness_DescriptorParts : Alone (home [(1, 0xFFFF), (2, 0x10000), (3, 0xFF), (4, 0x100)])
    ∧ (home [(1, 0xFFFF)]).ctx.regs.dom 1 = Dom.single 0xFFFF ∧ (0xFFFF : Word).toNat < 2 ^ 16 ∧ 2 ^ 16 ≤ (0x10000 : Word).toNat
    ∧ (0xFF : Word).toNat < 2 ^ 8 ∧ 2 ^ 8 ≤ (0x100 : Word).toNat ∧ (firm []).isFw = true ∧ (home []).isFw = false := by
  unfold Alone; decide +kernel

theorem test_bdset : (after (.bdset 5 1 1) (home [(1, 0xFFFF)])).regs.desc 5 = 0xFFFF0000000000000000000000000000
    ∧ (after (.bdset 5 0 1) (home [(1, 0xFFFF)])).regs.desc 5 = 0x0000FFFF00000000000000000000 := by decide +kernel

/-- Core 0 with tracing on and `n` records in its FIFO. -/
def traced (n : Nat) (drop : Bool) : State := ((home [(1, 7), (2, 8)]).modCtx (fun c => { c with
    id := { c.id with debug := true }, dbg := { c.dbg with tracectl := if drop then 0xC000000000000000 else 0x8000000000000000 } })).modCore 0
  (fun c => { c with quill := { c.quill with fifo := List.replicate n ⟨0, 0, 0, 0, 1, false, 0⟩ } })

theorem witness_TraceRecords : Alone (traced 63 false) ∧ Plain (traced 63 false) ∧ Room (traced 63 false)
    ∧ (traced 63 false).ctx.regs.dom 1 = Dom.single 7 ∧ (home []).debugCap = false ∧ (traced 63 false).debugCap = true
    ∧ (traced 63 false).ctx.dbg.tracectl.getLsbD 63 = true ∧ (traced 64 false).ctx.dbg.tracectl.getLsbD 62 = false
    ∧ (traced 64 false).quillFull = true ∧ (traced 63 false).cur = .user 0 ∧ ((traced 63 false).core 0).quill.lost = 0
    ∧ ((traced 63 false).core 0).quill.fifo.length = 63 ∧ 64 ≤ ((traced 64 true).core 0).quill.fifo.length
    ∧ (traced 64 true).ctx.dbg.tracectl.getLsbD 62 = true ∧ (debugged.ctx.dbg.tracectl.getLsbD 63 = false) := by
  unfold Alone Plain Room; decide +kernel

theorem test_temit : (ran (.temit 1 2) (traced 0 false)).map (fun t => (t.core 0).quill.fifo.map (fun e => (e.payload, e.kind, e.pc)))
    = some [(0x0000000800000007, 1, 0x1000)] := by decide +kernel

/-- A refinement descriptor: six entries, then TOL, SRATIO, DRATIO (zero), MAXITER 2, MAXLEVEL 1. -/
def rfDescriptor : List Byte := [0x100, 0x200, 0x300, 0x400, 0x500, 0x600].flatMap (leBytes 8) ++ leBytes 8 0x3F50000000000000
  ++ leBytes 8 0 ++ leBytes 8 0 ++ [2, 0, 0, 0, 1, 0, 0, 0] ++ List.replicate 48 0

/-- Core 0 in a phase of the controller, V1 holding the norm `code` as FP64. -/
def refining (phase : BitVec 3) (iter : Word) (code : BitVec 64) : State := ((home []).modCtx (fun c => { c with
  refine := { (Refine.start 0x4000 rfDescriptor) with phase := phase, iter := iter, prev := 0x3FF0000000000000 }
  regs := c.regs.write (.v 1 ⟨2, code.extractLsb' 0 32 :: code.extractLsb' 32 32 :: List.replicate 1022 0⟩) })).setBytes 0x4000 rfDescriptor

theorem witness_RefinementPhases : Alone (refining 1 0 0) ∧ Plain (refining 1 0 0) ∧ Room (refining 1 0 0) ∧ (refining 1 0 0).isUser = true
    ∧ (refining 1 0 0).ctx.window = 0 ∧ (refining 2 0 0).ctx.refine.phase = 2 ∧ (firm []).isUser = false ∧ (branching 1).ctx.window ≠ 0
    ∧ holds (offsetOf (refining 4 0 0) (operandM 1 0 0) 128 128) (fun o => o.off == 0) = true
    ∧ holds (loadHeld (refining 4 0 0) 1 0 128 128) (fun x => rfOk x.1) = true
    ∧ holds (loadHeld ((refining 4 0 0).setBytes 0x4000 [1]) 1 0 128 128) (fun x => !rfOk x.1) = true := by
  unfold Alone Plain Room; decide +kernel

theorem test_rfbegin : let c := after (.rfbegin 1 0 0) (refining 0 0 0)
    (c.refine.phase, c.status.xtgt, c.window, c.refine.addr) = (1, 0x20, 2, 0x4000) := by decide +kernel

/-- RFTEST's ways out: within TOL, worse, stagnating, out of repetitions, and the next repetition. -/
theorem witness_RefinementTest : Alone (refining 3 0 0) ∧ Plain (refining 3 0 0) ∧ Room (refining 3 0 0) ∧ (refining 3 0 0).isUser = true
    ∧ (refining 3 0 0).ctx.window = 0 ∧ (refining 3 0 0).ctx.refine.phase = 3 ∧ ((refining 3 0 0).ctx.regs.vec 1).tag = 2
    ∧ ((home []).ctx.regs.vec 1).tag ≠ 2 ∧ (refining 3 0 0).ctx.refine.level.toNat < rfMaxlevel rfDescriptor
    ∧ rfMaxiter rfDescriptor = 2 := by
  unfold Alone Plain Room; decide +kernel

theorem test_rftest :
    ((after (.rftest 1) (refining 3 0 0)).refine.exit, (after (.rftest 1) (refining 3 0 0x3FE0000000000000)).refine.phase,
      (after (.rftest 1) (refining 3 1 0x3FE0000000000000)).refine.exit, (after (.rftest 1) (refining 3 1 0x4010000000000000)).refine.level,
      (after (.rftest 1) (refining 3 0 0x7FF8000000000000)).refine.level) = (1, 2, 3, 1, 1) := by decide +kernel

/-! ### Class 010: operands, loads, stores, tiles -/

/-- A plain operand `BDn + D0 + k`. -/
def at0 (bd : BdReg) (k : BitVec 20) : MemOp := ⟨false, 2, 0, .off, bd, 0, k⟩

/-- Core 0 with the ring register W1: base 0x100, length 16, the given place. -/
def ringed (cur : Word) : State := (home []).modCtx (fun c => { c with regs := c.regs.write (.w 1 (wrapBits 0x100 16 cur)) })

theorem witness_OperandPlaces : (home []).issue.snap = none
    ∧ holds (offsetOf (home [(1, 8)]) ⟨false, 2, 0, .post, 2, 1, 0xFFFFF⟩ 4 4)
        (fun o => o.off == 8 && o.upd == some (.d 1 (Dom.single 4))) = true
    ∧ holds (offsetOf (home [(1, 8), (2, 3)]) ⟨false, 2, 0, .idx 2, 2, 1, 5⟩ 4 4) (fun o => o.off == 40 && o.upd == none) = true
    ∧ (ringed 12).ctx.regs.wrap 1 = wrapBits 0x100 16 12
    ∧ holds (offsetOf (ringed 12) ⟨false, 2, 0, .wrap 1, 2, 0, 0⟩ 4 4)
        (fun o => o.off == 0x10C && o.upd == some (.w 1 (wrapBits 0x100 16 0)) && !o.ringEnd) = true
    ∧ holds (offsetOf (ringed 13) ⟨false, 2, 0, .wrap 1, 2, 0, 0⟩ 4 4) (fun o => o.ringEnd) = true
    ∧ holds (operand (home []) (at0 2 3) 4 4 4 .localOnly accRead) (fun x => x.2.1.cell == sramBase + 12 && x.2.1.near) = true
    ∧ holds (operand (home []) (at0 1 3) 4 4 4 .all accRead) (fun x => x.2.1.cell == 0x400C && !x.2.1.near) = true
    ∧ holds (operand (home []) (at0 3 0x20000) 1 1 1 .all accRead) (fun x => x.2.1.cell == sramBase + sliceBytes) = true
    ∧ (operand (home []) (at0 1 0x1000) 4 4 4 .all accRead).toOption = none
    ∧ (operand (home []) (at0 1 0x3FFD) 4 1 1 .all accRead).toOption = none := by decide +kernel

/-- Core 0 with bytes at the start of its SRAM. -/
def stored : State := (home [(1, 0x11223344), (2, 0x55667788)]).setBytes (sramBase + 12) [0x80, 0x91, 0xA2, 0xB3]

theorem witness_LoadsAndStores : Alone stored ∧ stored.ctx.regs.dom 1 = Dom.single 0x11223344 ∧ stored.isFw = false
    ∧ holds (operand stored (at0 2 3) 4 4 4 .localOnly accRead) (fun x => decide (Goes x.2.2 2 x.2.1 4 false)) = true
    ∧ holds (operand stored (at0 2 3) 4 4 4 .all accWrite) (fun x => x.2.1.near && decide (Goes x.2.2 2 x.2.1 4 true)
        && Memory.wf x.2.2.mem && !keyed (x.2.1.cell)) = true
    ∧ holds (operand (probe [(1, 0x11223344)]) (at0 3 0x8000) 4 4 4 .all accWrite) (fun x => decide (MaySend x.2.2 2 x.2.1 4 true)) = true
    ∧ holds (operand stored (at0 2 3) 1 1 1 .all accWrite) (fun x => x.2.1.near && decide (Goes x.2.2 2 x.2.1 1 true)) = true
    ∧ holds (offsetOf stored (at0 2 3) 1 1) (fun o => decide (o.off < 2 ^ 32) && decide (o.off + 1 ≤ (stored.desc 2).len)) = true
    ∧ (firm []).isFw = true ∧ (0x11223344 : Word).toNat % 8 ≠ 0 ∧ (0x55667788 : Word).toNat % 8 = 0 := by
  unfold Alone Goes MaySend; decide +kernel

theorem test_loads : ((after (.ld .b 5 (at0 2 12)) stored).pend.map (·.wr), (after (.ld .hu 5 (at0 2 7)) stored).pend.map (·.wr))
      = ([.d 5 (Dom.single 0xFFFFFF80)], [.d 5 (Dom.single 0xB3A2)])
    ∧ (after (.ld .w 5 (at0 2 3)) stored).pend.map (·.wr) = [.d 5 (Dom.single 0xB3A29180)] := by decide +kernel

theorem test_stores : (ran (.st .w 1 (at0 2 3)) stored).map (·.bytes (sramBase + 11) 6) = some [0, 0x44, 0x33, 0x22, 0x11, 0]
    ∧ (ran (.stn 1 (at0 2 12) 2) stored).map (·.bytes (sramBase + 12) 1) = some [0x40]
    ∧ (ran (.st .w 1 (at0 3 0x8000)) (probe [(1, 0x11223344)])).map (·.mesh.pending.map (fun p => (p.kind, p.dst, p.data)))
      = some [(1, tileNode 1 4, [0x44, 0x33, 0x22, 0x11])] := by decide +kernel

theorem witness_SplitLoads : Alone stored ∧ eventOk stored (31 : EvNum).toNat = true ∧ eventOk (firm []) (8 : EvNum).toNat = false
    ∧ (let split : State := { stored with issue := { stored.issue with split := true } }
       holds (operand split (at0 2 3) 4 4 4 .all accRead) (fun x => x.2.1.near && decide (Goes x.2.2 2 x.2.1 4 false)) = true
       ∧ holds (operand { probe [] with issue := { split := true } } (at0 3 0x8000) 4 4 4 .all accRead)
           (fun x => decide (MaySend x.2.2 2 x.2.1 4 false)) = true)
    ∧ (let bare : State := { stored with mmu := { stored.mmu with l2 := [] }, issue := { stored.issue with split := true } }
       (match operand bare (at0 1 3) 4 4 4 .all accRead with | .error (.fault f) => f.ctx.waits.fault | _ => none) = some 0x400C
       ∧ (holds (offsetOf bare (at0 1 3) 4 4) (fun o => o.off == 12)) = true) := by
  unfold Alone Goes MaySend; decide +kernel

theorem test_ldr : (after (.ldr .w 5 (at0 2 3) 31) stored).ldrs.map (fun l => (l.dd, l.ev, l.data))
    = [(5, 31, some [0x80, 0x91, 0xA2, 0xB3])] ∧ (after (.ldr .w 5 (at0 2 3) 31) stored).regs = stored.ctx.regs := by decide +kernel

/-- Core 0 with the tile V2 of small offsets, the tile V1 of numbers, and a pitch of 256 in D1. -/
def tiled : State :=
  let index : VTile := ⟨tagI32, (List.range 1024).map (fun i => BitVec.ofNat 32 (4 * i))⟩
  let count : VTile := ⟨tagI32, (List.range 1024).map (BitVec.ofNat 32)⟩
  (home [(1, 256)]).modCtx (fun c => { c with regs := (c.regs.write (.v 2 index)).write (.v 1 count) })

/-- The operand of a tile in the tile's own SRAM, with the tag of 32-bit integers. -/
def tileOp : MemOp := ⟨false, 2, 0, .off, 2, 0, tagI32.setWidth 20⟩

theorem witness_TilesMove : Alone tiled ∧ tiled.isUser = true ∧ (firm []).isUser = false ∧ tiled.poison = [] ∧ MemInv tiled
    ∧ holds (tileOperand tileOp 1 true tiled) (fun x => x.2.2.1 == 256) = true
    ∧ holds (tileOperand tileOp 1 false tiled) (fun x => x.2.2.1 == 256) = true
    ∧ holds (gatherCells tileOp 2 tiled) (fun cs => decide (cs.length = 1024) && !cs.any keyed) = true
    ∧ holds (offsetOf tiled (at0 1 0) 256 256) (fun o => o.off == 0) = true ∧ translated (tiled.desc 1).kind = true
    ∧ 0 + 4096 ≤ (tiled.desc 1).len ∧ bkptOn tiled = false
    ∧ holds (Machine.probe (tiled.desc 1) 2 0 { tiled.setBytes 0x30000 (process 0x700) with
        mmu := { tiled.mmu with l2 := [], pdt := directory } }) (fun x => x.2.1 == List.replicate 16 true) = true := by
  unfold Alone MemInv; decide +kernel

/-- All places of the tile of indices in one word: the last element in row-major order is kept (R338). -/
theorem test_scatv : (ran (.scatv 1 tileOp 2) (tiled.modCtx (fun c => { c with
    regs := c.regs.write (.v 2 ⟨tagI32, List.replicate 1024 3⟩) }))).map (fun t => t.bytes (sramBase + 12) 4)
    = some [0xFF, 3, 0, 0] := by decide +kernel

theorem witness_PagesAreAsked : Alone (home [(1, 64)]) ∧ holds (offsetOf (home [(1, 64)]) (at0 1 0) 1 1) (fun o => o.off == 0) = true
    ∧ (home [(1, 64)]).ctx.regs.dom 1 = Dom.single 64 ∧ 0 + 1 ≤ ((home []).desc 1).len ∧ translated ((home []).desc 1).kind = true
    ∧ ((home []).desc 1).base + 0 + 1 ≤ 2 ^ 48 ∧ Room (home []) ∧ (firm []).isFw = true ∧ translated ((home []).desc 2).kind = false
    ∧ ((home []).desc 0).len < 0 + 1 ∧ (64 : Word) ≠ 0
    ∧ (home []).translate (agentPort (.user 0)) false 0 0x4000 accRead = .ok 0x4000 (home [])
    ∧ (let bare : State := { home [] with mmu := { (home []).mmu with l2 := [], fben := true, fbsize := 1 } }
       (match bare.translate (agentPort (.user 0)) false 0 0x4000 accRead with | .fault _ _ => true | _ => false) = true
       ∧ bare.mmu.faults.length < 1024 ∧ bare.fbRoom = true ∧ ({ bare.mmu with fbtail := 2 } : Mmu).fbtail ≠ bare.mmu.fbhead) := by
  unfold Alone Room; decide +kernel

/-! ### Classes 010 and 011: streams, atomics, barrier words, deques, lookup -/

/-- A stream of three words of the tile's SRAM, at its second word, in F1. -/
def fibre : Fibre := ⟨true, 0, 2, 2, 0x40, 2, 3, 0, 0, 1⟩

/-- Core 0 with that stream, its parameters in D4 to D7 and an advance in D1. -/
def streaming : State := ((home [(1, 9), (4, 2), (5, 3)]).modCtx (fun c => { c with
  regs := c.regs.write (.f 1 fibre.bits) })).setBytes (sramBase + 0x40) ([11, 22, 33].flatMap (leBytes 4))

theorem witness_StreamsOpenAndRead : Alone streaming ∧ streaming.ctx.regs.dom 4 = Dom.single 2
    ∧ streaming.ctx.regs.dom (4 + 1) = Dom.single 3 ∧ streaming.ctx.regs.dom (4 + 2) = Dom.single 0
    ∧ streaming.ctx.regs.dom (4 + 3) = Dom.single 0 ∧ streaming.ctx.regs.dom 1 = Dom.single 9
    ∧ Fibre.ofBits (streaming.ctx.regs.stream 1) = fibre ∧ (firm []).isFw = true ∧ streaming.isUser = true
    ∧ (Fibre.ofBits (streaming.ctx.regs.stream 2)).valid = false
    ∧ holds (offsetOf streaming (at0 2 0x40) 1 1) (fun o => decide (o.off < 2 ^ 32)) = true
    ∧ holds (fibreCount fibre (streaming.desc 2) 0 streaming) (fun x => x.1 == 3 && decide (fibre.pos.toNat < x.1)) = true
    ∧ holds (fibreLoad fibre (streaming.desc 2) 1 0 streaming) (fun x => x.1 == 22) = true
    ∧ holds (fibreLoads fibre (streaming.desc 2) 3 1024 1 0 streaming) (fun x => x.1.take 3 == [22, 33, 0]) = true := by
  unfold Alone; decide +kernel

theorem test_streams : (after (.sget 5 1) streaming).pend.map (·.wr) = [.d 5 (Dom.single 22)]
    ∧ (Fibre.ofBits ((after (.sadv 1 1) streaming).regs.stream 1)).pos = 3
    ∧ (after (.stend 3 1) streaming).regs.cond 3 = false
    ∧ Fibre.ofBits ((after (.sopen 0 3 (at0 2 0x40) 4) streaming).regs.stream 3) = { fibre with pos := 0 } := by decide +kernel

/-- The operand of an atomic: `BD2 + D0 + k`, acquire and release. -/
def atom0 (bd : BdReg) (k : BitVec 20) : AtomOp := ⟨false, 2, 0, false, 3, bd, 0, k⟩

/-- Core 0 with a counter of 40 in its SRAM, 2 in D1 and D2 = 40. -/
def atomic : State := (home [(1, 2), (2, 40)]).setBytes (sramBase + 8) [40]

theorem witness_AtomicsAtHome : Alone atomic ∧ atomic.isFw = false ∧ atomic.ctx.dbg.replayctl.extractLsb' 62 2 = 0
    ∧ atomic.ctx.regs.dom 1 = Dom.single 2 ∧ atomic.ctx.regs.dom (1 + 1) = Dom.single 40
    ∧ holds (operand atomic (atomMem (atom0 2 2)) 4 4 4 .all accAtomic) (fun x => decide (Goes x.2.2 2 x.2.1 4 false)
        && x.2.2.ctx.performed (BitVec.allOnes 16) false && x.2.2.issue == atomic.issue
        && leNat (x.2.2.bytesKey x.2.1.key x.2.1.cell 4) == 40) = true
    ∧ holds (operand atomic (atomMem (atom0 2 1)) 8 8 8 .all accAtomic) (fun x => decide (Goes x.2.2 2 x.2.1 8 false)) = true
    ∧ atomic.ctx.regs.dom 2 = Dom.single 40 := by
  unfold Alone Goes; decide +kernel

theorem test_atomics : (ran (.amoAdd false 4 (atom0 2 2) 1) atomic).map (fun t => (t.ctx.regs.dom 4, t.bytes (sramBase + 8) 4))
      = some (Dom.single 40, [42, 0, 0, 0])
    ∧ (ran (.cas false 2 (atom0 2 2) 1) atomic).map (fun t => (t.ctx.regs.dom 2, t.bytes (sramBase + 8) 4))
      = some (Dom.single 40, [2, 0, 0, 0])
    ∧ (ran (.cas false 4 (atom0 2 2) 1) atomic).map (fun t => (t.ctx.regs.dom 4, t.bytes (sramBase + 8) 4))
      = some (Dom.single 40, [40, 0, 0, 0]) := by decide +kernel

/-- An access that core 0 has sent and that is not answered. -/
def outstanding : State := atomic.modCtx (fun c => { c with
  out := [{ cls := 2, dst := 0, seq := 0, x := false, addr := 0x4000, len := 4, off := false, write := true }] })

theorem witness_AcquireRelease : Alone atomic ∧ (firm []).isFw = true ∧ atomic.isFw = false ∧ atomic.ctx.performed 0xFFFF false = true
    ∧ Room atomic ∧ outstanding.ctx.performed 4 false = false ∧ outstanding.ctx.performed 0xFFFB true = true
    ∧ holds (operand atomic (at0 2 2) 4 4 4 .all accRead) (fun x => decide (Goes x.2.2 2 x.2.1 4 false) && x.2.2.ctx.waits.got == []) = true
    ∧ holds (operand atomic (at0 2 2) 4 4 4 .all accWrite) (fun x => x.2.2.ctx.performed (BitVec.allOnes 16) false && x.2.1.near) = true
    ∧ holds (operand outstanding (at0 2 2) 4 4 4 .all accWrite) (fun x => !x.2.2.ctx.performed (BitVec.allOnes 16) false) = true
    ∧ holds (operand (probe []) (at0 3 0x8000) 4 4 4 .all accWrite) (fun x => decide (MaySend x.2.2 2 x.2.1 4 true)) = true := by
  unfold Alone Room Goes MaySend; decide +kernel

theorem test_fence : (after (.fence 0 4) outstanding).pc = 0x1000 ∧ (after (.fence 0 0xFFFB) outstanding).pc = 0x1008 := by decide +kernel

/-- Core 0 with the target 3 in D4 and D5, a barrier word of that target, count 2 and generation 7 at 0x40 of its SRAM. -/
def barred (g : Word) : State := (home [(1, g), (4, 3), (2, 100)]).setBytes (sramBase + 0x40)
  (({ target := 3, count := 2, gen := 7, flags := 1 } : BarWord).bytes)

theorem witness_BarrierWords : Alone (barred 8) ∧ (barred 8).ctx.dbg.replayctl.extractLsb' 62 2 = 0 ∧ (firm []).isFw = true
    ∧ (barred 8).isFw = false ∧ (barred 8).ctx.regs.dom 4 = Dom.single 3 ∧ (barred 8).ctx.regs.dom (4 + 1) = Dom.single 0
    ∧ holds (barOperand (at0 2 2) accWrite (barred 8)) (fun x => x.1.near && x.2.ctx.clearFor 15 x.1 32 none false) = true
    ∧ holds (barOperand (at0 3 0x1000) accWrite (probe [])) (fun x => decide (MaySend x.2 15 x.1 9 true)) = true
    ∧ holds (barOperand (atomMem (atom0 3 0x1000)) accAtomic (probe [])) (fun x => decide (MaySend x.2 15 x.1 8 true)) = true
    ∧ holds (barOperand (atomMem (atom0 2 2)) accAtomic (barred 8)) (fun x => x.1.near && x.2.ctx.performed (BitVec.allOnes 16) false) = true
    ∧ holds (barRead (at0 2 2) (barred 8)) (fun x => !x.2.1.reached 8 && !x.2.1.isOver && !x.2.2.ctx.waits.timedOut
        && x.2.2.issue == (barred 8).issue) = true
    ∧ holds (barRead (at0 2 2) (barred 7)) (fun x => x.2.1.reached 7) = true
    ∧ ({ target := 3, count := 2, gen := 7, flags := 5 } : BarWord).isOver = true
    ∧ (({ target := 3, count := 2, gen := 7, flags := 1 } : BarWord).init, ({ target := 3, count := 2, gen := 7, flags := 3 } : BarWord).exact)
      = (true, true) := by
  unfold Alone MaySend; decide +kernel

theorem test_barrier : ({ target := 3, count := 2, gen := 7, flags := 1 } : BarWord).add 5 = ⟨3, 1, 9, 1⟩
    ∧ ({ target := 3, count := 2, gen := 7, flags := 3 } : BarWord).add 1 = ⟨3, 0, 8, 3⟩
    ∧ (({ target := 3, count := 2, gen := 7, flags := 3 } : BarWord).add 2).isOver = true
    ∧ (after (.barwtry 1 (at0 2 2) 3) (barred 7)).regs.cond 3 = true ∧ (after (.barwwait 1 (at0 2 2) 2) (barred 8)).waits.barrier = true := by
  decide +kernel

/-- A deque at 0 of the tile's SRAM with TOP 5 and BOTTOM `b`; its item 6 is a range of 4 indices from 100. -/
def dequed (b : Word) : State := (home [(8, 2), (9, 70), (10, 71)]).setBytes sramBase
  (leBytes 4 5 ++ leBytes 4 b.toNat ++ List.replicate 152 0 ++ leBytes 8 1 ++ leBytes 4 100 ++ leBytes 4 4)

theorem witness_Deques : Alone (dequed 7) ∧ (dequed 7).ctx.dbg.replayctl.extractLsb' 62 2 = 0 ∧ MemInv (dequed 7)
    ∧ holds (dqOperand (at0 2 0) (dequed 7)) (fun x => x.1.cell == sramBase && x.2.issue == (dequed 7).issue
        && decide (x.2.ctx = (dequed 7).ctx) && x.2.dqHeld x.1.cell == 2 && x.2.ctx.performed (BitVec.allOnes 16) false) = true
    ∧ holds (dqOperand (at0 2 0) (dequed 5)) (fun x => x.2.dqHeld x.1.cell == 0) = true
    ∧ holds (dqOperand (at0 2 0) (dequed 133)) (fun x => x.2.dqHeld x.1.cell == 128) = true
    ∧ (dequed 7).ctx.regs.dom 8 = Dom.single 2 ∧ keyed (sramBase + 2111) = false := by
  unfold Alone MemInv; decide +kernel

theorem test_deques : (ran (.wqpopOne 3 (at0 2 0) 1) (dequed 7)).map (fun t => (t.ctx.regs.dom 13, t.ctx.regs.dom 14,
      t.bytes (sramBase + 4) 4, t.bytes (sramBase + 168) 8)) = some (Dom.single 100, Dom.single 1, [7, 0, 0, 0], [101, 0, 0, 0, 3, 0, 0, 0])
    ∧ (ran (.wqpush 2 (at0 2 0) 1) (dequed 7)).map (fun t => (t.ctx.regs.cond 1, t.bytes (sramBase + 4) 4, t.bytes (sramBase + 176) 16))
      = some (false, [8, 0, 0, 0], [2, 0, 0, 0, 0, 0, 0, 0, 70, 0, 0, 0, 71, 0, 0, 0])
    ∧ (after (.wqpop 2 (at0 2 0) 1) (dequed 5)).regs.cond 1 = true := by decide +kernel

/-- Lookup core 0 with three values in D8 to D10, and rows of its buffer at 0 and 16. -/
def looking : State := (probe [(1, 0x100), (2, 0), (8, 1), (9, 0), (10, 1), (11, 0x4000)]).setBytes (bufferCell 0 0)
  (leBytes 4 1 ++ leBytes 4 2 ++ leBytes 8 0 ++ leBytes 4 10 ++ leBytes 4 20)

theorem witness_LookupGroup : Alone looking ∧ (home []).isLookup = false ∧ looking.isLookup = true
    ∧ ([1, 0, 1] : List Word).length = (2 : BitVec 3).toNat + 1
    ∧ (List.range 3).map (fun i => looking.ctx.regs.dom (8 + BitVec.ofNat 6 i)) = [1, 0, 1].map Dom.single
    ∧ looking.ctx.regs.dom 1 = Dom.single 0x100 ∧ looking.ctx.regs.dom 2 = Dom.single 0 ∧ (0x100 : Word).toNat % 16 = 0
    ∧ 0x100 + 16 * (1 : BitVec 20).toNat ≤ 2 ^ 20 ∧ looking.poison = []
    ∧ holds (gatherRows (looking.desc 1) 0x100 16 ((looking.desc 1).len / 16) [1, 0, 1] 0 [] 0 looking) (fun _ => true) = true
    ∧ (looking.desc 3).kind ≠ 1 ∧ bkptOn looking = false
    ∧ holds (locate looking false (looking.desc 3) 0x40 32 accAtomic) (fun x => !x.1.offPackage
        && holds (handChunks (looking.desc 3) 0 0x100 0 x.1 (1 - x.2.ctx.waits.sentChunks) x.2.ctx.waits.sentChunks x.2) (fun _ => true)) = true := by
  unfold Alone; decide +kernel

theorem test_lookup : ((after (.ldedup 20 0 8 2) looking).pend.map (·.wr)) = [.d 8 (Dom.single 1), .d 9 (Dom.single 0), .d 20 (Dom.single 2)]
    ∧ (ran (.lpool 0 1 0 2 1 1) looking).map (·.bytes (bufferCell 0 0x100) 8) = some [11, 0, 0, 0, 22, 0, 0, 0] := by decide +kernel

/-! ### Classes 100 and 101 -/

/-- Core 0 with integer tiles in V1 to V3, a scale tile in V5, FP32 tiles in V6, and P2 true for even elements. -/
def vectors : State :=
  let ints (k : Nat) : VTile := ⟨tagI32, (List.range 1024).map (fun i => BitVec.ofNat 32 (k * i))⟩
  let ones : VTile := ⟨tagF32, List.replicate 1024 0x3F800000⟩
  let sends : List Write := [.v 1 (ints 1), .v 2 (ints 2), .v 3 (ints 3), .v 5 ⟨tagScale, List.replicate 1024 0⟩, .v 6 ones, .p 2 5]
  (home [(1, 7), (2, 9)]).modCtx (fun c => { c with regs := sends.foldl (fun r w => r.write w) c.regs })

/-- The form of a tile sum among the forms of R357. -/
theorem witness_TileForms : Alone vectors ∧ vectors.ctx.regs.dom 1 = Dom.single 7 ∧ vectors.ctx.regs.dom (1 + 1) = Dom.single 9
    ∧ vectors.isUser = true ∧ (firm []).isUser = false ∧ (vectors.ctx.regs.vec 1).tag = tagI32 ∧ (vectors.ctx.regs.vec 6).tag ≠ tagI32
    ∧ (tileForms vectors tagI32 0 3 1 2 1 2 0 0 0 0 1 7 9).map (fun x => x.2.1) ≠ []
    ∧ ((tileForms vectors tagI32 0 3 1 2 1 2 0 0 0 0 1 7 9).head?.map (fun x => (x.1, x.2.1, x.2.2.1))) = some (.vadd tagI32 3 1 2 2, true, 20)
    ∧ (vectors.ctx.regs.vec 3).tag = tagI32 ∧ (vectors.ctx.regs.vec 5).tag ≠ tagI32 := by
  unfold Alone; decide +kernel

theorem witness_TileForms_refused :
    ((tileForms vectors tagF32 0 3 1 2 1 2 0 0 0 0 1 7 9).head?.map (fun x => (x.1, x.2.1))) = some (.vadd tagF32 3 1 2 2, false) := by
  decide +kernel

/-- A sum under a predicate: elements 0 and 2 change, the others stay (R360). -/
theorem test_vadd : (after (.vadd tagI32 3 1 2 2) vectors).pend.map (fun p => match p.wr with
    | .v r x => (r, x.elems.take 4, p.dist) | _ => (0, [], 0)) = [(3, [0, 3, 6, 9], 19)] := by decide +kernel

theorem witness_VectorOperandTraps : Alone vectors ∧ vectors.isUser = true ∧ (ranged.ctx.regs.dom 1).isSingle = false
    ∧ widthOf tagI8 ≤ (8 : BitVec 5).toNat ∧ (vectors.ctx.regs.vec 1).tag = tagI32 := by
  unfold Alone; decide +kernel

theorem witness_OtherVectorForms : Alone vectors ∧ vectors.ctx.regs.dom 1 = Dom.single 7 ∧ vectors.isUser = true
    ∧ (firm []).isUser = false ∧ (vectors.ctx.regs.vec 1).tag = tagI32 ∧ (vectors.ctx.regs.vec 2).tag = tagI32
    ∧ tagI32 ≠ tagF64 ∧ (vectors.ctx.regs.vec 5).tag = tagScale ∧ (vectors.ctx.regs.vec 6).tag = tagF32
    ∧ tagI32 ≠ tagScale ∧ tagI32 ≠ tagIdx2 ∧ (3 : VReg) ≠ 4 ∧ Room (vectors.write 20 (.p 1 0)) := by
  unfold Alone Room; decide +kernel

theorem test_predicates : (after (.pand 1 2 0 0) vectors).pend.map (fun p => match p.wr with
    | .p r x => (r, x) | _ => (0, 0)) = [(1, 5)] ∧ (after (.vany 1 2) vectors).pend.map (·.wr) = [.c 1 true]
    ∧ (after (.vall 1 2) vectors).pend.map (·.wr) = [.c 1 false]
    ∧ (after (.vextr 4 2 15 63) vectors).pend.map (·.wr) = [.d 4 (Dom.single 2046)] := by decide +kernel

theorem witness_ValueSequence : tagI8.toNat ≤ 9 ∧ valuesOf tagI8 = 4096 ∧ (List.replicate 4096 255).length = 4096
    ∧ tagF64.toNat ≤ 9 ∧ (vectors.ctx.regs.vec 1).elems.length = 1024 := by decide +kernel

theorem test_values : valueOp tagF32 0 .add 0x3F800000 0x3F800000 0 = 0x40000000
    ∧ valueOp tagI8 0 .add 0x7F 1 0 = 0x80 ∧ valueOp tagF32 0 .fma 0x40000000 0x40000000 0x3F800000 = 0x40A00000 := by decide +kernel

theorem witness_SpecialInputs : 0x7F800000 < (0xFF800001 : Nat) % 2 ^ 31 ∧ (0x80000000 : Nat) < 0x80000001 ∧ (0xFF800000 : Nat) ≤ 0xFF800000 := by
  decide +kernel

/-! ### Class 110 and engine words -/

/-- The engines of core 0, the matrix engine in a state. -/
def engined (st : EngineState) (dead : Bool) : State := (home [(1, 3), (2, 0xFFFFFFFF)]).modCore 0
  (fun c => { c with mat := { c.mat with state := st, dead := dead, word := 0x2010 }, active := { c.active with mstart := 0x2000 } })

theorem witness_EngineControlForms : Alone (engined .idle false) ∧ (engined .idle false).ctx.regs.dom 1 = Dom.single 3
    ∧ (engined .idle false).ctx.regs.dom 2 = Dom.single 0xFFFFFFFF ∧ (firm []).isUser = false ∧ (engined .idle false).cur = .user 0
    ∧ ((engined .running false).engine 0 false).state = .running ∧ ((engined .idle false).engine 0 false).state = .idle
    ∧ ((engined .stopped true).engine 0 false).dead = true ∧ ((engined .stopped false).engine 0 false).dead = false
    ∧ ((engined .stopped false).engine 0 false).out = [] ∧ Room (engined .idle false) ∧ (3 : Word) ≠ 0xFFFFFFFF
    ∧ (4 : BitVec 3).toNat ≤ 4
    ∧ (((engined .running false).modCore 0 (fun c => { c with mat := { c.mat with out := outstanding.ctx.out } })).engine 0 false).out ≠ []
    ∧ (let e := ((engined .running false).modCore 0 (fun c => { c with mat := { c.mat with inWord := some 0xA000, sub := 1 } })).engine 0 false
      e.state = .running ∧ e.inWord ≠ none ∧ e.fault = none ∧ e.sub ≠ 0) := by
  unfold Alone Room; decide +kernel

theorem test_estart : (ran (.estart false 1) (engined .idle false)).map (fun t => ((t.engine 0 false).state, (t.engine 0 false).word))
      = some (.running, 0x2006)
    ∧ (ran (.estart false 2) (engined .stopped false)).map (fun t => ((t.engine 0 false).state, (t.engine 0 false).word))
      = some (.running, 0x2010)
    ∧ (after (.estat 5 false 2) (engined .stopped false)).regs.dom 5 = Dom.single 4 := by decide +kernel

/-- The header of a gloss list of 16 rows and columns of format 1, pitch 64, version 1, NSTAT `n`. -/
def listHead (n : Byte) : List Byte := List.replicate 16 0 ++ [16, 0, 0, 1, 16, 0, 0, n, 64, 0, 0, 0, 1, 0, 0, 0]

/-- Such a list at 0x4000, and a handle of it in G1. -/
def listed (n : Byte) : State :=
  let handle : BitVec 256 := (after (.gopen 1 1 0 0) ((home []).setBytes 0x4000 (listHead 0))).regs.gloss 1
  ((home [(1, 256), (2, 64)]).modCtx (fun c => { c with regs := c.regs.write (.g 1 handle) })).setBytes 0x4000 (listHead n)

theorem witness_GlossInstructions_open : Alone (listed 0) ∧ (listed 0).isUser = true ∧ (listed 0).ctx.regs.dom 1 = Dom.single 256
    ∧ hValid ((listed 0).ctx.regs.gloss 2) = false ∧ translated ((listed 0).desc 1).kind = true
    ∧ holds (offsetOf (listed 0) (operandM 1 0 0) 256 256) (fun o => decide (o.off + 256 ≤ ((listed 0).desc 1).len)
        && decide ((((listed 0).desc 1).base + o.off) % 256 = 0)) = true
    ∧ holds (listAt (listed 0) 0x4000 accRead 0) (fun x => listFault (x.2.bytesKey x.1.key x.1.cell 256) tProt tGlossOvf == none) = true
    ∧ holds (listAt (listed 9) 0x4000 accRead 0) (fun x => (listFault (x.2.bytesKey x.1.key x.1.cell 256) tProt tGlossOvf).isSome) = true := by
  unfold Alone; decide +kernel

theorem witness_GlossInstructions_handle : hValid ((listed 0).ctx.regs.gloss 1) = true
    ∧ (hList ((listed 0).ctx.regs.gloss 1)).toNat = 0x4000 ∧ (listed 0).ctx.performed (BitVec.allOnes 16) false = true
    ∧ holds (listAt (listed 0) 0x4000 accAtomic 0) (fun x => (x.2.glDetach x.1.key x.1.cell 0).isNone
        && (x.2.glFoldStart x.1.key x.1.cell).isSome) = true
    ∧ (((listed 0).desc 1).base + (256 : Word).toNat) % 256 = 0 ∧ (((listed 0).desc 2).base + (64 : Word).toNat) % 32 = 0
    ∧ ((listed 0).desc 1).base + (256 : Word).toNat ≠ 0x4000 := by decide +kernel

theorem witness_GlossListOperations : MemInv (listed 1) ∧ SameKey (listed 1) 0 0x4000 256
    ∧ (((listed 1).bytesKey 0 0x4000 256).getD 23 0).toNat % 16 = 1 ∧ (((listed 1).bytesKey 0 0x4000 256).getD 23 0).getLsbD 6 = false
    ∧ (((listed 0x48).bytesKey 0 0x4000 256).getD 23 0).getLsbD 6 = true
    ∧ ((((listed 1).bytesKey 0 0x4000 256).drop (32 + 24)).take 4) = leBytes 4 0 := by
  unfold MemInv SameKey; decide +kernel

theorem test_attach : ((listed 1).glAttach 0 0x4000 (List.replicate 28 9)).map (fun t => (t.bytes 0x4017 1, t.bytes 0x401C 4,
    t.bytes (0x4000 + 60) 28)) = some ([2], [2, 0, 0, 0], List.replicate 24 9 ++ [0, 0, 0, 0])
    ∧ ((listed 8).glAttach 0 0x4000 (List.replicate 28 9)) = none
    ∧ ((listed 1).glDetach 0 0x4000 0).map (fun t => (t.bytes (0x4000 + 56) 4, t.bytes 0x401C 4)) = some ([2, 0, 0, 0], [2, 0, 0, 0]) := by
  decide +kernel

/-- The matrix engine with a stack and an open body. -/
def looping (left : Word) (b : Bool) : State := (array 0 [5, 6]).modCore 0 (fun c => { c with mat := { c.mat with reps := [⟨0x1F00, left, b⟩] } })

theorem witness_CommonWords : (array 0 [5, 6]).eng.stack.length < 8 ∧ (array 0 [5, 6]).eng.stack = 5 :: 6 :: []
    ∧ (array 0 [5, 6]).eng.bcast.armed = none ∧ (array 0 [0]).eng.stack = 0 :: [] ∧ (array 0 [5, 6]).eng.reps.length < 4
    ∧ (looping 2 false).eng.reps = ⟨0x1F00, 2, false⟩ :: [] ∧ (looping 1 true).eng.reps = ⟨0x1F00, 1, true⟩ :: []
    ∧ (array 0 []).ctx.regs.dom 0 = Dom.single 0
    ∧ ((array 0 []).modCore 0 (fun c => { c with mat := { c.mat with bcast := { c.mat.bcast with armed := some 3 } } })).eng.bcast.skewDone = true := by
  decide +kernel

theorem test_words : (ran .swap (array 0 [5, 6])).map (·.eng.stack) = some [6, 5] ∧ (ran .over (array 0 [5, 6])).map (·.eng.stack) = some [6, 5, 6]
    ∧ (ran (.litx 7) (array 0 [5])).map (·.eng.stack) = some [5 * 4096 + 7] ∧ (ran (.lit 0xFFF) (array 0 [])).map (·.eng.stack) = some [0xFFFFFFFF]
    ∧ (ran (.jmp 0x3FF) (array 0 [])).map (·.eng.word) = some 0x1FFE ∧ (ran .endrep (looping 2 false)).map (·.eng.word) = some 0x1F00 := by
  decide +kernel

theorem witness_EngineFaultsTaken : 8 ≤ (array 0 (List.replicate 8 0)).eng.stack.length ∧ (array 0 []).eng.stack = []
    ∧ (array 0 [1]).eng.stack.length < 2 ∧ (array 0 [1, 2, 3, 4]).eng.stack.length < 5 ∧ (array 0 []).eng.bcast.armed = none
    ∧ 4 ≤ ((array 0 [5]).modCore 0 (fun c => { c with mat := { c.mat with reps := List.replicate 4 ⟨0x1F00, 2, false⟩ } })).eng.reps.length
    ∧ (array 0 []).eng.reps = [] := by decide +kernel

/-- The matrix engine of core 0, its event 3 counted `n`, with the lease or without. -/
def beside (n : Byte) (held : Bool) (st : List Word) : State := ((array 0x6480 st).modCtx (fun c => { c with
  regs := c.regs.setEvent 3 n })).modTile 0 (fun t => { t with lease := { t.lease with held := held } })

theorem witness_EngineWordsSeen : (beside 1 true []).cur = .matrix 0 ∧ (beside 1 true []).eng.out = []
    ∧ ((beside 1 true []).core 0).user.regs.event 3 ≠ 255 ∧ ((beside 255 true []).core 0).user.regs.event 3 = 255
    ∧ ((beside 0 true []).core 0).user.regs.event 3 = 0 ∧ (beside 1 true []).holdsLease 0 = true ∧ (beside 1 false []).holdsLease 0 = false
    ∧ ((beside 1 true []).modCore 0 (fun c => { c with mat := { c.mat with out := outstanding.ctx.out } })).eng.out ≠ []
    ∧ (beside 1 true [0x40, 0x11110101, 16, 32, 48]).eng.stack = [0x40, 0x11110101, 16, 32, 48] := by decide +kernel

theorem test_engine_events : (ran (.enginePost 3) (beside 1 true [])).map (fun t => ((t.core 0).user.regs.event 3, t.eng.word)) = some (2, 0x2002)
    ∧ (ran (.engineAwait 3) (beside 0 true [])).map (·.eng.state) = some .waitEvent
    ∧ (ran .halt (beside 0 true [])).map (fun t => (t.eng.state, t.holdsLease 0)) = some (.idle, false)
    ∧ (ran .mwin (beside 0 true [0x40, 0x11110101, 16, 32, 48])).map (fun t => t.eng.window) = some (some [48, 32, 16, 0x11110101, 0x40]) := by
  decide +kernel

/-! ### Matrix and copy words -/

/-- What a check of an engine word gives. -/
def passes (x : EEff α) (f : α → Bool) : Bool := match x with | .ok a => f a | .error _ => false

/-- The trap that a check of an engine word gives. -/
def refuses (x : EEff α) : Option Byte := match x with | .error (.trap c _) => some c | _ => none

/-- A product of 32 elements a row: A from 0, B from 0x1000 of the share, rows of 32 bytes. -/
def product : State := array 0x7000 [2, 0x1000, 2, 0, 32]

theorem witness_MatrixWords : product.cur = .matrix 0 ∧ product.eng.inWord = none
    ∧ (ArrayWord.ofWord 0x7000).count ≤ product.eng.stack.length ∧ (array 0x7000 [1]).eng.stack.length < (ArrayWord.ofWord 0x7000).count
    ∧ passes (arrayCheck (ArrayWord.ofWord 0x7000) ((ArrayWord.ofWord 0x7000).ops [32, 0, 2, 0x1000, 2]) product) (fun _ => true) = true
    ∧ refuses (arrayCheck (ArrayWord.ofWord 0x7000) ((ArrayWord.ofWord 0x7000).ops [33, 0, 2, 0x1000, 2]) product) = some tProt := by
  decide +kernel

/-- An accumulator to be stored in the share, as FP32 rows of 256 bytes, and in memory. -/
def storing (w : BitVec 16) (st : List Word) : State := array w st

theorem witness_MatrixWords_store : (StoreMods.ofWord 0xA400).d = false ∧ (StoreMods.ofWord 0xA400).f = 4
    ∧ storeCount (StoreMods.ofWord 0xA400) ≤ (storing 0xA400 [16, 0]).eng.stack.length
    ∧ (storing 0xA400 [0]).eng.stack.length < storeCount (StoreMods.ofWord 0xA400)
    ∧ passes (storeCheck (StoreMods.ofWord 0xA400) [0, 16] (storing 0xA400 [16, 0])) (fun _ => true) = true
    ∧ refuses (storeCheck (StoreMods.ofWord 0xA400) [8, 16] (storing 0xA400 [16, 8])) = some tAlign
    ∧ (storing 0xA400 [16, 0]).eng.shareClear = true ∧ (storing 0xA400 [16, 0]).poison = [] := by decide +kernel

theorem test_mma : (ran .mma product).map (fun t => (t.eng.inWord, t.eng.ops, t.eng.stack, t.eng.state))
    = some (some 0x7000, [32, 0, 2, 0x1000, 2], [], .waitLease) := by decide +kernel

/-- The product in progress, its lease held or not, since cycle 0. -/
def passing (held : Bool) (cycle : BitVec 64) : State :=
  let s := { product with cycle := cycle, inp := { n := 0 } }
  (s.modCore 0 (fun c => { c with mat := { c.mat with stack := [], inWord := some 0x7000, ops := [32, 0, 2, 0x1000, 2] } })).modTile 0
    (fun t => { t with token := true, lease := { t.lease with held := held } })

theorem witness_MatrixPasses : (passing true 10).inp.n = 0 ∧ (passing true 10).cur = .matrix 0 ∧ (passing true 10).word = 0x7000
    ∧ ((passing true 10).engine 0 false).inWord = some 0x7000 ∧ ((passing true 10).engine 0 false).inArray = true
    ∧ ((passing true 10).engine 0 false).state = .running ∧ ((passing true 10).engine 0 false).fault = none
    ∧ ((passing true 10).core 0).engHeld = false ∧ (passing true 10).holdsLease 0 = true ∧ (passing false 10).holdsLease 0 = false
    ∧ ((passing true 10).engine 0 false).shareClear = true ∧ (passing true 10).shareFree = true
    ∧ ((passing true 10).tile 0).lease.cycles 10 = 10 ∧ ((passing true 1025).tile 0).lease.cycles 1025 = 1024
    ∧ (ArrayWord.ofWord 0x7000).mods.s = false
    ∧ (passing true 10).poison = []
    ∧ passes (bRows (ArrayWord.ofWord 0x7000) ((ArrayWord.ofWord 0x7000).ops [32, 0, 2, 0x1000, 2]) 0 32 64 0 0 (passing true 10))
        (fun x => decide (x.2.cores = (passing true 10).cores) && decide (x.2.tiles = (passing true 10).tiles) && decide (x.1.length = 64)) = true := by decide +kernel

/-- With its token, or with what its budget leaves, an array is not held. -/
theorem free_of (s : State) (t : Nat) (h : (s.tile t).settled s.cycleWindow = 0) (g : (s.tile t).token = true)
    (b : (s.tile t).govStalled = false) : s.governed t = false := by simp [State.governed, h, g, b]

/-- A pass takes 24 cycles where the array keeps a token, or where a window has the budget and the cycles for it. -/
theorem span_of (s : State) (t : Nat) (h : (s.tile t).settled s.cycleWindow = 0) (p : s.cycle.toNat % 64 ≤ 40)
    (b : Config.tokenRing = true ∨ 23 ≤ Config.budget.toNat) : s.passSpan t = 24 := by
  unfold State.passSpan
  rw [h]
  unfold activeSpan
  rcases b with b | b
  · simp [b]
  · split
    · rfl
    · have m : min 24 (min (Config.budget.toNat + 1 - 0) (64 - s.cycle.toNat % 64)) = 24 := by omega
      simp only [m, if_true]

/-- A pass takes time. -/
theorem span_pos (s : State) (t : Nat) (h : (s.tile t).settled s.cycleWindow = 0) : 0 < s.passSpan t := by
  unfold State.passSpan
  rw [h]
  unfold activeSpan
  split
  · decide
  · dsimp only
    split <;> omega

theorem settled_passing : ((passing true 10).tile 0).settled (passing true 10).cycleWindow = 0 := by
  show 0 - (0 - 0) * _ = 0
  simp

theorem witness_MatrixPasses_free : (passing true 10).governed 0 = false :=
  free_of _ _ settled_passing (by decide +kernel) (by decide +kernel)

/-- It fits into the lease: the budget is 57 unless the package sets another. -/
theorem witness_MatrixPasses_fits (h : Config.tokenRing = true ∨ 23 ≤ Config.budget.toNat) : (passing true 10).passSpan 0 = 24 :=
  span_of _ _ settled_passing (by decide +kernel) h

theorem witness_MatrixPasses_over : 0 < (passing true 1025).passSpan 0 := span_pos _ _ (by
  show 0 - (_ - 0) * _ = 0
  simp)

theorem witness_MatrixPasses_held : ((passing true 10).modTile 0 (fun t => { t with token := false, govStalled := true })).governed 0 = true := by
  unfold State.governed
  cases Config.tokenRing <;> decide +kernel

theorem witness_MatrixComplete : product.eng.stack = [32, 0, 2, 0x1000, 2].reverse ++ [] ∧ (ArrayWord.ofWord 0x7000).count = 5
    ∧ (storing 0xA400 [16, 0]).eng.stack = [0, 16].reverse ++ [] ∧ storeCount (StoreMods.ofWord 0xA400) = 2
    ∧ (storing 0xA400 [16, 0]).eng.shareClear = true ∧ (storing 0xA400 [16, 0]).poison = [] := by decide +kernel

/-- The selector of a copy from BD1 to BD2, and with the barrier word in BD2. -/
def fromTo : Word := 0x120

theorem witness_CopyWords_copy : let s := (copier 0x6000 [4, 0, 8, fromTo])
    s.cur = .copy 0 ∧ s.eng.inWord = none ∧ copyCounts s.word = false ∧ 4 ≤ s.eng.stack.length ∧ selOk fromTo true true false = true
    ∧ rangeOk s (s.desc ((fromTo).extractLsb' 8 4)) 8 4 = true ∧ rangeOk s (s.desc ((fromTo).extractLsb' 4 4)) 0 4 = true
    ∧ rangeOk s (s.desc ((fromTo).extractLsb' 8 4)) 0x3FFF 2 = false
    ∧ passes (moveRuns (s.desc 2) none (blockPlace 0 1 4 0) (blockRead (s.desc 1) 8 4 0) 4 (s.latch [fromTo, 8, 0, 4]))
        (fun u => u.eng.step == 4) = true := by decide +kernel

theorem test_copy : (ran .copy ((copier 0x6000 [4, 0, 8, fromTo]).setBytes 0x4008 [1, 2, 3, 4])).map (fun t =>
    (t.mesh.pending.map (fun p => (p.kind, p.data)), t.eng.word, t.eng.stack)) = some ([(1, [1, 2, 3, 4])], 0x2002, []) := by decide +kernel

theorem witness_CopyWords_blocks :
    (let s := copier 0x7000 [64, 256, 8, 2, 0, 0, fromTo]
     7 ≤ s.eng.stack.length ∧ blockOk s (s.desc 1) 0 2 8 256 = true ∧ blockOk s (s.desc 2) 0 2 8 64 = true
     ∧ passes (moveRuns (s.desc 2) none (blockPlace 0 2 8 64) (blockRead (s.desc 1) 0 8 256) (2 * 8) (s.latch [fromTo, 0, 0, 2, 8, 256, 64]))
        (fun u => u.eng.step == 16) = true)
    ∧ (let s := copier 0xB000 [0xAABBCCDD, 4, 0, 0x20]
       4 ≤ s.eng.stack.length ∧ selOk 0x20 false true false = true ∧ rangeOk s (s.desc 2) 0 4 = true
       ∧ passes (moveRuns (s.desc 2) none (blockPlace 0 1 4 0)
          (fun b n s => .ok ((List.range n).map (fun i => (leBytes 4 0xAABBCCDD).getD ((b + i) % 4) 0), s)) 4
          (s.latch [0x20, 0, 4, 0xAABBCCDD])) (fun u => u.eng.step == 4) = true) := by decide +kernel

theorem witness_CopyWords_cast : let s := copier 0x8000 [0, 2, 4, 0, 0, 0x100]
    6 ≤ s.eng.stack.length ∧ selOk 0x100 true false false = true ∧ rangeOk s (s.desc 1) 0 4 = true
    ∧ 0 * 2 ^ 32 + 2 < 2 ^ s.partitionTiles.length ∧ maskTiles s 2 0 = [1]
    ∧ 0 + 4 ≤ (shareOf (s.partition s.ctx.id.region) 1).length * granuleBytes
    ∧ passes (castRuns (s.desc 1) 0 0 4 [1] none 4 (s.latch [0x100, 0, 0, 4, 2, 0])) (fun u => u.eng.step == 4) = true := by decide +kernel

theorem test_mcast : (ran .mcast ((copier 0x8000 [0, 2, 4, 0, 0, 0x100]).setBytes 0x4000 [9])).map (fun t =>
    t.mesh.pending.map (fun p => (p.dst, p.data))) = some [(tileNode 1 4, [9, 0, 0, 0])] := by decide +kernel

/-- The copy engine with a handle of a list of one row in G1. -/
def loader : State :=
  let c := (listed 0).ctx
  ((copier 0x9440 [16, 0, 1, 1, 0, 0, 0x20]).modCtx (fun _ => c)).setBytes 0x4000 (listHead 0)

theorem witness_CopyWords_gld : let s := loader
    let m := GldMods.ofWord 0x9440
    let xs : List Word := [0x20, 0, 0, 1, 1, 0, 16]
    7 ≤ s.eng.stack.length ∧ m.b = false ∧ gldTile m xs s = true
    ∧ passes (glossReader s (hList (s.ctx.regs.gloss m.h)).toNat 256) (fun x =>
        decide (0 + 1 ≤ glRows x.1) && decide (0 + 1 ≤ glCols x.1)
        && passes (layerHeaders glossReader (layersOf (s.ctx.regs.gloss m.h) x.1) x.2) (fun y => y.1
          && passes (gldCheck m xs y.2) (fun _ => true)
          && passes (gldRows m xs x.1 (s.desc 2) none 1
              ((y.2.latch xs).modEng (fun e => { e with handle := s.ctx.regs.gloss m.h, glist := x.1 })))
            (fun u => u.eng.step == 1))) = true := by decide +kernel

/-- A compressed structure of 16 rows, 4 columns and one slice of width 1, of FP32: row 0 has 3.0 in column 0, and the others
nothing. Symbol 0 is coded 0, and symbol 254 is coded 1 (R232 to R234). -/
def compressed : List Byte :=
  leBytes 4 16 ++ leBytes 4 4 ++ [1, 1, 0, 0] ++ leBytes 4 1 ++ leBytes 8 64 ++ leBytes 8 80 ++ leBytes 8 96 ++ List.replicate 24 0
    ++ [1] ++ List.replicate 15 0 ++ leBytes 8 352 ++ List.replicate 8 0
    ++ [1] ++ List.replicate 253 0 ++ [1, 0] ++ leBytes 4 2 ++ [0x7F, 0xFF] ++ List.replicate 10 0 ++ leBytes 4 0x40400000 ++ List.replicate 60 0

/-- The copy engine with that at BD1. -/
def unpacking : State := (copier 0xA000 [0x400, 0, fromTo]).setBytes 0x4000 compressed

theorem witness_CopyWords_decomp : copyCounts 0xA000 = false ∧ 3 ≤ unpacking.eng.stack.length ∧ selOk fromTo true true false = true
    ∧ passes (readSpr (unpacking.desc 1) 0 unpacking) (fun x => rangeOk unpacking (unpacking.desc 2) 0x400 x.1.places.2
      && passes (decompSlices (unpacking.desc 1) (unpacking.desc 2) x.1 0 0x400 x.2.1 none 2 (x.2.2.latch [fromTo, 0, 0x400]))
        (fun u => u.eng.step == 1)) = true := by decide +kernel

/-- The sparse slice that comes out: the indices of its places, then their values. -/
theorem test_decomp : (ran .decomp unpacking).map (fun t => (t.eng.word, ((t.mesh.pending.flatMap (·.data)).drop 73).take 72))
    = some (0x2002, leBytes 4 0 ++ List.replicate 60 0xFF ++ leBytes 4 0x40400000 ++ leBytes 4 0) := by decide +kernel

/-- A barrier word is announced through BD2. -/
theorem witness_CopyWords_barann : let s := copier 0xB100 [1, 9, 0x40, 2]
    s.eng.out = [] ∧ 4 ≤ s.eng.stack.length ∧ (2 : Word).extractLsb' 4 28 = 0 ∧ 0x40 % 32 = 0
    ∧ passes (elocate s (s.desc 2) 0x40 32 accWrite) (fun x => !x.1.offPackage && (homeTrap x.2 x.1 32 true).isNone) = true
    ∧ (s.modCore 0 (fun c => { c with cpy := { c.cpy with out := outstanding.ctx.out } })).eng.out ≠ [] := by decide +kernel

theorem test_barann : (ran .barann (copier 0xB100 [1, 9, 0x40, 2])).map (fun t => (t.bytes (sramBase + 0x40) 24, t.eng.word))
    = some (leBytes 8 9 ++ leBytes 8 0 ++ leBytes 4 0 ++ leBytes 4 3, 0x2002) := by decide +kernel

/-! ### The mesh -/

/-- A request of core 4 (tile 1) to tile 0's SRAM at offset 8. -/
def asking (kind op : BitVec 4) (n : Nat) (data : List Byte) : Packet :=
  { kind := kind, x := false, cls := 2, dst := tileNode 0 4, src := tileNode 1 0, seq := 0, region := 1, stamp := 0, op := op
    len := BitVec.ofNat 6 (n - 1), addr := 0x40, fw := false, poison := false, data := data }

/-- The package with that request in progress. -/
def served (p : Packet) : State := { (plant.setBytes (sramBase + 0x40) [5, 6, 7, 8]) with inp := { pkt := some p } }

theorem witness_MeshRequests :
    Served (served (asking 0 0 4 [])) (asking 0 0 4 []) 0 (sramBase + 0x40) 4 false
    ∧ Served (served (asking 1 0 2 [1, 2])) (asking 1 0 2 [1, 2]) 0 (sramBase + 0x40) 2 true
    ∧ Served (served (asking 5 0 8 [1])) (asking 5 0 8 [1]) 0 (sramBase + 0x40) 32 false
    ∧ SameKey (served (asking 1 0 2 [1, 2])) 0 (sramBase + 0x40) 2 ∧ MemInv (served (asking 1 0 2 [1, 2]))
    ∧ (asking 4 6 4 [9, 0, 0, 0]).op.toNat < 7 ∧ (asking 4 7 4 []).op.toNat = 7 ∧ (asking 4 8 4 []).poison = false
    ∧ 7 < (asking 4 8 4 []).op.toNat
    ∧ homeNack { served (asking 0 0 4 []) with dist := {} } { asking 0 0 4 [] with region := 2 } 0 (sramBase + 0x40) 4 false = some 1 := by
  unfold Served SameKey MemInv; decide +kernel

theorem test_mesh : (ran .meshRd (served (asking 0 0 4 []))).map (fun t => t.mesh.pending.map (fun p => (p.kind, p.dst, p.data)))
      = some [(8, tileNode 1 0, [5, 6, 7, 8])]
    ∧ (ran .meshWr (served (asking 1 0 2 [1, 2]))).map (·.bytes (sramBase + 0x40) 4) = some [1, 2, 7, 8]
    ∧ (ran .meshWrn (served (asking 3 0 1 [9, 2]))).map (·.bytes (sramBase + 0x40) 1) = some [0x95]
    ∧ (ran .meshAmo (served (asking 4 0 4 [1, 0, 0, 0]))).map (·.bytes (sramBase + 0x40) 4) = some [6, 6, 7, 8] := by decide +kernel

theorem witness_HomeOperations :
    Served (served (asking 6 1 9 [])) (asking 6 1 9 []) 0 (sramBase + 0x40) 32 true
    ∧ Served (served (asking 6 2 1 [])) (asking 6 2 1 []) 0 (sramBase + 0x40) 24 false
    ∧ Served (served (asking 6 4 16 [])) (asking 6 4 16 []) 0 (sramBase + 0x40) 16 true
    ∧ Served (served (asking 6 7 1 [])) (asking 6 7 1 []) 0 (sramBase + 0x40) 256 false
    ∧ (served (asking 6 4 16 [])).dqHeld (sramBase + 0x40) ≠ 0 ∧ plant.dqHeld sramBase = 0
    ∧ (plant.dqPush sramBase (List.replicate 16 1)).isSome = true
    ∧ ((plant.setBytes (sramBase + 4) [2]).dqPop sramBase true).isSome = true ∧ ((plant.setBytes (sramBase + 4) [2]).dqSteal sramBase).isSome = true
    ∧ ((plant.setBytes sramBase (listHead 0)).glAttach 0 sramBase (List.replicate 28 1)).isSome = true
    ∧ ((plant.setBytes sramBase (listHead 1)).glDetach 0 sramBase 0).isSome = true
    ∧ glFolding (plant.bytes sramBase 256) = false ∧ glRetired (plant.bytes sramBase 256) = false
    ∧ (served (asking 6 11 1 [])).byteKey 0 (sramBase + 0x40) ≠ 255
    ∧ (served (asking 6 11 1 [])).byteKey 0 (sramBase + 0x40) + 1 ≠ (served (asking 6 11 1 [])).mmu.thresh
    ∧ ({ target := 1, count := 0, gen := 3, flags := 1 } : BarWord).reached 3 = true
    ∧ ({ target := 1, count := 0, gen := 3, flags := 1 } : BarWord).reached 4 = false := by
  unfold Served; decide +kernel

theorem test_homes : (ran .hopBinit (served (asking 6 1 9 (leBytes 8 3 ++ [1])))).map (fun t => (t.bytes (sramBase + 0x40) 8, t.bytes (sramBase + 0x54) 4))
      = some (leBytes 8 3, [3, 0, 0, 0])
    ∧ (ran .hopCntinc (served (asking 6 11 1 []))).map (·.bytes (sramBase + 0x40) 1) = some [6]
    ∧ (ran .hopReserved (served (asking 6 15 1 []))).map (·.mgmt.checks) = some [tileNode 0 4] := by decide +kernel

/-- Core 0 waits for an interlocked access to slice 4 of stack 0, or has an `LDR` there. -/
def expecting (held : Bool) : State :=
  let a : Access := { cls := 2, dst := sliceNode 0 4, seq := 0, x := false, addr := 0x400, len := 4, off := false, write := false, held := held }
  let l : Ldr := { size := .w, dd := 5, ev := 3, count := 4, cls := 2, dst := sliceNode 0 4, seq := 0 }
  (home []).modCtx (fun c => { c with out := [a], ldrs := if held then [] else [l] })

/-- The answer to it. -/
def answer (kind op : BitVec 4) : Packet :=
  { kind := kind, x := true, cls := 2, dst := tileNode 0 0, src := sliceNode 0 4, seq := 0, region := 1, stamp := 0, op := op
    len := 3, addr := 0, fw := false, poison := false, data := [1, 2, 3, 4] }

theorem witness_MeshAnswers :
    (({ expecting true with inp := { pkt := some (answer 8 0) } } : State).findAccess (answer 8 0)).map (fun x => (x.1, x.2.held, x.2.bar))
      = some (.user 0, true, none)
    ∧ (({ expecting false with inp := { pkt := some (answer 8 0) } } : State).findAccess (answer 8 0)).map (fun x => (x.1, x.2.held, x.2.bar))
      = some (.user 0, false, none)
    ∧ (({ copier 0 [] with inp := { pkt := some { answer 11 1 with dst := tileNode 0 5 } } } : State).modCore 0
        (fun c => { c with cpy := { c.cpy with out := (expecting false).ctx.out } })).findAccess { answer 11 1 with dst := tileNode 0 5 }
      = some (.copy 0, { cls := 2, dst := sliceNode 0 4, seq := 0, x := false, addr := 0x400, len := 4, off := false, write := false }) := by
  decide +kernel

/-- The same context in its trap handler, which has sent the access itself. -/
theorem witness_MeshAnswers_handler : let s : State := { (expecting true).modCtx (fun c => { c with status := { c.status with intrap := true }, trapAt := 0 }) with
      inp := { pkt := some (answer 11 1) } }
    (s.ctxOf (.user 0)).status.intrap = true ∧ (s.ctxOf (.user 0)).trapAt ≤ (sentAccess.count) ∧ (s.ctxOf (.user 0)).ldrs = []
    ∧ (s.ctxOf (.user 0)).dbg.replayctl.extractLsb' 62 2 = 0 ∧ (expecting true).ctx.status.intrap = false := by decide +kernel

theorem test_answers : (ran .meshRdd { expecting false with inp := { pkt := some (answer 8 0) } }).map (fun t => (t.ctx.out, t.ctx.ldrs.map (·.data)))
      = some ([], [some [1, 2, 3, 4]])
    ∧ (ran .meshNack { expecting true with inp := { pkt := some (answer 11 1) } }).map (·.ctx.waits.reply) = some (some (.trap 0x0A)) := by
  decide +kernel

theorem witness_MeshRouting : let s : State := { plant with mesh := { plant.mesh with offered := [asking 0 0 4 []] }, inp := { n := 0 } }
    s.mesh.offered[s.inp.n]? = some (asking 0 0 4 []) ∧ (asking 0 0 4 []).x = false
    ∧ (0 < 3 ∧ 0 < dieWidth 0 * 10 ∧ dieRoutes s 0 = true ∧ routerReady s 0 0 0 = true) ∧ s.inp.errs = [] ∧ s.fences.dies = 0
    ∧ ((asking 0 0 4 []).seq - Assoc.get 0 s.mesh.expect (pktStream (asking 0 0 4 []))).toNat = 0 ∧ (answer 8 0).x = true := by decide +kernel

theorem test_eject : (ran .packetEject { plant with mesh := { plant.mesh with offered := [asking 0 0 4 []] }, inp := { n := 0 } }).map
    (fun t => (t.mesh.offered, t.sched)) = some ([], [.happen .meshRd { pkt := some (asking 0 0 4 []) }])
    ∧ (ran .packetEject { plant with mesh := { plant.mesh with offered := [{ asking 0 0 4 [] with seq := 64 }] }, inp := { n := 0 } }).map
    (fun t => t.mesh.held.length) = some 1 := by decide +kernel

/-- A packet for another router leaves its source's router, and the router has done a cycle. -/
theorem test_router : (ran .routerCycle { plant with
      mesh := { plant.mesh with pending := [{ asking 0 0 4 [] with src := tileNode 1 0, dst := tileNode 4 4 }] }
      inp := { n := 0, m := nodeRouter (tileNode 1 0), k := 0 } }).map (fun t =>
    (t.mesh.pending, t.mesh.flits.length, (t.routerRun 0 (nodeRouter (tileNode 1 0)) 0).cycles)) = some ([], 1, 1) := by decide +kernel

/-! ### Linnor links and the host -/

/-- Port 0, trained, as `q`, with the happening `inp`. -/
def wired (q : LnPort) (inp : Input) : State := { (plant.setPort 0 { q with trained := true }) with inp := inp }

/-- The bytes that the FEC gives of a flit with a header and a first packet. -/
def flitOf (seq : BitVec 12) (kind : BitVec 3) (slots : List Byte) : List Byte :=
  let body := leBytes 8 (FlitHeader.word ⟨seq, 9, kind != 0, kind, 2, 3⟩).toNat ++ (slots ++ List.replicate (224 - slots.length) 0)
  body ++ leBytes 8 (crc64 body).toNat

/-- A read of four bytes at 0x4000 by device 3. -/
def readOf (dst : BitVec 10) : LinnorPacket := ⟨0, dst, 3, 7, 3, 0, 0x4000, []⟩

/-- That flit at port 0. -/
def flitAt (q : LnPort) (seq : BitVec 12) (kind : BitVec 3) (ok : Bool) : State :=
  let x : LnPort := { wire := flitOf seq kind (lnBytes (readOf 5)) }
  wired q { flag := ok, bytes := x.lane 0, lane1 := x.lane 1 }

theorem witness_LinnorFlits_received : (flitAt {} 0 0 true).lnUp (flitAt {} 0 0 true).inp.n = true
    ∧ fromLanes (flitAt {} 0 0 true).inp.bytes (flitAt {} 0 0 true).inp.lane1 = flitOf 0 0 (lnBytes (readOf 5))
    ∧ (FlitHeader.ofWord (BitVec.ofNat 64 (field (flitOf 0 1 []) 0 8))).ackv = true
    ∧ field (flitOf 0 0 (lnBytes (readOf 5))) 232 8 = (crc64 ((flitOf 0 0 (lnBytes (readOf 5))).take 232)).toNat
    ∧ (flitOf 0 0 (lnBytes (readOf 5))).length = 240
    ∧ FlitHeader.ofWord (BitVec.ofNat 64 (field (flitOf 0 0 []) 0 8)) = ⟨0, 9, false, 0, 2, 3⟩
    ∧ FlitHeader.ofWord (BitVec.ofNat 64 (field (flitOf 4 1 []) 0 8)) = ⟨4, 9, true, 1, 2, 3⟩
    ∧ ((4 : BitVec 12) - 0).toNat < 2048 ∧ (flitAt {} 0 0 false).inp.flag = false
    ∧ ((flitAt { missing := true } 0 0 false).lnPort 0).missing = true := by decide +kernel

theorem witness_LinnorFlits_sent :
    (lnPack 224 [⟨false, readOf 9⟩] { creq := 4 } false false).rest ≠ [] ∧ (List.replicate 256 ((0 : BitVec 12), ([] : List Byte))).length = 256
    ∧ 2000 ≤ ((wired { missing := true, asks := 1 } {}).ptime + 2000 - 0).toNat ∧ (8 : Nat) ≤ 8 := by decide +kernel

theorem test_flit : (ran .linnorFlitReceive (flitAt {} 0 0 true)).map (fun t => ((t.lnPort 0).expect, (t.lnPort 0).creq, t.sched))
      = some (1, 2, [.happen .linnorRd { n := 0, lpkt := some (readOf 5) }])
    ∧ (ran .linnorFlitReceive (flitAt {} 1 0 true)).map (fun t => ((t.lnPort 0).missing, t.sched)) = some (true, []) := by decide +kernel

/-- A request in progress at the C7, device 5, that exports its first GiB to device 3. -/
def asked (p : LinnorPacket) (idle : IdleState) : State :=
  { (plant.setBytes 0x4000 [5, 6, 7, 8]) with
    links := { plant.links with self := 5, exp := [(0, 0xC000FFC000000000 ||| 0x0030000000000000)], wakectl := [(0, 0x8000000000000000)] }
    mgmt := { plant.mgmt with idle := idle, msgen := true, msgsize := 4, msgbase := 0x10000 }, inp := { lpkt := some p } }

/-- A frame of nine bytes for device 5. -/
def frame (kind : BitVec 4) : LinnorPacket := ⟨kind, 5, 3, 7, 8, 0, 0x4000, [1, 2, 3, 4, 5, 6, 7, 8, 9]⟩

theorem witness_LinnorRequests : (asked (readOf 5) .running).inp.lpkt = some (readOf 5) ∧ (readOf 9).dst ≠ (asked (readOf 9) .running).links.self
    ∧ wakeMatches (asked (frame 8) .idle) 0 (frame 8) = true ∧ (asked (frame 8) .idle).wakeHeld 0 = false
    ∧ ((asked (frame 8) .idle).setHeld 0 (some (frame 8))).wakeHeld 0 = true
    ∧ wakeMatches { asked (frame 8) .idle with links := { plant.links with self := 5 } } 0 (frame 8) = false
    ∧ exported (asked (readOf 5) .running) (readOf 5) 4 false = true ∧ outerRefuse (asked (readOf 5) .running) 0 0x4000 4 false = none
    ∧ exported (asked (frame 2) .running) (frame 2) 9 true = true ∧ outerRefuse (asked (frame 2) .running) 0 0x4000 9 true = none
    ∧ SameKey (asked (frame 2) .running) 0 0x4000 9 ∧ MemInv (asked (frame 2) .running)
    ∧ exported (asked (readOf 5) .running) { readOf 5 with src := 4 } 4 false = false ∧ (asked (readOf 5) .running).poisoned 0x4000 4 = false
    ∧ (asked (frame 8) .idle).allGated = true ∧ (asked (frame 8) .running).allGated = false
    ∧ ({ asked (frame 8) .waking with mgmt := { (asked (frame 8) .waking).mgmt with gated := true } } : State).allGated = true
    ∧ SameKey (asked (frame 6) .running) 0 0x10000 256 ∧ ({ frame 8 with len := 6 } : LinnorPacket).len.toNat + 1 < 8 := by
  unfold SameKey MemInv; decide +kernel

theorem test_linnor : (ran .linnorRd (asked (readOf 5) .running)).map (fun t => (t.lnPort 0).sendq)
      = some [⟨true, ⟨1, 3, 5, 7, 3, 0, 0, [5, 6, 7, 8]⟩⟩]
    ∧ (ran .linnorAtom (asked { readOf 5 with kind := 4, op := 7, data := [5, 6, 7, 8, 9, 9, 9, 9] } .running)).map (·.bytes 0x4000 4)
      = some [9, 9, 9, 9]
    ∧ (ran .linnorMsg (asked (frame 6) .running)).map (fun t => (t.mgmt.msgtail, t.bytes 0x10000 10)) = some (1, [3, 0, 8, 0, 0, 0, 0, 0, 1, 2])
    ∧ (ran .linnorWake (asked (frame 8) .idle)).map (fun t => (t.mgmt.idle, t.mgmt.idleCause)) = some (.waking, 2) := by decide +kernel

/-- A mesh request that another device serves, by the request with tag 9. -/
def relayed (kind op status : BitVec 4) (waiting : Bool) (time : BitVec 64) : State :=
  { plant with
    ptime := time
    links := { plant.links with
      self := 5, reqs := [(9, ⟨0, ⟨kind, 6, 5, 9, 3, op, 0x4000, []⟩, some (asking 0 0 4 []), 0, 0, waiting⟩)] }
    inp := { n := 9, lpkt := some ⟨9, 5, 6, 9, 3, status, 0, [1, 2, 3, 4]⟩ } }

theorem witness_LinnorAnswers :
    ((relayed 4 2 1 false 0).lnReq ⟨9, 5, 6, 9, 3, 1, 0, [1, 2, 3, 4]⟩).map (fun r => (r.orig, r.pkt.tag, r.pkt.kind))
      = some (some (asking 0 0 4 []), 9, 4)
    ∧ (Assoc.get 0 (relayed 4 2 1 false 0).links.route 6).getLsbD 62 = false
    ∧ (Assoc.find? (relayed 0 0 3 true 4000).links.reqs 9).map (fun r => (r.waiting, r.sentAt, r.since, r.pkt.tag.toNat)) = some (true, 0, 0, 9)
    ∧ 4000 ≤ ((relayed 0 0 3 true 4000).ptime - 0).toNat ∧ 10000000 ≤ ((relayed 0 0 3 true 10000000).ptime - 0).toNat := by decide +kernel

theorem witness_LinnorAnswers_held : let s := ((asked (frame 8) .waking).setHeld 0 (some (frame 8)))
    (s.lnPort s.inp.m).held = some (frame 8) ∧ s.mgmt.idle ≠ .idle ∧ s.coreGated s.inp.n = false ∧ wakeCore s s.inp.m = s.inp.n
    ∧ s.mgmt.msgen = true ∧ (s.mgmt.msgtail - s.mgmt.msghead).toNat < 16 := by decide +kernel

/-- An atomic on a path that cannot: it is learned (R45). -/
theorem test_linnor_err : (ran .linnorErr (relayed 4 2 1 false 0)).map (fun t => (t.links.reqs, Assoc.get 0 t.links.route 6,
      t.mesh.pending.map (fun p => (p.kind, p.op)))) = some ([], 1#64 <<< (40 + capBit 2 false), [(0xB, 3)])
    ∧ (ran .linnorErr (relayed 0 0 4 false 0)).map (fun t => t.links.reqs.map (·.2.waiting)) = some [true] := by decide +kernel

/-- The happening `inp` in a package with PCIe port 0 up, a root port, and port 1 up as its endpoint, and PASID 0's tables at 0x20000: its first GiB is itself. -/
def outside (inp : Input) : State :=
  { (((plant.setBytes 0x4000 [5, 6, 7, 8]).setBytes 0x20000 [1, 0x84]).setBytes 0x21000 [0xDF]).setBytes 0x30000 (process 0x20) with
    mmu := { plant.mmu with pdt := directory }
    boot := { plant.boot with pcie := 3 }, mgmt := { plant.mgmt with bar2 := 0x8000000000000000 }, inp := inp
    links := { plant.links with pports := [(1, { mode := .endpoint })] } }

/-- A PCIe request of four bytes at 0x4000. -/
def request (atomic : Option (BitVec 2)) (write : Bool) : PcieRequest :=
  { port := 0, addr := 0x4000, len := 4, write := write, data := [1, 0, 0, 0], atomic := atomic, pasid := none }

/-- The package with BAR2 over a PCIe window, which is off the package. -/
def beyond : State := let s := outside { n := 0x4000, m := 4 }; { s with mgmt := { s.mgmt with bar2 := 0x80000D0000000000 } }

theorem witness_OutsideAccesses : (outside { n := 4 }).inp.n % 8 ≠ 0 ∧ (outside { n := 0x1000 }).inp.n % 8 = 0
    ∧ (outside { n := 0x4000, m := 4 }).mgmt.bar2.getLsbD 63 = true ∧ plant.mgmt.bar2.getLsbD 63 = false ∧ 0x4000 < 2 ^ 30
    ∧ (outside {}).endpointPort = some 1 ∧ plant.endpointPort = none ∧ ((outside {}).pciePort 0).mode ≠ .endpoint
    ∧ ((outside { n := 0x1000 }).queue ((0x1000 - 0x10000) / 64)).waiting = [] ∧ beyond.endpointPort = some 1
    ∧ offCell (physCell (beyond.mgmt.bar2.extractLsb' 30 22 ++ BitVec.ofNat 30 0x4000)) = true
    ∧ offCell (physCell ((outside {}).mgmt.bar2.extractLsb' 30 22 ++ BitVec.ofNat 30 0x4000)) = false
    ∧ outerRefuse (outside {}) 0 0x4000 4 false = none ∧ outerRefuse (outside {}) 0 0x4000 4 true = none
    ∧ SameKey (outside {}) 0 0x4000 4 ∧ MemInv (outside {}) ∧ (outside {}).pcieUp 0 = true
    ∧ (inboundPlace (request none false) accRead (outside {})).map (·.1) = some 0x4000
    ∧ (inboundPlace (request (some 0) false) accAtomic (outside {})).map (·.1) = some 0x4000
    ∧ inboundPlace { request none false with pasid := some 9 } accRead (outside {}) = none
    ∧ (outerRefuse (outside {}) 0 0x0FF00000000 4 false).isSome = true ∧ (0 : BitVec 2).toNat < 3 ∧ (0x4000 : Nat) % 4 = 0 := by
  unfold SameKey MemInv; decide +kernel

theorem test_outside : (ran .bar2Access (outside { n := 0x4000, m := 4 })).map (fun t => (t.mgmt.answerOk, t.mgmt.answer)) = some (true, [5, 6, 7, 8])
    ∧ (ran .pcieAtomicopInbound (outside { req := some (request (some 0) false) })).map (fun t => (t.mgmt.answer, t.bytes 0x4000 4))
      = some ([5, 6, 7, 8], [6, 6, 7, 8])
    ∧ (ran .registerWrite (outside { n := 0x1000, value := 0xFFFF })).map (·.links.self) = some 0x3FF
    ∧ (ran .bar2Access beyond).map (fun t => t.links.outer.map (fun o => (o.port, o.left))) = some [(1, 4)]
    ∧ (ran .pcieInboundRequest (outside { req := some { request none true with msi := some 0x500000007 } })).map (·.mgmt.msis)
      = some [(5, 7)] := by decide +kernel

/-- A mesh request that the host serves. -/
def posted (atomic : Option (BitVec 2)) (ok : Bool) : State :=
  { outside { n := 2, flag := ok, bytes := [1, 2, 3, 4] } with
    links := { plant.links with pcie := [(2, ⟨request atomic false, asking 0 0 4 [], [asking 1 0 4 []]⟩)] } }

theorem witness_PcieCompletes : (Assoc.find? (posted (some 0) true).links.pcie (posted (some 0) true).inp.n).map (·.orig) = some (asking 0 0 4 [])
    ∧ (Assoc.get 0 (posted (some 0) true).links.pcieCap 0).getLsbD 62 = false
    ∧ (posted none true).links.pcieWait = [] ∧ (posted none true).inp.flag = true ∧ (posted none false).inp.flag = false := by decide +kernel

theorem test_completion : (ran .pcieCompletion (posted none true)).map (fun t => t.mesh.pending.map (fun p => (p.kind, p.data)))
    = some [(9, []), (8, [1, 2, 3, 4])] := by decide +kernel

/-- No region exists, and the C7 is in a state of idleness at a time. -/
def quiet (x : IdleState) (time : BitVec 64) (en : Bool) : State :=
  { plant with
    regions := [], ptime := time, mgmt := { plant.mgmt with idle := x, idleEn := en, idleDelay := 5, gated := x == .idle } }

theorem witness_IdleAndWake : (quiet .running 5000 true).regions = [] ∧ (quiet .running 5000 true).mgmt.idle = .running ∧ plant.regions ≠ []
    ∧ (quiet .running 5000 true).hasWork = false ∧ 1000 * 5 ≤ ((quiet .running 5000 true).ptime - (quiet .running 5000 true).mgmt.quietAt).toNat
    ∧ (quiet .idle 0 true).inp.value.getLsbD 63 = false ∧ (quiet .waking 0 true).coreGated 0 = false := by decide +kernel

theorem test_idle : (ran .idleEntered (quiet .entering 0 true)).map (fun t => (t.mgmt.idle, t.coreGated 5)) = some (.idle, true)
    ∧ (ran .idleNow plant).map (·.mgmt.idle) = some .running := by decide +kernel

/-! ### Bring-up, temperature, fences, service -/

/-- An earlier record of a step's instance. -/
def logged (outcome policy : Byte) : JournalRec :=
  { time := 0, step := 4, outcome := outcome, inst := 1, policy := policy, attempt := 0, detail := 0, start := 1 }

/-- Step `n` runs, its instance `i` ends: with `int` 0 it was tried, and passes where `ok`. -/
def booting (n i : Nat) (int : Int) (ok : Bool) (latest : Assoc JournalRec) : State :=
  { State.reset with
    boot := { State.reset.boot with stepNow := n, latest := latest, tested := 3 }, inp := { n := n, m := i, int := int, flag := ok } }

theorem witness_BringUp : State.reset.boot.latest = [] ∧ (booting 4 1 0 true []).boot.stepNow = 4 ∧ 1 < stepCount 4
    ∧ (booting 4 1 0 true []).boot.halted = false ∧ (booting 4 1 0 true []).boot.done.contains 1 = false
    ∧ (booting 4 1 0 true []).boot.alldone = false ∧ (booting 4 1 1 true []).inp.int ≠ 0 ∧ stepOptional 4 = true
    ∧ (booting 4 1 0 true []).boot.done.length + 1 < stepCount 4 ∧ (booting 0 0 0 true []).inp.flag = true ∧ 0 < stepCount 0
    ∧ (booting 4 1 0 true [(4 * 65536 + 1, logged 1 2)]).latest 4 1 = some (logged 1 2) ∧ 0 < stepCount 6
    ∧ (booting 2 0 0 false []).inp.value.getLsbD 0 = false := by decide +kernel

theorem test_bringup : (ran .bringupStepComplete (booting 4 1 0 true [(4 * 65536 + 1, logged 1 2)])).map (fun t =>
      (t.boot.links, (t.lnPort 1).half, (t.lnPort 1).creq, (Assoc.find? t.boot.journal 0).map (·.outcome))) = some (2, true, 512, some 2)
    ∧ (ran .bringupStepComplete (booting 4 1 0 false [(4 * 65536 + 1, logged 1 2)])).map (fun t =>
      (t.fences.lports, (Assoc.find? t.boot.journal 0).map (fun r => (r.outcome, r.policy)))) = some (2, some (1, 3)) := by decide +kernel

/-- A package of which tile 3 is now read at a temperature, and the highest reading and the clock stand so. -/
def heated (now : Int) (hottest : Int) (clock : Nat) : State :=
  { plant with inp := { temps := [(3, now)] }, mgmt := { plant.mgmt with hottest := hottest, clock := clock } }

theorem witness_ThermalAndClock : hottestOf (newReadings (heated 50 0 1900).inp.temps plant.mgmt.temps) < 110
    ∧ Assoc.find? (newReadings (heated 50 0 1900).inp.temps plant.mgmt.temps) 3 = some 50
    ∧ 110 ≤ hottestOf (newReadings (heated 110 0 1900).inp.temps plant.mgmt.temps)
    ∧ (heated 50 0 1900).mgmt.polledAt = none ∧ (heated 50 0 1900).mgmt.clockAt = none
    ∧ ¬ 100000 ≤ ((heated 50 0 1900).ptime - 0).toNat ∧ 95 ≤ (heated 0 95 1900).mgmt.hottest ∧ 90 ≤ (heated 0 92 1900).mgmt.hottest
    ∧ (heated 0 92 1900).mgmt.hottest < 95 ∧ (heated 0 89 1900).mgmt.hottest < 90 := by decide +kernel

theorem test_clock : (ran .clockAdjustTick (heated 0 95 1050)).map (·.mgmt.clock) = some 1000
    ∧ (ran .clockAdjustTick (heated 0 89 1850)).map (·.mgmt.clock) = some 1900
    ∧ (ran .clockAdjustTick (heated 0 94 1500)).map (·.mgmt.clock) = some 1500 := by decide +kernel

theorem test_poll : (ran .thermalPoll (heated 111 0 1900)).map (fun t => (t.boot.off, t.mgmt.hottest,
    (Assoc.find? t.boot.journal 0).map (·.outcome))) = some (true, 111, some 5) := by decide +kernel

/-- The management core is told of a unit, in a package in service without regions; each tile has had an uncorrectable error, and
each stack in 16 rows. -/
def fencing (u : FenceUnit) (c : FenceCause) : State :=
  { plant with
    regions := [], boot := { plant.boot with links := BitVec.allOnes 64, pcie := 0xF }, inp := { unit := some u, cause := c, m := 99 }
    fences := { plant.fences with
      tileErr := (List.range 256).map (fun t => (t, 0)), rowErr := (List.range 12).map (fun n => (n, (List.range 16).map (fun i => (i, 0)))) } }

theorem witness_RuntimeFences : (fencing (.tile 7) .fabric).tileUp 7 = true ∧ (fencing (.stack 7) .fabric).stackUp 7 = true
    ∧ Assoc.find? (fencing (.tile 7) .fabric).fences.tileErr 7 = some 0 ∧ Assoc.find? plant.fences.tileErr 7 = none
    ∧ ((fencing (.tile 7) .fabric).ptime - 0).toNat ≤ 3600000000000
    ∧ ((Assoc.get [] (fencing (.stack 7) .fabric).fences.rowErr 7).filter (fun e => e.1 != 99)).length = 16 ∧ plant.fences.rowErr = []
    ∧ (fencing (.linnorPort 7) .fabric).linkUp 7 = true ∧ (fencing (.pciePort 3) .fabric).pcieUp 3 = true
    ∧ (fencing (.die 1) .fabric).fences.dies = 0 ∧ (fencing (.die 1) .fabric).inp.cause = .fabric
    ∧ ({ fencing (.die 1) .fabric with fences := { dies := 2 } } : State).dieOut 1 = true
    ∧ ({ fencing (.die 1) .fabric with fences := { dies := 2 } } : State).dieOut 0 = false
    ∧ (fencing (.die 1) .fabric).regions = [] ∧ (fencing (.die 1) .fabric).dist.grains = []
    ∧ (fencing (.die 1) .fabric).dieOut 0 = false := by decide +kernel

/-- Flits resent within a second reach the limit, whatever it is; without any, they are below it unless the package sets it to 0. -/
theorem witness_RuntimeFences_retry : Config.retryLimit
      ≤ (((fencing (.linnorPort 7) .retryLimit).setPort 0 { resent := [(0, Config.retryLimit)] }).lnPort 0).resentNow 0
    ∧ (Config.retryLimit ≠ 0 → ((fencing (.linnorPort 7) .retryLimit).lnPort 7).resentNow 0 < Config.retryLimit) := by
  refine ⟨by simp [State.lnPort, State.setPort, LnPort.resentNow, Assoc.get, Assoc.set, Assoc.find?], fun h => ?_⟩
  exact Nat.lt_of_le_of_lt (show ((fencing (.linnorPort 7) .retryLimit).lnPort 7).resentNow 0 ≤ 0 by decide +kernel) (Nat.pos_of_ne_zero h)

theorem test_fences : (ran .runtimeFence (fencing (.tile 7) .fabric)).map (fun t => (t.tileUp 7, t.boot.replreq,
      (Assoc.find? t.boot.journal 0).map (·.outcome))) = some (false, true, some 4)
    ∧ (ran .runtimeFence { plant with inp := { unit := some (.tile 7) } }).map (·.tileUp 7) = some true
    ∧ (ran .runtimeFence { fencing (.tile 0) .fabric with regions := plant.regions }).map (·.sched) = some []
    ∧ (ran .runtimeFence { fencing (.tile 0) .fabric with regions := plant.regions, cores := (home []).cores }).map (·.sched)
      = some [.happen .regionFault { n := 1, m := 0, value := 0xFE }] := by decide +kernel

/-- A service port's question or command. -/
def serviced (inp : Input) : State :=
  { plant with boot := { plant.boot with journal := [(3, logged 1 2)], latest := [(4 * 65536 + 1, logged 1 2)], replreq := true }, inp := inp }

theorem witness_ServiceAndSeal : (serviced { query := .journal 3 }).inp.query = .journal 3
    ∧ Assoc.find? (serviced { query := .journal 3 }).boot.journal 3 = some (logged 1 2)
    ∧ (serviced { query := .readymap }).inp.query = .readymap ∧ (serviced {}).inp.query = .sensors
    ∧ (serviced { n := 5 }).inp.n = (5 : BitVec 8).toNat ∧ (serviced { n := 5, flag := true }).inp.flag = true
    ∧ (∀ e ∈ plant.unitKey, e.2 = 5 → e.1 ≠ 0x4000 / 64) ∧ plant.mgmt.debugOpen = false ∧ MemInv (serviced {}) := by
  unfold MemInv; decide +kernel

theorem test_service : (ran .i3cServiceCommand (serviced { n := 4, m := 1 })).map (fun t => (t.boot.replreq, t.latest 4 1, t.boot.journal))
      = some (false, none, [])
    ∧ (ran .sealKeyInstall (serviced { n := 5, m := 1, flag := true, pasid := 9 })).map (fun t =>
      (Assoc.get false t.security.keys 5, Assoc.get 0 t.security.tenants 9)) = some (true, 5)
    ∧ (ran .jtagInstruction (serviced { n := 4 })).map (·.mgmt.jtag) = some 0
    ∧ (ran .sealAttestation (serviced {})).map (·.security.report) = some [1, 256, 12, 96, 0, 0] := by decide +kernel

/-! ### Power, the lease, clocked happenings -/

/-- Tile 5 as `x`, at a cycle. -/
def powered (x : TileState) (cycle : BitVec 64) : State := { plant.modTile 5 (fun _ => x) with cycle := cycle, inp := { n := 5 } }

/-- With a lease waited for on tile 5. -/
def craving (x : TileState) (cycle : BitVec 64) : State :=
  (powered x cycle).modCore 21 (fun c => { c with mat := { c.mat with state := .waitLease }, user := { c.user with id := { c.user.id with prio := 3 } } })

theorem witness_MatrixPower : (powered {} 0).inp.n = 5 ∧ 1 ≤ ((powered { passing := 1 } 0).tile 5).passing
    ∧ (craving { passing := 1 } 0).matrixReady 5 = true ∧ (powered { passing := 1 } 0).matrixReady 5 = false
    ∧ ((powered { token := true } 1024).tile 5).token = true ∧ 1024 ≤ ((powered { token := true } 1024).cycle - 0).toNat
    ∧ ((powered { token := true, lease := { held := true } } 9).tile 5).lease.held = true
    ∧ ((powered {} 64).tile 5).window < (powered {} 64).cycle.toNat / 64
    ∧ (powered {} 0).cycle.toNat / 64 ≤ ((powered {} 0).tile 5).window := by decide +kernel

/-- The budget is reached, whatever it is, and what a pass has used past it is charged to the next window. -/
theorem witness_MatrixPower_budget : ((powered { activeCycles := Config.budget.toNat + 1 } 0).tile 5).settled 0 = Config.budget.toNat + 1
    ∧ ((powered { activeCycles := Config.budget.toNat + 6 } 64).tile 5).settled 1 = 5
    ∧ ((powered {} 0).tile 5).settled 0 < Config.budget.toNat + 1 := by
  simp [powered, State.tile, State.modTile, State.setTile, Assoc.get, Assoc.set, Assoc.find?, TileState.settled]

theorem witness_LeaseTurns : (∃ i, i < 4 ∧ ((craving {} 0).core (4 * 5 + i)).mat.state = .waitLease)
    ∧ ((craving {} 0).tile 5).lease.held = false ∧ ((craving { token := true } 0).tile 5).token = true
    ∧ ((craving { token := true } 0).tile 5).burst = false ∧ ((craving { lease := { held := true } } 1024).tile 5).lease.held = true
    ∧ 1024 ≤ ((craving { lease := { held := true } } 1024).cycle - 0).toNat
    ∧ (((passing true 1024).engine 0 false).inWord.isSome, ((passing true 1024).engine 0 false).inArray) = (true, true) :=
  ⟨⟨1, by decide +kernel⟩, by decide +kernel⟩

theorem witness_LeaseTurns_none : ∀ i, ¬ (i < 4 ∧ ((powered {} 0).core (4 * 5 + i)).mat.state = .waitLease) := by
  intro i ⟨h, g⟩
  revert h g
  revert i
  decide +kernel

theorem test_lease : (ran .leaseGrant (craving { token := true } 7)).map (fun t => ((t.tile 5).lease.held, (t.tile 5).lease.holder,
    (t.tile 5).lease.since, (t.core 21).mat.state)) = some (true, 1, 7, .running) := by
  show Option.map _ (some (leaseGrant 5 (craving { token := true } 7))) = _
  unfold leaseGrant
  cases Config.tokenRing <;> decide +kernel

/-- A budget of 57 cycles lets a pass of 24 end in 24, one of 20 splits it over two windows, and one of 1 makes it outlast a lease. -/
theorem test_span : activeSpan 58 26 0 10 24 = 24 ∧ activeSpan 20 26 0 0 24 = 68 ∧ activeSpan 58 26 50 10 24 = 70
    ∧ activeSpan 1 26 0 0 24 = 1473 := by decide +kernel

/-- The matrix engine of core 0 waits for event 3, which is `n`. -/
def awaiting (n : Byte) : State := (({ (array 0 []) with mem := [] }).modCtx (fun c => { c with regs := c.regs.setEvent 3 n })).modCore 0
  (fun c => { c with mat := { c.mat with state := .waitEvent, word := 0x5000 } }) |>.setBytes 0x5000 [0x03, 0x58]

theorem witness_TimeRunsOut_await : ((awaiting 1).engine 0 true).state ≠ .waitEvent ∧ ((awaiting 1).engine 0 false).state = .waitEvent
    ∧ ((awaiting 1).engine 0 false).resolved = none
    ∧ (let at_ : State := { awaiting 1 with cur := .matrix 0, issue := {} }
       at_.engineReady = true ∧ (match fetchWord at_ at_.eng.word with
        | .ok (w, u) => decide (decodeFor false w = .engineAwait 3) && decide (u.cores = (awaiting 1).cores) && decide (u.cur = .matrix 0)
        | .error _ => false) = true)
    ∧ ({ awaiting 1 with cur := .matrix 0, issue := {} } : State).firstToAwait 3 = true
    ∧ ((awaiting 1).core 0).user.regs.event 3 ≠ 0 ∧ ((awaiting 0).core 0).user.regs.event 3 = 0 := by decide +kernel

theorem test_await : (ran .eventCycleUpdate (awaiting 2)).map (fun t => ((t.core 0).user.regs.event 3, (t.engine 0 false).state,
    (t.engine 0 false).word)) = some (1, .running, 0x5002) := by decide +kernel

/-- Core 0's user context waits in replay, or at a barrier word of target 3, since cycle 0. -/
def stalled (w : Waits) (cycle : BitVec 64) : State :=
  { (barred 7).modCtx (fun c => { c with waits := w }) with cycle := cycle, inp := { who := .user 0 } }

theorem witness_TimeRunsOut_waits : ((stalled { replay := true } (2 ^ 24)).ctxOf (.user 0)).waits.replay = true
    ∧ 2 ^ 24 ≤ ((stalled { replay := true } (2 ^ 24)).cycle - 0).toNat
    ∧ ((stalled { barrier := true, limit := 5, gen := 7, word := sramBase + 0x40 } 5).ctxOf (.user 0)).waits.limit = 5
    ∧ ((stalled {} 5).barWord 0 (sramBase + 0x40)).reached 7 = true ∧ ((stalled {} 5).barWord 0 (sramBase + 0x40)).reached 8 = false := by
  decide +kernel

theorem test_timeout : (ran .barwwaitTimeoutExpiry (stalled { barrier := true, limit := 5, gen := 8, word := sramBase + 0x40 } 5)).map (fun t =>
      ((t.barWord 0 (sramBase + 0x40)).flags, t.ctx.waits.timedOut)) = some (9, true)
    ∧ (ran .replayWaitTimeout (stalled { replay := true } (2 ^ 24))).map (·.ctx.waits.resolved) = some (some 0x14) := by decide +kernel

/-- A record of core 0's trace. -/
def quilled : TraceRec := { stamp := 9, payload := 8, group := 7, core := 0, kind := 1, fw := false, pc := 0x1000 }

/-- A trace key. -/
def traceKey : List Byte := (List.range 32).map (BitVec.ofNat 8)

/-- Core 0 with that record in its quill, in a confidential region or not, its ring of 4 KiB at 0x8000. -/
def tracing (conf key : Bool) (q : Quill) (cycle : BitVec 64) : State :=
  { ((home []).modCtx (fun c => { c with
      id := { c.id with conf := conf, debug := true }
      dbg := { c.dbg with tracectl := 0x8400000000008000 } })).modCore 0 (fun c => { c with quill := q }) with
    inp := { n := 0 }, security := { plant.security with traceKeys := if key then [(0, traceKey)] else [] }, cycle := cycle, ptime := 77 }

theorem witness_TraceDrains : ((tracing false false { fifo := [quilled] } 0).core 0).quill.fifo = quilled :: [] ∧ quilled.kind ≠ 3
    ∧ ringAt (tracing false false { fifo := [quilled] } 0) 0 0 32 = .ok 0 0x8000 (tracing false false { fifo := [quilled] } 0)
    ∧ (∃ t, ringAt { tracing false false { fifo := [quilled] } 0 with mmu := {} } 0 0 32 = .wait t)
    ∧ leNat ((tracing false false {} 0).bytes 0x8000 8) - leNat ((tracing false false {} 0).bytes 0x8008 8) < (2 ^ 12 - 64) / 32
    ∧ Assoc.find? (tracing true true {} 0).security.traceKeys 0 = some traceKey ∧ Assoc.find? (tracing true false {} 0).security.traceKeys 0 = none
    ∧ ((tracing true true { fifo := [quilled] } 0).core 0).quill.lost = 0 ∧ ((tracing true true { fifo := [quilled], lost := 2 } 0).core 0).quill.lost ≠ 0
    ∧ ((tracing true true { fifo := [quilled] } 0).core 0).quill.part.length < 6
    ∧ ((tracing true true { part := [quilled] } 4096).core 0).quill.sealedAt ≠ some (tracing true true { part := [quilled] } 4096).ptime
    ∧ 64 % 4096 ≤ 3840 ∧ ringAt { tracing false false { fifo := [quilled] } 0 with boot := State.reset.boot } 0 0 32 = .gone
    ∧ ringAt (tracing false false { fifo := [quilled] } 0) 0 64 32 = .ok 0 0x8040 (tracing false false { fifo := [quilled] } 0)
    ∧ (2 ^ 12 - 64) / 32 ≤ leNat (((tracing false false {} 0).setBytes 0x8000 [126]).bytes 0x8000 8) - 0
    ∧ 4096 ≤ ((tracing true true { part := [quilled] } 4096).cycle - 0).toNat ∧ [quilled] ≠ []
    ∧ ringAt (tracing false true { part := [quilled] } 4096) 0 64 256 = .ok 0 0x8040 (tracing false true { part := [quilled] } 4096)
    ∧ ((tracing false false {} 0x400).core 0).user.running = true ∧ ((tracing false false {} 0).core 0).user.id.debug = true
    ∧ (((tracing false false {} 0).core 0).user.dbg.tracectl.extractLsb' 58 4).toNat ≠ 0
    ∧ 2 ^ ((((tracing false false {} 0x400).core 0).user.dbg.tracectl.extractLsb' 58 4).toNat + 9) ≤ ((tracing false false {} 0x400).cycle - 0).toNat := by
  refine ⟨by decide +kernel, by decide +kernel, by decide +kernel, ⟨_, by rfl⟩, ?_⟩
  decide +kernel

theorem test_trace : (ran .quillDrain (tracing false false { fifo := [quilled] } 0)).map (fun t => (t.bytes 0x8000 1, t.bytes 0x8040 24,
      (t.core 0).quill.fifo)) = some ([1], leBytes 8 9 ++ leBytes 8 8 ++ leBytes 4 7 ++ [0, 0, 1, 0], [])
    ∧ (ran .quillDrain (tracing true false { fifo := [quilled] } 0)).map (fun t => (t.bytes 0x8000 1, t.bytes 0x8010 1)) = some ([0], [1])
    ∧ (ran .quillDrain (tracing false false { fifo := [quilled], lost := 5 } 0)).map (fun t => (t.core 0).quill.fifo.map (fun r => (r.kind, r.payload)))
      = some [(3, 5)]
    ∧ (ran .quillDrain (tracing true true { fifo := [quilled] } 0)).map (fun t => ((t.core 0).quill.part, t.bytes 0x8000 1)) = some ([quilled], [0])
    := by decide +kernel

theorem test_seal : (ran .sealTimeout (tracing true true { part := [quilled] } 4096)).map (fun t => ((t.core 0).quill.part,
      (t.core 0).quill.sealedAt)) = some ([], some 77)
    ∧ (sealedBlock traceKey 5 [quilled] (tracing true true {} 4096)).take 16 = [5, 0, 0, 0] ++ leBytes 8 77 ++ leBytes 4 1 := by decide +kernel

/-- The example of AES-256 of FIPS 197, appendix C.3. -/
theorem test_aes : aesBlock (aesKeys traceKey) ((List.range 16).map (fun i => BitVec.ofNat 8 (17 * i)))
    = [0x8E, 0xA2, 0xB7, 0xCA, 0x51, 0x67, 0x45, 0xBF, 0xEA, 0xFC, 0x49, 0x90, 0x4B, 0x49, 0x60, 0x89] := by decide +kernel

/-- The hash of the example of GCM with a key and a block of zeros, whose cipher text is this one. -/
theorem test_ghash : (ghash 0xDC95C078A2408989AD48A21492842087 [beBytes 16 0xCEA7403D4D606B6E074EC5D3BAF39D18, beBytes 8 0 ++ beBytes 8 128]).toNat
    = 0x83DE425C5EDC5D498F382C441041CA92 := by decide +kernel

/-! ### PASIDs and faults -/

/-- PASID 0 is in a state, and there are no regions. -/
def holding (x : PasidState) : State := { plant with regions := [], mmu := { plant.mmu with pasids := [(0, x)] } }

theorem witness_PasidsLiveAndEnd : (holding .free).inp.pasid = 0 ∧ (holding .free).inp.bytes = [] ∧ (holding .free).pasidState 0 = .free ∧ (holding .active).pasidState 0 = .active
    ∧ (holding .active).regions = [] ∧ (holding .active).lfe.launches = [] ∧ (holding .active).lfe.queues = []
    ∧ (holding .quiescing).pasidState 0 = .quiescing ∧ (holding .quiescing).outstanding 0 = 0
    ∧ (holding .active).pasidState 0 ≠ .quiescing := by decide +kernel

theorem test_pasids : (ran .pasidTeardown { holding .free with mmu := { plant.mmu with pasids := [(7, .active)] }, inp := { pasid := 7 } }).map
      (·.pasidState 7) = some .quiescing
    ∧ (ran .pasidTeardownComplete (holding .quiescing)).map (fun t => (t.pasidState 0, t.lfe.tlb)) = some (.free, []) := by decide +kernel

/-- A walk at 0x4000 for core 0's tile. -/
def walkRequest : WalkRequest := { pasid := 0, va := 0x4000, access := accRead, path := 0, page := 0, node := tileNode 0 0, region := 1, tile := some 0 }

/-- That walk, with the tables of `outside` or none, and room in the fault buffer. -/
def walking (tables : Bool) (st : PasidState) : State :=
  { outside { walk := some walkRequest } with
    mmu := { plant.mmu with
      pdt := if tables then directory else 0, pasids := [(0, st)], fben := true, fbsize := 4 } }

/-- An open fault of that page, with an index or not. -/
def fault (i : Option Word) (stale : Bool) : OpenFault :=
  { index := i, pasid := 0, va := 0x4000, region := 1, node := 0, access := 0, cause := 1, path := 0, page := 0, joined := 0, stale := stale
    waiters := [.user 0] }

/-- It is open, and core 0 waits on its page. -/
def faulted (i : Option Word) (stale room : Bool) : State :=
  { (home []).modCtx (fun c => { c with waits := { fault := some 0x4008 } }) with
    mmu := { plant.mmu with faults := [fault i stale], fben := room, fbsize := 4 }, inp := { value := 6 } }

theorem witness_FaultsOpenAndClose_walks : (walking true .active).inp.walk = some walkRequest ∧ (walking true .active).inp.flag = false
    ∧ (walking true .quiescing).pasidState 0 ≠ .active ∧ (walking true .active).pasidState 0 = .active
    ∧ (match (walking true .active).walk 0 0x4000 accRead with | .leaf _ _ => true | _ => false) = true
    ∧ (match (walking false .active).walk 0 0x4000 accRead with | .fault 3 _ => true | _ => false) = true
    ∧ (walking false .active).fbRoom = true ∧ (walking false .active).mmu.faults = []
    ∧ (match ({ walking true .active with inp := {} }).setBytes 0x21000 [0xDF, 0, 0, 0, 0x30] |>.walk 0 0x4000 accRead with
        | .prot _ => true | _ => false) = true := by decide +kernel

theorem witness_FaultsOpenAndClose_resolved : (faulted (some 6) false true).mmu.faults = [fault (some 6) false]
    ∧ (fault (some 6) false).index = some ((faulted (some 6) false true).inp.value.extractLsb' 0 32)
    ∧ (faulted none false true).fbRoom = true ∧ (faulted none false false).fbRoom = false
    ∧ (faulted (some 6) false true).lookups = [] ∧ (faulted (some 6) false true).lfe.queues = [] ∧ (faulted (some 6) false true).folds = []
    ∧ ((faulted (some 6) false true).core 0).user.waits.fault = some 0x4008 ∧ (fault (some 6) false).covers 0 0x4008 = true
    ∧ (fault (some 6) false).covers 0 0x5008 = false ∧ (faulted (some 6) false true).dist.adds = [] ∧ (faulted (some 6) false true).lfe.launches = []
    ∧ (plant.mesh.flits = [] ∧ plant.mesh.pending = [] ∧ plant.mesh.offered = [] ∧ plant.mesh.held = [] ∧ plant.links.reqs = [] ∧ plant.links.pcie = []
      ∧ plant.mesh.crossing = [] ∧ plant.links.pcieWait = [] ∧ plant.folds = [] ∧ plant.links.posted = []) := by
  decide +kernel

theorem witness_FaultsOpenAndClose_quiet : ∀ k, ((faulted (some 6) false true).core k).user.ldrs = [] ∧ ((faulted (some 6) false true).core k).fw.ldrs = [] := by
  intro k
  by_cases h : k = 0
  · subst h; decide +kernel
  · simp [faulted, home, plant, State.core, State.modCtx, State.setCtx, Assoc.get, Assoc.find?, Assoc.set, h, State.ctx, State.reset, task,
      State.setCtxOf, State.ctxOf, State.setCore]
    try split
    all_goals simp_all

theorem test_resolve : (ran .fbresolvePage (faulted (some 6) false true)).map (fun t => (t.mmu.faults, t.ctx.waits.fault, t.ctx.waits.resolved))
      = some ([], none, some 9)
    ∧ (ran .fbresolveRetry (faulted (some 5) false true)).map (·.ctx.waits.fault) = some (some 0x4008) := by decide +kernel


/-- A process context of Sv48 with its root table at page 0x40; the directory that holds it comes with the activation. -/
theorem test_process_context : procOf (process 0x40) = some { sv48 := true, root := 0x40 }
    ∧ (ran .pasidActivate { holding .free with inp := { bytes := leBytes 8 directory.toNat } }).map (fun t =>
      (t.pasidState 0, t.mmu.pdt)) = some (.active, directory) := by decide +kernel

/-! ### Launches -/

/-- An operator record of a kind, with WAITBW at `wait` and DONEBW at 0x7000, of one tile and one core. -/
def operator (kind wait : Nat) : List Byte :=
  leBytes 2 kind ++ [0, 0] ++ leBytes 4 0 ++ leBytes 8 0x50000 ++ leBytes 8 0 ++ leBytes 4 0 ++ leBytes 4 0
    ++ leBytes 4 10 ++ leBytes 4 4 ++ leBytes 2 1 ++ leBytes 2 1 ++ leBytes 4 65536 ++ [1, 1] ++ List.replicate 6 0
    ++ leBytes 8 wait ++ leBytes 4 7 ++ leBytes 4 0 ++ leBytes 8 0x7000 ++ leBytes 8 3 ++ leBytes 8 0 ++ List.replicate 32 0

/-- A program header without buffers, its code at 0x1000. -/
def program : List Byte := leBytes 4 0x50483743 ++ leBytes 2 1 ++ [0, 0] ++ leBytes 8 0x1000

/-- Queue 0 with one record at 0x40000, that header, and barrier words at 0x6000 (generation 7) and 0x7000. -/
def enqueued (kind : Nat) (held : Bool) (q : Queue) : State :=
  let q : Queue := { q with v := true, size := 4, base := 0x40000, tail := 1, held := held, bytes := if held then operator kind 0x6000 else [] }
  { ((((plant.setBytes 0x40000 (operator kind 0x6000)).setBytes 0x50000 program).setBytes 0x6000
      (({ target := 3, count := 0, gen := 7, flags := 1 } : BarWord).bytes)).setBytes 0x7000
      (({ target := 9, count := 0, gen := 0, flags := 1 } : BarWord).bytes)) with
    lfe := { queues := [(0, q)], tlb := [page] }, inp := { n := 0 } }

/-- What an access of the LFE gives. -/
def fetches (x : Except LfeStop α) (f : α → Bool) : Bool := match x with | .ok a => f a | .error _ => false

theorem witness_LaunchQueues_control : (4 : Nat) ≤ 4 ∧ plant.pasidState ((0 : BitVec 64).extractLsb' 32 20) = .active
    ∧ plant.pasidState 9 ≠ .active ∧ ((enqueued 3 true {}).queue 0).held = true ∧ ((enqueued 3 false {}).queue 0).fault = none
    ∧ OpRec.kind ((enqueued 2 true {}).queue 0).bytes = 2 ∧ ((enqueued 0 false { fault := some 0x40000 }).queue 0).fault.isSome = true
    ∧ (asked (readOf 5) .idle).mgmt.idle = .idle ∧ plant.nextQueue = none := by decide +kernel

theorem witness_LaunchQueues_fetch : (enqueued 0 false {}).nextQueue = some 0 ∧ ((enqueued 0 false {}).queue 0).waiting = []
    ∧ OpRec.clean (operator 1 0) = true ∧ OpRec.clean (operator 4 0) = false ∧ OpRec.fence ((operator 1 0).set 2 1) = true
    ∧ fetches (lfeRead 0 2 (enqueued 0 false {}) ((enqueued 0 false {}).recordVa 0) 128) (fun x => x.1 == operator 0 0x6000
        && decide (x.2.lfe.queues = (enqueued 0 false {}).lfe.queues)
        && fetches (lfeWrite x.2 0 ((enqueued 0 false {}).recordVa 0 + 4) [2, 0, 0, 0]) (fun v => decide (v.lfe.queues = (enqueued 0 false {}).lfe.queues)))
      = true := by decide +kernel

theorem witness_LaunchQueues_launch : OpRec.ranges (operator 1 0) = true ∧ OpRec.ranges ((operator 1 0).set 36 0) = false
    ∧ OpRec.lrec (operator 1 0) = 0
    ∧ fetches (lfeRead 0 2 (enqueued 1 false {}) ((enqueued 1 false {}).recordVa 0) 128) (fun x =>
        fetches (lfeHeader x.2 (x.2.queue 0) x.1) (fun y => y.2.grantable x.1 && (y.2.freeRegionId == some 2)
          && decide (y.2.lfe.queues = (enqueued 1 false {}).lfe.queues)
          && fetches (lfeWrite y.2 0 ((enqueued 1 false {}).recordVa 0 + 4) [0, 0, 0, 0])
            (fun w => decide (w.lfe.queues = (enqueued 1 false {}).lfe.queues)))) = true
    ∧ ({ enqueued 1 false {} with boot := State.reset.boot } : State).grantable (operator 1 0) = false
    ∧ ({ enqueued 1 false {} with lfe := { (enqueued 1 false {}).lfe with launches := [(0, ⟨0, 0, 0, [], BankImage.empty, 0, 0, 0, 0, none, none, 0, false, 0, []⟩)] } } : State).queueBusy 0
      = true := by decide +kernel

theorem witness_LaunchQueues_held : ((enqueued 2 true {}).queue 0).v = true ∧ ((enqueued 2 true {}).queue 0).stop = false
    ∧ fetches (lfeReached (enqueued 2 true {}) 0 0x6000 7) (fun x => x.1 && decide (x.2.lfe.queues = (enqueued 2 true {}).lfe.queues)
        && fetches (lfeWrite x.2 0 (x.2.recordVa 0 + 4) [2, 0, 0, 0]) (fun v => decide (v.lfe.queues = (enqueued 2 true {}).lfe.queues))) = true
    ∧ fetches (lfeReached (enqueued 2 true {}) 0 0x6000 8) (fun x => !x.1) = true
    ∧ fetches (lfeCell (enqueued 3 true {}) 0 ((enqueued 3 true {}).recordVa 0 + 4) 4 accWrite) (fun x =>
        fetches (lfeAdd x.2.2 0 0x7000 3) (fun v => decide (v.lfe.queues = (enqueued 3 true {}).lfe.queues)
          && fetches (lfeWrite v 0 (v.recordVa 0 + 4) [2, 0, 0, 0]) (fun w => decide (w.lfe.queues = (enqueued 3 true {}).lfe.queues)))) = true := by
  decide +kernel

theorem test_queues : (ran .lfeRecordFetch (enqueued 0 false {})).map (fun t => ((t.queue 0).head, t.bytes 0x40004 1)) = some (1, [2])
    ∧ (ran .lfeRecordFetch (enqueued 4 false {})).map (fun t => ((t.queue 0).err, (t.queue 0).stop, (t.queue 0).head)) = some (1, true, 0)
    ∧ (ran .signalRecord (enqueued 3 true {})).map (fun t => (t.bytes 0x7000 4, t.bytes 0x7008 1, (t.queue 0).head)) = some ([9, 0, 0, 0], [3], 1) := by
  decide +kernel

/-- A launch of region 2 in a stage. -/
def launched (stage : BitVec 2) (ended : Option Byte) (tiles : List Nat) : State :=
  let l : Launch := { queue := 0, record := 0x40000, pasid := 0, bytes := operator 1 0x6000, bank := BankImage.empty, group := 0, region := 2
                      stage := stage, order := 0, ended := ended }
  let s := enqueued 1 false {}
  { s with
    regions := [(1, { tree with tiles := tiles }), (2, { tree with rcb := 0x801000, root := 2, state := .queued, tiles := [], tileBudget := 2 })]
    lives := (2, { live := 4, launch := some 0 }) :: s.lives
    lfe := { s.lfe with launches := [(0, l)] } }

theorem witness_LaunchesRun : ((launched 0 none []).launch 0).map (fun l => (l.stage, l.fault, l.ended)) = some (0, none, none)
    ∧ fetches (lfeReached (launched 0 none []) 0 (OpRec.waitbw (operator 1 0x6000)) (OpRec.waitgen (operator 1 0x6000))) (·.1) = true
    ∧ fetches (lfeReached (launched 0 none []) 0 0x7000 5) (fun x => !x.1) = true
    ∧ ((launched 1 none []).launch 0).map (fun l => (l.stage, (launched 1 none []).launchBehind 0 l)) = some (1, false)
    ∧ (launched 1 none [0, 1]).pickTiles 2 [] = some [2, 3]
    ∧ (launched 1 none (List.range 256)).pickTiles 2 [] = none
    ∧ ((launched 2 (some 0) []).launch 0).map (fun l => (l.ended, l.fault, l.starting, l.step)) = some (some 0, none, false, 0)
    ∧ ({ launched 2 (some 0) [] with mmu := {} } : State).pasidState 0 ≠ .active ∧ (launched 2 (some 0) []).pasidState 0 = .active
    ∧ OpRec.lrec (operator 1 0x6000) = 0
    ∧ fetches (lfeWrite (launched 2 (some 0) []) 0 0x40004 [2, 0, 0, 0]) (fun w => fetches (lfeAdd w 0 0x7000 3) (fun _ => true)) = true
    ∧ fetches (lfeWrite (launched 2 (some 0) []) 0 0x9020 (leBytes 8 0)) (fun u => fetches (lfeWrite u 0 0x9038 [2, 0, 0, 0]) (fun _ => true)) = true := by
  decide +kernel

theorem witness_LaunchesRun_banks : ((plant.modCore 3 (fun c => { c with shadowState := .loading })).core 3).shadowState = .loading
    ∧ ((plant.modCore 3 (fun c => { c with shadowState := .loaded })).core 3).shadowState = .loaded
    ∧ (plant.core 3).user.running = false ∧ (plant.core 3).parked = none ∧ (plant.core 3).enginesIdle = true ∧ (plant.core 3).swapping = false
    ∧ ((plant.modCore 3 (fun c => { c with swapping := true })).core 3).swapping = true := by decide +kernel

theorem test_launches : (ran .launchCompletion (launched 2 (some 0) [])).map (fun t => (t.launch 0, t.bytes 0x40004 1, t.bytes 0x7008 1))
      = some (none, [2], [3])
    ∧ (ran .launchGrant (launched 1 none [0, 1])).map (fun t => (t.region 2).map (·.tiles)) = some (some [2, 3]) := by decide +kernel

/-! ### Regions, tasks, folds -/

/-- A control block submitted by region 1, with ENTRY 0x2000 overridden, COUNT 4 and the field OVERRIDE `ovr`. -/
def block (ovr : Nat) : List Byte :=
  List.replicate 6 0 ++ leBytes 2 ovr ++ List.replicate 16 0 ++ leBytes 4 0 ++ leBytes 4 4 ++ leBytes 8 0x2000 ++ List.replicate 88 0

/-- The package with that block at 0x803000. -/
def submitting (ovr depth : Nat) : State :=
  { plant.setBytes 0x803000 (block ovr) with
    regions := [(1, { tree with depth := depth })], inp := { n := 1, value := 0x803000 } }

/-- A region with nothing left, or with work. -/
def ending (live : Word) (parent : BitVec 12) : State :=
  { plant with
    regions := [(1, tree), (2, { tree with rcb := 0x801000, parent := parent, root := if parent = 0 then 2 else 1 })]
    lives := [(1, { live := 1, children := 1 }), (2, { live := live, launch := if parent = 0 then some 0 else none })]
    lfe := { (launched 2 none []).lfe with queues := [] }, inp := { n := 2 } }

theorem witness_RegionsLive_spawn : (submitting 0x80 0).inp.n = (1 : BitVec 12).toNat
    ∧ (submitting 0x80 0).inp.value = (0x803000 : BitVec 52).setWidth 64
    ∧ (submitting 0x80 0).region 1 = some tree ∧ field (block 0x80) 4 1 = 0
    ∧ field ((submitting 0x80 0).bytesKey (physKey 0x803000) (physCell 0x803000) 128) 4 1 = 0
    ∧ (match validate (submitting 0x80 0) 1 tree 0x803000 (block 0x80) with | .ok g => g.count == 4 | .error _ => false) = true
    ∧ (submitting 0x80 0).freeRegionId = some 2
    ∧ (match validate (submitting 0x200 0) 1 tree 0x803000 (block 0x200) with | .error c => c == 1 | .ok _ => false) = true
    ∧ SameKey (submitting 0x200 0) 0 (0x803000 + 4) 2 ∧ MemInv (submitting 0x200 0) ∧ rcbOk (block 0x80) = true ∧ rcbOk (block 0x200) = false
    ∧ carve (submitting 0x1C 0) 1 tree (((block 0x1C).set 12 3).set 14 3) = none ∧ rcbOk (((block 0x1C).set 12 3).set 14 3) = true
    ∧ carve (submitting 0x80 8) 1 { tree with depth := 8 } (block 0x80) ≠ none := by
  unfold SameKey MemInv; decide +kernel

/-- The same with a packet of the region on its way. -/
def restless (s : State) : State := { s with mesh := { s.mesh with pending := [{ asking 0 0 4 [] with region := 2 }] } }

/-- The same while region 2 ends by a fault. -/
def draining (s : State) : State := s.modRegion 2 (fun g => { g with ending := some { top := 2, cause := 0x13, pc := 0, core := 0, at_ := 0 } })

theorem witness_RegionsLive_ends : (ending 0 1).inp.n = (2 : BitVec 12).toNat ∧ ((ending 0 1).life 2).live = 0 ∧ ((ending 0 1).life 2).children = 0
    ∧ ((ending 3 1).life 2).live ≠ 0 ∧ ((ending 0 1).region 2).map (fun g => (g.state, g.parent)) = some (.running, 1)
    ∧ (ending 0 1).region 1 ≠ none ∧ (1 : BitVec 12) ≠ 2
    ∧ ((ending 0 0).region 2).map (·.parent) = some 0 ∧ ((ending 0 0).life 2).launch = some 0 ∧ (ending 0 0).launch 0 ≠ none
    ∧ MemInv (ending 0 1) ∧ (ending 0 0).region 7 = none ∧ (ending 0 0).region ((ending 0 0).faultDomain 9 2) ≠ none
    ∧ (ending 0 0).isAncestor 9 2 2 = true ∧ (ending 0 0).isAncestor 9 2 1 = false
    ∧ (0, (home []).core 0) ∈ (home []).cores ∧ ((home []).core 0).user.running = true
    ∧ (home []).isAncestor 9 1 ((home []).core 0).user.id.region = true
    ∧ (ending 0 0).quiet ((ending 0 0).subtree ((ending 0 0).faultDomain 9 2)) = true
    ∧ (restless (ending 0 0)).quiet ((restless (ending 0 0)).subtree ((restless (ending 0 0)).faultDomain 9 2)) = false
    ∧ ((draining (ending 0 0)).region 2).map (fun g => g.ending.map (·.top)) = some (some 2)
    ∧ (draining (ending 0 0)).quiet ((draining (ending 0 0)).subtree 2) = true
    ∧ (draining (restless (ending 0 0))).quiet ((draining (restless (ending 0 0))).subtree 2) = false
    ∧ keyed (physCell tree.rcb + 4) = true ∧ Assoc.get false plant.security.keys (physKey tree.rcb).toNat = true := by
  unfold MemInv; decide +kernel

theorem test_regions : (ran .spawnValidate (submitting 0x80 0)).map (fun t => ((t.region 2).map (fun g => (g.parent, g.entry, g.depth)),
      (t.life 1).children, t.bytes 0x803000 5)) = some (some (1, 0x2000, 1), 1, [2, 0, 1, 0, 1])
    ∧ (ran .spawnValidate (submitting 0x200 0)).map (·.bytes 0x803004 2) = some [6, 1]
    ∧ (ran .regionCompletion (ending 0 1)).map (fun t => (t.region 2, (t.life 1).children)) = some (none, 0)
    ∧ (ran .regionFault { ending 0 0 with inp := { n := 2, value := 0x13 } }).map (fun t => (t.region 2, (t.launch 0).map (·.ended)))
      = some (none, some (some 0x13)) := by decide +kernel

/-- Core 0 is free, and its bind record in slot 0 is of a kind: index 6 of region 1, or the record at 0x90000. -/
def bound (kind : Nat) : State :=
  { ((plant.setBytes (bindCell 0 0) ([1, BitVec.ofNat 8 kind] ++ leBytes 2 1 ++ leBytes 4 0 ++ leBytes 4 6 ++ leBytes 4 0
      ++ leBytes 8 0x90000)).setBytes 0x9000A [1]).modCore 0
      (fun c => { c with
        active := { BankImage.empty with region := 1, mstart := 0x3000 }
        parked := some ⟨false, 0, true, 0x90000, none, {}, {}, {}⟩ }) with
    lives := [(1, { live := 2, conts := [(0x90000, some 6)] })], inp := { n := 0 } }

theorem witness_TasksStart_binds : ((bound 1).core 0).user.running = false ∧ ((bound 1).core 0).swapping = false ∧ (bound 1).coreGated 0 = false
    ∧ (bound 1).tileUp 0 = true ∧ ((bound 1).core 0).quill.fifo = [] ∧ ((bound 1).core 0).quill.part = []
    ∧ ((bound 1).armed 0).head?.map (fun b => (b.kind, b.region, b.index, (bound 1).canStart 0 b)) = some (1, 1, 6, true)
    ∧ ((bound 2).armed 0).head?.map (fun b => (b.kind, b.addr, (bound 2).canStart 0 b)) = some (2, 0x90000, true)
    ∧ ((bound 3).armed 0).head?.map (fun b => (b.kind, b.addr, (bound 3).canStart 0 b)) = some (3, 0x90000, true)
    ∧ ((bound 2).armed 0).head?.map (({ bound 2 with lives := [] } : State).canStart 0) = some false
    ∧ (((bound 3).core 0).parked.map (·.addr)) = some 0x90000
    ∧ (restoreCore { (bound 3).setByte (bindCell 0 0) 0 with poison := [(0x90000, true)] } (imageAt (bound 3) 0 1 tree 0x90000)).isNone = true
    ∧ (bound 1).region 1 = some tree ∧ MemInv (bound 1) ∧ (plant.armed 0) = [] ∧ ((home []).core 0).user.running = true := by
  unfold MemInv; decide +kernel

/-- An image that holds 0 in every domain register is restored. -/
theorem witness_TasksStart_image : (restoreCore ((List.range 64).foldl (fun s i => s.setBytes (0x90000 + 0xA00 + 16 * i) [1])
    ((bound 3).setByte (bindCell 0 0) 0)) (imageAt (bound 3) 0 1 tree 0x90000)).isSome = true := by decide +kernel

theorem test_dispatch : (ran .taskDispatch (bound 1)).map (fun t => ((t.core 0).user.pc, (t.core 0).user.regs.dom 1, (t.core 0).user.regs.dom 3,
      (t.core 0).mat.state, t.bytes (bindCell 0 0) 1)) = some (0x1000, Dom.single 6, Dom.single 10, .running, [0]) := by decide +kernel

/-- A continuation of region 1 at 0x90000, READY or not, that waits for nothing, at a level; the mesh count is 2^20. -/
def suspended (ready level : Nat) : State :=
  { plant.setBytes 0x90000 (List.replicate 13 0 ++ [BitVec.ofNat 8 level, 0, 0] ++ leBytes 8 ready) with
    lives := [(1, { live := 2, conts := [(0x90000, some 6)] })], mesh := { plant.mesh with count := 2 ^ 20 + 1 }
    inp := { n := 1, value := 0x90000 } }

/-- Lookup core 3 is asked to run for region 1; core 0 is free and grains of the region wait. -/
def idling : State :=
  { plant with
    dist := { plant.dist with grains := [⟨1, 0, 0, 20, 5, 0⟩, ⟨1, 0, 0, 10, 5, 0⟩] }, inp := { n := 3, m := 1, bank := BankImage.empty } }

theorem witness_TasksStart_rest : (plant.core 0).fw.running = false ∧ (firm []).cores ≠ [] ∧ ((firm []).core 0).fw.running = true
    ∧ (idling.lookup 3).busy = false ∧ idling.stackUp (3 / 8) = true ∧ idling.region 1 = some tree ∧ tree.state = .running
    ∧ ((probe []).lookup 0).busy = true
    ∧ (suspended 0 5).inp.value = (0x90000 : BitVec 52).setWidth 64 ∧ contEligible (suspended 0 5) tree ((suspended 0 5).bytesKey 0 0x90000 384) = (true, suspended 0 5)
    ∧ ((suspended 0 5).life 1).conts.any (fun c => c.1 == 0x90000) = true ∧ field ((suspended 1 5).bytesKey 0 0x90000 384) 16 8 = 1
    ∧ 5 < tree.prio.toNat + ((suspended 1 5).mesh.count.toNat - 1) / 2 ^ 20
    ∧ (idling.dequeCell 1 0).isSome = true ∧ 0 ∈ tree.cores ∧ (idling.core 0).user.running = false
    ∧ (⟨1, 0, 0, 10, 5, 0⟩ : Grain) ∈ idling.dist.grains ∧ (0 : BitVec 1).toNat = tileDie (0 / 4)
    ∧ 0 ∈ idling.usableCores 1 ∧ idling.seeksGrain 0 1 = true ∧ tree.ending = none ∧ idling.armed 0 = [] ∧ (bound 1).armed 0 ≠ []
    ∧ field ((suspended 0 5).bytesKey 0 0x90000 384) 11 1 = 0 ∧ field ((suspended 0 5).bytesKey 0 0x90000 384) 12 1 = 0
    ∧ idling.dqHeld ((idling.dequeCell 1 0).getD 0) < 128 := by decide +kernel

theorem test_tasks : (ran .grainRequest { idling with inp := { n := 0, m := 1 } }).map (fun t => (t.dist.grains.map (·.state),
      t.bytes ((idling.dequeCell 1 0).getD 0 + 64 + 8) 8)) = some ([0, 1], leBytes 4 10 ++ leBytes 4 5)
    ∧ (ran .levelPromotion (suspended 1 5)).map (·.bytes 0x9000D 1) = some [6]
    ∧ (ran .lookupBankWrite idling).map (fun t => ((t.lookup 3).busy, (t.life 1).live)) = some (true, 3) := by decide +kernel

/-- Core 0 has an `LDR` to D5, answered, its event 3 at `n`. -/
def landing (n : Byte) (slot : Option (BitVec 52)) (data : Option (List Byte)) : State :=
  { ((home []).setBytes 0x9000B [2]).modCtx (fun c => { c with
      regs := c.regs.setEvent 3 n
      ldrs := [{ size := .w, dd := 5, ev := 3, count := 4, cls := 2, dst := sliceNode 0 4, seq := 0, data := data, slotOf := slot }] }) with
    inp := { who := .user 0, n := 0 } }

theorem witness_LoadsLand : (((landing 4 none (some [1, 2, 3, 4])).ctxOf (.user 0)).ldrs[0]?).map (fun l => (l.fault, l.data, l.slotOf, l.size))
      = some (none, some [1, 2, 3, 4], none, .w)
    ∧ (((landing 4 (some 0x90000) none).ctxOf (.user 0)).ldrs[0]?).map (fun l => (l.data, l.slotOf)) = some (none, some 0x90000)
    ∧ ((landing 4 none none).ctxOf (.user 0)).regs.event 3 ≠ 255 ∧ ((landing 255 none none).ctxOf (.user 0)).regs.event 3 = 255
    ∧ MemInv (landing 4 none none) ∧ (5 : DReg) ≠ 0 := by
  unfold MemInv; decide +kernel

theorem test_landing : (ran .ldrLanding (landing 4 none (some [1, 2, 3, 4]))).map (fun t => (t.ctx.regs.dom 5, t.ctx.regs.event 3, t.ctx.ldrs))
      = some (Dom.single 0x04030201, 5, [])
    ∧ (ran .ldrLanding (landing 4 (some 0x90000) (some [1, 2, 3, 4]))).map (fun t => (t.ctx.regs.dom 5, t.bytes 0x9000B 1))
      = some (Dom.single 0, [1]) := by decide +kernel

/-- Root 1 in a state, and root 2 on tile 1, of a priority; `quills` leaves records in core 0's quill. -/
def stopping (st : RegionState) (prio : BitVec 4) (second quills : Bool) : State :=
  { plant.modCore 0 (fun c => { c with quill := { c.quill with fifo := if quills then [quilled] else [] } }) with
    regions := (1, { tree with state := st }) :: (if second then [(2, { tree with root := 2, tiles := [1], cores := [4], prio := prio })] else [])
    inp := { n := 1 } }

theorem witness_TreesYieldAndReturn : (stopping .running 3 false false).region 1 = some tree ∧ tree.parent = 0 ∧ tree.state ≠ .preempted ∧ tree.tiles ≠ []
    ∧ (∀ e ∈ (stopping .running 3 true true).regions, e.1 < 4096) ∧ 0 ∈ tree.cores
    ∧ ((stopping .running 3 false true).core 0).quill.fifo ≠ []
    ∧ (∀ k ∈ tree.cores, ((stopping .running 3 false false).core k).quill.fifo = [] ∧ ((stopping .running 3 false false).core k).quill.part = [])
    ∧ (let u := (stopping .running 3 false false).modRegion 1 (fun x => { x with stopping := true })
       u.drained (u.subtree 1) tree = true ∧ u.canSave (u.life 1).save tree = true)
    ∧ (let u := ({ stopping .running 3 false false with boot := State.reset.boot } : State).modRegion 1 (fun x => { x with stopping := true })
       u.drained (u.subtree 1) tree = true ∧ u.canSave (u.life 1).save tree = false ∧ u.quiet (u.subtree 1) = true)
    ∧ (let u := ({ stopping .running 3 false false with mesh := { plant.mesh with pending := [asking 0 0 4 []] } } : State).modRegion 1
        (fun x => { x with stopping := true })
       u.drained (u.subtree 1) tree = false)
    ∧ tree.tiles.all (stopping .preempted 3 false false).tileUp = true ∧ (stopping .preempted 3 false false).resumeBehind 1 tree = false
    ∧ (stopping .preempted 3 false false).holders tree = [] ∧ (stopping .preempted 3 true false).holders tree = [2]
    ∧ (loadTree 1 { tree with state := .preempted } (stopping .preempted 3 false false)).isSome = true
    ∧ ((stopping .preempted 3 true false).region 2).map (·.prio) = some 3 ∧ (3 : BitVec 4).toNat < tree.prio.toNat := by decide +kernel

theorem test_trees : (ran .preemptResume (stopping .preempted 3 true false)).map (·.sched) = some [.happen .preemptRequest { n := 2 }]
    ∧ (ran .preemptResume (stopping .preempted 6 true false)).map (·.sched) = some []
    ∧ (ran .preemptRequest (stopping .running 3 false true)).map (fun t => ((t.region 1).map (·.stopping), (t.core 0).quill.flush))
      = some (some true, true) := by decide +kernel

/-- A fold of the list at 0x4000 into the one at 0xA000, whose base is at 0xB000. -/
def folding (fault : Option Addr) (code : Option Byte) (newVa : Addr) (gone : Bool) : State :=
  let f : Fold := { home := 0, old := 0x4000, snap := 0, newVa := newVa, bar := 0x7000, tag := 1, pasid := 0, region := 1, conf := false, core := 0
                    ended := if gone then 2 else 0, fault := fault, resolved := code }
  let old := leBytes 8 0xC000 ++ leBytes 8 0 ++ leBytes 3 1 ++ [1] ++ leBytes 3 2 ++ [0x80] ++ leBytes 4 16 ++ leBytes 4 1
  let new := leBytes 8 0xB000 ++ leBytes 8 0 ++ leBytes 3 1 ++ [1] ++ leBytes 3 2 ++ [0] ++ leBytes 4 16 ++ leBytes 4 1
  { ((((home []).setBytes 0x4000 old).setBytes 0xA000 new).setBytes 0xC000 (leBytes 4 0x3F800000 ++ leBytes 4 0x40000000)).setBytes 0x7000
      (({ target := 9, count := 0, gen := 0, flags := 1 } : BarWord).bytes) with
    lfe := { plant.lfe with tlb := [page] }, folds := [f], inp := { n := 0 } }

/-- How a fold runs. -/
def foldEnds (s : State) : Option (Option Byte) :=
  match s.folds with
  | f :: _ => (match foldRun f s with | .ok _ => some none | .error (.trap c) => some (some c) | .error (.fault _ _ _ _) => none)
  | [] => none

theorem witness_FoldsFinish : ((folding none none 0xA000 false).folds.find? (fun f => f.home.toNat == 0)).map (fun f => (f.fault, f.resolved,
      (folding none none 0xA000 false).foldGone f)) = some (none, none, false)
    ∧ foldEnds (folding none none 0xA000 false) = some none ∧ foldEnds (folding none none 0x800000000000 false) = none
    ∧ foldEnds { folding none none 0xA000 false with boot := State.reset.boot } = some (some 0x13)
    ∧ ((folding none none 0xA000 true).folds.map (folding none none 0xA000 true).foldGone) = [true]
    ∧ (folding none none 0xA000 true).inService (physCell 0x4000) = true
    ∧ ((folding none (some 0x0A) 0xA000 false).folds.map (fun f => f.ofTask ((folding none (some 0x0A) 0xA000 false).core 0).user
        ((folding none (some 0x0A) 0xA000 false).core 0).index)) = [true]
    ∧ ((folding none (some 0x0A) 0xA000 false).core 0).user.running = true ∧ ((folding none (some 0x0A) 0xA000 false).core 0).user.id.region = 1 := by
  decide +kernel

/-- The context that issued the fold is parked. -/
theorem witness_FoldsFinish_parked :
    let s := (folding none (some 0x0A) 0xA000 false).modCore 0 (fun c => { c with
      parked := some ⟨false, 0, true, 0x90000, none, { c.user with running := false }, {}, {}⟩, user := { c.user with running := false } })
    s.folds.map (fun f => f.ofTask (s.core 0).user (s.core 0).index) = [false]
    ∧ ((s.core 0).parked.map (fun p => (p.lookup, p.core, s.folds.map (fun f => f.ofTask { p.ctx with running := true } p.index))))
      = some (false, 0, [true]) := by decide +kernel

theorem test_fold : (ran .foldFinish (folding none none 0xA000 false)).map (fun t => (t.folds, t.bytes 0xB000 8, t.bytes 0x7008 1))
      = some ([], leBytes 4 0x3F800000 ++ leBytes 4 0x40000000, [1])
    ∧ (ran .foldAbandon (folding none (some 0x0A) 0xA000 false)).map (fun t => (t.folds, t.ctx.deferred.map (·.req.code))) = some ([], [0x0A]) := by
  decide +kernel

/-! ### Words written out from R253 to R269, one or more a row, and the terms they decode to -/

theorem decode_domain_a : ([
    (0x0003F06200000000, .add 63 1 34), (0x0803E84080000001, .addI 62 33 0x80000001), (0x0007F06200000000, .addR 63 1 34),
    (0x0807E84080000001, .addIR 62 33 0x80000001), (0x000FF06200000000, .addRk 63 1 34),
    (0x080FE84080000001, .addIRk 62 33 0x80000001), (0x0013F06200000000, .sub 63 1 34),
    (0x0813E84080000001, .subI 62 33 0x80000001), (0x0017F06200000000, .subR 63 1 34),
    (0x0817E84080000001, .subIR 62 33 0x80000001), (0x001FF06200000000, .subRk 63 1 34),
    (0x081FE84080000001, .subIRk 62 33 0x80000001), (0x0023F06200000000, .mul 63 1 34),
    (0x0823E84080000001, .mulI 62 33 0x80000001), (0x0027F06200000000, .mulR 63 1 34),
    (0x0827E84080000001, .mulIR 62 33 0x80000001), (0x002FF06200000000, .mulRk 63 1 34),
    (0x082FE84080000001, .mulIRk 62 33 0x80000001), (0x0033F06200000000, .min 63 1 34),
    (0x0833E84080000001, .minI 62 33 0x80000001), (0x0037F06200000000, .minR 63 1 34),
    (0x0837E84080000001, .minIR 62 33 0x80000001), (0x003FF06200000000, .minRk 63 1 34),
    (0x083FE84080000001, .minIRk 62 33 0x80000001), (0x0043F06200000000, .max 63 1 34),
    (0x0843E84080000001, .maxI 62 33 0x80000001), (0x0047F06200000000, .maxR 63 1 34),
    (0x0847E84080000001, .maxIR 62 33 0x80000001), (0x004FF06200000000, .maxRk 63 1 34),
    (0x084FE84080000001, .maxIRk 62 33 0x80000001), (0x0203F06200000000, .eq 63 1 34),
    (0x0A03E84080000001, .eqI 62 33 0x80000001), (0x0207F06200000000, .eqR 63 1 34),
    (0x0A07E84080000001, .eqIR 62 33 0x80000001), (0x020FF06200000000, .eqRk 63 1 34),
    (0x0A0FE84080000001, .eqIRk 62 33 0x80000001), (0x0213F06200000000, .ne 63 1 34),
    (0x0A13E84080000001, .neI 62 33 0x80000001), (0x0217F06200000000, .neR 63 1 34),
    (0x0A17E84080000001, .neIR 62 33 0x80000001), (0x021FF06200000000, .neRk 63 1 34),
    (0x0A1FE84080000001, .neIRk 62 33 0x80000001), (0x0223F06200000000, .lt 63 1 34),
    (0x0A23E84080000001, .ltI 62 33 0x80000001), (0x0227F06200000000, .ltR 63 1 34),
    (0x0A27E84080000001, .ltIR 62 33 0x80000001), (0x022FF06200000000, .ltRk 63 1 34),
    (0x0A2FE84080000001, .ltIRk 62 33 0x80000001), (0x0233F06200000000, .le 63 1 34),
    (0x0A33E84080000001, .leI 62 33 0x80000001), (0x0237F06200000000, .leR 63 1 34),
    (0x0A37E84080000001, .leIR 62 33 0x80000001), (0x023FF06200000000, .leRk 63 1 34),
    (0x0A3FE84080000001, .leIRk 62 33 0x80000001), (0x0053D08000000000, .abs 61 2), (0x0057D08000000000, .absR 61 2),
    (0x005FD08000000000, .absRk 61 2), (0x0063D08000000000, .neg 61 2), (0x0067D08000000000, .negR 61 2),
    (0x006FD08000000000, .negRk 61 2)] : List (BitVec 64 × Instr)).all (fun e =>
    decodeSyllable e.1 == some e.2) = true := by decide +kernel

theorem decode_domain_b : ([
    (0x0073D08000000000, .mov 61 2), (0x0077D08000000000, .movR 61 2), (0x007FD08000000000, .movRk 61 2),
    (0x0083C0E300000000, .mulh 60 3 35), (0x0883B900FFFFFFFE, .mulhI 59 36 0xfffffffe), (0x0093C0E300000000, .div 60 3 35),
    (0x0893B900FFFFFFFE, .divI 59 36 0xfffffffe), (0x00A3C0E300000000, .rem 60 3 35),
    (0x08A3B900FFFFFFFE, .remI 59 36 0xfffffffe), (0x0103C0E300000000, .and 60 3 35),
    (0x0903B900FFFFFFFE, .andI 59 36 0xfffffffe), (0x0113C0E300000000, .or 60 3 35),
    (0x0913B900FFFFFFFE, .orI 59 36 0xfffffffe), (0x0123C0E300000000, .xor 60 3 35),
    (0x0923B900FFFFFFFE, .xorI 59 36 0xfffffffe), (0x0133C0E300000000, .andn 60 3 35),
    (0x0933B900FFFFFFFE, .andnI 59 36 0xfffffffe), (0x0143C0E300000000, .shl 60 3 35),
    (0x0943B9000000001F, .shlI 59 36 0x1f), (0x0153C0E300000000, .shr 60 3 35), (0x0953B9000000001F, .shrI 59 36 0x1f),
    (0x0163C0E300000000, .sra 60 3 35), (0x0963B9000000001F, .sraI 59 36 0x1f), (0x0173A10000000000, .clz 58 4),
    (0x0183A10000000000, .popc 58 4), (0x0193914000000020, .sext 57 5 32), (0x01A3914000000001, .zext 57 5 1),
    (0x01B3800012345678, .movi 56 0x12345678), (0x0247718000000000, .inR 55 6), (0x024F718000000000, .inRk 55 6),
    (0x0257800000000008, .alldiffR 56 8), (0x025C100000000002, .alldiffRk 1 2), (0x030361E500000000, .dset 54 7 37),
    (0x0313500000000000, .dfull 53), (0x0323402600000000, .dexcl 52 38), (0x0B23400000000009, .dexclI 52 9),
    (0x0333320000000001, .dmask 51 8 1), (0x0343224000000000, .dlo 50 9), (0x0353224000000000, .dhi 50 9),
    (0x0363224000000000, .dsize 50 9), (0x0373100000000000, .dpick 49), (0x0380000000000000, .prop),
    (0x0390000000000000, .ckpt), (0x03B0000000000000, .commit), (0x03A000000000000F, .restore 15)] : List (BitVec 64 × Instr)).all (fun e =>
    decodeSyllable e.1 == some e.2) = true := by decide +kernel

theorem decode_control : ([
    (0x1000000000000000, .nop), (0x10108003FFFFFFFF, .prep 2 0x3FFFFFFFF), (0x1020680000000005, .prepi 1 40 5),
    (0x1030E926001FFFFE, .prepj 3 41 9 0x2001 0xFFFFE), (0x104DAA1C00000000, .cmp 2 true 5 42 7),
    (0x10566A00FFFFFFFF, .cmpI 1 false 6 42 0xFFFFFFFF), (0x106DAA1C00000000, .cmpu 2 true 5 42 7),
    (0x10766A00FFFFFFFF, .cmpuI 1 false 6 42 0xFFFFFFFF), (0x10892B0000000000, .cmpdSingle true 1 43),
    (0x10826B2000000000, .cmpdHas false 2 43 8), (0x10926B000000004D, .cmpdHasI false 2 43 77),
    (0x108BAB2000000000, .cmpdWidth true 3 43 8), (0x1093AB000000004E, .cmpdWidthI false 3 43 78),
    (0x1100C00000000000, .xfer 3), (0x111F800000000000, .xferC 2 true 7), (0x1120420000000000, .xferl 1 2),
    (0x1134430000000000, .xferlC 1 3 false 4), (0x11802C03201C0000, .loopb 44 200 7), (0x11902D0000000000, .loopcut 45),
    (0x11A0000080000000, .loopcutI 0x80000000), (0x12002E0000000000, .postD 46), (0x121000000000001F, .post 31),
    (0x12202F0000000000, .awaitD 47), (0x123000000000001E, .await 30), (0x12803028000ABCDE, .spawn 10 48 0xABCDE),
    (0x1290312C00012345, .yield 11 49 0x12345), (0x12A0000000000000, .retire), (0x130000000000FFFF, .trap 0xFFFF),
    (0x1310000000000002, .syscall 2), (0x1370000000000003, .brk 3), (0x1320000000000000, .eret), (0x1380000000000000, .idle),
    (0x133032000000041F, .mfsr 50 .debugctl true), (0x134033300000002D, .mtsr (.bkpt 5) 51 12),
    (0x135034000000004D, .bdset 13 4 52), (0x1360353800000000, .temit 53 14), (0x1400363C000FFFFF, .rfbegin 15 54 0xFFFFF),
    (0x1410000000000000, .rfnext), (0x1430000000000000, .rfend), (0x1420000000000009, .rftest 9)] : List (BitVec 64 × Instr)).all (fun e =>
    decodeSyllable e.1 == some e.2) = true := by decide +kernel

theorem decode_memory : ([
    (0x2007894586C54321, .ld .b 20 ⟨false, 7, 4, .idx 44, 5, 33, 0x54321⟩),
    (0x28802566880FFFFF, .st .b 22 ⟨true, 0, 1, .post, 6, 34, 0xFFFFF⟩),
    (0x290001878D500009, .ldr .b 24 ⟨true, 0, 0, .off, 7, 35, 9⟩ 21),
    (0x2017894586C54321, .ld .h 20 ⟨false, 7, 4, .idx 44, 5, 33, 0x54321⟩),
    (0x28902566880FFFFF, .st .h 22 ⟨true, 0, 1, .post, 6, 34, 0xFFFFF⟩),
    (0x291001878D500009, .ldr .h 24 ⟨true, 0, 0, .off, 7, 35, 9⟩ 21),
    (0x2027894586C54321, .ld .w 20 ⟨false, 7, 4, .idx 44, 5, 33, 0x54321⟩),
    (0x28A02566880FFFFF, .st .w 22 ⟨true, 0, 1, .post, 6, 34, 0xFFFFF⟩),
    (0x292001878D500009, .ldr .w 24 ⟨true, 0, 0, .off, 7, 35, 9⟩ 21),
    (0x2037894586C54321, .ld .d 20 ⟨false, 7, 4, .idx 44, 5, 33, 0x54321⟩),
    (0x28B02566880FFFFF, .st .d 22 ⟨true, 0, 1, .post, 6, 34, 0xFFFFF⟩),
    (0x293001878D500009, .ldr .d 24 ⟨true, 0, 0, .off, 7, 35, 9⟩ 21),
    (0x28400D5800600000, .ld .bu 21 ⟨true, 0, 0, .wrap 6, 8, 0, 0⟩),
    (0x2850015800000000, .ld .hu 21 ⟨true, 0, 0, .off, 8, 0, 0⟩),
    (0x2940015800100000, .ldr .bu 21 ⟨true, 0, 0, .off, 8, 0, 0⟩ 1),
    (0x2153015800200000, .ldr .hu 21 ⟨false, 3, 0, .off, 8, 0, 0⟩ 2),
    (0x28C0019990200007, .stn 25 ⟨true, 0, 0, .off, 9, 36, 7⟩ 2),
    (0x298000B196600003, .ldv 11 ⟨true, 0, 0, .off, 1, 37, 3⟩ 38),
    (0x299000C196600003, .stv 12 ⟨true, 0, 0, .off, 1, 37, 3⟩ 38),
    (0x29A000D194700003, .ldvp 13 ⟨true, 0, 0, .off, 1, 37, 3⟩ 7),
    (0x29B000E194F00003, .gathv 14 ⟨true, 0, 0, .off, 1, 37, 3⟩ 15),
    (0x29C000E194900003, .scatv 14 ⟨true, 0, 0, .off, 1, 37, 3⟩ 9),
    (0x220000029C000004, .pagereq ⟨false, 0, 0, .off, 2, 39, 4⟩),
    (0x221002829C000004, .prefetch 40 ⟨false, 0, 0, .off, 2, 39, 4⟩),
    (0x228001D3A7C00006, .sopen 3 5 ⟨false, 0, 0, .off, 3, 41, 6⟩ 60), (0x2290006002A00000, .sadv 6 42),
    (0x22A002B000700000, .sget 43 7), (0x22B000A000300000, .vsget 10 3), (0x22C0004000500000, .stend 4 5),
    (0x22D0002000000000, .sclose 2), (0x23000074B6E00008, .wset 7 ⟨false, 0, 0, .off, 4, 45, 8⟩ 46)] : List (BitVec 64 × Instr)).all (fun e =>
    decodeSyllable e.1 == some e.2) = true := by decide +kernel

theorem decode_sync : ([
    (0x3009491ABD310001, .amoAdd false 17 ⟨false, 9, 2, false, 2, 10, 47, 0x10001⟩ 19),
    (0x3880052BC1000005, .amoAdd true 18 ⟨true, 0, 0, false, 1, 11, 48, 5⟩ 16),
    (0x3019491ABD310001, .amoMin false 17 ⟨false, 9, 2, false, 2, 10, 47, 0x10001⟩ 19),
    (0x3890052BC1000005, .amoMin true 18 ⟨true, 0, 0, false, 1, 11, 48, 5⟩ 16),
    (0x3029491ABD310001, .amoMax false 17 ⟨false, 9, 2, false, 2, 10, 47, 0x10001⟩ 19),
    (0x38A0052BC1000005, .amoMax true 18 ⟨true, 0, 0, false, 1, 11, 48, 5⟩ 16),
    (0x3039491ABD310001, .amoAnd false 17 ⟨false, 9, 2, false, 2, 10, 47, 0x10001⟩ 19),
    (0x38B0052BC1000005, .amoAnd true 18 ⟨true, 0, 0, false, 1, 11, 48, 5⟩ 16),
    (0x3049491ABD310001, .amoOr false 17 ⟨false, 9, 2, false, 2, 10, 47, 0x10001⟩ 19),
    (0x38C0052BC1000005, .amoOr true 18 ⟨true, 0, 0, false, 1, 11, 48, 5⟩ 16),
    (0x3059491ABD310001, .amoXor false 17 ⟨false, 9, 2, false, 2, 10, 47, 0x10001⟩ 19),
    (0x38D0052BC1000005, .amoXor true 18 ⟨true, 0, 0, false, 1, 11, 48, 5⟩ 16),
    (0x3069491ABD310001, .amoSwap false 17 ⟨false, 9, 2, false, 2, 10, 47, 0x10001⟩ 19),
    (0x38E0052BC1000005, .amoSwap true 18 ⟨true, 0, 0, false, 1, 11, 48, 5⟩ 16),
    (0x3079591ABD310001, .cas false 17 ⟨false, 9, 2, true, 2, 10, 47, 0x10001⟩ 19),
    (0x38F0052BC1000005, .cas true 18 ⟨true, 0, 0, false, 1, 11, 48, 5⟩ 16),
    (0x3121031CC8000002, .lda false 49 ⟨false, 1, 0, .off, 12, 50, 2⟩),
    (0x3930030CC8000002, .lda true 48 ⟨true, 0, 0, .off, 12, 50, 2⟩),
    (0x31A1031CC8000002, .stl false 49 ⟨false, 1, 0, .off, 12, 50, 2⟩),
    (0x39B0030CC8000002, .stl true 48 ⟨true, 0, 0, .off, 12, 50, 2⟩), (0x3200600000008001, .fence 3 0x8001),
    (0x3280004DCC100001, .barwinit 4 ⟨false, 0, 0, .off, 13, 51, 1⟩ true),
    (0x3A90085DCC000001, .barwadd 5 ⟨true, 0, 0, false, 2, 13, 51, 1⟩),
    (0x32A0006DCF400001, .barwwait 6 ⟨false, 0, 0, .off, 13, 51, 1⟩ 52),
    (0x32B0007DCC300001, .barwtry 7 ⟨false, 0, 0, .off, 13, 51, 1⟩ 3),
    (0x330003CED4400001, .wqpush 15 ⟨false, 0, 0, .off, 14, 53, 1⟩ 4),
    (0x3310008ED4500001, .wqpop 2 ⟨false, 0, 0, .off, 14, 53, 1⟩ 5),
    (0x3310008ED4D00001, .wqpopOne 2 ⟨false, 0, 0, .off, 14, 53, 1⟩ 5),
    (0x332000CED4600001, .wqsteal 3 ⟨false, 0, 0, .off, 14, 53, 1⟩ 6),
    (0x3380036FE0700002, .lgather 54 ⟨false, 0, 0, .off, 15, 56, 2⟩ 7), (0x33900370E4600000, .ldedup 55 0 57 6),
    (0x33A00380EBE00003, .lpool 2 56 0 58 15 3), (0x33B003B1F3D30010, .lhand 59 ⟨false, 0, 0, .off, 1, 60, 0x30010⟩ 61)] : List (BitVec 64 × Instr)).all (fun e =>
    decodeSyllable e.1 == some e.2) = true := by decide +kernel

theorem decode_vector : ([
    (0x400F120AE0000000, .vadd 7 15 1 2 5), (0x401F120AE0000000, .vsub 7 15 1 2 5), (0x402F120AE0000000, .vmul 7 15 1 2 5),
    (0x403E345C40000000, .vfma 2 14 3 4 5 6), (0x404E345C40000000, .vfms 2 14 3 4 5 6),
    (0x405D670260000000, .vmin 3 13 6 7 1), (0x406D670260000000, .vmax 3 13 6 7 1), (0x407C800420000000, .vabs 1 12 8 2),
    (0x408C800420000000, .vneg 1 12 8 2), (0x410B9A0600000000, .vand 11 9 10 3), (0x411B9A0600000000, .vor 11 9 10 3),
    (0x412B9A0600000000, .vxor 11 9 10 3), (0x413ABC08E0000000, .vshl 7 10 11 (.tile 12) 4),
    (0x413AB0081000001F, .vshl 0 10 11 (.const 31) 4), (0x414ABC08E0000000, .vshr 7 10 11 (.tile 12) 4),
    (0x414AB0081000001F, .vshr 0 10 11 (.const 31) 4), (0x415ABC08E0000000, .vsra 7 10 11 (.tile 12) 4),
    (0x415AB0081000001F, .vsra 0 10 11 (.const 31) 4), (0x4187120C40000005, .vcmp 5 2 7 1 2 6),
    (0x4199120E00000000, .vsel 9 1 2 7), (0x41A9300200000000, .vmov 9 3 1), (0x41B900024000003E, .vsplat 2 9 62 1),
    (0x41C9000200000002, .viota 2 9 1), (0x42094002C0000000, .vcvt 6 9 4 1), (0x4219508080000000, .vquant 4 9 8 5),
    (0x4229560200000000, .vdeq 9 5 6 1), (0x4235600200000009, .vclass 5 6 9 1), (0x4287650800000000, .pand 7 6 5 4),
    (0x4297650800000000, .por 7 6 5 4), (0x42A7650800000000, .pxor 7 6 5 4), (0x42B7600800000000, .pnot 7 6 4)] : List (BitVec 64 × Instr)).all (fun e =>
    decodeSyllable e.1 == some e.2) = true := by decide +kernel

theorem decode_cross : ([
    (0x500870060000003F, .vrotr 8 7 63 3), (0x501870060000000F, .vrotc 8 7 15 3), (0x502870060000003E, .vbcr 8 7 62 3),
    (0x503870060000000E, .vbcc 8 7 14 3), (0x5048700660000002, .vredr 2 3 8 7 3), (0x5058700660000002, .vredc 2 3 8 7 3),
    (0x5068700660000002, .vscanr 2 3 8 7 3), (0x5078700660000002, .vscanc 2 3 8 7 3), (0x5088700000000000, .vtrn 8 7),
    (0x5106500800000000, .vsfuExp2 6 5 4), (0x5106500820000000, .vsfuLog2 6 5 4), (0x5106500840000000, .vsfuRcp 6 5 4),
    (0x5106500860000000, .vsfuRsqrt 6 5 4), (0x5106500880000000, .vsfuSqrt 6 5 4), (0x51065008A0000000, .vsfuSinpi 6 5 4),
    (0x51065008C0000000, .vsfuCospi 6 5 4), (0x51065008E0000000, .vsfuTanh 6 5 4), (0x5106500900000000, .vsfuSigm 6 5 4),
    (0x5106500920000000, .vsfuErf 6 5 4), (0x5183000C00000000, .vany 3 6), (0x5193000C00000000, .vall 3 6),
    (0x5201203000000000, .vcompress 1 3 2), (0x5211230A00000000, .vexpand 1 2 3 5), (0x522040000000CB7D, .vextr 61 4 13 50),
    (0x523400000000CF3C, .vinsr 4 60 12 51)] : List (BitVec 64 × Instr)).all (fun e =>
    decodeSyllable e.1 == some e.2) = true := by decide +kernel

theorem decode_engine : ([
    (0x6000184000000000, .estart true 33), (0x6010100000000000, .estop true), (0x6020988000000000, .estat 34 true 4),
    (0x6080096300080001, .gopen 2 5 35 0x80001), (0x60900DA40007FFFF, .gattach 3 6 36 0x7FFFF),
    (0x60A0540000000007, .gdetach 5 1 7), (0x60B069E589980000, .gfold 6 2 7 37 8 38 6)] : List (BitVec 64 × Instr)).all (fun e =>
    decodeSyllable e.1 == some e.2) = true := by decide +kernel

theorem decode_streams : ([
    (0x0FFF, .lit 0xFFF), (0x1801, .litx 0x801), (0x2000, .dup), (0x2100, .drop), (0x2200, .swap), (0x2300, .over),
    (0x303E, .pushd 62), (0x3C0D, .pushb 13 true), (0x3803, .pushb 3 false), (0x43FF, .jmp 0x3FF), (0x4400, .rep),
    (0x4800, .endrep), (0x4C00, .engineNop), (0x4C01, .halt), (0x501F, .enginePost 31), (0x581E, .engineAwait 30),
    (0xC00B, .classW)] : List (BitVec 16 × Instr)).all (fun e =>
    decodeMatrix e.1 == some e.2 && decodeCopy e.1 == some e.2) = true := by decide +kernel

theorem decode_matrix : ([
    (0x6000, .lease), (0x6200, .free), (0x6600, .mwin), (0x6580, .mzero), (0x7B68, .mma), (0x8828, .mmas), (0x9A50, .mmasp),
    (0xABE0, .mstore)] : List (BitVec 16 × Instr)).all (fun e =>
    decodeMatrix e.1 == some e.2) = true := by decide +kernel

theorem decode_copy : ([
    (0x6800, .copy), (0x7000, .copy2), (0x8800, .mcast), (0x99A0, .gld), (0xA800, .decomp), (0xB000, .fill), (0xB100, .barann)] : List (BitVec 16 × Instr)).all (fun e =>
    decodeCopy e.1 == some e.2) = true := by decide +kernel
/-! ### Ill-formed terms, one or more for each check of `Instr.wf` -/

/-- A memory operand with the class of its descriptor, scope 0. -/
def place (m : AMode) (off : DReg) (imm : BitVec 20) : MemOp := ⟨true, 0, 0, m, 1, off, imm⟩
/-- One without a class. -/
def bare (m : AMode) : MemOp := ⟨false, 0, 0, m, 1, 2, 1⟩

theorem illformed_fields : ([.shlI 1 2 32, .shrI 1 2 32, .sraI 1 2 0xFFFFFFFF, .sext 1 2 0, .zext 1 2 33, .dmask 1 2 2, .alldiffR 1 1, .alldiffR 1 9,
    .alldiffRk 0 2, .alldiffRk 63 2, .restore 16, .cmp 3 false 0 1 2, .cmpI 3 false 0 1 2, .cmpu 3 true 0 1 2, .cmpuI 3 true 0 1 2, .bdset 1 5 1,
    .fence 5 1, .estat 1 true 5, .gfold 0 1 1 1 1 1 2] : List Instr).all (fun i => !i.wf) = true := by decide +kernel

theorem illformed_operands : ([.ld .w 1 ⟨true, 3, 0, .off, 1, 0, 0⟩, .ld .w 1 ⟨true, 0, 5, .off, 1, 0, 0⟩, .ld .w 1 (place .post 0 1), .ld .w 1 (place (.wrap 1) 1 0),
    .ld .w 1 (place (.wrap 1) 0 1), .ld .d 3 (place .off 0 0), .st .d 3 (place .off 0 0), .stn 1 (place .off 1 1) 0, .stn 1 (place (.idx 3) 1 1) 1,
    .ldr .w 1 (place (.idx 3) 1 1) 0, .ldr .d 1 (place .off 1 1) 0, .ldv 1 (place (.idx 3) 1 1) 2, .stv 1 (place (.wrap 1) 0 0) 2, .ldvp 1 (place .off 1 1) 0,
    .ldvp 1 (place .post 1 1) 1, .gathv 1 (place .post 1 1) 1, .scatv 1 (place .post 1 1) 1, .pagereq (place .off 1 1), .prefetch 1 (bare .post),
    .sopen 0 1 (bare .off) 61, .wset 1 (place .off 1 1) 2] : List Instr).all (fun i => !i.wf) = true := by decide +kernel

theorem illformed_sync : ([.amoAdd true 1 (atom0 1 0) 2, .amoMin true 2 (atom0 1 0) 1, .amoMax false 1 ⟨true, 1, 0, false, 0, 1, 0, 0⟩ 2,
    .amoAnd false 1 ⟨false, 1, 7, false, 0, 1, 0, 0⟩ 2, .amoOr false 1 ⟨false, 1, 0, true, 0, 1, 0, 0⟩ 2, .amoXor true 1 (atom0 1 0) 1,
    .amoSwap true 2 (atom0 1 0) 3, .cas true 3 (atom0 1 0) 2, .lda true 1 (place .off 0 0), .stl false 1 (place .post 1 1), .barwinit 1 (bare .off) false,
    .barwadd 1 (atom0 1 0), .barwwait 1 (bare .post) 0, .barwtry 1 (place .off 1 1) 0, .wqpush 0 (bare .off) 0, .wqpop 0 (bare .off) 0, .wqpopOne 1 (bare .post) 0,
    .wqsteal 0 (bare .off) 0, .lgather 1 ⟨false, 0, 0, .off, 1, 2, 0⟩ 0, .lgather 1 ⟨false, 0, 0, .off, 1, 60, 1⟩ 7, .ldedup 1 5 1 0, .ldedup 1 0 60 7,
    .lpool 3 1 0 2 1 1, .lpool 0 1 0 2 1 0, .lhand 1 ⟨false, 0, 0, .off, 1, 2, 0x50000⟩ 1, .lhand 1 ⟨false, 0, 0, .off, 1, 2, 0x10001⟩ 1]
    : List Instr).all (fun i => !i.wf) = true := by decide +kernel

theorem illformed_vectors : ([.vadd 4 1 2 3 0, .vsub 5 1 2 3 0, .vmul 6 1 2 3 0, .vmin 8 1 2 3 0, .vmax 15 1 2 3 0, .vabs 4 1 2 0, .vneg 9 1 2 0,
    .vfma 0 1 2 3 4 0, .vfms 7 1 2 3 4 0, .vshl 1 1 2 (.tile 3) 0, .vshr 7 1 2 (.const 8) 0, .vsra 2 1 2 (.const 1) 0, .vcmp 6 0 1 2 3 0, .vcmp 0 4 1 2 3 0,
    .vsplat 2 1 3 0, .vsplat 4 1 2 0, .viota 3 1 0, .vcvt 8 1 2 0, .vquant 3 1 2 3, .vquant 4 1 1 3, .vcompress 1 1 2, .vrotc 1 2 16 0, .vbcc 1 2 16 0,
    .vredr 3 0 1 2 0, .vredc 0 4 1 2 0, .vscanr 3 1 1 2 0, .vscanc 1 9 1 2 0] : List Instr).all (fun i => !i.wf) = true := by decide +kernel

/-- Syllables that R271 calls ILLEGAL: mode 10, a relational mode without one, an unlisted opcode, an unused field, an odd pair,
a mode that `LDR` lacks, DC with a class, class 111. -/
theorem illegal_syllables : ([0x0008000000000000, 0x0084000000000000, 0x00C0000000000000, 0x0000000000000001, 0xA930609324500003, 0xA930689324500003,
    0xA932608324500003, 0xF000000000000000] : List (BitVec 64)).all (fun w => (decodeSyllable w).isNone) = true := by decide +kernel

/-- Engine words that R270 calls ILLEGAL. -/
theorem illegal_words : ([0xD000, 0xE000, 0xF000, 0x2400, 0x2001, 0x3040, 0x4C02, 0x5020, 0xC010] : List (BitVec 16)).all (fun w =>
    (decodeMatrix w).isNone && (decodeCopy w).isNone) = true
    ∧ ([0xB000, 0x6400, 0x6801, 0x6A00, 0x7500, 0x70A0, 0x7061, 0x9008, 0xA500] : List (BitVec 16)).all (fun w => (decodeMatrix w).isNone) = true
    ∧ ([0xB200, 0x6001, 0x9080, 0x9001] : List (BitVec 16)).all (fun w => (decodeCopy w).isNone) = true := by decide +kernel

/-! ### Witnesses of the remaining hypotheses -/

theorem witness_DecodingIsExact : decodeSyllable 0x01B0500000000028 = some (.movi 5 40) := by decide +kernel

theorem witness_WriteFrame : (Write.d 5 (Dom.single 1)).dest ≠ (6 : DReg).toNat ∧ (Write.v 5 (VTile.mk 0 [])).dest ≠ 0x40 + (6 : VReg).toNat
    ∧ (Write.c 5 true).dest ≠ 0x58 + (6 : CReg).toNat := by decide +kernel

/-- A mark stands, an entry of the store watches D5, and nothing is pending. -/
theorem witness_NarrowingsTrailAndWake :
    let s := (home []).modCtx (fun c => { c with cons := { c.cons with store := [entryRRR 0x20 5 1 2] } })
    s.ctx.cons.queue.Nodup ∧ (entryRRR 0x20 5 1 2).watches 5 = true := by decide +kernel

/-- `TargetsAndConditions` and `DescriptorParts` on a source that is no singleton. -/
theorem witness_TargetsAndConditions_wide : Alone ranged ∧ (ranged.ctx.regs.dom 2).isSingle = false ∧ ranged.ctx.regs.dom 3 = Dom.single 5
    ∧ ranged.isFw = false := by unfold Alone; decide +kernel

theorem witness_IdentityRegisters_written : Alone (home [(1, 7)]) ∧ (home [(1, 7)]).ctx.regs.dom 1 = Dom.single 7
    ∧ (home [(1, 7)]).ctx.regs.dom 2 = Dom.single 0 ∧ Room ((home [(1, 7)]).modCtx (fun c => c)) := by
  unfold Alone Room; decide +kernel


/-! ### What the completion statements ask for -/

/-- The place of some bytes in the package that the agent in progress can reach, and the state once they are translated. -/
def reach (s : State) (va n : Nat) (acc : BitVec 4) : Option (Loc × State) :=
  match s.translate (agentPort s.cur) s.ctx.id.conf s.ctx.id.pasid (BitVec.ofNat 48 va) acc with
  | .ok pa t =>
    let l : Loc := ⟨physKey pa, physCell pa, false, some (BitVec.ofNat 48 va)⟩
    if l.offPackage = false ∧ homeTrap t l n false = none then some (l, t) else none
  | _ => none

theorem placed {s : State} {va n : Nat} {acc : BitVec 4} {f : Loc → State → Bool}
    (h : (reach s va n acc).any (fun x => f x.1 x.2) = true) : ∃ l t, PlaceAt s va n acc l t ∧ f l t = true := by
  unfold reach at h
  split at h
  · next pa t e =>
    dsimp only at h
    split at h
    · next g => exact ⟨_, t, ⟨⟨pa, e, rfl⟩, g.1, g.2⟩, h⟩
    · simp at h
  · simp at h

theorem fetched {x : Except LfeStop α} {f : α → Bool} (h : fetches x f = true) : ∃ a, x = .ok a ∧ f a = true := by
  unfold fetches at h
  split at h
  · exact ⟨_, rfl, h⟩
  · simp at h

theorem atRest_of (s : State) (h : s.issue = {}) (p : s.ctx.pend = []) (l : s.ctx.ldrs = []) (o : s.ctx.out = [])
    (g : s.ctx.waits.got = []) (r : s.ctx.waits.reply = none) : AtRest s :=
  ⟨by simp [Alone, h], p, l, o, g, r⟩

theorem witness_DomainsComplete : AtRest (home [(1, 3), (2, 5)]) ∧ (home [(1, 3), (2, 5)]).ctx.regs.dom 1 = Dom.single 3
    ∧ (home [(1, 3), (2, 5)]).ctx.regs.dom 2 = Dom.single 5 ∧ (3 : Word).toInt ≤ (5 : Word).toInt
    ∧ ({ (home []).ctx.regs.dom 9 with mask := (0 : Word) ++ ((home []).ctx.regs.dom 9).mask.extractLsb' 0 32 } : Dom).set.canon = some (Dom.single 0)
    ∧ (ranged.ctx.regs.dom 2).exclude (5 : Word).toInt = some ⟨0, 9, 0x3DF⟩ ∧ (⟨0, 9, 0x3DF⟩ : Dom) ≠ ranged.ctx.regs.dom 2
    ∧ (ranged.ctx.regs.dom 2).exclude (10 : Word).toInt = some (ranged.ctx.regs.dom 2) ∧ ranged.isFw = false ∧ ranged.ctx.cons.marks = []
    ∧ AtRest ranged ∧ AtRest (firm []) ∧ (firm []).isFw = true :=
  ⟨atRest_of _ rfl rfl rfl rfl rfl rfl, by decide +kernel, by decide +kernel, by decide +kernel, by decide +kernel, by decide +kernel,
    by decide +kernel, by decide +kernel, by decide +kernel, by decide +kernel, atRest_of _ rfl rfl rfl rfl rfl rfl,
    atRest_of _ rfl rfl rfl rfl rfl rfl, by decide +kernel⟩

theorem witness_TasksComplete : AtRest (home []) ∧ (home []).ctx.regs.dom 0 = Dom.single 0 ∧ (home []).isUser = true
    ∧ Within ((home []).desc 1) 0 128 ∧ (((home []).desc 1).base + 0) % 128 = 0 ∧ (((home []).desc 1).base + 0) % 4096 ≤ 4032
    ∧ Plain (home []) ∧ (home []).ctx.window = 0 ∧ (home []).enginesIdle = true
    ∧ (∃ l t, PlaceAt (home []) (((home []).desc 1).base + 0) 128 (accRead ||| accWrite) l t ∧ true = true)
    ∧ ∃ l t, PlaceAt (home []) (((home []).desc 1).base + 0) 64 accRead l t
      ∧ (YieldReq.ofBytes (t.bytesKey l.key l.cell 64)).ok (home []).ctx = true :=
  ⟨atRest_of _ rfl rfl rfl rfl rfl rfl, by decide +kernel, by decide +kernel, by unfold Within; decide +kernel, by decide +kernel,
    by decide +kernel, by unfold Plain; decide +kernel, by decide +kernel, by decide +kernel, placed (by decide +kernel),
    placed (by decide +kernel)⟩

/-- The state of `listed` with a prepared new list at 0x4100, a replacement image at 0x4200, and a barrier word at 0x4240. -/
def folded (n : Byte) : State :=
  (((listed n).setBytes 0x4100 (List.replicate 19 0 ++ [1, 0, 0, 0, 0, 64])).setBytes 0x4200 [1, 1]).modCtx (fun c => { c with regs := (c.regs.write (.d 2 (Dom.single 0x240))).write (.d 4 (Dom.single 0x200)) })

theorem witness_GlossComplete : AtRest (folded 0) ∧ (folded 0).isUser = true ∧ (folded 0).ctx.regs.dom 1 = Dom.single 256
    ∧ (folded 0).ctx.regs.dom 0 = Dom.single 0
    ∧ (folded 0).ctx.regs.dom 2 = Dom.single 0x240 ∧ hValid ((folded 0).ctx.regs.gloss 1) = true
    ∧ Within ((folded 0).desc 1) 256 256 ∧ Within ((folded 0).desc 1) 0x240 32 ∧ (((folded 0).desc 1).base + 256) % 256 = 0
    ∧ (((folded 0).desc 1).base + 0x240) % 32 = 0 ∧ ((folded 0).desc 1).base + 256 ≠ (hList ((folded 0).ctx.regs.gloss 1)).toNat
    ∧ (∃ l t, PlaceAt (folded 0) (((folded 0).desc 1).base + 0) 256 accRead l t
      ∧ (listFault (t.bytesKey l.key l.cell 256) tProt tGlossOvf == none) = true)
    ∧ (∃ l t, PlaceAt (folded 0) (((folded 0).desc 1).base + 0x200) 32 accRead l t
      ∧ (imageOk (t.bytesKey l.key l.cell 32) && physRegion l.cell == .hbm && (reach t 0x4000 256 accAtomic).any (fun x =>
        decide (glN (x.2.bytesKey x.1.key x.1.cell 256) < 8) && !glRetired (x.2.bytesKey x.1.key x.1.cell 256))) = true)
    ∧ (∃ l t, PlaceAt (folded 1) (hList ((folded 1).ctx.regs.gloss 1)).toNat 256 accAtomic l t
      ∧ (decide ((0 : BitVec 3).toNat < glN (t.bytesKey l.key l.cell 256)) && slDver (glSlot (t.bytesKey l.key l.cell 256) 0) == 0) = true)
    ∧ ∃ l t, PlaceAt (folded 0) (((folded 0).desc 1).base + 256) 256 (accRead ||| accWrite) l t
      ∧ (preparedOk (t.bytesKey l.key l.cell 256) 1 && (reach t (((folded 0).desc 1).base + 0x240) 32 accAtomic).any (fun x =>
        (reach x.2 0x4000 256 accAtomic).any (fun y => !glFolding (y.2.bytesKey y.1.key y.1.cell 256)
          && !glRetired (y.2.bytesKey y.1.key y.1.cell 256)))) = true :=
  ⟨atRest_of _ rfl rfl rfl rfl rfl rfl, by decide +kernel, by decide +kernel, by decide +kernel, by decide +kernel, by decide +kernel,
    by unfold Within; decide +kernel, by unfold Within; decide +kernel, by decide +kernel, by decide +kernel, by decide +kernel,
    placed (by decide +kernel), placed (by decide +kernel), placed (by decide +kernel), placed (by decide +kernel)⟩

/-- The copy engine with BD3 all the SRAM of the region, BD2 of the tile, holding a compressed object of no rows at 0x200. -/
def moving (w : BitVec 16) (st : List Word) : State :=
  (copier w st).setBytes (sramBase + 0x200) ((compressed.set 0 0).set 12 0 |>.set 32 64 |>.take 64) |>.setBytes (sramBase + 0x240) ((compressed.drop 96).take 256)

theorem witness_CopiesComplete : (moving 0x6000 []).cur = .copy 0 ∧ (moving 0x6000 []).eng.inWord = none ∧ copyCounts 0x6000 = false
    ∧ copyCounts 0x8000 = false ∧ copyCounts 0xA000 = false
    ∧ (moving 0x6000 []).injectHold (moving 0x6000 []).cur (moving 0x6000 []).ctx.id.region = 0
    ∧ selOk 0x220 true true false = true ∧ InSram (moving 0x6000 []) ((moving 0x6000 []).desc 2) 0 4 sramBase
    ∧ SramOpen (moving 0x6000 []) sramBase 4 false ∧ InSram (moving 0x6000 []) ((moving 0x6000 []).desc 2) 0x40 4 (sramBase + 0x40)
    ∧ (moving 0x6000 [4, 0x40, 0, 0x220]).eng.stack = 4 :: 0x40 :: 0 :: 0x220 :: [] ∧ (sramBase + 0x40) % 64 + 4 ≤ 64
    ∧ selOk 0x20 false true false = true ∧ selOk 0x200 true false false = true
    ∧ 0 * 2 ^ 32 + 2 < 2 ^ (moving 0x8000 []).partitionTiles.length ∧ maskTiles (moving 0x8000 []) 2 0 = [1]
    ∧ granuleCell (shareOf ((moving 0x8000 []).partition (moving 0x8000 []).ctx.id.region) 1) 0x40 = some (sliceCell 1 0x40)
    ∧ 0x40 + 4 ≤ (shareOf ((moving 0x8000 []).partition (moving 0x8000 []).ctx.id.region) 1).length * granuleBytes
    ∧ (moving 0xB100 []).eng.out = [] ∧ InSram (moving 0xB100 []) ((moving 0xB100 []).desc 2) 0x40 32 (sramBase + 0x40)
    ∧ SramOpen (moving 0xB100 []) (sramBase + 0x40) 32 true := by
  unfold InSram SramOpen; decide +kernel

theorem witness_CopiesComplete_gld : let s := loader
    let h := s.ctx.regs.gloss (GldMods.ofWord s.word).h
    (GldMods.ofWord s.word).b = false ∧ (GldMods.ofWord s.word).t ≠ 6 ∧ hValid h = true ∧ (hList h).toNat % 256 = 0
    ∧ rowSize (GldMods.ofWord s.word).t 1 ≤ 16 ∧ InSram s (s.desc 2) 0 (rowSize (GldMods.ofWord s.word).t 1) sramBase
    ∧ s.eng.stack = 16 :: 0 :: 1 :: 1 :: 0 :: 0 :: 0x20 :: []
    ∧ ∃ l t, PlaceAt s (hList h).toNat 256 accRead l t ∧ (physRegion l.cell == .hbm && (let lst := t.bytesKey l.key l.cell 256
        layersOf h lst == [] && decide (0 < glRows lst) && decide (0 < glCols lst) && glBscale lst == 0
        && (reach t (glBase lst) ((widthOf (glFmt lst) + 7) / 8) accRead).any (fun x => physRegion x.1.cell == .hbm))) = true := by
  refine ⟨by decide +kernel, by decide +kernel, by decide +kernel, by decide +kernel, by decide +kernel, by unfold InSram; decide +kernel,
    by decide +kernel, placed (by decide +kernel)⟩

theorem witness_CopiesComplete_decomp : let s := moving 0xA000 [0x400, 0x200, 0x220]
    let head := s.bytesKey 0 (sramBase + 0x200) 64
    InSram s (s.desc 2) 0x200 64 (sramBase + 0x200) ∧ SramOpen s (sramBase + 0x200) 64 false ∧ sprCode head = 1
    ∧ glossFmtOk (sprFmt head) = true ∧ sprClean head = true ∧ sprRows head = 0 ∧ sprNslice head = 0 ∧ sprWoff head % 16 = 0
    ∧ sprSoff head % 16 = 0 ∧ sprLoff head = 64 ∧ InSram s (s.desc 2) (0x200 + sprLoff head) 256 (sramBase + 0x240)
    ∧ SramOpen s (sramBase + 0x240) 256 false ∧ canonicalCodes ((s.bytesKey 0 (sramBase + 0x240) 256).map (·.toNat)) ≠ none
    ∧ InSram s (s.desc 2) 0x400 64 (sramBase + 0x400) ∧ (sramBase + 0x400) % 64 = 0 := by
  unfold InSram SramOpen; decide +kernel

theorem witness_RecordsComplete_read : (enqueued 2 false {}).nextQueue = some 0 ∧ ((enqueued 2 false {}).queue 0).waiting = []
    ∧ RecordReads (enqueued 2 false {}) 0 (operator 2 0x6000) ∧ OpRec.clean (operator 2 0x6000) = true
    ∧ OpRec.fence (operator 2 0x6000) = false ∧ OpRec.kind (operator 2 0x6000) = 2 := by
  refine ⟨by decide +kernel, by decide +kernel, ?_, by decide +kernel, by decide +kernel, by decide +kernel⟩
  obtain ⟨x, e, h⟩ := fetched (f := fun x => x.1 == operator 2 0x6000 && decide (x.2.lfe.queues = (enqueued 2 false {}).lfe.queues))
    (x := lfeRead ((enqueued 2 false {}).queue 0).pasid 2 { enqueued 2 false {} with lfe := { (enqueued 2 false {}).lfe with
      lastQueue := Assoc.set (enqueued 2 false {}).lfe.lastQueue ((enqueued 2 false {}).queue 0).prio.toNat 0 } }
      ((enqueued 2 false {}).recordVa 0) 128) (by decide +kernel)
  simp only [Bool.and_eq_true, beq_iff_eq, decide_eq_true_eq] at h
  exact ⟨x.2, by rw [e, ← h.1], h.2⟩

theorem witness_RecordsComplete_wait : ((enqueued 2 true {}).queue 0).v = true ∧ ((enqueued 2 true {}).queue 0).stop = false
    ∧ ((enqueued 2 true {}).queue 0).fault = none ∧ ((enqueued 2 true {}).queue 0).waiting = [] ∧ WaitOver (enqueued 2 true {}) 0 := by
  refine ⟨by decide +kernel, by decide +kernel, by decide +kernel, by decide +kernel, ?_⟩
  let s := enqueued 2 true {}
  obtain ⟨x, e, h⟩ := fetched (x := lfeReached s (s.queue 0).pasid (OpRec.waitbw (s.queue 0).bytes) (OpRec.waitgen (s.queue 0).bytes))
    (f := fun x => x.1 && decide (x.2.lfe.queues = s.lfe.queues)
      && fetches (lfeWrite x.2 (s.queue 0).pasid (x.2.recordVa 0 + 4) [2, 0, 0, 0]) (fun v => decide (v.lfe.queues = s.lfe.queues)))
    (by decide +kernel)
  simp only [Bool.and_eq_true, decide_eq_true_eq] at h
  obtain ⟨v, e', h'⟩ := fetched h.2
  exact ⟨x.2, v, by rw [e, ← h.1.1], h.1.2, e', of_decide_eq_true h'⟩

theorem witness_RecordsComplete_signal : ∃ w, SignalMade (enqueued 3 true {}) 0 w := by
  let s := enqueued 3 true {}
  obtain ⟨x, e, h⟩ := fetched (x := lfeCell s (s.queue 0).pasid (s.recordVa 0 + 4) 4 accWrite)
    (f := fun x => fetches (lfeAdd x.2.2 (s.queue 0).pasid (OpRec.donebw (s.queue 0).bytes) (OpRec.doneadd (s.queue 0).bytes))
      (fun v => decide (v.lfe.queues = s.lfe.queues)
        && fetches (lfeWrite v (s.queue 0).pasid (v.recordVa 0 + 4) [2, 0, 0, 0]) (fun w => decide (w.lfe.queues = s.lfe.queues))))
    (by decide +kernel)
  obtain ⟨v, e', h'⟩ := fetched h
  simp only [Bool.and_eq_true, decide_eq_true_eq] at h'
  obtain ⟨w, e2, h2⟩ := fetched h'.2
  exact ⟨w, x.1, x.2.1, x.2.2, v, e, e', h'.1, e2, of_decide_eq_true h2⟩

/-- The launch of `launched` with neither a word to wait for nor a counter to add to. -/
def launchedPlain (stage : BitVec 2) (ended : Option Byte) : State :=
  let s := launched stage ended []
  { s with lfe := { s.lfe with launches := s.lfe.launches.map (fun e => (e.1, { e.2 with bytes := e.2.bytes.take 56 ++ List.replicate 72 0 })) } }

theorem witness_RecordsComplete_launch : ((launchedPlain 0 none).launch 0).map (fun l => (l.fault, l.stage, l.ended, OpRec.waitbw l.bytes, l.region))
      = some (none, 0, none, 0, 2) ∧ ((launchedPlain 0 none).region 2).map (·.ending.isNone) = some true
    ∧ ((launchedPlain 2 (some 0)).launch 0).map (fun l => (l.ended, l.starting, l.step, OpRec.lrec l.bytes, OpRec.donebw l.bytes))
      = some (some 0, false, 0, 0, 0) ∧ (launchedPlain 2 (some 0)).pasidState 0 = .active
    ∧ fetches (lfeWrite (launchedPlain 2 (some 0)) 0 (0x40000 + 4) [2, 0, 0, 0]) (fun _ => true) = true := by decide +kernel
end Sys2Proof.Tests
end

/-!
Rules that the package's happenings share: finite maps, tiles, cores and engines after an update, and a tile's lease.
-/

namespace Sys2Proof.Proofs.Package

open Sys2Proof Sys2Proof.Machine Sys2Proof.Safety Sys2Proof.Laws

/-! ### Finite maps -/

section Maps

variable {α : Type} (m : Assoc α) (j k : Nat)

theorem find?_set (v : α) : Assoc.find? (Assoc.set m k v) j = if j = k then some v else Assoc.find? m j := by
  induction m with
  | nil => simp [Assoc.set, Assoc.find?, eq_comm]
  | cons e rest ih =>
    obtain ⟨i, a⟩ := e
    by_cases hik : i = k
    · by_cases hj : j = k <;> simp [Assoc.set, Assoc.find?, hik, hj, eq_comm]
    · by_cases hki : k < i
      · by_cases hj : j = k <;> simp [Assoc.set, Assoc.find?, hik, hki, hj, eq_comm]
      · simp only [Assoc.set, hik, hki, if_false, Assoc.find?, ih]
        by_cases hj : j = k
        · simp [hj, hik]
        · simp [hj]

@[simp] theorem find?_set_same (v : α) : Assoc.find? (Assoc.set m k v) k = some v := by simp [find?_set]

theorem find?_erase : Assoc.find? (Assoc.erase m k) j = if j = k then none else Assoc.find? m j := by
  induction m with
  | nil => simp [Assoc.erase, Assoc.find?]
  | cons e rest ih =>
    obtain ⟨i, a⟩ := e
    unfold Assoc.erase at ih ⊢
    by_cases hik : i = k
    · by_cases hj : j = k
      · subst hj; simpa [hik] using ih
      · simp [Assoc.find?, hik, hj, ih, Ne.symm hj]
    · by_cases hij : i = j
      · subst hij; simp [Assoc.find?, hik]
      · simp [Assoc.find?, hik, hij, ih]

@[simp] theorem find?_erase_same : Assoc.find? (Assoc.erase m k) k = none := by simp [find?_erase]

theorem get_eq_find? (d : α) : Assoc.get d m j = (Assoc.find? m j).getD d := by
  induction m with
  | nil => rfl
  | cons e rest ih =>
    obtain ⟨i, a⟩ := e
    by_cases h : i = j <;> simp [Assoc.get, Assoc.find?, h, ih]

theorem get_erase (d : α) : Assoc.get d (Assoc.erase m k) j = if j = k then d else Assoc.get d m j := by
  rw [get_eq_find?, find?_erase, get_eq_find?]
  split <;> rfl

theorem mem_of_find? {v : α} (h : Assoc.find? m k = some v) : (k, v) ∈ m := by
  induction m with
  | nil => cases h
  | cons e rest ih =>
    obtain ⟨i, a⟩ := e
    by_cases hik : i = k
    · simp only [Assoc.find?, hik, if_true, Option.some.injEq] at h
      simp [hik, h]
    · simp only [Assoc.find?, hik, if_false] at h
      exact List.mem_cons_of_mem _ (ih h)

end Maps

/-! ### Tiles, cores and engines after an update -/

@[simp] theorem modTile_tile (s : State) (t : Nat) (f : TileState → TileState) (j : Nat) :
    (s.modTile t f).tile j = if j = t then f (s.tile t) else s.tile j := setTile_tile s t _ j
@[simp] theorem modTile_core (s : State) (t : Nat) (f : TileState → TileState) (k : Nat) : (s.modTile t f).core k = s.core k := rfl
@[simp] theorem modCore_tile (s : State) (k : Nat) (f : Core → Core) (t : Nat) : (s.modCore k f).tile t = s.tile t := rfl
@[simp] theorem setEngine_tile (s : State) (k : Nat) (copy : Bool) (e : Engine) (t : Nat) :
    (s.setEngine k copy e).tile t = s.tile t := rfl

@[simp] theorem modLease_tile (s : State) (t : Nat) (f : Lease → Lease) (j : Nat) :
    (s.modLease t f).tile j = if j = t then { s.tile t with lease := f (s.tile t).lease } else s.tile j := modTile_tile s t _ j
@[simp] theorem modLease_core (s : State) (t : Nat) (f : Lease → Lease) (k : Nat) : (s.modLease t f).core k = s.core k := rfl
@[simp] theorem modLease_mem (s : State) (t : Nat) (f : Lease → Lease) : (s.modLease t f).mem = s.mem := rfl
@[simp] theorem modLease_cycle (s : State) (t : Nat) (f : Lease → Lease) : (s.modLease t f).cycle = s.cycle := rfl
@[simp] theorem modTile_engine (s : State) (t : Nat) (f : TileState → TileState) (k : Nat) (copy : Bool) :
    (s.modTile t f).engine k copy = s.engine k copy := rfl
@[simp] theorem modLease_engine (s : State) (t : Nat) (f : Lease → Lease) (k : Nat) (copy : Bool) :
    (s.modLease t f).engine k copy = s.engine k copy := rfl

theorem setEngine_core (s : State) (k : Nat) (copy : Bool) (e : Engine) (j : Nat) :
    (s.setEngine k copy e).core j
      = if j = k then (if copy then { s.core k with cpy := e } else { s.core k with mat := e }) else s.core j :=
  modCore_core s k _ j

@[simp] theorem setEngine_engine_same (s : State) (k : Nat) (copy : Bool) (e : Engine) :
    (s.setEngine k copy e).engine k copy = e := by
  cases copy <;> simp [State.engine, setEngine_core]

/-- A partition depends on the regions alone. -/
theorem partitionOf_congr {s t : State} (h : t.regions = s.regions) (n : Nat) (r : BitVec 12) :
    t.partitionOf n r = s.partitionOf n r := by
  induction n generalizing r with
  | zero => rfl
  | succ n ih => simp only [State.partitionOf, State.region, h, ih]

/-! ### The lease of a tile's matrix array (R196) -/

@[simp] theorem finish_held (l : Lease) (r : BitVec 12) (now : BitVec 64) : (l.finish r now).held = false := by
  unfold Lease.finish
  split
  · rfl
  · simp_all

theorem finish_lastHolder {l : Lease} (h : l.held = true) (r : BitVec 12) (now : BitVec 64) :
    (l.finish r now).lastHolder = l.holder := by simp [Lease.finish, h]

/-- Waiting for a lease changes who waits, and nothing of the lease that is held. -/
theorem await_keeps (l : Lease) (c : Nat) (now : BitVec 64) :
    (l.await c now).held = l.held ∧ (l.await c now).holder = l.holder ∧ (l.await c now).words = l.words
      ∧ (l.await c now).lastHolder = l.lastHolder := by
  unfold Lease.await
  split <;> exact ⟨rfl, rfl, rfl, rfl⟩

@[simp] theorem awaitLease_engine (s : State) (k : Nat) :
    (s.awaitLease k).engine k false = { s.engine k false with state := .waitLease } := by
  simp [State.awaitLease]

theorem awaitLease_lease (s : State) (k t : Nat) :
    ((s.awaitLease k).tile t).lease.held = (s.tile t).lease.held
      ∧ ((s.awaitLease k).tile t).lease.holder = (s.tile t).lease.holder
      ∧ ((s.awaitLease k).tile t).lease.lastHolder = (s.tile t).lease.lastHolder := by
  obtain ⟨h1, h2, -, h4⟩ := await_keeps (s.tile (k / 4)).lease (k % 4) s.cycle
  by_cases h : t = k / 4
  · subst h; simp [State.awaitLease, h1, h2, h4]
  · simp [State.awaitLease, h]

end Sys2Proof.Proofs.Package

/-!
O5. A step fetches the bytes of its bundle, and a fetch that far memory performs is counted (R160) before the syllable runs.
-/

namespace Sys2Proof.Proofs.Package

open Sys2Proof Sys2Proof.Machine Sys2Proof.Safety Sys2Proof.Laws

/-! ### A fetch from far memory is counted (R160)

`SyllableAt` takes its state after the translation of the pc. A fetch that its home performs in far memory is reported to the
counters as well (`State.countFar`), which puts a packet into the mesh; the instruction then runs from that later state. -/

/-- The syllable `NOP` with its E bit set. -/
def nopWord : BitVec 64 := 0x9000000000000000

/-- Core 0's user context issues from far memory: its TLB maps the pc behind port 0, whose HDM decoder covers it, and the
access counters are on. -/
def farFetch : State :=
  { State.reset with
    boot := { State.reset.boot with pcie := 1 }
    links := { State.reset.links with hdm := [(0x10000000000, 2 ^ 30, 0)] }
    mmu := { State.reset.mmu with cnten := true }
    tiles := [(0, { tlb := [{ lowPage 0 with pa := physAddr 0 0x10000000000 }] })]
    cores := [(0, { user := { running := true } })]
    mem := (leBytes 8 nopWord.toNat).zipIdx.filterMap (fun e => if e.1 = 0 then none else some (0x10000000000 + e.2, e.1)) }

/-- The packets that wait for their router in the state that an outcome leaves. -/
def waitingPackets : Host.Outcome State Fault Refusal → Nat
  | .next t => t.mesh.pending.length
  | _ => 0

theorem farFetch_issuing : Issuing farFetch where
  first := rfl
  on := rfl
  context := ⟨0, .inl rfl⟩
  clocked := by intro k hk; cases hk; decide +kernel
  free := by decide +kernel
  slot := rfl
  here := rfl
  traps := by decide +kernel
  noBrk := by decide +kernel
  ready := by decide +kernel
  awake := rfl
  fresh := rfl

/-- An address that an entry of the caches serves is translated without a walk, and nothing changes. -/
theorem translate_of_hit {s : State} {p : Port} {conf : Bool} {pasid : BitVec 20} {va : Addr} {acc : BitVec 4} {e : TlbEntry}
    (hp : p ≠ .lfe) (hit : s.tlbFind p pasid va acc = some e) (hkey : s.keyAllowed conf pasid (e.translate va) = true) :
    s.translate p conf pasid va acc = .ok (e.translate va) s := by
  cases p with
  | lfe => exact absurd rfl hp
  | tile t => simp only [State.translate, hit, hkey, if_true]
  | lookup n => simp only [State.translate, hit, hkey, if_true]

theorem farFetch_syllable : SyllableAt { farFetch with issue := {} } nopWord { farFetch with issue := {} } :=
  ⟨_, translate_of_hit (e := { lowPage 0 with pa := physAddr 0 0x10000000000 }) (by decide) (by decide +kernel)
    (by decide +kernel), by decide +kernel, by decide +kernel⟩

theorem farFetch_noBreak : NoBreak { farFetch with issue := {} } farFetch.ctx.pc := by
  unfold NoBreak
  decide +kernel

theorem nopWord_decodes : nopWord.getLsbD 63 = true ∧ decodeSyllable nopWord = some .nop
    ∧ slotOf (syllableClass nopWord) none = some .db := by decide +kernel

/-- The step has sent the counter's packet. -/
theorem farFetch_step_sends : waitingPackets (step farFetch) = 1 := by decide +kernel

/-- `NOP` itself, run from the state after the translation, sends none. -/
theorem farFetch_nop_sends_nothing :
    waitingPackets (timed (exec .nop { farFetch with issue := { len := 1, slot := Slot.db.rank } })) = 0 := by decide +kernel

/-- Refutes O5: a fetch from far memory with the counters on sends a counter packet, which running the instruction from the
state of the translation does not. -/
theorem not_stepsRunWhatIsDecoded : ¬ Obligations.StepsRunWhatIsDecoded := by
  rintro ⟨hruns, -⟩
  obtain ⟨hE, hdec, hslot⟩ := nopWord_decodes
  have h := hruns farFetch _ nopWord .nop .db farFetch_issuing farFetch_syllable farFetch_noBreak hE hdec hslot
  have hcount := congrArg waitingPackets h
  rw [farFetch_step_sends, farFetch_nop_sends_nothing] at hcount
  exact absurd hcount (by decide)

end Sys2Proof.Proofs.Package

/-!
O53. The power governor of a tile (R17 to R19) and the lease of its matrix array (R124, R196).
-/

namespace Sys2Proof.Proofs.Package

open Sys2Proof Sys2Proof.Machine Sys2Proof.Safety Sys2Proof.Laws

/-! ### The governor -/

/-- The tile that a token goes on to is another one of the die. -/
theorem nextTile_eq (n : Nat) : nextTile n = if n % 128 = 127 then n - 127 else n + 1 := by
  unfold nextTile
  split <;> omega

theorem nextTile_ne (n : Nat) : nextTile n ≠ n := by
  rw [nextTile_eq]
  split <;> omega

/-- A tile whose window is settled at the present cycle. -/
theorem governorWindow_settles {n : Nat} {s : State} (hr : Config.tokenRing = false) (hw : (s.tile n).window < s.cycleWindow) :
    governorWindow n s = s.modTile n (fun x =>
      { x with activeCycles := x.settled s.cycleWindow, window := s.cycleWindow, govStalled := false }) := by
  simp [governorWindow, hr, Nat.not_le.mpr hw]

theorem governorWindow_idle {n : Nat} {s : State} (h : Config.tokenRing = true ∨ s.cycleWindow ≤ (s.tile n).window) :
    governorWindow n s = s := by
  simp only [governorWindow, Bool.or_eq_true, decide_eq_true_eq, h, if_true]

theorem governorStall_idle {n : Nat} {s : State}
    (h : Config.tokenRing = true ∨ (s.tile n).settled s.cycleWindow < Config.budget.toNat + 1) : governorStall n s = s := by
  unfold governorStall
  rcases h with h | h
  · simp [h]
  · simp [Nat.not_le.mpr h]

theorem governorStall_stalls {n : Nat} {s : State} (hr : Config.tokenRing = false)
    (h : Config.budget.toNat + 1 ≤ (s.tile n).settled s.cycleWindow) :
    governorStall n s = s.modTile n (fun x =>
      { x with activeCycles := x.settled s.cycleWindow, window := s.cycleWindow, govStalled := true }) := by
  simp [governorStall, hr, h]

theorem tokenArrival_idle {n : Nat} {s : State} (h : Config.tokenRing = false ∨ (s.tile n).passing = 0) :
    tokenArrival n s = s := by
  unfold tokenArrival
  rcases h with h | h <;> simp [h]

theorem tokenArrival_stays {n : Nat} {s : State} (hr : Config.tokenRing = true) (hp : (s.tile n).passing ≠ 0)
    (ht : (s.tile n).token = false) (hm : s.matrixReady n = true) :
    tokenArrival n s = (s.modTile n (fun x => { x with passing := x.passing - 1 })).modTile n (fun x =>
      { x with token := true, tokenAt := s.cycle, burst := x.lease.held }) := by
  simp [tokenArrival, hr, hp, ht, hm]

theorem tokenArrival_goesOn {n : Nat} {s : State} (hr : Config.tokenRing = true) (hp : (s.tile n).passing ≠ 0)
    (h : (s.tile n).token = true ∨ s.matrixReady n = false) :
    tokenArrival n s = (s.modTile n (fun x => { x with passing := x.passing - 1 })).modTile (nextTile n) (fun x =>
      { x with passing := x.passing + 1 }) := by
  rcases h with h | h <;> simp [tokenArrival, hr, hp, h]

/-- What ends a tile's burst (R19). -/
def BurstEnds (s : State) (n : Nat) : Prop :=
  ((s.tile n).lease.held = false ∧ ((s.tile n).burst = true ∨ s.matrixReady n = false))
    ∨ 1024 ≤ (s.cycle - (s.tile n).tokenAt).toNat

theorem tokenBurstEnd_idle {n : Nat} {s : State}
    (h : Config.tokenRing = false ∨ (s.tile n).token = false ∨ ¬ BurstEnds s n) : tokenBurstEnd n s = s := by
  unfold tokenBurstEnd
  rw [if_neg]
  simp only [Bool.and_eq_true, Bool.or_eq_true, Bool.not_eq_true', decide_eq_true_eq]
  rintro ⟨⟨hr, ht⟩, he⟩
  rcases h with h | h | h
  · simp [h] at hr
  · simp [h] at ht
  · exact h he

theorem tokenBurstEnd_ends {n : Nat} {s : State} (hr : Config.tokenRing = true) (ht : (s.tile n).token = true)
    (he : BurstEnds s n) :
    tokenBurstEnd n s = (s.modTile n (fun x => { x with token := false, burst := false })).modTile (nextTile n) (fun x =>
      { x with passing := x.passing + 1 }) := by
  unfold tokenBurstEnd
  rw [if_pos]
  simpa only [Bool.and_eq_true, Bool.or_eq_true, Bool.not_eq_true', decide_eq_true_eq] using ⟨⟨hr, ht⟩, he⟩

theorem matrixPower : Claims.MatrixPower := by
  intro s n hn _
  simp only [exec_governorWindow, exec_governorBudgetStall, exec_tokenArrival, exec_tokenBurstEnd, execGovernorWindow,
    execGovernorBudgetStall, execTokenArrival, execTokenBurstEnd, hn, Host.Outcome.next.injEq, exists_eq_left',
    Bool.not_eq_true, ← nextTile_eq]
  refine ⟨?_, ?_, ?_, ?_, ?_, ?_, ?_, ?_⟩
  · exact governorWindow_idle
  · intro hr hw
    rw [governorWindow_settles hr hw]
    exact ⟨fun m hm => by simp [hm], by simp [TileState.settled, State.cycleWindow]⟩
  · exact governorStall_idle
  · intro hr hu
    rw [governorStall_stalls hr hu]
    exact ⟨fun m hm => by simp [hm], by simp [TileState.settled, State.cycleWindow]⟩
  · exact tokenArrival_idle
  · intro hr hp
    have hp : (s.tile n).passing ≠ 0 := by omega
    constructor
    · intro ht hm
      rw [tokenArrival_stays hr hp ht hm]
      simp [nextTile_ne]
    · intro h
      rw [tokenArrival_goesOn hr hp h]
      simp [nextTile_ne, (nextTile_ne n).symm]
  · intro hr ht he
    rw [tokenBurstEnd_ends hr ht he]
    simp [nextTile_ne, (nextTile_ne n).symm]
  · exact tokenBurstEnd_idle

/-! ### Whom the lease is granted to -/

/-- The greatest of the values of a list, from `m` on. -/
theorem foldl_max_spec (f : Nat → Nat) (l : List Nat) (m : Nat) :
    m ≤ l.foldl (fun m i => max m (f i)) m ∧ (∀ x ∈ l, f x ≤ l.foldl (fun m i => max m (f i)) m)
      ∧ (l.foldl (fun m i => max m (f i)) m = m ∨ ∃ x ∈ l, f x = l.foldl (fun m i => max m (f i)) m) := by
  induction l generalizing m with
  | nil => simp
  | cons y rest ih =>
    obtain ⟨hm, hall, hat⟩ := ih (max m (f y))
    refine ⟨by simp only [List.foldl_cons]; omega, ?_, ?_⟩
    · intro x hx
      rcases List.mem_cons.mp hx with rfl | hx
      · simp only [List.foldl_cons]; omega
      · exact hall x hx
    · rcases hat with hat | ⟨x, hx, hat⟩
      · rcases Nat.le_total (f y) m with h | h
        · left; simpa [Nat.max_eq_left h] using hat
        · right; exact ⟨y, by simp, by simpa [Nat.max_eq_right h] using hat.symm⟩
      · exact .inr ⟨x, List.mem_cons_of_mem _ hx, hat⟩

/-- The next after `last` of a rising list, or its first. -/
theorem roundRobin_spec {l : List Nat} (hs : l.Pairwise (· < ·)) (hne : l ≠ []) (last : Nat) :
    ∃ i, (l.find? (fun i => decide (last < i))).or l.head? = some i ∧ i ∈ l
      ∧ ∀ j ∈ l, last < j → last < i ∧ i ≤ j := by
  cases hf : l.find? (fun i => decide (last < i)) with
  | none =>
    obtain ⟨i, rest, rfl⟩ := List.exists_cons_of_ne_nil hne
    refine ⟨i, rfl, by simp, fun j hj hlast => ?_⟩
    exact absurd hlast (by simpa using List.find?_eq_none.mp hf j hj)
  | some i =>
    obtain ⟨hi, before, after, rfl, hbefore⟩ := List.find?_eq_some_iff_append.mp hf
    refine ⟨i, rfl, by simp, fun j hj hlast => ⟨by simpa using hi, ?_⟩⟩
    rcases List.mem_append.mp hj with hj | hj
    · exact absurd hlast (by simpa using hbefore j hj)
    · rcases List.mem_cons.mp hj with rfl | hj
      · exact Nat.le_refl _
      · exact Nat.le_of_lt ((List.pairwise_cons.mp (List.pairwise_append.mp hs).2.1).1 j hj)

/-- Sequencer `i` of tile `n` waits for the lease. -/
def WaitsForLease (s : State) (n i : Nat) : Prop := i < 4 ∧ (s.core (4 * n + i)).mat.state = .waitLease

/-- The priority of the region that sequencer `i` of tile `n` works for. -/
def leasePrio (s : State) (n i : Nat) : Nat := (s.core (4 * n + i)).user.id.prio.toNat

/-- Is that region past its share? -/
def leasePast (s : State) (n i : Nat) : Bool := s.overShare n (s.core (4 * n + i)).user.id.region

/-- The sequencers of a tile that wait. -/
def leaseWaiters (s : State) (n : Nat) : List Nat := (List.range 4).filter (fun i => (s.core (4 * n + i)).mat.state == .waitLease)

theorem mem_leaseWaiters {s : State} {n i : Nat} : i ∈ leaseWaiters s n ↔ WaitsForLease s n i := by
  simp [leaseWaiters, WaitsForLease]

/-- The waiters of the highest priority. -/
def leaseTop (s : State) (n : Nat) : List Nat :=
  (leaseWaiters s n).filter (fun i => leasePrio s n i == (leaseWaiters s n).foldl (fun m i => max m (leasePrio s n i)) 0)

theorem mem_leaseTop {s : State} {n i : Nat} :
    i ∈ leaseTop s n ↔ WaitsForLease s n i ∧ ∀ j, WaitsForLease s n j → leasePrio s n j ≤ leasePrio s n i := by
  obtain ⟨-, hall, hat⟩ := foldl_max_spec (leasePrio s n) (leaseWaiters s n) 0
  simp only [leaseTop, List.mem_filter, beq_iff_eq, mem_leaseWaiters]
  refine and_congr_right fun hi => ⟨fun h j hj => h ▸ hall j (mem_leaseWaiters.mpr hj), fun h => ?_⟩
  apply Nat.le_antisymm (hall i (mem_leaseWaiters.mpr hi))
  rcases hat with hat | ⟨x, hx, hat⟩
  · rw [hat]; exact Nat.zero_le _
  · rw [← hat]; exact h x (mem_leaseWaiters.mp hx)

theorem leaseTop_ne_nil {s : State} {n i : Nat} (hi : WaitsForLease s n i) : leaseTop s n ≠ [] := by
  obtain ⟨-, hall, hat⟩ := foldl_max_spec (leasePrio s n) (leaseWaiters s n) 0
  have hi := mem_leaseWaiters.mpr hi
  rcases hat with hat | ⟨x, hx, hat⟩
  · exact List.ne_nil_of_mem (List.mem_filter.mpr ⟨hi, by have := hall i hi; simp only [beq_iff_eq]; omega⟩)
  · exact List.ne_nil_of_mem (List.mem_filter.mpr ⟨hx, by simpa using hat⟩)

/-- Of the waiters of the highest priority, those within their share, or all where none is. -/
def leasePick (s : State) (n : Nat) : List Nat :=
  let under := (leaseTop s n).filter (fun i => !leasePast s n i)
  if under = [] then leaseTop s n else under

theorem leaseTo_eq (s : State) (n : Nat) : s.leaseTo n =
    ((leasePick s n).find? (fun i => decide ((s.tile n).lease.lastHolder.toNat < i))).or (leasePick s n).head? := rfl

/-- Who is picked is of the highest priority, and past the share only where every such waiter is; and the waiters of its
priority on its side of the share are picked with it. -/
theorem mem_leasePick {s : State} {n i : Nat} (hi : i ∈ leasePick s n) :
    i ∈ leaseTop s n ∧ ∀ j ∈ leaseTop s n, (leasePast s n j = false → leasePast s n i = false)
      ∧ (leasePast s n j = leasePast s n i → j ∈ leasePick s n) := by
  unfold leasePick at hi ⊢
  by_cases hu : (leaseTop s n).filter (fun i => !leasePast s n i) = []
  · simp only [hu, if_true] at hi ⊢
    refine ⟨hi, fun j hj => ⟨fun h => ?_, fun _ => hj⟩⟩
    exact absurd (List.filter_eq_nil_iff.mp hu j hj) (by simp [h])
  · simp only [hu, if_false, List.mem_filter, Bool.not_eq_true'] at hi ⊢
    exact ⟨hi.1, fun j hj => ⟨fun _ => hi.2, fun h => ⟨hj, h.trans hi.2⟩⟩⟩

theorem leasePick_ne_nil {s : State} {n i : Nat} (hi : WaitsForLease s n i) : leasePick s n ≠ [] := by
  unfold leasePick
  by_cases hu : (leaseTop s n).filter (fun i => !leasePast s n i) = []
  · simpa [hu] using leaseTop_ne_nil hi
  · simp [hu]

theorem leasePick_rises (s : State) (n : Nat) : (leasePick s n).Pairwise (· < ·) := by
  have h : (leaseTop s n).Pairwise (· < ·) := (List.pairwise_lt_range.filter _).filter _
  unfold leasePick
  by_cases hu : (leaseTop s n).filter (fun i => !leasePast s n i) = []
  · simpa [hu] using h
  · simpa [hu] using h.filter _

/-- The lease goes to nobody where nobody waits. -/
theorem leaseTo_none {s : State} {n : Nat} (h : ∀ i, ¬ WaitsForLease s n i) : s.leaseTo n = none := by
  have hnil : leaseTop s n = [] := List.eq_nil_iff_forall_not_mem.mpr fun i hi => h i (mem_leaseTop.mp hi).1
  simp [leaseTo_eq, leasePick, hnil]

/-- The lease goes to a waiter of the highest priority; of those one within its share before others, and round-robin (R124). -/
theorem leaseTo_spec {s : State} {n : Nat} (h : ∃ i, WaitsForLease s n i) : ∃ i, s.leaseTo n = some i ∧ WaitsForLease s n i
    ∧ ∀ j, WaitsForLease s n j → leasePrio s n j ≤ leasePrio s n i
      ∧ (leasePrio s n j = leasePrio s n i → leasePast s n j = false → leasePast s n i = false)
      ∧ (leasePrio s n j = leasePrio s n i → leasePast s n j = leasePast s n i →
          (s.tile n).lease.lastHolder.toNat < j → (s.tile n).lease.lastHolder.toNat < i ∧ i ≤ j) := by
  obtain ⟨w, hw⟩ := h
  obtain ⟨i, heq, hi, hnext⟩ := roundRobin_spec (leasePick_rises s n) (leasePick_ne_nil hw) (s.tile n).lease.lastHolder.toNat
  obtain ⟨hitop, hsame⟩ := mem_leasePick hi
  obtain ⟨hwaits, hmax⟩ := mem_leaseTop.mp hitop
  refine ⟨i, heq, hwaits, fun j hj => ?_⟩
  have htop (hp : leasePrio s n j = leasePrio s n i) : j ∈ leaseTop s n :=
    mem_leaseTop.mpr ⟨hj, fun x hx => hp ▸ hmax x hx⟩
  exact ⟨hmax j hj, fun hp => (hsame j (htop hp)).1, fun hp hpast => hnext j ((hsame j (htop hp)).2 hpast)⟩

/-! ### The lease's happenings -/

/-- In token-ring mode a tile without a token, or whose burst has had its lease, is granted none (R19). -/
def LeaseBarred (s : State) (n : Nat) : Prop :=
  Config.tokenRing = true ∧ ((s.tile n).token = false ∨ (s.tile n).burst = true)

theorem leaseGrant_idle {s : State} {n : Nat}
    (h : (s.tile n).lease.held = true ∨ LeaseBarred s n ∨ s.leaseTo n = none) : leaseGrant n s = s := by
  unfold leaseGrant
  by_cases hc : ((s.tile n).lease.held || (Config.tokenRing && (!(s.tile n).token || (s.tile n).burst))) = true
  · rw [if_pos hc]
  · rw [if_neg hc]
    simp only [Bool.or_eq_true, Bool.and_eq_true, Bool.not_eq_true', not_or] at hc
    rcases h with h | h | h
    · exact absurd h hc.1
    · exact absurd h hc.2
    · simp only [h]

/-- The state in which sequencer `i` of tile `n` holds the lease. -/
def leaseGranted (s : State) (n i : Nat) : State :=
  let u := (s.modTile n (fun x => { x with burst := x.token })).modLease n (fun l =>
    { l.noWait i s.cycle with held := true, holder := BitVec.ofNat 2 i, words := 0, since := s.cycle })
  u.setEngine (4 * n + i) false { u.engine (4 * n + i) false with state := .running }

theorem leaseGrant_grants {s : State} {n i : Nat} (hl : (s.tile n).lease.held = false) (hb : ¬ LeaseBarred s n)
    (hto : s.leaseTo n = some i) : leaseGrant n s = leaseGranted s n i := by
  unfold leaseGrant
  rw [if_neg]
  · simp only [hto]; rfl
  · simp only [hl, Bool.or_eq_true, Bool.and_eq_true, Bool.not_eq_true', Bool.false_eq_true, false_or]
    exact hb

theorem leaseLimit_idle {s : State} {n : Nat}
    (h : (s.tile n).lease.held = false ∨ (s.cycle - (s.tile n).lease.since).toNat < 1024) : leaseLimit n s = s := by
  unfold leaseLimit
  rw [if_neg]
  simp only [Bool.and_eq_true, decide_eq_true_eq]
  rintro ⟨hheld, hlong⟩
  rcases h with h | h
  · simp [h] at hheld
  · omega

/-- The state in which the lease of tile `n` has ended. -/
def leaseEnded (s : State) (n : Nat) : State :=
  s.modLease n (fun l => l.finish (s.core (4 * n + (s.tile n).lease.holder.toNat)).user.id.region s.cycle)

theorem leaseLimit_ends {s : State} {n : Nat} (hl : (s.tile n).lease.held = true)
    (ht : 1024 ≤ (s.cycle - (s.tile n).lease.since).toNat) :
    let e := s.engine (4 * n + (s.tile n).lease.holder.toNat) false
    leaseLimit n s = if e.inWord.isSome && e.inArray then
      (leaseEnded s n).awaitLease (4 * n + (s.tile n).lease.holder.toNat) else leaseEnded s n := by
  simp only [leaseLimit, hl, ht, decide_true, Bool.and_self, if_true]
  rfl

theorem leaseLimit_lease {s : State} {n : Nat} (hl : (s.tile n).lease.held = true)
    (ht : 1024 ≤ (s.cycle - (s.tile n).lease.since).toNat) :
    ((leaseLimit n s).tile n).lease.held = false
      ∧ ((leaseLimit n s).tile n).lease.lastHolder = (s.tile n).lease.holder := by
  rw [leaseLimit_ends hl ht]
  split
  · obtain ⟨h1, -, h3⟩ := awaitLease_lease (leaseEnded s n) (4 * n + (s.tile n).lease.holder.toNat) n
    rw [h1, h3]
    simp [leaseEnded, finish_lastHolder hl]
  · simp [leaseEnded, finish_lastHolder hl]

theorem leaseTurns : Claims.LeaseTurns := by
  intro s n hn
  simp only [exec_leaseGrant, exec_leaseCycleLimit, execLeaseGrant, execLeaseCycleLimit, hn, Host.Outcome.next.injEq]
  refine ⟨?_, ?_, ?_, ?_, ?_, ?_, ?_⟩
  · exact fun h => leaseGrant_idle (.inl h)
  · exact fun h => leaseGrant_idle (.inr (.inr (leaseTo_none h)))
  · exact fun h => leaseGrant_idle (.inr (.inl h))
  · intro hl hb hw
    obtain ⟨i, hto, hwi, hbest⟩ := leaseTo_spec hw
    refine ⟨_, i, leaseGrant_grants hl hb hto, hwi, ?_, ?_, ?_, ?_, ?_, ?_, ?_, rfl, hbest⟩
    · simp [leaseGranted]
    · simp [leaseGranted]
    · simp [leaseGranted]
    · simp [leaseGranted]
    · simp [leaseGranted]
    · simp [leaseGranted, setEngine_core, State.engine]
    · intro j hj; simp [leaseGranted, setEngine_core, hj]
  · intro hl ht
    obtain ⟨h1, h2⟩ := leaseLimit_lease hl ht
    refine ⟨_, rfl, h1, h2, fun hw ha => ?_⟩
    rw [leaseLimit_ends hl ht]
    simp [hw, ha, leaseEnded]
  · exact fun h => leaseLimit_idle (.inl h)
  · exact fun h => leaseLimit_idle (.inr h)

/-- Settles O53: each happening in one equation per case, and the choice of the next holder by priority, share and turn. -/
theorem powerAndLeases : Obligations.PowerAndLeases := ⟨matrixPower, leaseTurns⟩

end Sys2Proof.Proofs.Package

/-!
O52. Idle and wake (R98 to R100), the service ports (R24, R55, R56) and the seal (R31, R136, R161, R162).
-/

namespace Sys2Proof.Proofs.Package

open Sys2Proof Sys2Proof.Machine Sys2Proof.Safety Sys2Proof.Laws

/-! ### Idle and wake -/

/-- What has to hold for the package to go idle on EN (R98). -/
def IdleDue (s : State) : Prop :=
  s.mgmt.idle = .running ∧ s.mgmt.idleEn = true ∧ s.hasWork = false
    ∧ 1000 * s.mgmt.idleDelay.toNat ≤ (s.ptime - s.mgmt.quietAt).toNat

theorem idleDelayExpiry_due {s : State} (h : IdleDue s) : idleDelayExpiry s = s.idleTo .entering := by
  obtain ⟨hrun, hen, hwork, hdelay⟩ := h
  simp only [idleDelayExpiry, hrun, hen, hwork, hdelay, beq_self_eq_true, Bool.not_false, decide_true, Bool.and_self, if_true]

theorem idleDelayExpiry_early {s : State} (h : ¬ IdleDue s) : idleDelayExpiry s = s := by
  unfold idleDelayExpiry
  rw [if_neg]
  simp only [Bool.and_eq_true, beq_iff_eq, Bool.not_eq_true', decide_eq_true_eq]
  rintro ⟨⟨⟨hrun, hen⟩, hwork⟩, hdelay⟩
  exact h ⟨hrun, hen, hwork, hdelay⟩

theorem idleNow_goes {s : State} (hr : s.regions = []) (hi : s.mgmt.idle = .running) : idleNow s = s.idleTo .entering := by
  simp [idleNow, hr, hi]

theorem idleNow_ignored {s : State} (h : s.regions ≠ [] ∨ s.mgmt.idle ≠ .running) : idleNow s = s := by
  rcases h with h | h <;> simp [idleNow, h]

theorem idleAndWake : Claims.IdleAndWake := by
  intro s
  simp only [exec_idleNow, exec_idleDelayExpiry, exec_idleEntered, exec_idlectlWakeWrite, exec_wakeComplete, execIdleNow,
    execIdleDelayExpiry, execIdleEntered, execIdlectlWakeWrite, execWakeComplete, Host.Outcome.next.injEq, exists_eq_left']
  refine ⟨idleNow_goes, idleNow_ignored, ?_, ?_, ?_, ?_, ?_⟩
  · exact fun hrun hen hwork hdelay => idleDelayExpiry_due ⟨hrun, hen, hwork, hdelay⟩
  · intro h
    apply idleDelayExpiry_early
    rintro ⟨hrun, hen, hwork, hdelay⟩
    rcases h with h | h | h | h
    · exact h hrun
    · simp [h] at hen
    · simp [h] at hwork
    · omega
  · intro h
    simp [idleEntered, h, State.coreGated]
  · intro h hv
    have hwakes : idlectlWakeWrite s.inp.value s = s.wakeAll 3 := by
      simp only [idlectlWakeWrite, h, hv, beq_self_eq_true, Bool.not_false, Bool.and_self, if_true]
    simp only [hwakes, State.wakeAll, h, and_self]
  · intro h hk
    simp [wakeComplete, h, hk, State.idleTo]

/-! ### The seal's keys -/

/-- A write of a byte leaves the other bytes, and the canonical form. -/
theorem setByte_keeps {s t : State} {a b : Nat} (v : Byte) (hb : b ≠ a) (h : MemInv t ∧ t.byte b = s.byte b) :
    MemInv (t.setByte a v) ∧ (t.setByte a v).byte b = s.byte b :=
  ⟨setByte_wf t a v h.1, by rw [← h.2]; simp [State.byte, read_write a b v h.1, hb]⟩

/-- A new key changes data only in the units last written under its key ID (R162). -/
theorem newKey_byte {s : State} {kid : BitVec 8} {a : Nat} (hm : MemInv s)
    (h : ∀ e ∈ s.unitKey, e.2 = kid → e.1 ≠ a / 64) : (newKey s kid).byte a = s.byte a := by
  have hkeeps : MemInv (newKey s kid) ∧ (newKey s kid).byte a = s.byte a := by
    unfold newKey
    refine List.foldlRecOn (motive := fun t => MemInv t ∧ t.byte a = s.byte a) _ _ ⟨hm, rfl⟩ fun t ht u hu => ?_
    refine List.foldlRecOn (motive := fun t => MemInv t ∧ t.byte a = s.byte a) _ _ ht fun v hv i hi => setByte_keeps _ ?_ hv
    have hne : u ≠ a / 64 := by
      obtain ⟨e, he, rfl⟩ := List.mem_map.mp hu
      obtain ⟨he, hk⟩ := List.mem_filter.mp he
      exact h e he (by simpa using hk)
    have hi := List.mem_range.mp hi
    omega
  exact hkeeps.2

@[simp] theorem newKey_security (s : State) (kid : BitVec 8) : (newKey s kid).security = s.security := by
  unfold newKey
  refine List.foldlRecOn (motive := fun t : State => t.security = s.security) _ _ rfl fun t ht u _ => ?_
  exact List.foldlRecOn (motive := fun t : State => t.security = s.security) _ _ ht fun v hv i _ => hv

theorem sealKeyInstall_next (s : State) (kid : BitVec 8) (h : s.inp.n = kid.toNat) : exec .sealKeyInstall s =
    .next (sealKey kid s.inp.flag (if s.inp.m = 1 then some s.inp.pasid else none) s) := by
  simp [execSealKeyInstall, h]

theorem sealKey_installed {s : State} {kid : BitVec 8} (tenant : Option (BitVec 20)) (hk : kid ≠ 0) :
    Assoc.get false (sealKey kid true tenant s).security.keys kid.toNat = true
      ∧ (∀ p, tenant = some p → Assoc.get 0 (sealKey kid true tenant s).security.tenants p.toNat = kid)
      ∧ (sealKey kid true tenant s).mem = (newKey s kid).mem := by
  simp only [sealKey, hk, if_false, if_true, Assoc.get_set_same, true_and, and_true]
  rintro p rfl
  simp

theorem sealKey_removed {s : State} {kid : BitVec 8} (tenant : Option (BitVec 20)) (hk : kid ≠ 0) :
    Assoc.get false (sealKey kid false tenant s).security.keys kid.toNat = false
      ∧ (sealKey kid false tenant s).mem = s.mem := by
  simp only [sealKey, hk, if_false, Bool.false_eq_true, get_erase, if_true, and_self]

/-! ### The service ports -/

/-- A service command leaves no record of the step it names, in the journal or among the latest (R24). -/
theorem i3cService_clears (n i : Nat) (s : State) : (i3cService n i s).latest n i = none
    ∧ ∀ e ∈ (i3cService n i s).boot.journal, ¬ (e.2.step.toNat = n ∧ e.2.inst.toNat = i) := by
  refine ⟨find?_erase_same _ _, fun e he => ?_⟩
  simpa [imp_iff_not_or] using (List.mem_filter.mp he).2

theorem serviceAndSeal : Claims.ServiceAndSeal := by
  intro s
  refine ⟨?_, ?_, ?_, ?_, ?_, ?_, ?_, ?_, ?_, ?_⟩
  · intro n r hq hr
    simp [execI3cRequest, i3cRequest, hq, hr, State.answerOutside]
  · intro hq
    simp [execI3cRequest, i3cRequest, hq, State.answerOutside]
  · intro hq
    simp [execI3cRequest, i3cRequest, hq, State.answerOutside]
  · obtain ⟨hlatest, hjournal⟩ := i3cService_clears s.inp.n s.inp.m s
    exact ⟨_, rfl, rfl, hlatest, hjournal, rfl⟩
  · intro h
    have hadmitted : (s.inp.n < jtagDebug || (s.inp.n == jtagDebug && s.mgmt.debugOpen)) = true := by
      rcases h with h | ⟨h, hopen⟩ <;> simp [jtagDebug, *]
    simp only [exec_jtagInstruction, execJtagInstruction, jtagInstruction, hadmitted, if_true]
  · intro h
    have hrefused : (s.inp.n < jtagDebug || (s.inp.n == jtagDebug && s.mgmt.debugOpen)) = false := by
      rcases h with h | ⟨h, hshut⟩
      · have hlt : ¬ s.inp.n < jtagDebug := by simp only [jtagDebug]; omega
        have hne : s.inp.n ≠ jtagDebug := by simp only [jtagDebug]; omega
        simp [hlt, hne]
      · simp [jtagDebug, h, hshut]
    simp only [exec_jtagInstruction, execJtagInstruction, jtagInstruction, hrefused, Bool.false_eq_true, if_false]
  · exact ⟨_, rfl, rfl, rfl⟩
  · intro kid hn
    simp only [sealKeyInstall_next s kid hn, Host.Outcome.next.injEq, exists_eq_left']
    refine ⟨fun hk => by simp only [sealKey, hk, if_true], fun hk hf => ?_, fun hk hf => ?_⟩
    · obtain ⟨hkeys, htenant, hmem⟩ := sealKey_installed (s := s) (if s.inp.m = 1 then some s.inp.pasid else none) hk
      rw [hf]
      refine ⟨hkeys, fun hm => htenant _ (by simp [hm]), fun a ha hinv => ?_⟩
      rw [← newKey_byte hinv ha, State.byte, hmem, State.byte]
    · rw [hf]
      exact sealKey_removed _ hk
  · exact ⟨_, rfl, find?_set_same _ _ _⟩
  · exact ⟨_, rfl, rfl⟩

/-- Settles O52: idle and wake by the conditions of each happening, a new key by the units it rewrites. -/
theorem idleAndService : Obligations.IdleAndService := ⟨idleAndWake, serviceAndSeal⟩

end Sys2Proof.Proofs.Package

/-!
O50. Bring-up with its journal and policies (R22 to R26), the thermal table and the core clock (R15).
-/

namespace Sys2Proof.Proofs.Package

open Sys2Proof Sys2Proof.Machine Sys2Proof.Safety Sys2Proof.Laws

/-! ### Bits -/

theorem getLsbD_bitOn {w : Nat} (b : BitVec w) (i j : Nat) : (bitOn b i).getLsbD j = (b.getLsbD j || decide (j = i ∧ j < w)) := by
  have h : (1#w <<< i).getLsbD j = decide (j = i ∧ j < w) := by
    rw [BitVec.getLsbD_shiftLeft, BitVec.getLsbD_one]
    by_cases hj : j = i
    · subst hj; by_cases hw : j < w <;> simp [hw]; omega
    · by_cases hi : j < i
      · simp [hi, hj]
      · have : j - i ≠ 0 := by omega
        simp [this, hj]
  rw [bitOn, BitVec.getLsbD_or, h]

theorem getLsbD_bitOff {w : Nat} (b : BitVec w) (i j : Nat) : (bitOff b i).getLsbD j = (b.getLsbD j && decide (j ≠ i)) := by
  have h : (1#w <<< i).getLsbD j = decide (j = i ∧ j < w) := by simpa [bitOn] using getLsbD_bitOn 0#w i j
  rw [bitOff, BitVec.getLsbD_and, BitVec.getLsbD_not, h]
  by_cases hw : j < w
  · by_cases hj : j = i <;> simp [hw, hj]
  · rw [BitVec.getLsbD_of_ge b j (by omega)]; rfl

theorem bitOn_same {w : Nat} (b : BitVec w) {i : Nat} (h : i < w) : (bitOn b i).getLsbD i = true := by
  simp [getLsbD_bitOn, h]

@[simp] theorem bitOff_zero {w : Nat} (i : Nat) : bitOff (0 : BitVec w) i = 0 := by
  apply BitVec.eq_of_getLsbD_eq
  intro j _
  simp [getLsbD_bitOff]

theorem getLsbD_foldl_bitOn {w : Nat} (l : List Nat) (b : BitVec w) (j : Nat) :
    (l.foldl (fun b i => bitOn b i) b).getLsbD j = (b.getLsbD j || decide (j ∈ l ∧ j < w)) := by
  induction l generalizing b with
  | nil => simp
  | cons i rest ih =>
    rw [List.foldl_cons, ih, getLsbD_bitOn, Bool.or_assoc]
    congr 1
    by_cases hj : j = i <;> by_cases hw : j < w <;> simp [hj, hw]

/-! ### Between the steps of bring-up -/

/-- Bring-up stays where it is: it has halted, is at its last step, or has things of its step still to end. -/
theorem advance_stays {s : State} (h : s.boot.halted = true ∨ 6 ≤ s.boot.stepNow ∨ s.boot.done.length < stepCount s.boot.stepNow)
    (f : Nat) : advance f s = s := by
  cases f with
  | zero => rfl
  | succ f =>
    rw [advance, if_pos]
    simpa [or_assoc] using h

/-- What the policy of every thing of a step keeps, and the beginning of a step, its entry keeps. -/
theorem enterStep_keeps {P : State → Prop} {n : Nat} (hpolicy : ∀ t i, P t → P (applyPolicy n i t))
    (hbegin : ∀ t : State, P t → P { t with boot := { t.boot with stepNow := n, done := [] } }) (s : State) (h : P s) :
    P (enterStep n s) :=
  List.foldlRecOn (motive := P) _ _ (hbegin s h) fun t ht i _ => hpolicy t i ht

/-- What the later steps' policies and beginnings keep, going on through the steps keeps. -/
theorem advance_keeps {P : State → Prop} (hpolicy : ∀ t n i, 1 ≤ n → P t → P (applyPolicy n i t))
    (hbegin : ∀ (t : State) n, P t → P { t with boot := { t.boot with stepNow := n, done := [] } }) (f : Nat) (s : State) (h : P s) :
    P (advance f s) := by
  induction f generalizing s with
  | zero => exact h
  | succ f ih =>
    rw [advance]
    split
    · exact h
    · exact ih _ (enterStep_keeps (fun t i => hpolicy t _ i (by omega)) (fun t => hbegin t _) s h)

/-- Where nothing has been recorded of a thing, its policy leaves everything, or passes it over because its unit is out. -/
theorem applyPolicy_unrecorded {s : State} {n i : Nat} (h : s.latest n i = none) :
    applyPolicy n i s = s ∨ applyPolicy n i s = s.markDone i := by
  unfold applyPolicy
  by_cases hh : s.boot.halted = true
  · exact .inl (by rw [if_pos hh])
  · by_cases ho : s.instanceOut n i = true
    · exact .inr (by rw [if_neg hh, if_pos ho])
    · exact .inl (by rw [if_neg hh, if_neg ho, h])

/-! ### What leaving service keeps -/

/-- Two states have the same journal and stand at the same place of the same start. -/
def SameStart (s t : State) : Prop :=
  t.boot.journal = s.boot.journal ∧ t.boot.done = s.boot.done ∧ t.boot.stepNow = s.boot.stepNow ∧ t.boot.starts = s.boot.starts
    ∧ t.boot.off = s.boot.off ∧ t.boot.osready = s.boot.osready ∧ t.boot.alldone = s.boot.alldone ∧ t.mem = s.mem
    ∧ (s.boot.tiles = 0 → t.boot.tiles = 0) ∧ (s.boot.meshUp = 0 → t.boot.meshUp = 0)

theorem SameStart.refl (s : State) : SameStart s s := ⟨rfl, rfl, rfl, rfl, rfl, rfl, rfl, rfl, id, id⟩

theorem SameStart.trans {s t u : State} (h : SameStart s t) (h' : SameStart t u) : SameStart s u := by
  obtain ⟨h1, h2, h3, h4, h5, h6, h7, h8, h9, h10⟩ := h
  obtain ⟨k1, k2, k3, k4, k5, k6, k7, k8, k9, k10⟩ := h'
  exact ⟨k1.trans h1, k2.trans h2, k3.trans h3, k4.trans h4, k5.trans h5, k6.trans h6, k7.trans h7, k8.trans h8, k9 ∘ h9, k10 ∘ h10⟩

theorem clearDie_sameStart (s : State) (d : Nat) : SameStart s (s.clearDie d) := by
  refine ⟨rfl, rfl, rfl, rfl, rfl, rfl, rfl, rfl, fun h => ?_, fun h => ?_⟩
  · simp only [State.clearDie, h]
    exact List.foldlRecOn (motive := fun v : BitVec 256 => v = 0) _ _ rfl fun v hv i _ => by rw [hv, bitOff_zero]
  · simp only [State.clearDie, h, bitOff_zero]

theorem eraseUnit_sameStart (s : State) (u : FenceUnit) : SameStart s (s.eraseUnit u) :=
  ⟨rfl, rfl, rfl, rfl, rfl, rfl, rfl, rfl, id, id⟩

theorem outDie_sameStart (s : State) (d : Nat) : SameStart s (s.outDie d) := by
  unfold State.outDie
  exact List.foldlRecOn (motive := fun t => SameStart s t) _ _ (SameStart.refl s) fun t ht x _ =>
    (ht.trans (clearDie_sameStart t x)).trans (eraseUnit_sameStart _ _)

theorem outInstance_sameStart (s : State) (n i : Nat) (detail : BitVec 16) : SameStart s (s.outInstance n i detail) := by
  unfold State.outInstance
  split
  · exact SameStart.refl s
  · split
    · exact outDie_sameStart s _
    · exact SameStart.refl s
  · exact outDie_sameStart s _
  · exact SameStart.refl s
  · exact SameStart.refl s
  · exact SameStart.refl s

theorem haltCheck_sameStart (s : State) : SameStart s s.haltCheck := by
  unfold State.haltCheck
  simp only
  split <;> exact SameStart.refl s

@[simp] theorem haltCheck_fences (s : State) : s.haltCheck.fences = s.fences := by
  unfold State.haltCheck
  simp only
  split <;> rfl

/-! ### Power-on -/

/-- A start of which nothing has come up yet: its number is `n`. -/
def Starting (n : Word) (s : State) : Prop :=
  s.boot.starts = n ∧ s.mem = [] ∧ s.boot.off = false ∧ s.boot.osready = false ∧ s.boot.alldone = false ∧ s.boot.tiles = 0
    ∧ s.boot.meshUp = 0

theorem SameStart.starting {n : Word} {s t : State} (h : SameStart s t) (hs : Starting n s) : Starting n t := by
  obtain ⟨-, -, -, h4, h5, h6, h7, h8, h9, h10⟩ := h
  obtain ⟨k1, k2, k3, k4, k5, k6, k7⟩ := hs
  exact ⟨h4.trans k1, h8.trans k2, h5.trans k3, h6.trans k4, h7.trans k5, h9 k6, h10 k7⟩

theorem applyPolicy_starting {w : Word} (n i : Nat) (s : State) (h : Starting w s) : Starting w (applyPolicy n i s) := by
  have hfence (outcome policy attempt : Byte) (detail : BitVec 16) : Starting w
      ((({ s.outInstance n i detail with boot := { (s.outInstance n i detail).boot with replreq := true } } : State).journalPut
        (BitVec.ofNat 8 n) outcome i policy attempt detail).markDone i).haltCheck :=
    (haltCheck_sameStart _).starting ((outInstance_sameStart s n i detail).starting h)
  unfold applyPolicy
  split
  · exact h
  · split
    · exact h
    · split
      · exact h
      · simp only
        split
        · exact h
        · split
          · exact hfence 3 3 _ _
          · split
            · exact hfence 4 2 _ _
            · exact h

theorem powerOn_starting (s : State) : Starting (s.boot.starts + 1) (powerOn s) :=
  advance_keeps (fun t n i _ => applyPolicy_starting n i t) (fun _ _ h => h) _ _
    (enterStep_keeps (fun t i => applyPolicy_starting 0 i t) (fun _ h => h) _ ⟨rfl, rfl, rfl, rfl, rfl, rfl, rfl⟩)

/-- The state in which a first start begins. -/
def firstStart (s : State) : State :=
  { State.reset with
    fresh := s.fresh, sched := s.sched, cur := s.cur
    boot := { journal := s.boot.journal, next := s.boot.next, latest := s.boot.latest, starts := s.boot.starts + 1
              replreq := s.boot.replreq } }

theorem powerOn_first {s : State} (h : s.boot.latest = []) : powerOn s = firstStart s := by
  have hpolicy : applyPolicy 0 0 (firstStart s) = firstStart s := by
    have hnone : (firstStart s).latest 0 0 = none := by simp [State.latest, firstStart, h, Assoc.find?]
    simp only [applyPolicy, hnone]
    rfl
  have henter : enterStep 0 (firstStart s) = firstStart s := hpolicy
  have hpower : powerOn s = advance 7 (enterStep 0 (firstStart s)) := rfl
  rw [hpower, henter, advance_stays]
  exact .inr (.inr Nat.zero_lt_one)

theorem firstStart_readymap (s : State) : (firstStart s).readymap = BitVec.ofBool s.boot.replreq ++ 0#63 := by
  have h : ∀ b, BitVec.ofBool b ++ (BitVec.ofBool false ++ (0#38 ++ (BitVec.ofBool false ++ (0#4 ++ (0#2 ++ (0#12 ++ (0#4
      ++ BitVec.ofBool false))))))) = BitVec.ofBool b ++ 0#63 := by decide
  exact h s.boot.replreq

/-! ### The end of a step's thing -/

/-- Thing `i` of step `n` is awaited: it is of the step in progress and has not ended. -/
structure Awaited (s : State) (n i : Nat) : Prop where
  now : s.boot.stepNow = n
  one : i < stepCount n
  goes : s.boot.halted = false
  fresh : s.boot.done.contains i = false
  more : s.boot.alldone = false

/-- The journal's record of an attempt at thing `i` of step `n`. -/
def Recorded (s t : State) (n i : Nat) (outcome policy : Byte) : Prop :=
  ∃ a : JournalRec, Assoc.find? t.boot.journal s.boot.next.toNat = some a ∧ a.time = s.ptime ∧ a.step.toNat = n ∧ a.inst.toNat = i
    ∧ a.outcome = outcome ∧ a.policy = policy ∧ a.detail = s.inp.value.extractLsb' 0 16 ∧ a.start = s.boot.starts

theorem stepCount_small {n i : Nat} (h : i < stepCount n) : n < 7 ∧ i < 256 := by
  unfold stepCount at h
  split at h <;> omega

/-- A record written has its place in the journal. -/
theorem journalPut_recorded {s t : State} {n i : Nat} (h : i < stepCount n) (outcome policy attempt : Byte)
    (hj : t.boot.journal = (s.journalPut (BitVec.ofNat 8 n) outcome i policy attempt (s.inp.value.extractLsb' 0 16)).boot.journal) :
    Recorded s t n i outcome policy := by
  obtain ⟨hn, hi⟩ := stepCount_small h
  refine ⟨_, by rw [hj]; exact find?_set_same _ _ _, rfl, ?_, ?_, rfl, rfl, rfl, rfl⟩
  · simp only [BitVec.toNat_ofNat]; omega
  · simp only [BitVec.toNat_ofNat]; omega

/-- The alternative is in force for thing `i` of step `n` (R24). -/
def altNow (s : State) (n i : Nat) : Bool := match s.latest n i with | some r => r.altered | none => false

/-- The number of an attempt. -/
def attemptNow (s : State) (n i : Nat) : Byte :=
  match s.latest n i with | some r => if r.outcome == 1 then r.attempt + 1 else 1 | none => 1

/-- The state in which thing `i` of step `n` has passed. -/
def passedState (s : State) (n i : Nat) (byte : Byte) : State :=
  (passStep n i (altNow s n i) byte (s.journalPut (BitVec.ofNat 8 n) (if altNow s n i then 2 else 0) i 0 (attemptNow s n i)
    (s.inp.value.extractLsb' 0 16))).markDone i

/-- The state in which thing `i` of step `n` has failed. -/
def failedState (s : State) (n i : Nat) : State :=
  let t := ((s.journalPut (BitVec.ofNat 8 n) 1 i (nextPolicy n (s.latest n i)) (attemptNow s n i)
    (s.inp.value.extractLsb' 0 16)).outInstance n i (s.inp.value.extractLsb' 0 16)).haltCheck
  (if n = 0 || n = 6 then { t with boot := { t.boot with halted := true } } else t).markDone i

section Ends

variable {s : State} {n i : Nat}

theorem Awaited.guard (h : Awaited s n i) : (s.boot.halted || n != s.boot.stepNow || decide (stepCount n ≤ i)
    || s.boot.done.contains i || s.boot.alldone) = false := by
  simp only [h.goes, h.now, h.fresh, h.more, Nat.not_le.mpr h.one, bne_self_eq_false, decide_false, Bool.or_self]

theorem stepComplete_passed (h : Awaited s n i) (byte : Byte) :
    stepComplete n i true (s.inp.value.extractLsb' 0 16) byte false s = advance 7 (passedState s n i byte) := by
  simp only [stepComplete, h.guard, Bool.false_eq_true, if_false, Bool.false_and, if_true]
  rfl

theorem stepComplete_failed (h : Awaited s n i) (byte : Byte) :
    stepComplete n i false (s.inp.value.extractLsb' 0 16) byte false s = advance 7 (failedState s n i) := by
  simp only [stepComplete, h.guard, Bool.false_eq_true, if_false, Bool.false_and]
  rfl

theorem stepComplete_alone (h : Awaited s n i) (ho : stepOptional n = true) (passed : Bool) (detail : BitVec 16) (byte : Byte) :
    stepComplete n i passed detail byte true s = advance 7 (s.markDone i) := by
  simp only [stepComplete, h.guard, Bool.false_eq_true, if_false, ho, Bool.and_self, if_true]

/-- More things of the step are still to end. -/
theorem advance_more {t : State} (h : Awaited s n i) (hmore : s.boot.done.length + 1 < stepCount n)
    (hd : t.boot.done = i :: s.boot.done) (hn : t.boot.stepNow = s.boot.stepNow) : advance 7 t = t :=
  advance_stays (.inr (.inr (by rw [hn, hd, h.now]; simpa using hmore))) 7

/-! ### A pass -/

theorem foldl_modTile_boot (l : List Nat) (f : TileState → TileState) (s : State) :
    (l.foldl (fun t i => t.modTile i f) s).boot = s.boot ∧ (l.foldl (fun t i => t.modTile i f) s).fences = s.fences :=
  List.foldlRecOn (motive := fun t : State => t.boot = s.boot ∧ t.fences = s.fences) _ _ ⟨rfl, rfl⟩ fun _ h _ _ => h

theorem foldl_modCore_boot (l : List Nat) (f : Core → Core) (s : State) :
    (l.foldl (fun t i => t.modCore i f) s).boot = s.boot :=
  List.foldlRecOn (motive := fun t : State => t.boot = s.boot) _ _ rfl fun _ h _ _ => h

/-- The mesh of a die is usable: its tested tiles that are not fenced become ready (R26). -/
theorem meshReady_boot (d : Nat) (s : State) : (meshReady d s).boot = { s.boot with
    meshUp := bitOn s.boot.meshUp d
    tiles := (((List.range 128).map (· + 128 * d)).filter (fun t => s.boot.tested.getLsbD t && !s.fences.tiles.getLsbD t)).foldl
      (fun b t => bitOn b t) s.boot.tiles } := by
  unfold meshReady
  simp only [foldl_modCore_boot]
  split
  · rw [(foldl_modTile_boot _ _ _).1]
  · rfl

theorem meshReady_tiles {d : Nat} (hd : d < 2) (s : State) {k : Nat} (hk : k < 128) :
    (meshReady d s).boot.tiles.getLsbD (128 * d + k)
      = (s.boot.tiles.getLsbD (128 * d + k) || (s.boot.tested.getLsbD (128 * d + k) && !s.fences.tiles.getLsbD (128 * d + k))) := by
  rw [meshReady_boot]
  simp only [getLsbD_foldl_bitOn, List.mem_filter, List.mem_map, List.mem_range]
  refine congrArg (s.boot.tiles.getLsbD (128 * d + k) || ·) ?_
  have hmem : ∃ a < 128, a + 128 * d = 128 * d + k := ⟨k, hk, by omega⟩
  have hlt : 128 * d + k < 256 := by omega
  simp only [hmem, hlt, true_and, and_true, Bool.decide_eq_true]

/-- What a pass writes leaves the journal and the place of the start. -/
theorem passStep_place (n i : Nat) (alt : Bool) (byte : Byte) (s : State) :
    (passStep n i alt byte s).boot.journal = s.boot.journal ∧ (passStep n i alt byte s).boot.done = s.boot.done
      ∧ (passStep n i alt byte s).boot.stepNow = s.boot.stepNow ∧ (passStep n i alt byte s).boot.latest = s.boot.latest := by
  unfold passStep
  split
  · exact ⟨rfl, rfl, rfl, rfl⟩
  · exact ⟨rfl, rfl, rfl, rfl⟩
  · exact ⟨rfl, rfl, rfl, rfl⟩
  · simp only [meshReady_boot]; trivial
  · exact ⟨rfl, rfl, rfl, rfl⟩
  · exact ⟨rfl, rfl, rfl, rfl⟩
  · exact ⟨rfl, rfl, rfl, rfl⟩

theorem passedState_recorded (h : Awaited s n i) (byte : Byte) :
    Recorded s (passedState s n i byte) n i (if altNow s n i then 2 else 0) 0 :=
  journalPut_recorded h.one _ _ _ (passStep_place n i _ byte _).1

theorem advance_passed (h : Awaited s n i) (hmore : s.boot.done.length + 1 < stepCount n) (byte : Byte) :
    advance 7 (passedState s n i byte) = passedState s n i byte := by
  obtain ⟨-, hd, hs, -⟩ := passStep_place n i (altNow s n i) byte (s.journalPut (BitVec.ofNat 8 n)
    (if altNow s n i then 2 else 0) i 0 (attemptNow s n i) (s.inp.value.extractLsb' 0 16))
  exact advance_more h hmore (congrArg (i :: ·) hd) hs

/-- After the last step bring-up goes no further. -/
theorem advance_last (h : Awaited s n i) (hlast : n = 6) (byte : Byte) :
    advance 7 (passedState s n i byte) = passedState s n i byte := by
  obtain ⟨-, -, hs, -⟩ := passStep_place n i (altNow s n i) byte (s.journalPut (BitVec.ofNat 8 n)
    (if altNow s n i then 2 else 0) i 0 (attemptNow s n i) (s.inp.value.extractLsb' 0 16))
  refine advance_stays (.inr (.inl ?_)) 7
  have hnow : (passedState s n i byte).boot.stepNow = s.boot.stepNow := hs
  rw [hnow, h.now, hlast]

/-- What a pass brings into service (R26). -/
theorem passedState_up (h : Awaited s n i) (byte : Byte) :
    let t := passedState s n i byte
    (n = 0 → t.boot.fwok = true) ∧ (n = 1 → t.boot.hbm.getLsbD i = true) ∧ (n = 2 → t.boot.tested.getLsbD i = true)
      ∧ (n = 3 → t.boot.meshUp.getLsbD i = true ∧ ∀ k, k < 128 → t.boot.tiles.getLsbD (128 * i + k)
          = (s.boot.tiles.getLsbD (128 * i + k) || (s.boot.tested.getLsbD (128 * i + k) && !s.fences.tiles.getLsbD (128 * i + k))))
      ∧ (n = 4 → t.boot.links.getLsbD i = true ∧ t.lnUp i = (!s.fences.lports.getLsbD i && !s.fences.dies.getLsbD (i / 32))
          ∧ (t.lnPort i).creq = 512 ∧ (t.lnPort i).crsp = 512 ∧ (t.lnPort i).half = altNow s n i)
      ∧ (n = 5 → t.boot.pcie.getLsbD i = true) ∧ (n = 6 → t.boot.osready = true ∧ t.boot.alldone = true) := by
  have hi := h.one
  refine ⟨?_, ?_, ?_, ?_, ?_, ?_, ?_⟩
  · rintro rfl; rfl
  · rintro rfl; exact bitOn_same _ hi
  · rintro rfl; exact bitOn_same _ hi
  · rintro rfl
    refine ⟨?_, fun k hk => meshReady_tiles hi _ hk⟩
    change (meshReady i _).boot.meshUp.getLsbD i = true
    rw [meshReady_boot]
    exact bitOn_same _ hi
  · rintro rfl
    have hport : (passedState s 4 i byte).lnPort i = { s.lnPort i with trained := true, half := altNow s 4 i, creq := 512, crsp := 512 } :=
      Assoc.get_set_same _ _ _ _
    refine ⟨bitOn_same _ hi, ?_, ?_, ?_, ?_⟩
    · simp only [State.lnUp, hport, Bool.true_and]; rfl
    all_goals rw [hport]
  · rintro rfl; exact bitOn_same _ hi
  · rintro rfl; exact ⟨rfl, rfl⟩

/-! ### A failure -/

/-- A failed thing's unit leaves service (R22, R23). -/
theorem outInstance_fences (h : i < stepCount n) (detail : BitVec 16) (s : State) :
    let t := s.outInstance n i detail
    (n = 1 → t.fences.hbms.getLsbD i = true) ∧ (n = 2 → detail.getLsbD 0 = false → t.fences.tiles.getLsbD i = true)
      ∧ (n = 4 → t.fences.lports.getLsbD i = true) ∧ (n = 5 → t.fences.pports.getLsbD i = true) := by
  refine ⟨?_, ?_, ?_, ?_⟩
  · rintro rfl; exact bitOn_same _ h
  · rintro rfl hd
    simp only [State.outInstance, hd, Bool.false_eq_true, if_false]
    exact bitOn_same _ h
  · rintro rfl; exact bitOn_same _ h
  · rintro rfl; exact bitOn_same _ h

theorem failedState_boot (s : State) (n i : Nat) :
    (failedState s n i).boot.journal = (s.journalPut (BitVec.ofNat 8 n) 1 i (nextPolicy n (s.latest n i)) (attemptNow s n i)
        (s.inp.value.extractLsb' 0 16)).boot.journal
      ∧ (failedState s n i).boot.done = i :: s.boot.done ∧ (failedState s n i).boot.stepNow = s.boot.stepNow
      ∧ (n = 0 ∨ n = 6 → (failedState s n i).boot.halted = true) := by
  obtain ⟨hj, hd, hn, -⟩ := (outInstance_sameStart (s.journalPut (BitVec.ofNat 8 n) 1 i (nextPolicy n (s.latest n i))
    (attemptNow s n i) (s.inp.value.extractLsb' 0 16)) n i (s.inp.value.extractLsb' 0 16)).trans (haltCheck_sameStart _)
  unfold failedState
  simp only [State.markDone]
  by_cases hx : (n = 0 || n = 6) = true
  · simp only [hx, if_true]
    exact ⟨hj, congrArg (i :: ·) hd, hn, fun _ => trivial⟩
  · simp only [hx, if_false, Bool.false_eq_true]
    exact ⟨hj, congrArg (i :: ·) hd, hn, fun h => absurd (by simpa using h) hx⟩

theorem failedState_fences (s : State) (n i : Nat) : (failedState s n i).fences =
    ((s.journalPut (BitVec.ofNat 8 n) 1 i (nextPolicy n (s.latest n i)) (attemptNow s n i)
      (s.inp.value.extractLsb' 0 16)).outInstance n i (s.inp.value.extractLsb' 0 16)).fences := by
  unfold failedState
  simp only [State.markDone]
  split <;> exact haltCheck_fences _

/-- The start halts, or things of the step are still to end: in either case it stays at the step. -/
theorem advance_failed (h : Awaited s n i) (hstay : s.boot.done.length + 1 < stepCount n ∨ n = 0 ∨ n = 6) :
    advance 7 (failedState s n i) = failedState s n i := by
  obtain ⟨-, hd, hn, hhalt⟩ := failedState_boot s n i
  rcases hstay with hmore | hlast
  · exact advance_more h hmore hd hn
  · exact advance_stays (.inl (hhalt hlast)) 7

end Ends

/-! ### The claim -/

/-- A first start with nothing recorded but the pass of step 0: going on writes no record. -/
theorem advance_first {s : State} (h : ∀ n i, 1 ≤ n → s.latest n i = none) (f : Nat) :
    (advance f s).boot.journal = s.boot.journal ∧ (advance f s).boot.fwok = s.boot.fwok := by
  have hkeeps := advance_keeps (P := fun t => (∀ n i, 1 ≤ n → t.latest n i = none) ∧ t.boot.journal = s.boot.journal
    ∧ t.boot.fwok = s.boot.fwok) (fun t n i hn ht => ?_) (fun _ _ ht => ht) f s ⟨h, rfl, rfl⟩
  · exact hkeeps.2
  · rcases applyPolicy_unrecorded (ht.1 n i hn) with he | he <;> rw [he] <;> exact ht

theorem altNow_first {s : State} {n i : Nat} (h : s.boot.latest = []) : altNow s n i = false := by
  simp [altNow, State.latest, h, Assoc.find?]

/-- After the pass of step 0 in a first start no later step has a record. -/
theorem passedState_first {s : State} {i : Nat} {byte : Byte} (h : s.boot.latest = []) (ha : Awaited s 0 i) :
    ∀ n j, 1 ≤ n → (passedState s 0 i byte).latest n j = none := by
  intro n j hn
  have hi := ha.one
  have hone : stepCount 0 = 1 := rfl
  have hkey : ¬ 0 * 65536 + i = n * 65536 + j := by omega
  have hlatest : (passedState s 0 i byte).boot.latest = Assoc.set s.boot.latest (0 * 65536 + i) _ := rfl
  rw [State.latest, hlatest, h, find?_set, if_neg (Ne.symm hkey)]
  rfl

theorem altNow_iff (s : State) (n i : Nat) : altNow s n i = true ↔
    (match s.latest n i with | some r => r.policy = 2 ∨ r.outcome = 2 ∨ r.outcome = 4 | none => False) := by
  unfold altNow
  cases s.latest n i <;> simp [JournalRec.altered, or_assoc]

theorem nextPolicy_eq (n : Nat) (r : Option JournalRec) : nextPolicy n r =
    (match r with
      | none => 1
      | some a => if a.policy = 2 ∨ a.outcome = 2 ∨ a.outcome = 4 then (if n = 4 ∨ n = 5 then 3 else 4)
          else if a.outcome = 1 then 2 else 1) := by
  cases r <;> simp [nextPolicy, JournalRec.altered, stepOptional, or_assoc]

theorem bringUp : Claims.BringUp := by
  refine ⟨fun s => ?_, fun s n i hn hi hnow hone hgoes hfresh hall => ?_⟩
  · obtain ⟨h1, h2, h3, h4, h5, h6, h7⟩ := powerOn_starting s
    refine ⟨_, rfl, h1, h2, h3, h4, h5, h6, h7, fun hfirst => ?_⟩
    rw [powerOn_first hfirst]
    exact ⟨rfl, rfl, rfl, firstStart_readymap s⟩
  · have h : Awaited s n i := ⟨hnow, hone, hgoes, hfresh, hall⟩
    simp only [exec_bringupStepComplete, execBringupStepComplete, hn, hi, Host.Outcome.next.injEq, exists_eq_left']
    refine ⟨fun hint hopt hmore => ?_, fun hint hflag => ⟨?_, ?_, ?_⟩, fun hint hflag hstay => ?_⟩
    · have halone : (s.inp.int != 0) = true := by simpa using hint
      rw [halone, stepComplete_alone h hopt, advance_more (t := s.markDone i) h hmore rfl rfl]
      exact ⟨rfl, rfl, rfl, rfl⟩
    all_goals rw [hint, hflag, bne_self_eq_false]
    · rintro rfl hfirst
      rw [stepComplete_passed h]
      have hrec := passedState_recorded h (BitVec.ofNat 8 s.inp.k)
      obtain ⟨hjournal, hfw⟩ := advance_first (passedState_first hfirst h) 7
      refine ⟨?_, hfw.trans ((passedState_up h _).1 rfl)⟩
      rw [hjournal]
      rw [altNow_first hfirst, if_neg (by simp)] at hrec
      exact hrec
    · intro hmore
      rw [stepComplete_passed h, advance_passed h hmore]
      obtain ⟨-, u1, u2, u3, u4, u5, -⟩ := passedState_up h (BitVec.ofNat 8 s.inp.k)
      have hrec := passedState_recorded h (BitVec.ofNat 8 s.inp.k)
      refine ⟨fun ha => ?_, fun ha => ?_, u1, u2, u3, fun h4 => ?_, u5⟩
      · rw [if_pos ((altNow_iff s n i).mpr ha)] at hrec
        exact hrec
      · rw [if_neg (fun hb => ha ((altNow_iff s n i).mp hb))] at hrec
        exact hrec
      · obtain ⟨hup, hln, hreq, hrsp, hhalf⟩ := u4 h4
        refine ⟨hup, hln, hreq, hrsp, ?_⟩
        rw [hhalf]
        exact altNow_iff s n i
    · intro hlast
      rw [stepComplete_passed h, advance_last h hlast]
      exact (passedState_up h _).2.2.2.2.2.2 hlast
    · rw [stepComplete_failed h, advance_failed h hstay]
      obtain ⟨hjournal, -, -, hhalt⟩ := failedState_boot s n i
      have hrec : Recorded s (failedState s n i) n i 1 (nextPolicy n (s.latest n i)) := journalPut_recorded hone _ _ _ hjournal
      rw [nextPolicy_eq] at hrec
      obtain ⟨f1, f2, f4, f5⟩ := outInstance_fences hone (s.inp.value.extractLsb' 0 16)
        (s.journalPut (BitVec.ofNat 8 n) 1 i (nextPolicy n (s.latest n i)) (attemptNow s n i) (s.inp.value.extractLsb' 0 16))
      rw [failedState_fences]
      exact ⟨hrec, hhalt, f1, fun h2 hd => f2 h2 (by simpa using hd), f4, f5⟩

/-! ### Temperature and clock -/

/-- The time between two actions has passed, or there was none before (R15). -/
theorem passed_iff (s : State) (since : Option (BitVec 64)) (nanos : Nat) :
    s.passed since nanos = true ↔ ∀ t, since = some t → nanos ≤ (s.ptime - t).toNat := by
  cases since <;> simp [State.passed]

theorem le_foldl_max (xs : List Int) (m : Int) : m ≤ xs.foldl max m ∧ ∀ x ∈ xs, x ≤ xs.foldl max m := by
  induction xs generalizing m with
  | nil => simp
  | cons y rest ih =>
    obtain ⟨hm, hall⟩ := ih (max m y)
    rw [List.foldl_cons]
    refine ⟨le_trans (le_max_left m y) hm, fun x hx => ?_⟩
    rcases List.mem_cons.mp hx with rfl | hx
    · exact le_trans (le_max_right m x) hm
    · exact hall x hx

/-- No tile reading is above the highest. -/
theorem le_hottestOf {temps : Assoc Int} {k : Nat} {v : Int} (hk : k < 256) (h : Assoc.find? temps k = some v) :
    v ≤ hottestOf temps := by
  have hmem : v ∈ (temps.filter (fun e => e.1 < 256)).map (·.2) :=
    List.mem_map.mpr ⟨(k, v), List.mem_filter.mpr ⟨mem_of_find? _ _ h, by simpa using hk⟩, rfl⟩
  unfold hottestOf
  split
  · next he => rw [he] at hmem; cases hmem
  · next x xs he =>
    rw [he] at hmem
    rcases List.mem_cons.mp hmem with rfl | hmem
    · exact (le_foldl_max xs v).1
    · exact (le_foldl_max xs x).2 v hmem

theorem thermalPoll_early {s : State} (temps : Assoc Int) (h : ¬ s.passed s.mgmt.polledAt 100000 = true) :
    thermalPoll temps s = s := by simp [thermalPoll, h]

/-- The state with new readings. -/
def readings (temps : Assoc Int) (s : State) : State :=
  { s with mgmt := { s.mgmt with
      temps := newReadings temps s.mgmt.temps, hottest := hottestOf (newReadings temps s.mgmt.temps), polledAt := some s.ptime } }

theorem thermalPoll_reads {s : State} (temps : Assoc Int) (h : s.passed s.mgmt.polledAt 100000 = true) :
    thermalPoll temps s = if 110 ≤ hottestOf (newReadings temps s.mgmt.temps) then
      let t := (readings temps s).journalPut 0xFF 5 0 0 0 (readings temps s).freeDetail
      { t with boot := { t.boot with off := true } }
    else readings temps s := by simp only [thermalPoll, h, Bool.not_true, Bool.false_eq_true, if_false]; rfl

theorem clockTick_early {s : State} (h : ¬ s.passed s.mgmt.clockAt 1000000 = true) : clockTick s = s := by simp [clockTick, h]

theorem clockTick_due {s : State} (h : s.passed s.mgmt.clockAt 1000000 = true) : clockTick s =
    if 95 ≤ s.mgmt.hottest then { s with mgmt := { s.mgmt with clock := max 1000 (s.mgmt.clock - 100), clockAt := some s.ptime } }
    else if s.mgmt.hottest < 90 then { s with mgmt := { s.mgmt with clock := min 1900 (s.mgmt.clock + 100), clockAt := some s.ptime } }
    else s := by simp only [clockTick, h, Bool.not_true, Bool.false_eq_true, if_false]

theorem thermalAndClock : Claims.ThermalAndClock := by
  intro s
  simp only [exec_thermalPoll, execThermalPoll, exec_clockAdjustTick, execClockAdjustTick, Host.Outcome.next.injEq, exists_eq_left',
    ← passed_iff]
  refine ⟨fun k v hk hv => le_hottestOf hk hv, thermalPoll_early _, fun h hcool => ?_, fun h hhot => ?_, clockTick_early, fun h => ?_⟩
  · rw [thermalPoll_reads _ h, if_neg (by omega)]
    rfl
  · rw [thermalPoll_reads _ h, if_pos hhot]
    exact ⟨rfl, rfl, rfl, _, find?_set_same _ _ _, rfl, rfl, rfl⟩
  · rw [clockTick_due h]
    by_cases hhot : 95 ≤ s.mgmt.hottest
    · rw [if_pos hhot]
      exact ⟨rfl, fun _ => ⟨rfl, rfl⟩, fun _ _ => by omega, fun _ => by omega⟩
    · rw [if_neg hhot]
      by_cases hcool : s.mgmt.hottest < 90
      · rw [if_pos hcool]
        exact ⟨rfl, fun _ => by omega, fun _ _ => by omega, fun _ => ⟨rfl, rfl⟩⟩
      · rw [if_neg hcool]
        exact ⟨rfl, fun _ => by omega, fun _ _ => rfl, fun _ => by omega⟩

/-- Settles O50: a start keeps what its policies keep, a step's end writes one record and stays at the step. -/
theorem bringUpAndHeat : Obligations.BringUpAndHeat := ⟨bringUp, thermalAndClock⟩

end Sys2Proof.Proofs.Package

/-!
O51. Fences at run time (R27 to R31) and the takeover of a distributor (R119).
-/

namespace Sys2Proof.Proofs.Package

open Sys2Proof Sys2Proof.Machine Sys2Proof.Safety Sys2Proof.Laws

/-! ### Work on a unit depends on neither bring-up nor fences -/

/-- Two states differ at most in their bring-up and their fences. -/
def BootOnly (s t : State) : Prop := t = { s with boot := t.boot, fences := t.fences }

section Work

variable (s : State) (b : Boot) (f : Fences)

theorem partitionOf_boot (n : Nat) (r : BitVec 12) :
    ({ s with boot := b, fences := f } : State).partitionOf n r = s.partitionOf n r :=
  partitionOf_congr (s := s) (t := { s with boot := b, fences := f }) rfl n r

theorem bytesKey_boot (key : BitVec 8) (a n : Nat) :
    ({ s with boot := b, fences := f } : State).bytesKey key a n = s.bytesKey key a n := by
  induction n generalizing a with
  | zero => rfl
  | succ n ih => simp only [State.bytesKey, ih]; rfl

theorem dequeHolds_boot (r : BitVec 12) (k : Nat) :
    ({ s with boot := b, fences := f } : State).dequeHolds r k = s.dequeHolds r k := by
  simp only [State.dequeHolds, State.dequeCell, State.partition, State.bytes, partitionOf_boot, bytesKey_boot]

theorem workOn_boot (r : BitVec 12) (cores : List Nat) :
    ({ s with boot := b, fences := f } : State).workOn r cores = s.workOn r cores := by
  simp only [State.workOn, dequeHolds_boot]
  rfl

end Work

theorem BootOnly.workOf {s t : State} (h : BootOnly s t) (u : FenceUnit) : t.workOf u t.workOn = s.workOf u s.workOn := by
  have hon (r : BitVec 12) (cores : List Nat) : t.workOn r cores = s.workOn r cores := by rw [h]; exact workOn_boot s _ _ r cores
  rw [h] at hon ⊢
  simp only [State.workOf, hon]
  rfl

/-! ### What a fence leaves of bring-up and fences -/

/-- Two states have the same bring-up and the same fences. -/
def SameBoot (s t : State) : Prop := t.boot = s.boot ∧ t.fences = s.fences

theorem SameBoot.trans {s t u : State} (h : SameBoot s t) (h' : SameBoot t u) : SameBoot s u := ⟨h'.1.trans h.1, h'.2.trans h.2⟩

/-- Only contexts are erased with a unit. -/
theorem eraseUnit_keeps (s : State) (u : FenceUnit) :
    SameBoot s (s.eraseUnit u) ∧ (s.eraseUnit u).dist = s.dist ∧ (s.eraseUnit u).mem = s.mem := ⟨⟨rfl, rfl⟩, rfl, rfl⟩

theorem foldl_sameBoot {α : Type} (f : State → α → State) (hf : ∀ t x, SameBoot t (f t x)) (l : List α) (s : State) :
    SameBoot s (l.foldl f s) :=
  List.foldlRecOn (motive := fun t => SameBoot s t) _ _ ⟨rfl, rfl⟩ fun t ht x _ => ht.trans (hf t x)

theorem lnAnswer_sameBoot (s : State) (r : LnReq) (kind op : BitVec 4) (data : List Byte) :
    SameBoot s ((s.lnDone r).lnAnswer r kind op data) := by
  unfold State.lnAnswer
  split <;> exact ⟨rfl, rfl⟩

theorem dropLinnor_sameBoot (s : State) (gone : Nat → Bool) : SameBoot s (s.dropLinnor gone) := by
  unfold State.dropLinnor
  exact foldl_sameBoot _ (fun t (e : Nat × LnReq) => lnAnswer_sameBoot t e.2 0xB nackGone []) _ s

theorem foldl_nack_sameBoot (l : List Packet) (status : BitVec 4) (s : State) :
    SameBoot s (l.foldl (fun t x => t.nack x status) s) :=
  foldl_sameBoot _ (fun t x => show SameBoot t (t.nack x status) from ⟨rfl, rfl⟩) l s

theorem dropPcie_sameBoot (s : State) (p : Nat) : SameBoot s (s.dropPcie p) := by
  unfold State.dropPcie
  refine SameBoot.trans ?_ (foldl_nack_sameBoot _ _ _)
  refine SameBoot.trans (t := List.foldl _ _ _) ?_ ⟨rfl, rfl⟩
  refine SameBoot.trans ?_ (foldl_nack_sameBoot _ _ _)
  exact SameBoot.trans ⟨rfl, rfl⟩ (foldl_sameBoot _ (fun t e => foldl_nack_sameBoot _ _ t) _ _)

/-- A region's loss of cores touches neither contexts nor the order of happenings. -/
theorem withoutCores_keeps (s : State) (r : BitVec 12) (cores : List Nat) (gone : Nat → Bool) :
    SameBoot s (s.withoutCores r cores gone) ∧ (s.withoutCores r cores gone).cores = s.cores
      ∧ (s.withoutCores r cores gone).sched = s.sched := by
  unfold State.withoutCores
  split <;> exact ⟨⟨rfl, rfl⟩, rfl, rfl⟩

/-- The regions that had dispatched work on a unit fault next, and its contexts are gone (R29, R109). -/
theorem loseWork_spec (s : State) (u : FenceUnit) (gone : Nat → Bool) :
    SameBoot s (loseWork s u gone) ∧ (loseWork s u gone).cores = (s.eraseUnit u).cores
      ∧ (loseWork s u gone).sched
        = (s.workOf u s.workOn).map (fun e => .happen .regionFault { n := e.1.toNat, m := e.2, value := 0xFE }) ++ s.sched := by
  obtain ⟨hboot, hcores, hsched⟩ := List.foldlRecOn
    (motive := fun t : State => SameBoot s t ∧ t.cores = (s.eraseUnit u).cores ∧ t.sched = s.sched)
    (s.regions.map (·.1)) (fun t r => t.withoutCores (BitVec.ofNat 12 r) (unitCores u) gone) (b := s.eraseUnit u)
    ⟨⟨rfl, rfl⟩, rfl, rfl⟩ fun t ht r _ => by
      obtain ⟨k1, k2, k3⟩ := withoutCores_keeps t (BitVec.ofNat 12 r) (unitCores u) gone
      exact ⟨ht.1.trans k1, k2.trans ht.2.1, k3.trans ht.2.2⟩
  refine ⟨hboot, hcores, ?_⟩
  simp only [loseWork, State.pushAll, List.map_map]
  exact congrArg (_ ++ ·) hsched

/-! ### The record of a fence -/

/-- A fence of unit `n` is recorded, and replacement asked for (R31). -/
def FenceRecorded (s t : State) (n : Nat) : Prop :=
  t.boot.replreq = true ∧ t.boot.next = s.boot.next + 1 ∧ ∃ r, Assoc.find? t.boot.journal s.boot.next.toNat = some r
    ∧ r.step = 0xFF ∧ r.outcome = 4 ∧ r.inst = BitVec.ofNat 16 n

/-- The record stays where bring-up keeps its journal. -/
theorem FenceRecorded.of_boot {s t u : State} {n : Nat} (h : FenceRecorded s t n) (hj : u.boot.journal = t.boot.journal)
    (hn : u.boot.next = t.boot.next) (hr : u.boot.replreq = t.boot.replreq) : FenceRecorded s u n := by
  obtain ⟨h1, h2, h3⟩ := h
  exact ⟨hr.trans h1, hn.trans h2, by rw [hj]; exact h3⟩

theorem FenceRecorded.of_sameBoot {s t u : State} {n : Nat} (h : FenceRecorded s t n) (hb : SameBoot t u) : FenceRecorded s u n :=
  h.of_boot (congrArg Boot.journal hb.1) (congrArg Boot.next hb.1) (congrArg Boot.replreq hb.1)

/-! ### When a report asks for a fence (R29) -/

section Reports

variable {s : State} {n : Nat}

/-- A tile took an uncorrectable error within the last hour. -/
def ErrsAgain (s : State) (n : Nat) : Prop :=
  ∃ t, Assoc.find? s.fences.tileErr n = some t ∧ (s.ptime - t).toNat ≤ 3600000000000

/-- A tile's error is noted. -/
def noteTile (s : State) (n : Nat) : State := { s with fences := { s.fences with tileErr := Assoc.set s.fences.tileErr n s.ptime } }

/-- The rows of a stack with an error within the last hour, other than `row`. -/
def rowsNow (s : State) (n row : Nat) : List (Nat × BitVec 64) :=
  (Assoc.get [] s.fences.rowErr n).filter (fun e => decide ((s.ptime - e.2).toNat ≤ 3600000000000) && e.1 != row)

/-- A row's error is noted. -/
def noteRow (s : State) (n row : Nat) : State :=
  { s with fences := { s.fences with rowErr := Assoc.set s.fences.rowErr n (rowsNow s n row ++ [(row, s.ptime)]) } }

theorem runtimeFence_tile_first (c : FenceCause) (row : Nat) (h : ¬ ErrsAgain s n) : runtimeFence (.tile n) c row s = noteTile s n := by
  have hdue : fenceDue (.tile n) row s = (false, noteTile s n) := by
    simp only [fenceDue]
    cases he : Assoc.find? s.fences.tileErr n with
    | none => rfl
    | some t =>
      have : ¬ (s.ptime - t).toNat ≤ hour := fun hle => h ⟨t, he, hle⟩
      simp only [this, decide_false]
      rfl
  simp only [runtimeFence, hdue, Bool.false_eq_true, if_false]

theorem runtimeFence_tile_again (c : FenceCause) (row : Nat) (h : ErrsAgain s n) :
    runtimeFence (.tile n) c row s = fenceUnit (.tile n) c (noteTile s n) := by
  obtain ⟨t, he, hle⟩ := h
  have hdue : fenceDue (.tile n) row s = (true, noteTile s n) := by
    have : (s.ptime - t).toNat ≤ hour := hle
    simp only [fenceDue, he, this, decide_true]
    rfl
  simp only [runtimeFence, hdue, if_true]

theorem fenceDue_stack (row : Nat) : fenceDue (.stack n) row s = (decide (16 ≤ (rowsNow s n row).length), noteRow s n row) := by
  have hlength : (16 < (rowsNow s n row ++ [(row, s.ptime)]).length) ↔ 16 ≤ (rowsNow s n row).length := by
    rw [List.length_append, List.length_singleton]; omega
  exact congrArg (fun b => (b, noteRow s n row)) (decide_eq_decide.mpr hlength)

theorem runtimeFence_stack_few (c : FenceCause) (row : Nat) (h : (rowsNow s n row).length < 16) :
    runtimeFence (.stack n) c row s = noteRow s n row := by
  simp only [runtimeFence, fenceDue_stack, Nat.not_le.mpr h, decide_false, Bool.false_eq_true, if_false]

theorem runtimeFence_stack_many (c : FenceCause) (row : Nat) (h : 16 ≤ (rowsNow s n row).length) :
    runtimeFence (.stack n) c row s = fenceUnit (.stack n) c (noteRow s n row) := by
  simp only [runtimeFence, fenceDue_stack, h, decide_true, if_true]

theorem runtimeFence_port_few (c : FenceCause) (row : Nat) (h : (s.lnPort n).resentNow s.ptime < Config.retryLimit) :
    runtimeFence (.linnorPort n) c row s = s := by
  simp only [runtimeFence, fenceDue, Nat.not_le.mpr h, decide_false, Bool.false_eq_true, if_false]

theorem runtimeFence_port_many (c : FenceCause) (row : Nat) (h : Config.retryLimit ≤ (s.lnPort n).resentNow s.ptime) :
    runtimeFence (.linnorPort n) c row s = fenceUnit (.linnorPort n) c s := by
  simp only [runtimeFence, fenceDue, h, decide_true, if_true]

/-! ### The fence of a unit (R28) -/

/-- A unit is in service only if its bit is set, it is not fenced, and its die is not out. -/
theorem up_iff (bit fenced out : Bool) : (bit && !fenced && !out) = true ↔ bit = true ∧ fenced = false ∧ out = false := by
  cases bit <;> cases fenced <;> cases out <;> decide

/-- The state in which tile `n` has its bits cleared, its record written and its fence set. -/
def tileFenced (s : State) (n : Nat) : State :=
  let t := fenceRecord { s with boot := { s.boot with tiles := bitOff s.boot.tiles n, tested := bitOff s.boot.tested n } } n
  { t with fences := { t.fences with tiles := bitOn t.fences.tiles n } }

theorem tileFenced_recorded (s : State) (n : Nat) : FenceRecorded s (tileFenced s n) n :=
  ⟨rfl, rfl, _, find?_set_same _ _ _, rfl, rfl, rfl⟩

theorem fenceUnit_tile (c : FenceCause) (hn : n < 256) (h : s.tileUp n = true) :
    fenceUnit (.tile n) c s = loseWork (tileFenced s n) (.tile n) (· == n) := by
  obtain ⟨-, hf, ho⟩ := (up_iff _ _ _).mp h
  simp only [fenceUnit, Nat.not_le.mpr hn, hf, ho, decide_false, Bool.or_self, Bool.false_eq_true, if_false]
  rfl

/-- The state in which stack `n` has its bit cleared, its record written and its fence set. -/
def stackFenced (s : State) (n : Nat) : State :=
  let t := fenceRecord { s with boot := { s.boot with hbm := bitOff s.boot.hbm n } } n
  { t with fences := { t.fences with hbms := bitOn t.fences.hbms n } }

theorem stackFenced_recorded (s : State) (n : Nat) : FenceRecorded s (stackFenced s n) n :=
  ⟨rfl, rfl, _, find?_set_same _ _ _, rfl, rfl, rfl⟩

theorem fenceUnit_stack (c : FenceCause) (hn : n < 12) (h : s.stackUp n = true) :
    let t := loseWork (stackFenced s n) (.stack n) (fun _ => false)
    fenceUnit (.stack n) c s = if t.boot.alldone then t else t.haltCheck := by
  obtain ⟨-, hf, ho⟩ := (up_iff _ _ _).mp h
  simp only [fenceUnit, Nat.not_le.mpr hn, hf, ho, decide_false, Bool.or_self, Bool.false_eq_true, if_false]
  rfl

/-- The state in which Linnor port `n` has its bit cleared, its record written and its fence set. -/
def portFenced (s : State) (n : Nat) : State :=
  let t := fenceRecord { s with boot := { s.boot with links := bitOff s.boot.links n } } n
  { t with fences := { t.fences with lports := bitOn t.fences.lports n } }

theorem portFenced_recorded (s : State) (n : Nat) : FenceRecorded s (portFenced s n) n :=
  ⟨rfl, rfl, _, find?_set_same _ _ _, rfl, rfl, rfl⟩

theorem fenceUnit_port (c : FenceCause) (hn : n < 64) (h : s.linkUp n = true) :
    fenceUnit (.linnorPort n) c s = (portFenced s n).dropLinnor (· == n) := by
  obtain ⟨-, hf, ho⟩ := (up_iff _ _ _).mp h
  simp only [fenceUnit, Nat.not_le.mpr hn, hf, ho, decide_false, Bool.or_self, Bool.false_eq_true, if_false]
  rfl

/-- The state in which PCIe port `n` has its bit cleared, its record written and its fence set. -/
def pcieFenced (s : State) (n : Nat) : State :=
  let t := fenceRecord { s with boot := { s.boot with pcie := bitOff s.boot.pcie n } } n
  { t with fences := { t.fences with pports := bitOn t.fences.pports n } }

theorem pcieFenced_recorded (s : State) (n : Nat) : FenceRecorded s (pcieFenced s n) n :=
  ⟨rfl, rfl, _, find?_set_same _ _ _, rfl, rfl, rfl⟩

theorem fenceUnit_pcie (c : FenceCause) (hn : n < 4) (h : s.pcieUp n = true) :
    fenceUnit (.pciePort n) c s = (pcieFenced s n).dropPcie n := by
  have hf : s.fences.pports.getLsbD n = false := by
    simp only [State.pcieUp, Bool.and_eq_true, Bool.not_eq_true'] at h
    exact h.2
  simp only [fenceUnit, Nat.not_le.mpr hn, hf, decide_false, Bool.or_self, Bool.false_eq_true, if_false]
  rfl

/-- Clearing a unit's bit and setting its fence takes that unit out of service and no other. -/
theorem getLsbD_fenced {w : Nat} (bits fenced : BitVec w) (n j : Nat) (out : Bool) :
    ((bitOff bits n).getLsbD j && !(bitOn fenced n).getLsbD j && !out)
      = if j = n then false else (bits.getLsbD j && !fenced.getLsbD j && !out) := by
  rw [getLsbD_bitOff, getLsbD_bitOn]
  by_cases h : j = n <;> simp [h]

theorem tileUp_fenced {t : State} (ht : SameBoot (tileFenced s n) t) (j : Nat) :
    t.tileUp j = if j = n then false else s.tileUp j := by
  unfold State.tileUp State.dieOut
  rw [ht.1, ht.2]
  exact getLsbD_fenced s.boot.tiles s.fences.tiles n j _

theorem stackUp_fenced {t : State} (hb : t.boot.hbm = (stackFenced s n).boot.hbm) (hf : t.fences = (stackFenced s n).fences)
    (j : Nat) : t.stackUp j = if j = n then false else s.stackUp j := by
  unfold State.stackUp State.dieOut
  rw [hb, hf]
  exact getLsbD_fenced s.boot.hbm s.fences.hbms n j _

theorem linkUp_fenced {t : State} (ht : SameBoot (portFenced s n) t) (j : Nat) :
    t.linkUp j = if j = n then false else s.linkUp j := by
  unfold State.linkUp State.dieOut
  rw [ht.1, ht.2]
  exact getLsbD_fenced s.boot.links s.fences.lports n j _

theorem pcieUp_fenced {t : State} (ht : SameBoot (pcieFenced s n) t) (j : Nat) :
    t.pcieUp j = if j = n then false else s.pcieUp j := by
  unfold State.pcieUp
  rw [ht.1, ht.2]
  have h := getLsbD_fenced s.boot.pcie s.fences.pports n j false
  simp only [Bool.not_false, Bool.and_true] at h
  exact h

end Reports

/-! ### The fence of compute dies (R30) -/

theorem haltCheck_boot (s : State) : s.haltCheck.boot.journal = s.boot.journal ∧ s.haltCheck.boot.next = s.boot.next
    ∧ s.haltCheck.boot.replreq = s.boot.replreq ∧ s.haltCheck.boot.hbm = s.boot.hbm ∧ s.haltCheck.boot.meshUp = s.boot.meshUp := by
  unfold State.haltCheck
  simp only
  split <;> exact ⟨rfl, rfl, rfl, rfl, rfl⟩

/-- The check that may halt a start, made only while the start goes on. -/
def haltUnlessDone (s : State) : State := if s.boot.alldone then s else s.haltCheck

theorem haltUnlessDone_keeps (s : State) : (haltUnlessDone s).fences = s.fences
    ∧ (haltUnlessDone s).boot.journal = s.boot.journal ∧ (haltUnlessDone s).boot.next = s.boot.next
    ∧ (haltUnlessDone s).boot.replreq = s.boot.replreq ∧ (haltUnlessDone s).boot.hbm = s.boot.hbm
    ∧ (haltUnlessDone s).boot.meshUp = s.boot.meshUp := by
  unfold haltUnlessDone
  split
  · exact ⟨rfl, rfl, rfl, rfl, rfl, rfl⟩
  · exact ⟨haltCheck_fences s, haltCheck_boot s⟩

/-- The bits of a die clear, and replacement is asked for. -/
theorem fenceDie_spec (s : State) (d : Nat) : (fenceDie s d).fences.dies = bitOn s.fences.dies d
    ∧ (fenceDie s d).boot.replreq = true ∧ (fenceDie s d).boot.meshUp = bitOff s.boot.meshUp d := by
  have h : SameBoot _ (fenceDie s d) := dropLinnor_sameBoot
    (({ s.clearDie d with boot := { (s.clearDie d).boot with replreq := true } } : State).journalPut 0xFF 4 d 0 0
      ({ s.clearDie d with boot := { (s.clearDie d).boot with replreq := true } } : State).freeDetail) (fun p => p / 32 == d)
  rw [h.1, h.2]
  exact ⟨rfl, rfl, rfl⟩

/-- What a fence of dies does after the dies' own fences keeps the dies that are out, the request for replacement and the meshes
in service. -/
theorem fenceDies_spec (d : Nat) (c : FenceCause) (s : State) (new : List Nat)
    (hnew : (fencedDies d c).filter (fun x => !s.dieOut x) = new) (hne : new ≠ []) :
    (fenceDies d c s).fences = (new.foldl fenceDie s).fences
      ∧ (fenceDies d c s).boot.replreq = (new.foldl fenceDie s).boot.replreq
      ∧ (fenceDies d c s).boot.meshUp = (new.foldl fenceDie s).boot.meshUp := by
  have erase_sameBoot (l : List Nat) (t : State) : SameBoot t (l.foldl (fun t x => t.eraseUnit (.die x)) t) :=
    foldl_sameBoot _ (fun t x => (eraseUnit_keeps t (.die x)).1) l t
  unfold fenceDies
  rw [hnew]
  simp only [hne, if_false]
  generalize new.foldl fenceDie s = v
  generalize hw : ({ v with boot := { v.boot with transit := _ } } : State) = w
  obtain ⟨hf, -, -, hr, -, hm⟩ := haltUnlessDone_keeps w
  have hsame : w.fences = v.fences ∧ w.boot.replreq = v.boot.replreq ∧ w.boot.meshUp = v.boot.meshUp := by
    rw [← hw]
    exact ⟨rfl, rfl, rfl⟩
  obtain ⟨vf, vr, vm⟩ := hsame
  have hcheck : (if v.boot.alldone = true then w else w.haltCheck) = haltUnlessDone w := by
    rw [← hw]
    rfl
  rw [hcheck]
  split
  · obtain ⟨eb, ef⟩ := erase_sameBoot new (haltUnlessDone w)
    exact ⟨(ef.trans hf).trans vf, ((congrArg Boot.replreq eb).trans hr).trans vr, ((congrArg Boot.meshUp eb).trans hm).trans vm⟩
  · exact ⟨hf.trans vf, hr.trans vr, hm.trans vm⟩

/-- A fabric fence of die 0 takes both dies, one of die 1 that die only (R30). -/
theorem fenceDies_fabric {s : State} {n : Nat} (hn : n < 2) (hdies : s.fences.dies = 0) :
    let t := fenceDies n .fabric s
    t.dieOut 1 = true ∧ (t.dieOut 0 = true ↔ n = 0) ∧ t.boot.replreq = true ∧ t.boot.meshUp.getLsbD n = false := by
  have hup (x : Nat) : s.dieOut x = false := by simp [State.dieOut, hdies]
  have hnew : (fencedDies n .fabric).filter (fun x => !s.dieOut x) = if n = 0 then [0, 1] else [1] := by
    simp [fencedDies, hup]
  obtain ⟨hfen, hrepl, hmesh⟩ := fenceDies_spec n .fabric s _ hnew (by split <;> simp)
  unfold State.dieOut
  simp only [hfen, hrepl, hmesh]
  obtain rfl | rfl : n = 0 ∨ n = 1 := by omega
  · obtain ⟨f0, -, m0⟩ := fenceDie_spec s 0
    obtain ⟨f1, r1, m1⟩ := fenceDie_spec (fenceDie s 0) 1
    simp only [if_true, List.foldl_cons, List.foldl_nil, f1, r1, m1, f0, m0, getLsbD_bitOn, getLsbD_bitOff]
    simp
  · obtain ⟨f1, r1, m1⟩ := fenceDie_spec s 1
    simp only [one_ne_zero, if_false, List.foldl_cons, List.foldl_nil, f1, r1, m1, getLsbD_bitOn, getLsbD_bitOff, hdies]
    simp

/-! ### Contexts of a unit that is gone -/

theorem get_foldl_erase {α : Type} (d : α) (l : List Nat) (m : Assoc α) {k : Nat} (hk : k ∈ l) :
    Assoc.get d (l.foldl (fun m k => Assoc.erase m k) m) k = d := by
  induction l generalizing m with
  | nil => cases hk
  | cons j l ih =>
    by_cases hl : k ∈ l
    · exact ih _ hl
    · obtain rfl : k = j := by simpa [hl] using hk
      exact List.foldlRecOn (motive := fun m => Assoc.get d m k = d) l _ (by rw [get_erase, if_pos rfl]) fun m hm j _ => by
        rw [get_erase]
        split
        · rfl
        · exact hm

theorem core_of_eraseUnit {s t : State} {u : FenceUnit} (h : t.cores = (s.eraseUnit u).cores) {k : Nat} (hk : k ∈ unitCores u) :
    t.core k = {} := by
  unfold State.core
  rw [h]
  exact get_foldl_erase {} (unitCores u) s.cores hk

/-! ### The surviving distributor -/

/-- With no region there is nothing to take over but the distributor's own place (R119). -/
theorem takeover_noRegions {s : State} {n : Nat} (hn : n < 2) (hlost : s.dieOut n = true) (hlive : s.dieOut (1 - n) = false)
    (hregions : s.regions = []) :
    takeover n s = ({ s with dist := { s.dist with term := s.dist.term + 1, master := BitVec.ofNat 1 (1 - n) } } : State).eraseUnit
      (.die n) := by
  simp only [takeover, Nat.not_le.mpr hn, hlost, hlive, decide_false, Bool.not_true, Bool.or_self, Bool.false_eq_true, if_false,
    State.workOf, hregions, List.filterMap_nil, List.foldl_nil]
  simp only [State.eraseUnit, List.filter_nil, List.map_nil, List.foldl_nil]

theorem exec_runtimeFence_of_unit {s : State} {u : FenceUnit} (hu : s.inp.unit = some u) :
    exec .runtimeFence s = .next (runtimeFence u s.inp.cause s.inp.m s) := by
  rw [exec_runtimeFence, execRuntimeFence, hu]

/-! ### What the fence of a unit leaves (R28, R29, R31) -/

section Fenced

variable {s : State} {n : Nat} (c : FenceCause)

theorem fenceUnit_tile_spec (hn : n < 256) (hup : s.tileUp n = true) :
    FenceRecorded s (fenceUnit (.tile n) c s) n ∧ (fenceUnit (.tile n) c s).tileUp n = false
      ∧ (fenceUnit (.tile n) c s).boot.tiles.getLsbD n = false
      ∧ (∀ j, j < 256 → j ≠ n → (fenceUnit (.tile n) c s).tileUp j = s.tileUp j)
      ∧ (fenceUnit (.tile n) c s).sched
        = (s.workOf (.tile n) s.workOn).map (fun e => .happen .regionFault { n := e.1.toNat, m := e.2, value := 0xFE }) ++ s.sched
      ∧ ∀ k, k < 4 → (fenceUnit (.tile n) c s).core (4 * n + k) = {} := by
  rw [fenceUnit_tile c hn hup]
  obtain ⟨hboot, hcores, hsched⟩ := loseWork_spec (tileFenced s n) (.tile n) (· == n)
  refine ⟨(tileFenced_recorded s n).of_sameBoot hboot, ?_, ?_, fun j _ hne => ?_, ?_, fun k hk => ?_⟩
  · rw [tileUp_fenced hboot, if_pos rfl]
  · rw [hboot.1]
    exact (getLsbD_bitOff s.boot.tiles n n).trans (by simp)
  · rw [tileUp_fenced hboot, if_neg hne]
  · rw [hsched, BootOnly.workOf (s := s) (t := tileFenced s n) rfl]
    rfl
  · refine core_of_eraseUnit hcores ?_
    simp only [unitCores, List.mem_cons, List.not_mem_nil, or_false]
    omega

theorem fenceUnit_stack_spec (hn : n < 12) (hup : s.stackUp n = true) :
    FenceRecorded s (fenceUnit (.stack n) c s) n ∧ (fenceUnit (.stack n) c s).stackUp n = false
      ∧ ∀ j, j < 12 → j ≠ n → (fenceUnit (.stack n) c s).stackUp j = s.stackUp j := by
  have hfence : fenceUnit (.stack n) c s = haltUnlessDone (loseWork (stackFenced s n) (.stack n) (fun _ => false)) :=
    fenceUnit_stack c hn hup
  rw [hfence]
  obtain ⟨⟨hb, hf⟩, -, -⟩ := loseWork_spec (stackFenced s n) (.stack n) (fun _ => false)
  obtain ⟨hfen, hj, hx, hr, hh, -⟩ := haltUnlessDone_keeps (loseWork (stackFenced s n) (.stack n) (fun _ => false))
  rw [hb] at hj hx hr hh
  rw [hf] at hfen
  refine ⟨(stackFenced_recorded s n).of_boot hj hx hr, ?_, fun j _ hne => ?_⟩
  · rw [stackUp_fenced hh hfen, if_pos rfl]
  · rw [stackUp_fenced hh hfen, if_neg hne]

theorem fenceUnit_port_spec (hn : n < 64) (hup : s.linkUp n = true) :
    FenceRecorded s (fenceUnit (.linnorPort n) c s) n ∧ (fenceUnit (.linnorPort n) c s).linkUp n = false
      ∧ ∀ j, j < 64 → j ≠ n → (fenceUnit (.linnorPort n) c s).linkUp j = s.linkUp j := by
  rw [fenceUnit_port c hn hup]
  have hboot := dropLinnor_sameBoot (portFenced s n) (· == n)
  refine ⟨(portFenced_recorded s n).of_sameBoot hboot, ?_, fun j _ hne => ?_⟩
  · rw [linkUp_fenced hboot, if_pos rfl]
  · rw [linkUp_fenced hboot, if_neg hne]

theorem fenceUnit_pcie_spec (hn : n < 4) (hup : s.pcieUp n = true) :
    FenceRecorded s (fenceUnit (.pciePort n) c s) n ∧ (fenceUnit (.pciePort n) c s).pcieUp n = false
      ∧ ∀ j, j < 4 → j ≠ n → (fenceUnit (.pciePort n) c s).pcieUp j = s.pcieUp j := by
  rw [fenceUnit_pcie c hn hup]
  have hboot := dropPcie_sameBoot (pcieFenced s n) n
  refine ⟨(pcieFenced_recorded s n).of_sameBoot hboot, ?_, fun j _ hne => ?_⟩
  · rw [pcieUp_fenced hboot, if_pos rfl]
  · rw [pcieUp_fenced hboot, if_neg hne]

end Fenced

/-- Settles O51: a report short of its limit is noted; at its limit the unit is fenced, by the rule of its kind. -/
theorem runtimeFences : Obligations.RuntimeFences := by
  intro s n
  refine ⟨?_, ?_, ?_, ?_, ?_, ?_, ?_, ?_, ?_, ?_, ?_, ?_⟩
  · intro hu hfirst
    rw [exec_runtimeFence_of_unit hu, runtimeFence_tile_first _ _ hfirst]
    rfl
  · intro hn hu hagain hup
    rw [exec_runtimeFence_of_unit hu, runtimeFence_tile_again _ _ hagain]
    obtain ⟨hrec, hdown, hbit, hothers, hsched, hcores⟩ := fenceUnit_tile_spec (s := noteTile s n) s.inp.cause hn hup
    refine ⟨_, rfl, hrec, hdown, hbit, hothers, hsched.trans ?_, hcores⟩
    rw [BootOnly.workOf (s := s) (t := noteTile s n) rfl]
    rfl
  · intro hu hfew
    rw [exec_runtimeFence_of_unit hu, runtimeFence_stack_few _ _ hfew]
    rfl
  · intro hn hu hmany hup
    rw [exec_runtimeFence_of_unit hu, runtimeFence_stack_many _ _ hmany]
    exact ⟨_, rfl, fenceUnit_stack_spec (s := noteRow s n s.inp.m) s.inp.cause hn hup⟩
  · intro hu hfew
    rw [exec_runtimeFence_of_unit hu, runtimeFence_port_few _ _ hfew]
  · intro hn hu hmany hup
    rw [exec_runtimeFence_of_unit hu, runtimeFence_port_many _ _ hmany]
    exact ⟨_, rfl, fenceUnit_port_spec s.inp.cause hn hup⟩
  · intro hn hu hup
    exact ⟨_, exec_runtimeFence_of_unit hu, fenceUnit_pcie_spec s.inp.cause hn hup⟩
  · intro hn hu hdies hc
    have hfence : runtimeFence (.die n) s.inp.cause s.inp.m s = fenceDies n .fabric s := by
      simp only [runtimeFence, fenceDue, fenceUnit, if_true, Nat.not_le.mpr hn, if_false, hc]
    rw [exec_runtimeFence_of_unit hu, hfence]
    exact ⟨_, rfl, fenceDies_fabric hn hdies⟩
  · intro hn hlimit
    simp only [exec_retryLimitExceeded, execRetryLimitExceeded, retryLimitExceeded, hn, hlimit, if_true]
    rfl
  · intro hn hfew
    simp only [exec_retryLimitExceeded, execRetryLimitExceeded, retryLimitExceeded, hn, Nat.not_le.mpr hfew, if_false]
  · intro hn hlt hlost hlive hregions _
    refine ⟨_, by rw [exec_distributorTakeover, execDistributorTakeover, hn, takeover_noRegions hlt hlost hlive hregions], ?_⟩
    obtain ⟨-, hdist, hmem⟩ := eraseUnit_keeps
      { s with dist := { s.dist with term := s.dist.term + 1, master := BitVec.ofNat 1 (1 - n) } } (.die n)
    rw [hdist, hmem]
    exact ⟨rfl, rfl, rfl⟩
  · intro hn h
    have hskip : (decide (2 ≤ n) || !s.dieOut n || s.dieOut (1 - n)) = true := by
      rcases h with h | h <;> simp [h]
    simp only [exec_distributorTakeover, execDistributorTakeover, takeover, hn, hskip, if_true]

end Sys2Proof.Proofs.Package

/-!
O49. What the host's BARs and PCIe devices may do (R51 to R53, R79 to R81), and completions of the C7's own PCIe requests
(R52, R179).
-/

namespace Sys2Proof.Proofs.Package

open Sys2Proof Sys2Proof.Machine Sys2Proof.Safety Sys2Proof.Laws

/-! ### Bytes written under the key that holds their units -/

/-- A byte written where no other key holds its unit changes that byte and no key. -/
theorem setByteKey_same {s : State} {key : BitVec 8} {a : Nat} (v : Byte)
    (hk : keyed a = true → Assoc.get 0 s.unitKey (a / 64) = key) :
    (s.setByteKey key a v).mem = Memory.write s.mem a v ∧ (s.setByteKey key a v).unitKey = s.unitKey := by
  have hrekey : (if keyed a then s.rekey key (a / 64) else s) = s := by
    split
    · simp only [State.rekey, hk ‹_›, if_true]
    · rfl
  simp only [State.setByteKey, hrekey]
  split <;> exact ⟨rfl, rfl⟩

/-- Bytes written where no other key holds their units stand there, and no other byte changes. -/
theorem setBytesKey_stored {s : State} {key : BitVec 8} {a : Nat} {vs : List Byte} (hk : SameKey s key a vs.length) (hm : MemInv s) :
    Stored s (s.setBytesKey key a vs) a vs := by
  induction vs generalizing s a with
  | nil =>
    intro b
    rw [if_neg (by simp only [List.length_nil]; omega)]
    rfl
  | cons v vs ih =>
    obtain ⟨hmem, hkeys⟩ := setByteKey_same (s := s) (key := key) (a := a) v (hk 0 (Nat.zero_lt_succ _))
    have hrest : SameKey (s.setByteKey key a v) key (a + 1) vs.length := by
      intro k hlt hkeyed
      rw [hkeys]
      have h := hk (k + 1) (Nat.succ_lt_succ hlt)
      rw [← Nat.add_assoc, Nat.add_right_comm] at h
      exact h hkeyed
    have hwf : MemInv (s.setByteKey key a v) := setByteKey_wf s key a v hm
    intro b
    have hhere : (s.setByteKey key a v).byte b = if b = a then v else s.byte b := by
      unfold State.byte
      rw [hmem]
      exact read_write a b v hm
    refine (ih hrest hwf b).trans ?_
    rw [hhere, List.length_cons]
    by_cases hb : b = a
    · subst hb
      rw [if_neg (by omega), if_pos rfl, if_pos (by omega), Nat.sub_self]
      rfl
    · by_cases hin : a + 1 ≤ b ∧ b < a + 1 + vs.length
      · rw [if_pos hin, if_pos (by omega), show b - a = b - (a + 1) + 1 by omega, List.getD_cons_succ]
      · rw [if_neg hin, if_neg hb, if_neg (by omega)]

theorem inject_mem (s : State) (p : Packet) : (s.inject p).1.mem = s.mem := by
  unfold State.inject
  split <;> rfl

/-- Counting an access in far memory sends a message and leaves memory as it is. -/
theorem countFar_mem (s : State) (a : Nat) : (s.countFar a).mem = s.mem := by
  unfold State.countFar
  split
  · exact inject_mem s _
  · rfl

/-! ### An access from outside (R27, R51, R53) -/

/-- A place off the package has no home in it. -/
theorem outerRefuse_of_off {s : State} {key : BitVec 8} {cell n : Nat} {write : Bool} (h : offCell cell = true) :
    outerRefuse s key cell n write = some 2 := by
  have hregion : (physRegion cell != .hbm && physRegion cell != .sram && physRegion cell != .far) = true := by
    unfold offCell at h
    cases hr : physRegion cell <;> simp_all
  simp only [outerRefuse, hregion, if_true]

section Outer

variable {port : Nat} {pa : BitVec 52} {write : Option (List Byte)} {n : Nat} {u : State}

/-- The bytes that an access moves. -/
def accessLength (write : Option (List Byte)) (n : Nat) : Nat := match write with | some bs => bs.length | none => n

theorem outerAccess_off (h : offCell (physCell pa) = true) (hm : 0 < accessLength write n) :
    outerAccess port pa write n u
      = u.outerSend { port := port, pa := pa, write := write.isSome, left := accessLength write n, data := write.getD [] } := by
  have hgo : (offCell (physCell pa) && decide (0 < accessLength write n)) = true := by simp [h, hm]
  exact if_pos hgo

theorem outerAccess_refused (h : offCell (physCell pa) = false) {c : BitVec 4}
    (hr : outerRefuse u (physKey pa) (physCell pa) (accessLength write n) write.isSome = some c) :
    outerAccess port pa write n u = u.answerOutside false [] := by
  cases write <;> simp only [accessLength] at hr <;>
    simp only [outerAccess, h, Bool.false_and, Bool.false_eq_true, if_false, hr]

theorem outerAccess_read (hr : outerRefuse u (physKey pa) (physCell pa) n false = none) :
    outerAccess port pa none n u = (u.countFar (physCell pa)).answerOutside true (u.bytesKey (physKey pa) (physCell pa) n) := by
  have hon : offCell (physCell pa) = false := by
    by_contra h
    rw [outerRefuse_of_off (Bool.eq_true_of_not_eq_false h)] at hr
    cases hr
  simp only [outerAccess, hon, Bool.false_and, Bool.false_eq_true, if_false, Option.isSome_none, hr]

theorem outerAccess_write {bs : List Byte} (hr : outerRefuse u (physKey pa) (physCell pa) bs.length true = none) :
    outerAccess port pa (some bs) n u
      = ((u.setBytesKey (physKey pa) (physCell pa) bs).countFar (physCell pa)).answerOutside true [] := by
  have hon : offCell (physCell pa) = false := by
    by_contra h
    rw [outerRefuse_of_off (Bool.eq_true_of_not_eq_false h)] at hr
    cases hr
  simp only [outerAccess, hon, Bool.false_and, Bool.false_eq_true, if_false, Option.isSome_some, hr]

/-- What an access that reaches a physical address does: off the package the port asks there, on it the home is read or written, or
it answers with an abort. -/
def Reaches (i : Instr) (s : State) (port : Nat) (pa : BitVec 52) (write : Option (List Byte)) (n : Nat) (u : State) : Prop :=
  (offCell (physCell pa) = true → 0 < accessLength write n → exec i s = .next (u.outerSend
      { port := port, pa := pa, write := write.isSome, left := accessLength write n, data := write.getD [] }))
    ∧ (offCell (physCell pa) = false →
        (∃ c, outerRefuse u (physKey pa) (physCell pa) (accessLength write n) write.isSome = some c) →
        ∃ t, exec i s = .next t ∧ t.mem = u.mem ∧ t.mgmt.answerOk = false)
    ∧ (write = none → outerRefuse u (physKey pa) (physCell pa) n false = none → ∃ t, exec i s = .next t ∧ t.mem = u.mem
        ∧ t.mgmt.answerOk = true ∧ t.mgmt.answer = u.bytesKey (physKey pa) (physCell pa) n)
    ∧ ∀ bs, write = some bs → outerRefuse u (physKey pa) (physCell pa) bs.length true = none →
        SameKey u (physKey pa) (physCell pa) bs.length → MemInv u →
        ∃ t, exec i s = .next t ∧ t.mgmt.answerOk = true ∧ Stored u t (physCell pa) bs

theorem reaches_of_outerAccess {i : Instr} {s : State} (h : exec i s = .next (outerAccess port pa write n u)) :
    Reaches i s port pa write n u := by
  refine ⟨fun hoff hm => ?_, fun hon ⟨c, hc⟩ => ?_, fun hw hr => ?_, fun bs hw hr hk hm => ?_⟩
  · rw [h, outerAccess_off hoff hm]
  · exact ⟨_, h.trans (congrArg _ (outerAccess_refused hon hc)), rfl, rfl⟩
  · subst hw
    exact ⟨_, h.trans (congrArg _ (outerAccess_read hr)), countFar_mem u _, rfl, rfl⟩
  · subst hw
    refine ⟨_, h.trans (congrArg _ (outerAccess_write hr)), rfl, fun b => ?_⟩
    rw [← setBytesKey_stored hk hm b]
    exact congrArg (Memory.read · b) (countFar_mem _ _)

end Outer

/-! ### The window (R79 to R81) -/

theorem mgmtRead_lnself (s : State) : mgmtRead s 0x1000 = BitVec.zeroExtend 64 s.links.self := rfl

theorem mgmtWrite_lnself (s : State) (v : BitVec 64) :
    mgmtWrite 0x1000 v s = { s with links := { s.links with self := v.extractLsb' 0 10 } } := rfl

theorem mgmtWrite_bar2base (s : State) (v : BitVec 64) :
    mgmtWrite 0x38 v s = { s with mgmt := { s.mgmt with bar2 := masked 0x800FFFFFC0000000 v } } := rfl

/-- Where the window holds no register that can be written, a write has no effect. -/
theorem mgmtWrite_none (s : State) {off : Nat} (v : BitVec 64) (h : off < 0x38 ∨ 0x40 ≤ off ∧ off < 0x1000 ∨ 0x21000 ≤ off) :
    mgmtWrite off v s = s := by
  have hbar : off ≠ 0x38 := by omega
  unfold mgmtWrite
  rw [if_neg hbar]
  rcases Nat.lt_or_ge off 0x1000 with hlow | hge
  · rw [if_pos hlow]
  · have hhigh : 0x21000 ≤ off := by omega
    simp only [Bool.and_eq_true, decide_eq_true_eq]
    rw [if_neg (by omega), if_neg (by omega), if_neg (by omega), if_neg (by omega), if_neg (by omega), if_neg (by omega),
      if_neg (by omega), if_neg (by omega), if_neg (by omega), if_neg (by omega)]

theorem zeroExtend_low10 (v : BitVec 64) : BitVec.zeroExtend 64 (v.extractLsb' 0 10) = v &&& 0x3FF := by
  refine BitVec.eq_of_toNat_eq ?_
  have hmask : v.toNat &&& (2 ^ 10 - 1) = v.toNat % 2 ^ 10 := Nat.and_two_pow_sub_one_eq_mod _ _
  rw [BitVec.toNat_and, BitVec.zeroExtend, BitVec.toNat_setWidth, BitVec.extractLsb'_toNat, Nat.shiftRight_zero]
  change v.toNat % 2 ^ 10 % 2 ^ 64 = v.toNat &&& (2 ^ 10 - 1)
  rw [hmask]
  omega

theorem execRegisterWrite_aligned {s : State} (h : s.inp.n % 8 = 0) :
    exec .registerWrite s = .next (mgmtWrite s.inp.n s.inp.value (s.answerOutside true [])) := by
  rw [exec_registerWrite, execRegisterWrite, if_pos h]

theorem execRegisterWrite_unaligned {s : State} (h : s.inp.n % 8 ≠ 0) :
    exec .registerWrite s = .next (s.answerOutside false []) := by
  rw [exec_registerWrite, execRegisterWrite, if_neg h]

theorem exec_bar0Access_next (s : State) : exec .bar0Access s = .next (bar0Access s.inp.n s.inp.write s) := rfl

theorem exec_bar2Access_next (s : State) :
    exec .bar2Access s = .next (bar2Access s.inp.n s.inp.m (if s.inp.flag then some s.inp.bytes else none) s) := rfl

theorem bar0Access_bad {s : State} {off : Nat} (w : Option (BitVec 64)) (h : s.endpointPort = none ∨ off % 8 ≠ 0) :
    bar0Access off w s = s.answerOutside false [] := by
  have hbad : (s.endpointPort.isNone || decide (off % 8 ≠ 0)) = true := by
    rcases h with h | h <;> simp [h]
  exact if_pos hbad

/-- Behind the endpoint's port an aligned offset of BAR0 is an offset of the window. -/
theorem bar0Access_aligned {s : State} {off : Nat} (w : Option (BitVec 64)) (he : s.endpointPort ≠ none) (h8 : off % 8 = 0) :
    bar0Access off w s = match w with
      | none => windowRead off s
      | some v => if off = 0x20030 || off = 0x20010 then mgmtWrite off v (s.answerOutside true []) else s.answerOutside true [] := by
  have hgood : ¬ (s.endpointPort.isNone || decide (off % 8 ≠ 0)) = true := by
    simp [h8, Option.isNone_iff_eq_none, he]
  exact if_neg hgood

theorem windowRead_free {s : State} {off : Nat} (h : (s.queue ((off - 0x10000) / 64)).waiting = []) :
    windowRead off s = s.answerOutside true (leBytes 8 (mgmtRead s off).toNat) := by
  simp [windowRead, h]

theorem bar2Access_bad {s : State} {off n : Nat} (w : Option (List Byte))
    (h : s.endpointPort = none ∨ s.mgmt.bar2.getLsbD 63 = false ∨ 2 ^ 30 ≤ off) :
    bar2Access off n w s = s.answerOutside false [] := by
  unfold bar2Access
  rcases h with h | h
  · rw [h]
  · have hplace : s.bar2Place off = none := if_pos (by
      rcases h with h | h <;> simp only [h, Bool.not_false, Bool.true_or, decide_true, Bool.or_true])
    rw [hplace]
    cases s.endpointPort <;> rfl

theorem bar2Place_in {s : State} {off : Nat} (hen : s.mgmt.bar2.getLsbD 63 = true) (hoff : off < 2 ^ 30) :
    s.bar2Place off = some (s.mgmt.bar2.extractLsb' 30 22 ++ BitVec.ofNat 30 off) :=
  if_neg (by simp only [hen, Bool.not_true, Bool.false_or, decide_eq_true_eq]; omega)

theorem bar2Access_in {s : State} {off n port : Nat} (w : Option (List Byte)) (he : s.endpointPort = some port)
    (hen : s.mgmt.bar2.getLsbD 63 = true) (hoff : off < 2 ^ 30) :
    bar2Access off n w s = outerAccess port (s.mgmt.bar2.extractLsb' 30 22 ++ BitVec.ofNat 30 off) w n s := by
  rw [bar2Access, he, bar2Place_in hen hoff]

/-! ### Requests of devices (R51, R52) -/

section Inbound

variable {s : State} {r : PcieRequest}

theorem exec_pcieInboundRequest_of_req (hr : s.inp.req = some r) : exec .pcieInboundRequest s = .next (pcieInbound r s) := by
  rw [exec_pcieInboundRequest, execPcieInboundRequest, withPcie, hr]

theorem exec_pcieAtomicopInbound_of_req (hr : s.inp.req = some r) : exec .pcieAtomicopInbound s = .next (pcieAtomic r s) := by
  rw [exec_pcieAtomicopInbound, execPcieAtomicopInbound, withPcie, hr]

theorem pcieInbound_msi (hup : s.pcieUp r.port = true) {irq : BitVec 37} (hm : r.msi = some irq)
    (hmode : (s.pciePort r.port).mode ≠ .endpoint) : pcieInbound r s = s.sendMsi irq := by
  have hmode' : ((s.pciePort r.port).mode == .endpoint) = false := beq_eq_false_iff_ne.mpr hmode
  simp only [pcieInbound, hup, hm, hmode', Bool.not_true, Bool.false_eq_true, if_false]

theorem pcieInbound_unplaced (hup : s.pcieUp r.port = true) (hm : r.msi = none)
    (hp : inboundPlace r (if r.write then accWrite else accRead) s = none) : pcieInbound r s = s.answerOutside false [] := by
  simp only [pcieInbound, hup, hm, hp, Bool.not_true, Bool.false_eq_true, if_false]

theorem pcieInbound_placed (hup : s.pcieUp r.port = true) (hm : r.msi = none) {pa : BitVec 52} {u : State}
    (hp : inboundPlace r (if r.write then accWrite else accRead) s = some (pa, u)) :
    pcieInbound r s = outerAccess r.port pa (if r.write then some r.data else none) r.len u := by
  simp only [pcieInbound, hup, hm, hp, Bool.not_true, Bool.false_eq_true, if_false]

theorem pcieAtomic_bad (hup : s.pcieUp r.port = true)
    (h : r.atomic = none ∨ (r.len ≠ 4 ∧ r.len ≠ 8) ∨ r.addr.toNat % r.len ≠ 0) : pcieAtomic r s = s.answerOutside false [] := by
  simp only [pcieAtomic, hup, Bool.not_true, Bool.false_eq_true, if_false]
  cases ha : r.atomic with
  | none => rfl
  | some a =>
    have hbad : ((decide (r.len ≠ 4) && decide (r.len ≠ 8)) || decide (3 ≤ a.toNat) || decide (r.addr.toNat % r.len ≠ 0)) = true := by
      rcases h with h | h | h
      · rw [ha] at h; cases h
      · simp [h]
      · simp [h]
    exact if_pos hbad

/-- The operation, compare and operand of an AtomicOp at its home. -/
def atomicParts (r : PcieRequest) (a : BitVec 2) : Nat × Nat × Nat :=
  (if a = 0 then 0 else if a = 1 then 6 else 7, if a = 2 then field r.data 0 r.len else 0,
    if a = 2 then field r.data r.len r.len else field r.data 0 r.len)

theorem pcieAtomic_home (hup : s.pcieUp r.port = true) {a : BitVec 2} (ha : r.atomic = some a) (h3 : a.toNat < 3)
    (hlen : r.len = 4 ∨ r.len = 8) (halign : r.addr.toNat % r.len = 0) {pa : BitVec 52} {u : State}
    (hp : inboundPlace r accAtomic s = some (pa, u)) (hr : outerRefuse u (physKey pa) (physCell pa) r.len false = none) :
    let x := u.atomic (atomicParts r a).1 r.len (physKey pa) (physCell pa) (atomicParts r a).2.1 (atomicParts r a).2.2
    pcieAtomic r s = (x.2.countFar (physCell pa)).answerOutside true (leBytes r.len x.1) := by
  have hon : offCell (physCell pa) = false := by
    by_contra h
    rw [outerRefuse_of_off (Bool.eq_true_of_not_eq_false h)] at hr
    cases hr
  have hgood : ((decide (r.len ≠ 4) && decide (r.len ≠ 8)) || decide (3 ≤ a.toNat) || decide (r.addr.toNat % r.len ≠ 0)) = false := by
    rcases hlen with hlen | hlen <;> simp [hlen, h3] <;> rw [← hlen] <;> exact halign
  simp only [pcieAtomic, hup, ha, hgood, hp, hon, hr, Bool.not_true, Bool.false_eq_true, if_false]
  rfl

/-- An AtomicOp at its home gives the old value, and adds, swaps, or swaps where the compare holds. -/
theorem pcieAtomic_result (hup : s.pcieUp r.port = true) {a : BitVec 2} (ha : r.atomic = some a) (h3 : a.toNat < 3)
    (hlen : r.len = 4 ∨ r.len = 8) (halign : r.addr.toNat % r.len = 0) {pa : BitVec 52} {u : State}
    (hp : inboundPlace r accAtomic s = some (pa, u)) (hr : outerRefuse u (physKey pa) (physCell pa) r.len false = none) :
    let old := leNat (u.bytesKey (physKey pa) (physCell pa) r.len)
    (pcieAtomic r s).mgmt.answerOk = true ∧ (pcieAtomic r s).mgmt.answer = leBytes r.len old
      ∧ (a = 0 → (pcieAtomic r s).mem = (u.setBytesKey (physKey pa) (physCell pa)
          (leBytes r.len ((old + field r.data 0 r.len) % 2 ^ (8 * r.len)))).mem)
      ∧ (a = 1 → (pcieAtomic r s).mem = (u.setBytesKey (physKey pa) (physCell pa) (leBytes r.len (field r.data 0 r.len))).mem)
      ∧ (a = 2 → (pcieAtomic r s).mem = (if old = field r.data 0 r.len then u.setBytesKey (physKey pa) (physCell pa)
          (leBytes r.len (field r.data r.len r.len)) else u).mem) := by
  intro old
  rw [pcieAtomic_home hup ha h3 hlen halign hp hr]
  have hold (op c x : Nat) : (u.atomic op r.len (physKey pa) (physCell pa) c x).1 = old := by
    unfold State.atomic
    split <;> rfl
  refine ⟨rfl, congrArg _ (hold _ _ _), ?_, ?_, ?_⟩
  · rintro rfl
    exact countFar_mem _ _
  · rintro rfl
    exact countFar_mem _ _
  · rintro rfl
    exact countFar_mem _ _

end Inbound

/-! ### What the host and devices may do -/

theorem outsideAccesses : Claims.OutsideAccesses := by
  intro s
  refine ⟨⟨_, rfl, rfl⟩, ⟨_, rfl, rfl⟩, ?_, ?_, ?_, ?_, ?_, ?_, ?_, ?_, ?_, ?_, ?_, ?_⟩
  · rintro h8 i (rfl | rfl)
    · exact ⟨_, execRegisterWrite_unaligned h8, rfl⟩
    · exact ⟨_, (exec_bar0Access_next s).trans (congrArg _ (bar0Access_bad _ (.inr h8))), rfl⟩
  · intro he
    exact ⟨⟨_, (exec_bar0Access_next s).trans (congrArg _ (bar0Access_bad _ (.inl he))), rfl⟩,
      ⟨_, (exec_bar2Access_next s).trans (congrArg _ (bar2Access_bad _ (.inl he))), rfl⟩⟩
  · intro he h8 hw hq
    refine ⟨_, (exec_bar0Access_next s).trans (congrArg _ ?_), rfl⟩
    rw [hw, bar0Access_aligned _ he h8]
    exact windowRead_free hq
  · intro he h8 hmsg hidle v hw
    refine ⟨_, (exec_bar0Access_next s).trans (congrArg _ ?_), rfl⟩
    rw [hw, bar0Access_aligned _ he h8]
    exact if_neg (by simp [hmsg, hidle])
  · intro he hn v
    refine ⟨mgmtWrite 0x20030 v (s.answerOutside true []), fun hw => ?_, fun hv => ?_, rfl, rfl⟩
    · rw [exec_bar0Access_next, hw, bar0Access_aligned _ he (by rw [hn]), hn]
      rfl
    · rw [execRegisterWrite_aligned (by rw [hn]), hn, hv]
  · intro hn
    refine ⟨_, by rw [execRegisterWrite_aligned (by rw [hn]), hn, mgmtWrite_lnself], rfl, ?_⟩
    rw [mgmtRead_lnself]
    exact zeroExtend_low10 s.inp.value
  · intro hn
    exact ⟨_, by rw [execRegisterWrite_aligned (by rw [hn]), hn, mgmtWrite_bar2base], rfl⟩
  · intro h8 hoff
    exact ⟨_, (execRegisterWrite_aligned h8).trans (congrArg _ (mgmtWrite_none _ _ hoff)), rfl⟩
  · intro h
    exact ⟨_, (exec_bar2Access_next s).trans (congrArg _ (bar2Access_bad _ (.inr h))), rfl⟩
  · intro hen hn he hflag pa hon hr
    obtain ⟨port, hport⟩ := Option.ne_none_iff_exists'.mp he
    have hexec : exec .bar2Access s = .next (outerAccess port pa none s.inp.m s) := by
      rw [exec_bar2Access_next, bar2Access_in _ hport hen hn, hflag]
      rfl
    exact (reaches_of_outerAccess hexec).2.2.1 rfl hr
  · intro hen hn port hport
    exact reaches_of_outerAccess (by rw [exec_bar2Access_next, bar2Access_in _ hport hen hn])
  · intro r hr hup
    refine ⟨?_, ?_, ?_, ?_, ?_⟩
    · intro irq hm hmode
      exact ⟨_, (exec_pcieInboundRequest_of_req hr).trans (congrArg _ (pcieInbound_msi hup hm hmode)), rfl, rfl⟩
    · intro hm hp
      exact ⟨_, (exec_pcieInboundRequest_of_req hr).trans (congrArg _ (pcieInbound_unplaced hup hm hp)), rfl⟩
    · intro pa u hm hp
      exact reaches_of_outerAccess (by rw [exec_pcieInboundRequest_of_req hr, pcieInbound_placed hup hm hp])
    · intro hbad
      exact ⟨_, (exec_pcieAtomicopInbound_of_req hr).trans (congrArg _ (pcieAtomic_bad hup hbad)), rfl⟩
    · intro a pa u ha h3 hlen halign hp hrefuse
      exact ⟨_, exec_pcieAtomicopInbound_of_req hr, pcieAtomic_result hup ha h3 hlen halign hp hrefuse⟩

/-! ### Completions of the C7's own requests (R52, R179) -/

/-- The state in which a request's tag is free again. -/
def pcieDone (s : State) (tag : Nat) : State := { s with links := { s.links with pcie := Assoc.erase s.links.pcie tag } }

/-- The state in which writes posted before a request are acknowledged. -/
def flushed (s : State) (ps : List Packet) : State := ps.foldl (fun t p => t.respond p 9 0 0 []) s

theorem flushed_spec (ps : List Packet) (s : State) : (flushed s ps).mem = s.mem ∧ (flushed s ps).links = s.links
    ∧ ∃ acks, (flushed s ps).mesh.pending = s.mesh.pending ++ acks
      ∧ acks.map (fun p => (p.kind, p.dst, p.seq)) = ps.map (fun p => (9, p.src, p.seq)) := by
  induction ps generalizing s with
  | nil => exact ⟨rfl, rfl, [], (List.append_nil _).symm, rfl⟩
  | cons p ps ih =>
    obtain ⟨hmem, hlinks, acks, hacks, hmap⟩ := ih (s.respond p 9 0 0 [])
    exact ⟨hmem, hlinks, _ :: acks, hacks.trans (List.append_assoc _ [_] _), congrArg (List.cons (9, p.src, p.seq)) hmap⟩

theorem respond_answers (s : State) (p : Packet) (kind op : BitVec 4) (addr : Nat) (data : List Byte) :
    Answers s (s.respond p kind op addr data) p kind op addr data :=
  ⟨_, rfl, rfl, rfl, rfl, rfl, rfl, rfl, rfl, rfl, rfl, rfl, rfl, rfl⟩

/-- The capability bit that an AtomicOp learns. -/
def atomicBit (a : BitVec 2) (len : Nat) : Nat := capBit (if a = 0 then 0 else if a = 1 then 6 else 7) (len == 8)

theorem atomicBit_le (a : BitVec 2) (len : Nat) : atomicBit a len ≤ 5 := by
  unfold atomicBit
  generalize (len == 8) = wide
  revert a wide
  decide

/-- The state in which a completed request is answered. -/
def pcieAnswered (o : PcieOut) (ok : Bool) (bs : List Byte) (u : State) : State :=
  match o.req.atomic, o.orig with
  | some a, some p =>
    let t := u.learnPath (1024 + o.req.port) (atomicBit a o.req.len) ok
    if ok then t.respond p 0xA 0 0 bs else t.nack p nackPath
  | none, some p => if ok then u.respond p 8 0 0 bs else u.nack p nackPartition
  | _, none => u

theorem learnPath_links (u : State) (port i : Nat) (ok : Bool) : (u.learnPath (1024 + port) i ok).links
    = { u.links with pcieCap := Assoc.set u.links.pcieCap port (learned (Assoc.get 0 u.links.pcieCap port) i ok) } := by
  simp only [State.learnPath, State.pathWord, show ¬ 1024 + port < 1024 by omega, if_false, Nat.add_sub_cancel_left]

theorem pcieAnswered_keeps (o : PcieOut) (ok : Bool) (bs : List Byte) (u : State) : (pcieAnswered o ok bs u).mem = u.mem
    ∧ (pcieAnswered o ok bs u).links.pcie = u.links.pcie ∧ (pcieAnswered o ok bs u).links.pcieWait = u.links.pcieWait := by
  have hlearn (a : BitVec 2) : (u.learnPath (1024 + o.req.port) (atomicBit a o.req.len) ok).links.pcie = u.links.pcie
      ∧ (u.learnPath (1024 + o.req.port) (atomicBit a o.req.len) ok).links.pcieWait = u.links.pcieWait := by
    rw [learnPath_links]
    exact ⟨rfl, rfl⟩
  unfold pcieAnswered
  split
  · dsimp only
    split <;> exact ⟨rfl, hlearn _⟩
  · split <;> exact ⟨rfl, rfl, rfl⟩
  · exact ⟨rfl, rfl, rfl⟩

/-- The state in which a request that waits for a tag of the port is sent, if one does. -/
def pcieNext (port : Nat) (s : State) : State :=
  match s.links.pcieWait.find? (fun p => ((pktHome p).2 - 0xD0000000000) / 2 ^ 38 == port) with
  | some p => toPcie { s with links := { s.links with pcieWait := s.links.pcieWait.erase p } } p (pktHome p).2
  | none => s

theorem pcieCompletion_eq_next {s : State} {tag : Nat} {o : PcieOut} (ok : Bool) (bs : List Byte)
    (ho : Assoc.find? s.links.pcie tag = some o) :
    pcieCompletion tag ok bs s = pcieNext o.req.port (pcieAnswered o ok bs (flushed (pcieDone s tag) o.flushes)) := by
  unfold pcieCompletion
  rw [ho]
  rfl

theorem pcieCompletion_eq {s : State} {tag : Nat} {o : PcieOut} (ok : Bool) (bs : List Byte)
    (ho : Assoc.find? s.links.pcie tag = some o)
    (hw : ∀ p ∈ s.links.pcieWait, ((pktHome p).2 - 0xD0000000000) / 2 ^ 38 ≠ o.req.port) :
    pcieCompletion tag ok bs s = pcieAnswered o ok bs (flushed (pcieDone s tag) o.flushes) := by
  obtain ⟨-, hlinks, -⟩ := flushed_spec o.flushes (pcieDone s tag)
  obtain ⟨-, -, hwait⟩ := pcieAnswered_keeps o ok bs (flushed (pcieDone s tag) o.flushes)
  have hnone : (pcieAnswered o ok bs (flushed (pcieDone s tag) o.flushes)).links.pcieWait.find?
      (fun p => ((pktHome p).2 - 0xD0000000000) / 2 ^ 38 == o.req.port) = none := by
    rw [hwait, hlinks, List.find?_eq_none]
    intro p hp
    exact fun h => hw p hp (beq_iff_eq.mp h)
  rw [pcieCompletion_eq_next ok bs ho, pcieNext, hnone]

/-- The answer to an atomic request teaches the port its capability. -/
theorem pcieAnswered_pcieCap {o : PcieOut} {a : BitVec 2} {p : Packet} (ha : o.req.atomic = some a) (hp : o.orig = some p)
    (ok : Bool) (bs : List Byte) (u : State) :
    Assoc.get 0 (pcieAnswered o ok bs u).links.pcieCap o.req.port
      = learned (Assoc.get 0 u.links.pcieCap o.req.port) (atomicBit a o.req.len) ok := by
  have hlinks : (pcieAnswered o ok bs u).links = (u.learnPath (1024 + o.req.port) (atomicBit a o.req.len) ok).links := by
    simp only [pcieAnswered, ha, hp]
    split <;> rfl
  rw [hlinks, learnPath_links, get_eq_find?, find?_set_same]
  rfl

/-- A bit that is not known is learned, with whether the operation was performed (R45). -/
theorem learned_bits {w : BitVec 64} {i : Nat} (ok : Bool) (hi : i ≤ 5) (hk : w.getLsbD 62 = false)
    (hl : w.getLsbD (40 + i) = false) :
    (learned w i ok).getLsbD (40 + i) = true ∧ (learned w i ok).getLsbD (48 + i) = ok := by
  have hword : learned w i ok = if ok then bitOn (bitOn w (40 + i)) (48 + i) else bitOff (bitOn w (40 + i)) (48 + i) := by
    simp only [learned, hk, hl, Bool.or_self, Bool.false_eq_true, if_false]
    rfl
  have h40 : 40 + i < 64 := by omega
  have h48 : 48 + i < 64 := by omega
  have hne : 40 + i ≠ 48 + i := by omega
  rw [hword]
  cases ok
  · simp only [Bool.false_eq_true, if_false, getLsbD_bitOff, bitOn_same w h40, hne, ne_eq, not_false_eq_true, decide_true,
      Bool.and_true, not_true_eq_false, decide_false, Bool.and_false, and_self]
  · simp only [if_true, bitOn_same _ h48, getLsbD_bitOn _ (48 + i), bitOn_same w h40, Bool.true_or, and_self]

theorem pcieCompletes : Claims.PcieCompletes := by
  intro s o ho hw
  obtain ⟨hmem, hlinks, acks, hacks, hmap⟩ := flushed_spec o.flushes (pcieDone s s.inp.n)
  obtain ⟨amem, apcie, -⟩ := pcieAnswered_keeps o s.inp.flag s.inp.bytes (flushed (pcieDone s s.inp.n) o.flushes)
  refine ⟨pcieAnswered o s.inp.flag s.inp.bytes (flushed (pcieDone s s.inp.n) o.flushes), flushed (pcieDone s s.inp.n) o.flushes,
    acks, ?_, ?_, amem.trans hmem, hacks, hmap, ?_, fun p hp => ⟨?_, ?_, ?_⟩⟩
  · rw [exec_pcieCompletion, execPcieCompletion, pcieCompletion_eq _ _ ho hw]
  · rw [apcie, hlinks]
    exact find?_erase_same _ _
  · intro horig
    unfold pcieAnswered
    rw [horig]
    cases o.req.atomic <;> rfl
  · intro ha hok
    simp only [pcieAnswered, ha, hp, hok, if_true]
    exact respond_answers _ _ _ _ _ _
  · intro ha hok
    simp only [pcieAnswered, ha, hp, hok, Bool.false_eq_true, if_false]
    exact respond_answers _ _ _ _ _ _
  · intro a ha
    refine ⟨?_, ?_, ?_⟩
    · intro hok
      simp only [pcieAnswered, ha, hp, hok, if_true]
      exact respond_answers _ _ _ _ _ _
    · intro hok
      simp only [pcieAnswered, ha, hp, hok, Bool.false_eq_true, if_false]
      exact respond_answers _ _ _ _ _ _
    · intro hknown hbit
      rw [pcieAnswered_pcieCap ha hp, hlinks]
      exact learned_bits _ (atomicBit_le a o.req.len) hknown hbit

/-- Settles O49: accesses from outside and the window by their cases, completions by what each answer does. -/
theorem hostAccesses : Obligations.HostAccesses := ⟨outsideAccesses, pcieCompletes⟩

end Sys2Proof.Proofs.Package

/-!
O46, first half. Answers of the mesh reach what waits for them (R62, R64, R192).
-/

namespace Sys2Proof.Proofs.Package

open Sys2Proof Sys2Proof.Machine Sys2Proof.Safety Sys2Proof.Laws

/-! ### What an agent has outstanding -/

/-- The agent runs a context, and is no engine. -/
def IsContext (a : Agent) : Prop := ∃ k, a = .user k ∨ a = .fw k ∨ a = .lookup k

section Outstanding

variable {a : Agent}

theorem outOf_context (h : IsContext a) (s : State) : s.outOf a = (s.ctxOf a).out := by
  obtain ⟨k, rfl | rfl | rfl⟩ := h <;> rfl

theorem setOut_context (h : IsContext a) (s : State) (xs : List Access) :
    s.setOut a xs = s.modCtxOf a (fun c => { c with out := xs }) := by
  obtain ⟨k, rfl | rfl | rfl⟩ := h <;> rfl

theorem setReply_context (h : IsContext a) (s : State) (r : Reply) :
    s.setReply a r = s.modCtxOf a (fun c => { c with waits := { c.waits with reply := some r } }) := by
  obtain ⟨k, rfl | rfl | rfl⟩ := h <;> rfl

theorem setOut_outOf (s : State) (a : Agent) (xs : List Access) : (s.setOut a xs).outOf a = xs := by
  cases a <;> simp [State.setOut, State.outOf]

theorem answered_outOf (s : State) (a : Agent) (o : Access) : (s.answered a o).outOf a = (s.outOf a).erase o :=
  setOut_outOf s a _

theorem answered_context (h : IsContext a) (s : State) (o : Access) :
    s.answered a o = s.modCtxOf a (fun c => { c with out := (s.outOf a).erase o }) := setOut_context h s _

theorem answered_keeps (s : State) (a : Agent) (o : Access) :
    (s.answered a o).mem = s.mem ∧ (s.answered a o).mesh = s.mesh := by
  cases a <;> exact ⟨rfl, rfl⟩

/-- An answered access gives its bundle the reply. -/
theorem replied (h : IsContext a) (s : State) (o : Access) (r : Reply) :
    ((s.answered a o).setReply a r).outOf a = (s.outOf a).erase o
      ∧ (((s.answered a o).setReply a r).ctxOf a).waits.reply = some r := by
  rw [outOf_context h, setReply_context h, answered_context h]
  simp only [modCtxOf_ctxOf, and_self]

/-- A context updated after its access is answered. -/
theorem answered_modCtxOf (h : IsContext a) (s : State) (o : Access) (f : Ctx → Ctx) (hf : ∀ c, (f c).out = c.out) :
    ((s.answered a o).modCtxOf a f).outOf a = (s.outOf a).erase o
      ∧ ((s.answered a o).modCtxOf a f).ctxOf a = f { s.ctxOf a with out := (s.outOf a).erase o } := by
  rw [outOf_context h, answered_context h]
  simp only [modCtxOf_ctxOf, hf, and_self]

end Outstanding

/-! ### An access that fails (R64) -/

theorem nackTrap_eq (op : BitVec 4) : nackTrap op = if op = 1 then 0x0A else if op = 3 then 0x0C else 0x13 := by
  revert op
  decide

theorem nackTrap_ne_tDebug (op : BitVec 4) : nackTrap op ≠ tDebug := by
  revert op
  decide

theorem nackTrap_ne_tPage (op : BitVec 4) : nackTrap op ≠ tPage := by
  revert op
  decide

theorem mem_insertDeferred (d : Deferred) (l : List Deferred) : d ∈ insertDeferred d l := by
  induction l with
  | nil => exact List.mem_singleton_self d
  | cons e rest ih =>
    unfold insertDeferred
    split
    · exact List.mem_cons_self
    · exact List.mem_cons_of_mem _ ih

theorem defer_ctxOf (s : State) (a : Agent) (d : Deferred) :
    (s.defer a d).ctxOf a = { s.ctxOf a with deferred := insertDeferred d (s.ctxOf a).deferred } := modCtxOf_ctxOf s a _

section Fails

variable {s : State} {a : Agent} {o : Access} {p : Packet} {code : Byte}

theorem accessFails_held (h : o.held = true) : s.accessFails a o p code = (s.answered a o).setReply a (.trap code) := by
  simp only [State.accessFails, h, if_true]

/-- The issue count that a failed access is reported with. -/
def failCount (c : Ctx) (o : Access) (p : Packet) : Nat := ((c.ldrs.find? (·.answeredBy p)).map (·.count)).getD o.count

/-- The failed `LDR` is dropped from its context. -/
def dropLdrs (p : Packet) (c : Ctx) : Ctx := { c with ldrs := c.ldrs.filter (fun l => !l.answeredBy p) }

theorem accessFails_context (ha : IsContext a) (h : o.held = false) : s.accessFails a o p code
    = ((s.answered a o).modCtxOf a (dropLdrs p)).report a (failCount ((s.answered a o).ctxOf a) o p) code := by
  obtain ⟨k, rfl | rfl | rfl⟩ := ha <;> simp only [State.accessFails, h, Bool.false_eq_true, if_false] <;> rfl

theorem report_deferred {t : State} {n : Nat} (h : (t.ctxOf a).status.intrap = false) :
    t.report a n code = t.defer a ⟨0, { code := code }, []⟩ := by
  simp only [State.report, h, Bool.false_and, Bool.false_eq_true, if_false]

/-- What a handler has sent itself is fatal to its region when it fails (R192, R315). -/
theorem report_fatal {t : State} {n : Nat} (hfw : ∀ k, a ≠ .fw k) (ht : (t.ctxOf a).status.intrap = true)
    (hn : (t.ctxOf a).trapAt ≤ n) (hr : (t.ctxOf a).dbg.replayctl.extractLsb' 62 2 = 0) (hd : code ≠ tDebug) (hp : code ≠ tPage) :
    (t.report a n code).cur = t.cur ∧ (t.report a n code).ctxOf a = t.ctxOf a
      ∧ ∃ m, (t.report a n code).sched = .happen .regionFault
          { n := (t.ctxOf a).id.region.toNat, m := m, value := BitVec.zeroExtend 64 code, addr := some (t.ctxOf a).pc, who := a }
          :: t.sched := by
  have hgo : ((t.ctxOf a).status.intrap && decide ((t.ctxOf a).trapAt ≤ n) && (code != tPage)) = true := by
    simp only [ht, hn, decide_true, Bool.true_and, bne_iff_ne]
    exact hp
  have hctx : ({ t with cur := a } : State).ctx = t.ctxOf a := rfl
  have hfatal : ({ t with cur := a } : State).trapFatal { code := code } = true := by
    simp only [State.trapFatal, hctx, ht, Bool.or_true, Bool.true_or]
  have hfw' : ({ t with cur := a, issue := {} } : State).isFw = false := by
    cases a with
    | fw k => exact absurd rfl (hfw k)
    | _ => rfl
  have hreport : t.report a n code
      = { ({ t with cur := a, issue := {} } : State).fatalTrap { code := code } with cur := t.cur, issue := t.issue } := by
    simp only [State.report, hgo, if_true]
    rw [takeTrap_fatal _ { code := code } hfatal (by rw [hctx]; exact hr) hd]
  rw [hreport, State.fatalTrap, hfw']
  exact ⟨rfl, by cases a <;> rfl, _, rfl⟩

end Fails

/-! ### Answers reach the access they answer -/

section Answered

variable {s : State} {p : Packet} {a : Agent} {o : Access}

theorem exec_meshRdd_of_pkt (hp : s.inp.pkt = some p) : exec .meshRdd s = .next (meshRdd p s) := by
  rw [exec_meshRdd, execMeshRdd, withPacket, hp]
theorem exec_meshWack_of_pkt (hp : s.inp.pkt = some p) : exec .meshWack s = .next (meshWack p s) := by
  rw [exec_meshWack, execMeshWack, withPacket, hp]
theorem exec_meshAmor_of_pkt (hp : s.inp.pkt = some p) : exec .meshAmor s = .next (meshAmor p s) := by
  rw [exec_meshAmor, execMeshAmor, withPacket, hp]
theorem exec_meshNack_of_pkt (hp : s.inp.pkt = some p) : exec .meshNack s = .next (meshNack p s) := by
  rw [exec_meshNack, execMeshNack, withPacket, hp]
theorem exec_meshHopr_of_pkt (hp : s.inp.pkt = some p) : exec .meshHopr s = .next (meshHopr p s) := by
  rw [exec_meshHopr, execMeshHopr, withPacket, hp]

variable (hf : s.findAccess p = some (a, o))
include hf

theorem meshRdd_data (h : o.held = true) (hp : p.poison = false) : meshRdd p s = (s.answered a o).setReply a (.data p.data) := by
  simp only [meshRdd, hf, hp, h, Bool.false_eq_true, if_false, if_true]

theorem meshRdd_poison (hp : p.poison = true) : meshRdd p s = s.accessFails a o p tEccUncorr := by
  simp only [meshRdd, hf, hp, if_true]

/-- The data of an answer are given to the `LDR` that they answer. -/
def fillLdrs (p : Packet) (c : Ctx) : Ctx :=
  { c with ldrs := c.ldrs.map (fun l => if l.answeredBy p then { l with data := some p.data } else l) }

theorem meshRdd_ldr (ha : IsContext a) (h : o.held = false) (hp : p.poison = false) :
    meshRdd p s = (s.answered a o).modCtxOf a (fillLdrs p) := by
  obtain ⟨k, rfl | rfl | rfl⟩ := ha <;> simp only [meshRdd, hf, hp, h, Bool.false_eq_true, if_false] <;> rfl

theorem meshAmor_eq : meshAmor p s = if o.held then (s.answered a o).setReply a (.data p.data) else s.answered a o := by
  simp only [meshAmor, hf]

theorem meshHopr_eq : meshHopr p s = if o.held then (s.answered a o).setReply a (.data p.data) else s.answered a o := by
  simp only [meshHopr, hf]

theorem meshWack_eq (h : o.bar = none) : meshWack p s = s.answered a o := by
  simp only [meshWack, hf, h]

theorem meshNack_eq : meshNack p s = s.accessFails a o p (nackTrap p.op) := by
  simp only [meshNack, hf]

omit hf

/-- The agents that send from a node are contexts and engines. -/
theorem isContext_of_not_engine (hm : ∀ k, a ≠ .matrix k) (hc : ∀ k, a ≠ .copy k) : IsContext a := by
  cases a with
  | user k => exact ⟨k, .inl rfl⟩
  | fw k => exact ⟨k, .inr (.inl rfl)⟩
  | lookup k => exact ⟨k, .inr (.inr rfl)⟩
  | matrix k => exact absurd rfl (hm k)
  | copy k => exact absurd rfl (hc k)

/-- An answered context keeps all but what it has outstanding. -/
theorem answered_ctxOf (ha : IsContext a) (s : State) (o : Access) :
    (s.answered a o).ctxOf a = { s.ctxOf a with out := (s.outOf a).erase o } := by
  rw [answered_context ha, modCtxOf_ctxOf]

theorem modCtxOf_engine (s : State) (k : Nat) (f : Ctx → Ctx) (copy : Bool) :
    (s.modCtxOf (.user k) f).engine k copy = s.engine k copy := by
  have hcore : (s.modCtxOf (.user k) f).core k = { s.core k with user := f (s.core k).user } := by
    rw [State.modCtxOf, State.setCtxOf, setCore_core, if_pos rfl]
    rfl
  unfold State.engine
  rw [hcore]

/-- A copy engine whose access fails stops, and its core takes the trap at a boundary (R64, R417). -/
theorem accessFails_copy {k : Nat} (h : o.held = false) (code : Byte) :
    let t := s.accessFails (.copy k) o p code
    (t.engine k true).state = .stopped ∧ (t.engine k true).dead = true
      ∧ ∃ e ∈ (t.ctxOf (.user k)).deferred, e.req.code = code ∧ e.req.source = 2 := by
  simp only [State.accessFails, h, Bool.false_eq_true, if_false, State.engineFault, if_true]
  refine ⟨?_, ?_, ?_⟩
  · rw [State.defer, modCtxOf_engine, setEngine_engine_same]
  · rw [State.defer, modCtxOf_engine, setEngine_engine_same, setEngine_engine_same]
  · rw [defer_ctxOf]
    exact ⟨_, mem_insertDeferred _ _, rfl, rfl⟩

/-- A failed access of a context that is in no handler traps at a boundary, and its `LDR` is dropped (R64). -/
theorem accessFails_deferred (ha : IsContext a) (h : o.held = false) (code : Byte) (ht : (s.ctxOf a).status.intrap = false) :
    (s.accessFails a o p code).outOf a = (s.outOf a).erase o
      ∧ ((s.accessFails a o p code).ctxOf a).ldrs = (s.ctxOf a).ldrs.filter (fun l => !l.answeredBy p)
      ∧ ∃ e ∈ ((s.accessFails a o p code).ctxOf a).deferred, e.req.code = code := by
  obtain ⟨-, hctx⟩ := answered_modCtxOf ha s o (dropLdrs p) (fun _ => rfl)
  rw [accessFails_context ha h, report_deferred (by rw [hctx]; exact ht), outOf_context ha, defer_ctxOf, hctx]
  exact ⟨rfl, rfl, _, mem_insertDeferred _ _, rfl⟩

/-- A failed access that a handler has sent itself is fatal to its region (R192). -/
theorem accessFails_fatal (ha : IsContext a) (h : o.held = false) {code : Byte} (hfw : ∀ k, a ≠ .fw k)
    (ht : (s.ctxOf a).status.intrap = true) (hl : ∀ l ∈ (s.ctxOf a).ldrs, l.answeredBy p = false) (hc : (s.ctxOf a).trapAt ≤ o.count)
    (hr : (s.ctxOf a).dbg.replayctl.extractLsb' 62 2 = 0) (hd : code ≠ tDebug) (hp : code ≠ tPage) :
    ∃ m, (s.accessFails a o p code).outOf a = (s.outOf a).erase o ∧ (s.accessFails a o p code).cur = s.cur
      ∧ (s.accessFails a o p code).sched = .happen .regionFault
          { n := (s.ctxOf a).id.region.toNat, m := m, value := BitVec.zeroExtend 64 code, addr := some (s.ctxOf a).pc, who := a }
          :: s.sched := by
  obtain ⟨-, hctx⟩ := answered_modCtxOf ha s o (dropLdrs p) (fun _ => rfl)
  have hcount : failCount ((s.answered a o).ctxOf a) o p = o.count := by
    have hfind : ((s.answered a o).ctxOf a).ldrs.find? (·.answeredBy p) = none := by
      rw [answered_ctxOf ha, List.find?_eq_none]
      intro l hmem
      rw [hl l hmem]
      decide
    rw [failCount, hfind]
    rfl
  have hkeep : ((s.answered a o).modCtxOf a (dropLdrs p)).cur = s.cur
      ∧ ((s.answered a o).modCtxOf a (dropLdrs p)).sched = s.sched := by
    rw [answered_context ha]
    simp only [modCtxOf_cur, modCtxOf_sched, and_self]
  obtain ⟨hcur, hsame, m, hsched⟩ := report_fatal (t := (s.answered a o).modCtxOf a (dropLdrs p)) (n := o.count) (code := code) hfw
    (by rw [hctx]; exact ht) (by rw [hctx]; exact hc) (by rw [hctx]; exact hr) hd hp
  rw [accessFails_context ha h, hcount]
  refine ⟨m, ?_, hcur.trans hkeep.1, ?_⟩
  · rw [outOf_context ha, hsame, hctx]
    rfl
  · rw [hsched, hkeep.2, hctx]
    rfl

end Answered

theorem meshAnswers : Claims.MeshAnswers := by
  intro s p a o hp hf code done
  have hcode : nackTrap p.op = code := nackTrap_eq p.op
  refine ⟨?_, ?_, ?_, ?_⟩
  · intro hheld hm hc
    have ha := isContext_of_not_engine hm hc
    refine ⟨fun hgood => ?_, ?_, ?_, fun hbad => ?_, ?_⟩
    · exact ⟨_, (exec_meshRdd_of_pkt hp).trans (congrArg _ (meshRdd_data hf hheld hgood)), replied ha s o _⟩
    · exact ⟨_, (exec_meshAmor_of_pkt hp).trans (congrArg _ ((meshAmor_eq hf).trans (if_pos hheld))), replied ha s o _⟩
    · exact ⟨_, (exec_meshHopr_of_pkt hp).trans (congrArg _ ((meshHopr_eq hf).trans (if_pos hheld))), replied ha s o _⟩
    · exact ⟨_, (exec_meshRdd_of_pkt hp).trans (congrArg _ ((meshRdd_poison hf hbad).trans (accessFails_held hheld))),
        replied ha s o _⟩
    · rw [← hcode]
      exact ⟨_, (exec_meshNack_of_pkt hp).trans (congrArg _ ((meshNack_eq hf).trans (accessFails_held hheld))), replied ha s o _⟩
  · intro hheld ha
    have hnot : ¬ o.held = true := by rw [hheld]; decide
    have hnack := (exec_meshNack_of_pkt hp).trans (congrArg Host.Outcome.next (meshNack_eq hf))
    rw [hcode] at hnack
    refine ⟨fun hgood => ?_, fun htrap => ?_, fun htrap hfw hldrs hcount hreplay => ?_, ?_, ?_⟩
    · obtain ⟨hout, hctx⟩ := answered_modCtxOf ha s o (fillLdrs p) (fun _ => rfl)
      exact ⟨_, (exec_meshRdd_of_pkt hp).trans (congrArg _ (meshRdd_ldr hf ha hheld hgood)), hout, congrArg Ctx.ldrs hctx⟩
    · exact ⟨_, hnack, accessFails_deferred ha hheld code htrap⟩
    · obtain ⟨m, hspec⟩ := accessFails_fatal ha hheld hfw htrap hldrs hcount hreplay (hcode ▸ nackTrap_ne_tDebug p.op)
        (hcode ▸ nackTrap_ne_tPage p.op)
      exact ⟨_, m, hnack, hspec⟩
    · refine ⟨_, (exec_meshAmor_of_pkt hp).trans (congrArg _ ((meshAmor_eq hf).trans (if_neg hnot))), answered_outOf s a o, ?_⟩
      rw [answered_ctxOf ha]
    · refine ⟨_, (exec_meshHopr_of_pkt hp).trans (congrArg _ ((meshHopr_eq hf).trans (if_neg hnot))), answered_outOf s a o, ?_⟩
      rw [answered_ctxOf ha]
  · intro hbar
    exact ⟨_, (exec_meshWack_of_pkt hp).trans (congrArg _ (meshWack_eq hf hbar)), answered_outOf s a o, answered_keeps s a o⟩
  · rintro hheld k rfl
    refine ⟨_, (exec_meshNack_of_pkt hp).trans (congrArg _ (meshNack_eq hf)), ?_⟩
    rw [hcode]
    exact accessFails_copy hheld code

end Sys2Proof.Proofs.Package

/-!
O46, second half. A router's cycle makes no packet and loses none that it need not (R57, R65, R66, R69), and ejection (R72).
-/

namespace Sys2Proof.Proofs.Package

open Sys2Proof Sys2Proof.Machine Sys2Proof.Safety Sys2Proof.Laws

/-! ### Packets counted -/

/-- The packets of the mesh that have not ended: in flight, at a bridge, taken, or still to be injected. -/
def packets (s : State) : Nat :=
  s.mesh.flits.length + s.mesh.crossing.length + s.mesh.offered.length + s.mesh.pending.length

/-- From `s` to `t` at most `k` packets more are in the mesh, and exactly `k` where no die is fenced. -/
structure Moves (s t : State) (k : Nat) : Prop where
  mem : t.mem = s.mem
  fences : t.fences = s.fences
  most : packets t ≤ packets s + k
  exact : (∀ d, s.fences.dies.getLsbD d = false) → packets t = packets s + k

namespace Moves

variable {s t u : State} {j k : Nat}

theorem refl (s : State) : Moves s s 0 := ⟨rfl, rfl, le_refl _, fun _ => rfl⟩

theorem trans (h : Moves s t j) (h' : Moves t u k) : Moves s u (j + k) where
  mem := h'.mem.trans h.mem
  fences := h'.fences.trans h.fences
  most := by have := h.most; have := h'.most; omega
  exact hd := by
    have h1 := h.exact hd
    have h2 := h'.exact (by rw [h.fences]; exact hd)
    omega

/-- A step that puts exactly `k` packets more into the mesh. -/
theorem of_packets (hm : t.mem = s.mem) (hf : t.fences = s.fences) (h : packets t = packets s + k) : Moves s t k :=
  ⟨hm, hf, h.le, fun _ => h⟩

/-- A packet that has been taken out and put back in. -/
theorem of_taken (h : Moves s t 1) (hm : s.mem = u.mem) (hf : s.fences = u.fences) (hs : packets s + 1 = packets u) : Moves u t 0 where
  mem := h.mem.trans hm
  fences := h.fences.trans hf
  most := by have := h.most; omega
  exact hd := by have := h.exact (by rw [hf]; exact hd); omega

end Moves

section Steps

variable (s : State) (die idx plane c : Nat)

theorem addFlit_moves (f : Flit) : Moves s (s.addFlit f) 1 :=
  .of_packets rfl rfl (by simp only [packets, State.addFlit, List.length_append, List.length_singleton]; omega)

theorem offer_moves (p : Packet) : Moves s { s with mesh := { s.mesh with offered := s.mesh.offered ++ [p] } } 1 :=
  .of_packets rfl rfl (by simp only [packets, List.length_append, List.length_singleton]; omega)

theorem setRouterRun_moves (r : RouterRun) : Moves s (s.setRouterRun die idx plane r) 0 := .of_packets rfl rfl rfl

/-- A packet that enters at a router is offered to its endpoint or put on a link; what waits at bridges stays. -/
theorem enterAt_moves {s} {free : List (Nat × Nat)} {ej : Nat} {p : Packet} {r : List (Nat × Nat) × Nat × State}
    (h : enterAt die idx plane c free ej s p = some r) : Moves s r.2.2 1 ∧ r.2.2.mesh.crossing = s.mesh.crossing := by
  unfold enterAt at h
  split at h
  · cases h
    exact ⟨offer_moves s p, rfl⟩
  · split at h
    · cases h
      exact ⟨addFlit_moves s _, rfl⟩
    · cases h

theorem crossTo_moves (p : Packet) : Moves s (crossTo die idx plane c s p) 1 := by
  unfold crossTo
  dsimp only
  split
  next free ej t h =>
    split at h
    · exact (enterAt_moves die idx plane c h).1.trans (setRouterRun_moves t die idx plane _)
    · cases h
  next => exact .of_packets rfl rfl (by simp only [packets, List.length_append, List.length_singleton]; omega)

theorem lostAnswer_length (p : Packet) : (lostAnswer s p).length = 1 := by
  unfold lostAnswer
  split <;> rfl

/-- With no die fenced no packet meets a dead end (R27). -/
theorem deadEnd_false (hd : ∀ d, s.fences.dies.getLsbD d = false) (p : Packet) : deadEnd s die p = false := by
  simp only [deadEnd, dieRoutes, hd, Bool.not_false, Bool.or_true, Bool.true_or, Bool.not_true, Bool.and_false, Bool.or_self]

/-- A packet taken at its segment target is offered or crosses; one for a fenced die leaves at most an answer. -/
theorem takeHere_moves (p : Packet) : Moves s (takeHere s die idx plane p) 1 := by
  unfold takeHere
  split
  · exact offer_moves s p
  · dsimp only
    split
    next hdead =>
      refine ⟨rfl, rfl, ?_, fun hd => ?_⟩
      · have : (if p.kind.toNat < 8 then lostAnswer s p else []).length ≤ 1 := by
          split
          · exact (lostAnswer_length s p).le
          · exact Nat.zero_le 1
        simp only [packets, List.length_append]
        omega
      · rw [deadEnd_false s _ hd] at hdead
        cases hdead
    next => exact crossTo_moves s _ _ _ _ _

theorem routeArrivals_moves (l : List Flit) (free : List (Nat × Nat)) (ej : Nat) (s : State) :
    ∃ k, Moves s (routeArrivals die idx plane c l free ej s).2.2.2 k
      ∧ k + (routeArrivals die idx plane c l free ej s).1.length = l.length := by
  induction l generalizing free ej s with
  | nil => exact ⟨0, .refl s, rfl⟩
  | cons f rest ih =>
    unfold routeArrivals
    dsimp only
    split
    · obtain ⟨k, hk, hl⟩ := ih free (ej - 1) (takeHere s die idx plane f.pkt)
      exact ⟨1 + k, (takeHere_moves s die idx plane f.pkt).trans hk, by rw [List.length_cons]; omega⟩
    · split
      next q hq =>
        obtain ⟨k, hk, hl⟩ := ih (free.erase q) ej (s.addFlit { f with router := q.2, at_ := c + 1 })
        exact ⟨1 + k, (addFlit_moves s _).trans hk, by rw [List.length_cons]; omega⟩
      next =>
        obtain ⟨k, hk, hl⟩ := ih free ej s
        exact ⟨k, hk, by rw [List.length_cons, List.length_cons]; omega⟩

theorem deflect_moves (l : List Flit) (free : List (Nat × Nat)) (s : State) : Moves s (deflect c l free s).2 l.length := by
  induction l generalizing free s with
  | nil => exact .refl s
  | cons f rest ih =>
    rw [List.length_cons, Nat.add_comm]
    cases free with
    | nil => exact (addFlit_moves s _).trans (ih [] _)
    | cons q free => exact (addFlit_moves s _).trans (ih free _)

/-- Packets that wait at a bridge each leave it as they enter, or stay. -/
theorem enterCrossed_moves (l : List Flit) (free : List (Nat × Nat)) (ej : Nat) (s : State) (h : l.Subperm s.mesh.crossing) :
    Moves s (enterCrossed die idx plane c l free ej s).2.2 0 := by
  induction l generalizing free ej s with
  | nil => exact .refl s
  | cons f rest ih =>
    unfold enterCrossed
    split
    next free' ej' t ht =>
      obtain ⟨hm, hcross⟩ := enterAt_moves die idx plane c ht
      have hf : f ∈ s.mesh.crossing := h.subset List.mem_cons_self
      have hpos := List.length_pos_of_mem hf
      have hone := hm.of_taken (u := s) rfl rfl (by simp only [packets, List.length_erase_of_mem hf]; omega)
      have hrest : rest.Subperm t.mesh.crossing := by
        have := h.erase f
        rw [List.erase_cons_head] at this
        exact hcross ▸ this
      exact hone.trans (ih free' ej' t hrest)
    next => exact ih free ej s ((List.sublist_cons_self f rest).subperm.trans h)

/-- The packet that a router injects leaves those that wait. -/
theorem injectAt_moves (streams : List Nat) (free : List (Nat × Nat)) (ej : Nat) (s : State) :
    Moves s (injectAt die idx plane c streams free ej s).2.2.2 0 := by
  unfold injectAt
  split
  · exact .refl s
  next p0 hp =>
    have hin : p0 ∈ s.mesh.pending := List.mem_of_mem_filter (List.mem_of_find?_eq_some hp)
    have hpos := List.length_pos_of_mem hin
    have htaken : packets { s with mesh := { s.mesh with pending := s.mesh.pending.erase p0 } } + 1 = packets s := by
      simp only [packets, List.length_erase_of_mem hin]
      omega
    dsimp only
    split
    · exact (takeHere_moves _ _ _ _ _).of_taken rfl rfl htaken
    · split
      next free' ej' t ht => exact (enterAt_moves die idx plane c ht).1.of_taken rfl rfl htaken
      next => exact .refl s

theorem countHolds_keeps (streams : List Nat) : (countHolds die idx streams s).mem = s.mem
    ∧ (countHolds die idx streams s).fences = s.fences ∧ (countHolds die idx streams s).mesh = s.mesh :=
  List.foldlRecOn (motive := fun t : State => t.mem = s.mem ∧ t.fences = s.fences ∧ t.mesh = s.mesh) _ _ ⟨rfl, rfl, rfl⟩
    fun _ ht _ _ => ht

end Steps

/-! ### The arrivals of a cycle -/

theorem rankInsert_perm (now : BitVec 18) (f : Flit) (l : List Flit) : (rankInsert now f l).Perm (f :: l) := by
  induction l with
  | nil => exact .refl _
  | cons g rest ih =>
    unfold rankInsert
    split
    · exact (ih.cons g).trans (.swap f g rest)
    · exact .refl _

/-- The arrivals in the order of their rank. -/
def ranked (now : BitVec 18) (l : List Flit) : List Flit := l.foldl (fun xs f => rankInsert now f xs) []

theorem ranked_perm (now : BitVec 18) (l : List Flit) : (ranked now l).Perm l := by
  have h (acc : List Flit) : (l.foldl (fun xs f => rankInsert now f xs) acc).Perm (acc ++ l) := by
    induction l generalizing acc with
    | nil => rw [List.append_nil]; exact .refl _
    | cons f rest ih =>
      refine (ih _).trans ?_
      exact ((rankInsert_perm now f acc).append_right rest).trans List.perm_middle.symm
  exact h []

/-- Taking the arrivals out of what flies leaves the rest. -/
theorem length_filter_arrivals (now : BitVec 18) (pred : Flit → Bool) (l : List Flit) :
    (l.filter (fun f => !(ranked now (l.filter pred)).contains f)).length + (ranked now (l.filter pred)).length = l.length := by
  have hcongr : l.filter (fun f => !(ranked now (l.filter pred)).contains f) = l.filter (fun f => !pred f) := by
    refine List.filter_congr fun f hf => ?_
    have : (ranked now (l.filter pred)).contains f = pred f := by
      rw [Bool.eq_iff_iff, List.contains_iff_mem, (ranked_perm now _).mem_iff, List.mem_filter]
      exact ⟨And.right, And.intro hf⟩
    rw [this]
  rw [hcongr, (ranked_perm now _).length_eq, Nat.add_comm]
  exact (List.length_eq_length_filter_add pred).symm

theorem meetErrors_length_le (errs : List (Nat × Bool)) (arr : List Flit) : (meetErrors errs arr).length ≤ arr.length := by
  refine (List.length_filterMap_le _ _).trans ?_
  rw [List.length_zip, List.length_range, Nat.min_self]

theorem meetErrors_nil (arr : List Flit) : meetErrors [] arr = arr := by
  simp only [meetErrors, List.contains_nil, Bool.false_eq_true, if_false]
  rw [List.filterMap_eq_map', List.map_fst_zip]
  exact (List.length_range).ge

/-! ### A cycle of a router -/

/-- A router does its next cycle now. -/
def RouterRuns (s : State) (die idx plane : Nat) : Prop :=
  die < 3 ∧ idx < dieWidth die * 10 ∧ plane < 4 ∧ dieRoutes s die = true ∧ routerReady s die idx plane = true

theorem routerStays_iff (s : State) (die idx plane : Nat) :
    (decide (3 ≤ die) || decide (dieWidth die * 10 ≤ idx) || decide (4 ≤ plane) || !dieRoutes s die
        || !routerReady s die idx plane) = true
      ↔ ¬ RouterRuns s die idx plane := by
  simp only [RouterRuns, Bool.or_eq_true, decide_eq_true_eq, Bool.not_eq_true']
  constructor
  · rintro h ⟨h1, h2, h3, h4, h5⟩
    rcases h with (((h | h) | h) | h) | h
    · omega
    · omega
    · omega
    · rw [h4] at h; cases h
    · rw [h5] at h; cases h
  · intro h
    by_contra hno
    simp only [not_or, Bool.not_eq_false, Nat.not_le] at hno
    obtain ⟨⟨⟨⟨h1, h2⟩, h3⟩, h4⟩, h5⟩ := hno
    exact h ⟨h1, h2, h3, h4, h5⟩

theorem routerCycle_idle {s : State} {die idx plane : Nat} (errs : List (Nat × Bool)) (h : ¬ RouterRuns s die idx plane) :
    routerCycle die idx plane errs s = s := if_pos ((routerStays_iff s die idx plane).mpr h)

section Cycle

variable (s : State) (die idx plane : Nat) (errs : List (Nat × Bool))

/-- The arrivals of the router's next cycle, in order of rank. -/
def arrived : List Flit := ranked s.stampNow (s.arrivals die idx plane (s.routerRun die idx plane).cycles)

/-- The state without the arrivals. -/
def withoutArrived : State :=
  { s with mesh := { s.mesh with flits := s.mesh.flits.filter (fun f => !(arrived s die idx plane).contains f) } }

/-- The ports left, the ejections left and the state after the first two loops of R66. -/
def arrivalsRouted (c : Nat) (l : List Flit) (s : State) : List (Nat × Nat) × Nat × State :=
  let r := routeArrivals die idx plane c l (routerPorts die idx) 2 s
  let d := deflect c r.1 r.2.1 r.2.2.2
  (d.1, r.2.2.1, d.2)

/-- What is left and the state once those that have crossed have entered, and a packet has been injected. -/
def injected (c : Nat) (x : List (Nat × Nat) × Nat × State) : List (Nat × Nat) × Nat × List Nat × State :=
  let e := enterCrossed die idx plane c (x.2.2.crossed die idx plane) x.1 x.2.1 x.2.2
  injectAt die idx plane c (if plane = 0 then [] else (e.2.2.routerRun die idx (plane - 1)).streams) e.1 e.2.1 e.2.2

/-- The end of a cycle: it is counted, with what is left, and with the holds and a lost header where there are any. -/
def cycleEnd (c : Nat) (lost : Bool) (x : List (Nat × Nat) × Nat × List Nat × State) : State :=
  let s := x.2.2.2.setRouterRun die idx plane { cycles := c + 1, free := x.1, eject := x.2.1, streams := x.2.2.1 }
  let s := if plane = 3 then countHolds die idx x.2.2.1 s else s
  if lost && die < 2 then s.push .runtimeFence { unit := some (.die die), cause := .headerError } else s

theorem routerCycle_runs (h : RouterRuns s die idx plane) :
    let c := (s.routerRun die idx plane).cycles
    let arr := meetErrors errs (arrived s die idx plane)
    let x := arrivalsRouted die idx plane c arr (withoutArrived s die idx plane)
    routerCycle die idx plane errs s
      = cycleEnd die idx plane c (decide (arr.length < (arrived s die idx plane).length)) (injected die idx plane c x) := by
  unfold routerCycle
  rw [if_neg (mt (routerStays_iff s die idx plane).mp (not_not.mpr h))]
  rfl

theorem arrivalsRouted_moves (c : Nat) (l : List Flit) : Moves s (arrivalsRouted die idx plane c l s).2.2 l.length := by
  obtain ⟨k, hk, hl⟩ := routeArrivals_moves die idx plane c l (routerPorts die idx) 2 s
  rw [← hl]
  exact hk.trans (deflect_moves c _ _ _)

theorem injected_moves (c : Nat) (x : List (Nat × Nat) × Nat × State) :
    Moves x.2.2 (injected die idx plane c x).2.2.2 0 :=
  (enterCrossed_moves die idx plane c _ _ _ _ List.filter_sublist.subperm).trans (injectAt_moves die idx plane c _ _ _ _)

/-- The end of a cycle moves no packet, and changes of the routers' records only its own. -/
theorem cycleEnd_spec (c : Nat) (lost : Bool) (x : List (Nat × Nat) × Nat × List Nat × State) :
    Moves x.2.2.2 (cycleEnd die idx plane c lost x) 0 ∧ ((cycleEnd die idx plane c lost x).routerRun die idx plane).cycles = c + 1 := by
  obtain ⟨free, ej, streams, t⟩ := x
  have hkeep : (cycleEnd die idx plane c lost (free, ej, streams, t)).mem = t.mem
      ∧ (cycleEnd die idx plane c lost (free, ej, streams, t)).fences = t.fences
      ∧ (cycleEnd die idx plane c lost (free, ej, streams, t)).mesh
        = (t.setRouterRun die idx plane { cycles := c + 1, free := free, eject := ej, streams := streams }).mesh := by
    unfold cycleEnd
    dsimp only
    split <;> split
    · exact countHolds_keeps _ die idx streams
    · exact ⟨rfl, rfl, rfl⟩
    · exact countHolds_keeps _ die idx streams
    · exact ⟨rfl, rfl, rfl⟩
  obtain ⟨hm, hf, hmesh⟩ := hkeep
  refine ⟨.of_packets hm hf (by rw [packets, hmesh]; rfl), ?_⟩
  rw [State.routerRun, hmesh, State.setRouterRun, get_eq_find?, find?_set_same]
  rfl

theorem withoutArrived_packets :
    packets (withoutArrived s die idx plane) + (arrived s die idx plane).length = packets s := by
  have := length_filter_arrivals s.stampNow (fun f => f.die.toNat == die && f.router == idx && f.plane.toNat == plane
    && decide (f.at_ ≤ (s.routerRun die idx plane).cycles)) s.mesh.flits
  simp only [packets, withoutArrived, arrived, State.arrivals]
  omega

/-- A router's cycle is its next one; it makes no packet, and loses one only to an error or to a fenced die. -/
theorem routerCycle_spec (h : RouterRuns s die idx plane) :
    (routerCycle die idx plane errs s).mem = s.mem ∧ packets (routerCycle die idx plane errs s) ≤ packets s
      ∧ (errs = [] → (∀ d, s.fences.dies.getLsbD d = false) → packets (routerCycle die idx plane errs s) = packets s)
      ∧ ((routerCycle die idx plane errs s).routerRun die idx plane).cycles = (s.routerRun die idx plane).cycles + 1 := by
  rw [routerCycle_runs s die idx plane errs h]
  have hroute := arrivalsRouted_moves (withoutArrived s die idx plane) die idx plane (s.routerRun die idx plane).cycles
    (meetErrors errs (arrived s die idx plane))
  generalize arrivalsRouted die idx plane (s.routerRun die idx plane).cycles (meetErrors errs (arrived s die idx plane))
    (withoutArrived s die idx plane) = x at hroute ⊢
  obtain ⟨hend, hcycles⟩ := cycleEnd_spec die idx plane (s.routerRun die idx plane).cycles
    (decide ((meetErrors errs (arrived s die idx plane)).length < (arrived s die idx plane).length))
    (injected die idx plane (s.routerRun die idx plane).cycles x)
  obtain ⟨hmem, -, hmost, hexact⟩ := hroute.trans ((injected_moves die idx plane _ x).trans hend)
  have hpackets := withoutArrived_packets s die idx plane
  have herrs := meetErrors_length_le errs (arrived s die idx plane)
  refine ⟨hmem, by omega, ?_, hcycles⟩
  rintro rfl hd
  have hlen := congrArg List.length (meetErrors_nil (arrived s die idx plane))
  have := hexact hd
  omega

end Cycle

/-! ### Ejection (R72) -/

/-- A happening that performs a packet at its home. -/
def performs (q : Packet) : Instr × Input := (meshHappening q, { pkt := some q })

/-- Draining raises the number expected of the stream by as many as it takes, and leaves what is offered and to happen. -/
theorem drainHeld_spec (key n : Nat) (s : State) : ∃ j ≤ n,
    Assoc.get 0 (drainHeld key n s).2.mesh.expect key = Assoc.get 0 s.mesh.expect key + BitVec.ofNat 12 j
      ∧ (drainHeld key n s).2.mesh.offered = s.mesh.offered ∧ (drainHeld key n s).2.sched = s.sched
      ∧ (drainHeld key n s).2.mem = s.mem := by
  induction n generalizing s with
  | zero => exact ⟨0, le_refl _, (BitVec.add_zero _).symm, rfl, rfl, rfl⟩
  | succ n ih =>
    unfold drainHeld
    split
    · exact ⟨0, Nat.zero_le _, (BitVec.add_zero _).symm, rfl, rfl, rfl⟩
    next p hp =>
      obtain ⟨j, hj, hexpect, hoff, hsched, hmem⟩ := ih { s with mesh := { s.mesh with
        held := s.mesh.held.erase p, expect := Assoc.set s.mesh.expect key (Assoc.get 0 s.mesh.expect key + 1) } }
      refine ⟨j + 1, Nat.succ_le_succ hj, hexpect.trans ?_, hoff, hsched, hmem⟩
      have hone : BitVec.ofNat 12 (j + 1) = 1 + BitVec.ofNat 12 j := by rw [Nat.add_comm, BitVec.ofNat_add]; rfl
      rw [get_eq_find?, find?_set_same, hone, ← BitVec.add_assoc]
      rfl

/-- What a refused packet's destination does: it flies again, or is offered still. -/
theorem refused_spec (s : State) (p : Packet) : (s.refused p).mem = s.mem ∧ (s.refused p).sched = s.sched
    ∧ (s.refused p).mesh.held = s.mesh.held ∧ (s.refused p).mesh.expect = s.mesh.expect
    ∧ (((s.refused p).mesh.flits = s.mesh.flits ∧ (s.refused p).mesh.offered = s.mesh.offered ++ [p])
      ∨ ((s.refused p).mesh.offered = s.mesh.offered
        ∧ ∃ f, (s.refused p).mesh.flits = s.mesh.flits ++ [f] ∧ f.pkt = p ∧ f.router = nodeRouter p.dst)) := by
  unfold State.refused
  dsimp only
  split
  · exact ⟨rfl, rfl, rfl, rfl, .inr ⟨rfl, _, rfl, rfl, rfl⟩⟩
  · exact ⟨rfl, rfl, rfl, rfl, .inl ⟨rfl, rfl⟩⟩

section Eject

variable {s : State} {p : Packet} {n : Nat} (h : s.mesh.offered[n]? = some p)

/-- The state in which a packet is taken up from those offered. -/
def takenUp (s : State) (n : Nat) : State := { s with mesh := { s.mesh with offered := s.mesh.offered.eraseIdx n } }

/-- The state in which a packet of a stream is the last one seen of it. -/
def expectAfter (s : State) (p : Packet) : State :=
  { s with mesh := { s.mesh with expect := Assoc.set s.mesh.expect (pktStream p) (p.seq + 1) } }

include h

theorem packetEject_exempt (hx : p.x = true) : packetEject n s = (takenUp s n).pushAll [performs p] := by
  simp only [packetEject, h, hx, if_true]
  rfl

theorem packetEject_expected (hx : p.x = false) (hd : s.ahead p = 0) :
    packetEject n s = (drainHeld (pktStream p) 64 (expectAfter (takenUp s n) p)).2.pushAll
      ((p :: (drainHeld (pktStream p) 64 (expectAfter (takenUp s n) p)).1).map performs) := by
  have hd' : (takenUp s n).ahead p = 0 := hd
  unfold takenUp at hd'
  simp only [packetEject, h, hx, hd', Bool.false_eq_true, if_false, if_true]
  rfl

theorem packetEject_early (hx : p.x = false) (h1 : 1 ≤ s.ahead p) (h64 : s.ahead p ≤ 64) :
    packetEject n s = { takenUp s n with mesh := { (takenUp s n).mesh with held := s.mesh.held ++ [p] } } := by
  have h1' : ¬ (takenUp s n).ahead p = 0 := by change ¬ s.ahead p = 0; omega
  have h64' : (takenUp s n).ahead p ≤ 64 := h64
  unfold takenUp at h1' h64' ⊢
  simp only [packetEject, h, hx, h1', h64', Bool.false_eq_true, if_false, if_true]

theorem packetEject_refused (hx : p.x = false) (h64 : 64 < s.ahead p) : packetEject n s = (takenUp s n).refused p := by
  have h1' : ¬ (takenUp s n).ahead p = 0 := by change ¬ s.ahead p = 0; omega
  have h64' : ¬ (takenUp s n).ahead p ≤ 64 := by change ¬ s.ahead p ≤ 64; omega
  unfold takenUp at h1' h64' ⊢
  simp only [packetEject, h, hx, h1', h64', Bool.false_eq_true, if_false]

end Eject

/-- After a packet and up to 64 behind it, its stream expects another number than the packet's (R72). -/
theorem expected_ne (seq : BitVec 12) {j : Nat} (hj : j ≤ 64) : seq + 1 + BitVec.ofNat 12 j ≠ seq := by
  intro h
  have := congrArg BitVec.toNat h
  have hone : (1 : BitVec 12).toNat = 1 := rfl
  simp only [BitVec.toNat_add, BitVec.toNat_ofNat, hone] at this
  have := seq.isLt
  omega

theorem packetEject_mem {s : State} {p : Packet} {n : Nat} (h : s.mesh.offered[n]? = some p) : (packetEject n s).mem = s.mem := by
  obtain ⟨-, -, -, -, -, dmem⟩ := drainHeld_spec (pktStream p) 64 (expectAfter (takenUp s n) p)
  by_cases hx : p.x = true
  · rw [packetEject_exempt h hx]
    rfl
  · have hx : p.x = false := Bool.eq_false_of_not_eq_true hx
    rcases Nat.eq_zero_or_pos (s.ahead p) with h0 | h1
    · rw [packetEject_expected h hx h0]
      exact dmem
    · rcases Nat.lt_or_ge 64 (s.ahead p) with h64 | h64
      · rw [packetEject_refused h hx h64]
        exact (refused_spec (takenUp s n) p).1
      · rw [packetEject_early h hx h1 h64]
        rfl

theorem meshRouting : Claims.MeshRouting := by
  refine ⟨fun s => ⟨_, rfl, ?_⟩, fun s p h => ⟨packetEject s.inp.n s, rfl, packetEject_mem h, fun hx => ?_, fun hx =>
    ⟨fun h0 => ?_, fun h1 h64 => ?_, fun h64 => ?_⟩⟩⟩
  · by_cases hruns : RouterRuns s s.inp.n s.inp.m s.inp.k
    · obtain ⟨hmem, hmost, hexact, hcycles⟩ := routerCycle_spec s s.inp.n s.inp.m s.inp.k s.inp.errs hruns
      exact ⟨hmost, hexact, hmem, fun hno => absurd hruns hno, fun _ => hcycles⟩
    · have hidle := routerCycle_idle s.inp.errs hruns
      rw [hidle]
      exact ⟨le_refl _, fun _ _ => rfl, rfl, fun _ => rfl, fun h => absurd h hruns⟩
  · rw [packetEject_exempt h hx]
    exact ⟨rfl, rfl, rfl⟩
  · obtain ⟨j, hj, hexpect, hoff, hsched, -⟩ := drainHeld_spec (pktStream p) 64 (expectAfter (takenUp s s.inp.n) p)
    have hnow : Assoc.get 0 (expectAfter (takenUp s s.inp.n) p).mesh.expect (pktStream p) = p.seq + 1 := by
      rw [expectAfter, get_eq_find?, find?_set_same]
      rfl
    rw [packetEject_expected h hx h0]
    refine ⟨hoff, ?_, ((drainHeld (pktStream p) 64 (expectAfter (takenUp s s.inp.n) p)).1.map performs).map
      (fun x => .happen x.1 x.2), congrArg (List.map _ _ ++ ·) hsched⟩
    change Assoc.get 0 (drainHeld _ _ _).2.mesh.expect (pktStream p) ≠ p.seq
    rw [hexpect, hnow]
    exact expected_ne p.seq hj
  · rw [packetEject_early h hx h1 h64]
    exact ⟨rfl, rfl, rfl⟩
  · obtain ⟨-, hspec⟩ := refused_spec (takenUp s s.inp.n) p
    rw [packetEject_refused h hx h64]
    exact hspec

/-- Settles O46: what an answer does to the access it answers, and what a router's cycle and an ejection do to packets. -/
theorem meshAnswersAndRouting : Obligations.MeshAnswersAndRouting := ⟨meshAnswers, meshRouting⟩

end Sys2Proof.Proofs.Package

/-!
The engine in progress after an update, and how a word of an engine ends (R183, R382).
-/

namespace Sys2Proof.Proofs.Package

open Sys2Proof Sys2Proof.Machine Sys2Proof.Safety Sys2Proof.Laws

/-! ### Updates of the engine in progress -/

theorem set_set {α : Type} (m : Assoc α) (k : Nat) (a b : α) : Assoc.set (Assoc.set m k a) k b = Assoc.set m k b := by
  induction m with
  | nil => simp [Assoc.set]
  | cons e rest ih =>
    obtain ⟨j, v⟩ := e
    by_cases hj : j = k
    · simp [Assoc.set, hj]
    · by_cases hk : k < j
      · simp [Assoc.set, hj, hk]
      · simp [Assoc.set, hj, hk, ih]

theorem modCore_modCore (s : State) (k : Nat) (f g : Core → Core) : (s.modCore k f).modCore k g = s.modCore k (fun c => g (f c)) := by
  have h : (s.modCore k f).modCore k g = (s.modCore k f).setCore k (g ((s.modCore k f).core k)) := rfl
  rw [h, modCore_core, if_pos rfl]
  simp only [State.modCore, State.setCore, set_set]

theorem setEngine_setEngine (s : State) (k : Nat) (copy : Bool) (e e' : Engine) :
    (s.setEngine k copy e).setEngine k copy e' = s.setEngine k copy e' := by
  unfold State.setEngine
  rw [modCore_modCore]
  cases copy <;> rfl

@[simp] theorem modEng_eng (s : State) (f : Engine → Engine) : (s.modEng f).eng = f s.eng :=
  setEngine_engine_same s s.engAt.1 s.engAt.2 (f s.eng)

@[simp] theorem modEng_modEng (s : State) (f g : Engine → Engine) : (s.modEng f).modEng g = s.modEng (fun e => g (f e)) := by
  have h : (s.modEng f).modEng g = (s.modEng f).setEngine s.engAt.1 s.engAt.2 (g (s.modEng f).eng) := rfl
  rw [h, modEng_eng]
  exact setEngine_setEngine s _ _ _ _

@[simp] theorem modEng_cur (s : State) (f : Engine → Engine) : (s.modEng f).cur = s.cur := rfl
@[simp] theorem modEng_mem (s : State) (f : Engine → Engine) : (s.modEng f).mem = s.mem := rfl
@[simp] theorem modEng_poison (s : State) (f : Engine → Engine) : (s.modEng f).poison = s.poison := rfl
@[simp] theorem modEng_tile (s : State) (f : Engine → Engine) (t : Nat) : (s.modEng f).tile t = s.tile t := rfl
@[simp] theorem modEng_holdsLease (s : State) (f : Engine → Engine) (k : Nat) : (s.modEng f).holdsLease k = s.holdsLease k := rfl

section Matrix

variable {s : State} {k : Nat} (h : s.cur = .matrix k)
include h

theorem engAt_matrix : s.engAt = (k, false) := by
  unfold State.engAt
  rw [h]
  rfl

theorem eng_matrix : s.eng = s.engine k false := by
  unfold State.eng
  rw [engAt_matrix h]

theorem modEng_matrix (f : Engine → Engine) : s.modEng f = s.setEngine k false (f (s.engine k false)) := by
  unfold State.modEng
  rw [engAt_matrix h, eng_matrix h]

/-- An update of a matrix engine keeps the rest of its core. -/
theorem modEng_core (f : Engine → Engine) (j : Nat) :
    (s.modEng f).core j = if j = k then { s.core k with mat := f (s.core k).mat } else s.core j := by
  rw [modEng_matrix h, setEngine_core]
  rfl

theorem modEng_accs (f : Engine → Engine) :
    ((s.modEng f).core k).acc0 = (s.core k).acc0 ∧ ((s.modEng f).core k).acc1 = (s.core k).acc1
      ∧ ((s.modEng f).core k).user = (s.core k).user := by
  rw [modEng_core h, if_pos rfl]
  exact ⟨rfl, rfl, rfl⟩

theorem ctx_matrix : s.ctx = (s.core k).user := by
  unfold State.ctx
  rw [h]
  rfl

theorem modEng_ctx (f : Engine → Engine) : (s.modEng f).ctx = s.ctx := by
  rw [ctx_matrix h, ctx_matrix (s := s.modEng f) h]
  exact (modEng_accs h f).2.2

end Matrix

/-! ### What a word ends in -/

section Words

variable {body : State → EEff State} {s t : State}

theorem engineWord_ok (h : body s = .ok t) : engineWord body s = .next t := by
  rw [engineWord, h]
theorem engineWord_trap {c : Byte} (h : body s = .error (.trap c t)) :
    engineWord body s = .next (t.engineFault t.engAt.1 t.engAt.2 c) := by
  rw [engineWord, h]
theorem engineWord_hold (h : body s = .error (.hold t)) : engineWord body s = .next t := by
  rw [engineWord, h]

theorem etop_ok {n : Nat} (h : n ≤ s.eng.stack.length) : etop n s = .ok (s.eng.stack.take n).reverse := by
  simp only [etop, eneed, h, decide_true, if_true]
  rfl

theorem etop_few {n : Nat} (h : s.eng.stack.length < n) : etop n s = .error (.trap tStack s) := by
  simp only [etop, eneed, Nat.not_le.mpr h, decide_false, Bool.false_eq_true, if_false]
  rfl

end Words

/-! ### Operands latched, and the lease (R196, R382) -/

theorem latch_eq (s : State) (xs : List Word) : s.latch xs = s.modEng (fun e =>
    { e with stack := e.stack.drop xs.length, inWord := some s.word, ops := xs, step := 0, sub := 0, state := .running
             satnan := s.ctx.status.satnan }) := by
  rw [State.latch, State.edrop, modEng_modEng]

theorem length_taken {α : Type} {l : List α} {n : Nat} (h : n ≤ l.length) : (l.take n).reverse.length = n := by
  rw [List.length_reverse, List.length_take, Nat.min_eq_left h]

/-- An array word begun: its operands latched, and the lease waited for where it is not held. -/
def arrayBegun (s : State) (k : Nat) (xs : List Word) : State :=
  if s.holdsLease k then s.latch xs else (s.latch xs).awaitLease k

theorem awaitLease_accs (s : State) (k : Nat) :
    ((s.awaitLease k).core k).acc0 = (s.core k).acc0 ∧ ((s.awaitLease k).core k).acc1 = (s.core k).acc1 := by
  rw [State.awaitLease, modLease_core, setEngine_core, if_pos rfl]
  exact ⟨rfl, rfl⟩

theorem arrayBegun_spec {s : State} {k : Nat} (h : s.cur = .matrix k) (xs : List Word) :
    (arrayBegun s k xs).eng = { s.eng with
        stack := s.eng.stack.drop xs.length, inWord := some s.word, ops := xs, step := 0, sub := 0
        state := if s.holdsLease k then .running else .waitLease, satnan := s.ctx.status.satnan }
      ∧ (arrayBegun s k xs).mem = s.mem ∧ ((arrayBegun s k xs).core k).acc0 = (s.core k).acc0
      ∧ ((arrayBegun s k xs).core k).acc1 = (s.core k).acc1 := by
  have hl : (s.latch xs).cur = .matrix k := by rw [latch_eq]; exact h
  have haccs := modEng_accs h (fun e =>
    { e with stack := e.stack.drop xs.length, inWord := some s.word, ops := xs, step := 0, sub := 0, state := .running
             satnan := s.ctx.status.satnan })
  rw [← latch_eq] at haccs
  unfold arrayBegun
  split
  · refine ⟨?_, ?_, haccs.1, haccs.2.1⟩
    · rw [latch_eq, modEng_eng]
    · rw [latch_eq, modEng_mem]
  · obtain ⟨h0, h1⟩ := awaitLease_accs (s.latch xs) k
    refine ⟨?_, ?_, h0.trans haccs.1, h1.trans haccs.2.1⟩
    · rw [eng_matrix (s := (s.latch xs).awaitLease k) hl, awaitLease_engine, ← eng_matrix hl, latch_eq, modEng_eng]
    · change (s.latch xs).mem = s.mem
      rw [latch_eq, modEng_mem]

/-- An array word that begins pops its operands, checks them and begins. -/
theorem ewArray_begin {s : State} {k : Nat} (h : s.cur = .matrix k) (hin : s.eng.inWord = none) :
    ewArray s = (do
      let xs ← etop (ArrayWord.ofWord s.word).count s
      arrayCheck (ArrayWord.ofWord s.word) ((ArrayWord.ofWord s.word).ops xs) s
      .ok (arrayBegun s k xs)) := by
  have hnone : s.eng.inWord.isSome = false := by rw [hin]; rfl
  have hbegun (xs : List Word) : (if (s.latch xs).holdsLease (s.latch xs).engAt.1 then s.latch xs
      else (s.latch xs).awaitLease (s.latch xs).engAt.1) = arrayBegun s k xs := by
    have hat : (s.latch xs).engAt.1 = k := by
      rw [engAt_matrix (s := s.latch xs) (by rw [latch_eq]; exact h)]
    have hholds : (s.latch xs).holdsLease k = s.holdsLease k := by rw [latch_eq, modEng_holdsLease]
    rw [hat, hholds, arrayBegun]
  simp only [ewArray, hnone, Bool.false_eq_true, if_false, bind, Except.bind, hbegun]

end Sys2Proof.Proofs.Package

/-!
O42, `MSTORE` (R398): its rows in the local share are stored whatever the engine counts meanwhile.
-/

namespace Sys2Proof.Proofs.Package

open Sys2Proof Sys2Proof.Machine Sys2Proof.Safety Sys2Proof.Laws

/-! ### A byte written, in steps -/

/-- The state with other cores. -/
def onCores (s : State) (cs : Assoc Core) : State := { s with cores := cs }
/-- The state with other unit keys. -/
def withKeys (s : State) (m : Assoc (BitVec 8)) : State := { s with unitKey := m }
/-- A byte written is good again. -/
def clearPoison (s : State) (a : Nat) : State := if s.poison = [] then s else { s with poison := Assoc.erase s.poison a }
/-- The bytes `at_ i` written, for the numbers `i` of a list. -/
def putBytes (at_ : Nat → Nat) (v : Nat → Byte) (l : List Nat) (s : State) : State := l.foldl (fun t i => t.setByte (at_ i) (v i)) s

theorem rekey_eq (s : State) (key : BitVec 8) (u : Nat) :
    s.rekey key u = if Assoc.get 0 s.unitKey u = key then s
      else withKeys (putBytes (u * 64 + ·) (fun i => Config.scramble key (Assoc.get 0 s.unitKey u) (u * 64 + i) (s.unitData u))
        (List.range 64) s) (Assoc.set s.unitKey u key) := rfl

theorem setByteKey_eq (s : State) (key : BitVec 8) (a : Nat) (v : Byte) :
    s.setByteKey key a v = clearPoison ((if keyed a then s.rekey key (a / 64) else s).setByte a v) a := rfl

/-! A byte written does not depend on the cores. -/

theorem putBytes_onCores (at_ : Nat → Nat) (v : Nat → Byte) (l : List Nat) (s : State) (cs : Assoc Core) :
    putBytes at_ v l (onCores s cs) = onCores (putBytes at_ v l s) cs := by
  induction l generalizing s with
  | nil => rfl
  | cons i rest ih => exact ih (s.setByte (at_ i) (v i))

theorem withKeys_onCores (s : State) (cs : Assoc Core) (m : Assoc (BitVec 8)) :
    withKeys (onCores s cs) m = onCores (withKeys s m) cs := rfl

theorem clearPoison_onCores (s : State) (cs : Assoc Core) (a : Nat) : clearPoison (onCores s cs) a = onCores (clearPoison s a) cs := by
  unfold clearPoison
  by_cases h : s.poison = []
  · have h' : (onCores s cs).poison = [] := h
    rw [if_pos h, if_pos h']
  · have h' : ¬ (onCores s cs).poison = [] := h
    rw [if_neg h, if_neg h']
    rfl

theorem rekey_onCores (s : State) (cs : Assoc Core) (key : BitVec 8) (u : Nat) :
    (onCores s cs).rekey key u = onCores (s.rekey key u) cs := by
  have hkey : (onCores s cs).unitKey = s.unitKey := rfl
  have hdata : (onCores s cs).unitData u = s.unitData u := rfl
  rw [rekey_eq, rekey_eq, hkey, hdata, putBytes_onCores, withKeys_onCores]
  split <;> rfl

theorem setByteKey_onCores (s : State) (cs : Assoc Core) (key : BitVec 8) (a : Nat) (v : Byte) :
    (onCores s cs).setByteKey key a v = onCores (s.setByteKey key a v) cs := by
  have hkeyed : (if keyed a then (onCores s cs).rekey key (a / 64) else onCores s cs)
      = onCores (if keyed a then s.rekey key (a / 64) else s) cs := by
    rw [rekey_onCores]
    split <;> rfl
  rw [setByteKey_eq, setByteKey_eq, hkeyed, ← clearPoison_onCores]
  rfl

/-- Two states differ at most in memory, its keys and its poison, and good memory stays good. -/
def MemoryOnly (s t : State) : Prop :=
  (∃ m k p, t = { s with mem := m, unitKey := k, poison := p }) ∧ (s.poison = [] → t.poison = [])

theorem MemoryOnly.refl (s : State) : MemoryOnly s s := ⟨⟨_, _, _, rfl⟩, id⟩

theorem MemoryOnly.trans {s t u : State} (h : MemoryOnly s t) (h' : MemoryOnly t u) : MemoryOnly s u := by
  obtain ⟨⟨m, k, p, rfl⟩, hp⟩ := h
  obtain ⟨⟨m', k', p', rfl⟩, hp'⟩ := h'
  exact ⟨⟨m', k', p', rfl⟩, fun h => hp' (hp h)⟩

theorem setByte_memoryOnly (s : State) (a : Nat) (v : Byte) : MemoryOnly s (s.setByte a v) := ⟨⟨_, _, _, rfl⟩, id⟩

theorem withKeys_memoryOnly (s : State) (m : Assoc (BitVec 8)) : MemoryOnly s (withKeys s m) := ⟨⟨_, _, _, rfl⟩, id⟩

theorem clearPoison_memoryOnly (s : State) (a : Nat) : MemoryOnly s (clearPoison s a) := by
  unfold clearPoison
  split
  · exact .refl s
  next hp => exact ⟨⟨_, _, _, rfl⟩, fun h => absurd h hp⟩

theorem putBytes_memoryOnly (at_ : Nat → Nat) (v : Nat → Byte) (l : List Nat) (s : State) : MemoryOnly s (putBytes at_ v l s) :=
  List.foldlRecOn (motive := fun t => MemoryOnly s t) _ _ (.refl s) fun t ht _ _ => ht.trans (setByte_memoryOnly t _ _)

theorem rekey_memoryOnly (s : State) (key : BitVec 8) (u : Nat) : MemoryOnly s (s.rekey key u) := by
  rw [rekey_eq]
  split
  · exact .refl s
  · exact (putBytes_memoryOnly _ _ _ s).trans (withKeys_memoryOnly _ _)

theorem setByteKey_memoryOnly (s : State) (key : BitVec 8) (a : Nat) (v : Byte) : MemoryOnly s (s.setByteKey key a v) := by
  have hkeyed : MemoryOnly s (if keyed a then s.rekey key (a / 64) else s) := by
    split
    · exact rekey_memoryOnly s key _
    · exact .refl s
  rw [setByteKey_eq]
  exact (hkeyed.trans (setByte_memoryOnly _ a v)).trans (clearPoison_memoryOnly _ a)

/-! ### The local share does not depend on an engine's state -/

theorem sramCell_congr {s t : State} (hcur : t.cur = s.cur) (hr : t.regions = s.regions) (hctx : t.ctx = s.ctx) (bd14 : Bool)
    (kind : BitVec 2) (p : Nat) : t.sramCell bd14 kind p = s.sramCell bd14 kind p := by
  simp only [State.sramCell, State.partition, hcur, hctx, partitionOf_congr hr]

section Engine

variable {s : State} {k : Nat} (h : s.cur = .matrix k) (f : Engine → Engine)

/-- An update of the engine changes only the cores. -/
theorem modEng_eq_onCores (s : State) (f : Engine → Engine) : s.modEng f = onCores s (s.modEng f).cores := rfl

theorem setByteKey_modEng (s : State) (f : Engine → Engine) (key : BitVec 8) (a : Nat) (v : Byte) :
    (s.modEng f).setByteKey key a v = (s.setByteKey key a v).modEng f := by
  rw [modEng_eq_onCores, setByteKey_onCores]
  obtain ⟨⟨m, k, p, hm⟩, -⟩ := setByteKey_memoryOnly s key a v
  rw [hm]
  rfl

include h

theorem sramCell_modEng (p : Nat) : (s.modEng f).sramCell false kindLocal p = s.sramCell false kindLocal p :=
  sramCell_congr (s := s) (t := s.modEng f) rfl rfl (modEng_ctx h f) false kindLocal p

theorem shareStore_modEng (base p : Word) (i : Nat) (bs : List Byte) :
    shareStore (s.modEng f) base p i bs = (shareStore s base p i bs).modEng f := by
  unfold shareStore
  generalize bs.zipIdx = l
  induction l generalizing s with
  | nil => rfl
  | cons e rest ih =>
    rw [List.foldl_cons, List.foldl_cons, sramCell_modEng h, setByteKey_modEng]
    refine ih ?_
    obtain ⟨⟨m, q, p', hm⟩, -⟩ := setByteKey_memoryOnly s 0 ((s.sramCell false kindLocal (sramOff base p i e.2)).getD 0) e.1
    rw [hm]
    exact h

theorem shareByte_modEng (p : Nat) : (s.modEng f).shareByte p = s.shareByte p := by
  unfold State.shareByte
  rw [sramCell_modEng h]
  rfl

theorem storeRow_modEng (hf : ∀ e, (f e).satnan = e.satnan) (m : StoreMods) (ops : List Word) (i : Nat) :
    storeRow (s.modEng f) m ops i = storeRow s m ops i := by
  have hbytes (p n : Nat) : (s.modEng f).shareBytes p n = s.shareBytes p n := by
    simp only [State.shareBytes, shareByte_modEng h]
  have hat : (s.modEng f).engAt.1 = k := by rw [engAt_matrix (s := s.modEng f) h]
  obtain ⟨h0, h1, -⟩ := modEng_accs h f
  unfold storeRow
  simp only [hbytes, hat, h0, h1, modEng_eng, hf, engAt_matrix h]

omit h

theorem shareStore_memoryOnly (s : State) (base p : Word) (i : Nat) (bs : List Byte) : MemoryOnly s (shareStore s base p i bs) :=
  List.foldlRecOn (motive := fun t => MemoryOnly s t) _ _ (.refl s) fun t ht _ _ => ht.trans (setByteKey_memoryOnly t _ _ _)

end Engine

/-! ### The rows in the local share -/

section Rows

variable {k : Nat} (m : StoreMods) (xs : List Word)

/-- A row stored in the local share. -/
def rowStored (v : State) (i : Nat) : State := shareStore v (xs.getD 0 0) (xs.getD 1 0) i (storeRow v m xs i)

/-- The engine at row `i`. -/
def atRow (i : Nat) (e : Engine) : Engine := { e with step := BitVec.ofNat 32 i, sub := 0 }

/-- The rows left are stored one by one, whatever the engine has counted (R398). -/
theorem storeRows_share (hd : m.d = false) (n i : Nat) (hin : i + n = 64) {v : State} (hcur : v.cur = .matrix k) (hp : v.poison = [])
    (hc : v.eng.shareClear = true) :
    storeRows m xs n (v.modEng (atRow i)) = .ok (((List.range' i n).foldl (rowStored m xs) v).modEng (atRow 64)) := by
  induction n generalizing i v with
  | zero =>
    obtain rfl : i = 64 := hin
    rfl
  | succ n ih =>
    have hstep : (v.modEng (atRow i)).eng.step.toNat = i := by
      rw [modEng_eng]
      exact (BitVec.toNat_ofNat i 32).trans (Nat.mod_eq_of_lt (by omega))
    have hclear : (v.modEng (atRow i)).eng.shareClear = true := by
      rw [modEng_eng]
      exact hc
    have hgood (ps : List Nat) : (v.modEng (atRow i)).shareGood ps = true := by
      simp only [State.shareGood, modEng_poison, hp, beq_self_eq_true, Bool.true_or]
    have hlt : ¬ 64 ≤ i := by omega
    obtain ⟨⟨mem, keys, poison, hm⟩, hgoods⟩ := shareStore_memoryOnly v (xs.getD 0 0) (xs.getD 1 0) i (storeRow v m xs i)
    have hnext : (rowStored m xs v i).cur = .matrix k ∧ (rowStored m xs v i).eng.shareClear = true := by
      unfold rowStored
      rw [hm]
      exact ⟨hcur, hc⟩
    unfold storeRows
    simp only [hstep, hlt, if_false, hclear, Bool.or_true, hgood, hd, Bool.false_eq_true, ehold, eneed, if_true, bind,
      Except.bind]
    have hadd : BitVec.ofNat 32 i + 1 = BitVec.ofNat 32 (i + 1) := (BitVec.ofNat_add i 1).symm
    rw [storeRow_modEng hcur (atRow i) (fun _ => rfl), shareStore_modEng hcur, modEng_modEng, List.range'_succ, List.foldl_cons]
    simp only [atRow, hadd]
    exact ih (i + 1) (by omega) hnext.1 (hgoods hp) hnext.2

theorem rowsStored_memoryOnly (l : List Nat) (v : State) : MemoryOnly v (l.foldl (rowStored m xs) v) :=
  List.foldlRecOn (motive := fun t => MemoryOnly v t) _ _ (.refl v) fun t ht i _ => ht.trans (shareStore_memoryOnly t _ _ i _)

end Rows

/-- What a change of memory leaves: who is in progress, its engine, its context and the cores. -/
theorem MemoryOnly.keeps {s t : State} (h : MemoryOnly s t) : t.cur = s.cur ∧ t.eng = s.eng ∧ t.ctx = s.ctx ∧ t.cores = s.cores := by
  obtain ⟨⟨m, k, p, rfl⟩, -⟩ := h
  exact ⟨rfl, rfl, rfl, rfl⟩

theorem wordDone_eq (s : State) : s.wordDone = s.modEng (fun e => Engine.next e (e.word + 2)) := rfl

/-! ### `MSTORE` begins (R398) -/

section Mstore

variable {s : State} (hin : s.eng.inWord = none)
include hin

theorem ewMstore_few (h : s.eng.stack.length < storeCount (StoreMods.ofWord s.word)) :
    ewMstore s = .error (.trap tStack s) := by
  have hnone : s.eng.inWord.isSome = false := by rw [hin]; rfl
  simp only [ewMstore, hnone, Bool.false_eq_true, if_false, bind, Except.bind, etop_few h]

variable (hlen : storeCount (StoreMods.ofWord s.word) ≤ s.eng.stack.length) {xs : List Word}
  (hxs : (s.eng.stack.take (storeCount (StoreMods.ofWord s.word))).reverse = xs)
include hlen hxs

theorem ewMstore_bad {c : Byte} {u : State} (hc : storeCheck (StoreMods.ofWord s.word) xs s = .error (.trap c u)) :
    ewMstore s = .error (.trap c u) := by
  have hnone : s.eng.inWord.isSome = false := by rw [hin]; rfl
  simp only [ewMstore, hnone, Bool.false_eq_true, if_false, bind, Except.bind, etop_ok hlen, hxs, hc]

theorem ewMstore_rows (hc : storeCheck (StoreMods.ofWord s.word) xs s = .ok ()) {t : State}
    (ht : storeRows (StoreMods.ofWord s.word) xs 64 (s.latch xs) = .ok t) : ewMstore s = .ok t.wordDone := by
  have hnone : s.eng.inWord.isSome = false := by rw [hin]; rfl
  have hops : (s.latch xs).eng.ops = xs := by rw [latch_eq, modEng_eng]
  simp only [ewMstore, hnone, Bool.false_eq_true, if_false, bind, Except.bind, etop_ok hlen, hxs, hc, hops, ht]

/-- `MSTORE` in the local share stores its rows, and the stream goes on (R398). -/
theorem ewMstore_share {k : Nat} (hcur : s.cur = .matrix k) (hc : storeCheck (StoreMods.ofWord s.word) xs s = .ok ())
    (hd : (StoreMods.ofWord s.word).d = false) (hclear : s.eng.shareClear = true) (hp : s.poison = []) :
    ∃ t, ewMstore s = .ok t ∧ t.eng.word = s.eng.word + 2 ∧ t.eng.inWord = none
      ∧ t.eng.stack = s.eng.stack.drop (storeCount (StoreMods.ofWord s.word))
      ∧ (t.core k).acc0 = (s.core k).acc0 ∧ (t.core k).acc1 = (s.core k).acc1 ∧ t.ctx = s.ctx
      ∧ t.mem = ((List.range 64).foldl (rowStored (StoreMods.ofWord s.word) xs) (s.latch xs)).mem := by
  have hxlen : xs.length = storeCount (StoreMods.ofWord s.word) := by rw [← hxs]; exact length_taken hlen
  have hl : (s.latch xs).cur = .matrix k := by rw [latch_eq]; exact hcur
  have hfirst : s.latch xs = (s.latch xs).modEng (atRow 0) := by rw [latch_eq, modEng_modEng]; rfl
  have hrows := storeRows_share (StoreMods.ofWord s.word) xs hd 64 0 rfl hl (by rw [latch_eq]; exact hp)
    (by rw [latch_eq, modEng_eng]; exact hclear)
  rw [← hfirst, ← List.range_eq_range'] at hrows
  obtain ⟨vcur, veng, vctx, vcores⟩ := (rowsStored_memoryOnly (StoreMods.ofWord s.word) xs (List.range 64) (s.latch xs)).keeps
  generalize (List.range 64).foldl (rowStored (StoreMods.ofWord s.word) xs) (s.latch xs) = v at *
  refine ⟨_, ewMstore_rows hin hlen hxs hc hrows, ?_⟩
  rw [wordDone_eq, modEng_modEng]
  have hvcur : v.cur = .matrix k := vcur.trans hl
  have hvcore : v.core k = (s.latch xs).core k := by unfold State.core; rw [vcores]
  obtain ⟨a0, a1, -⟩ := modEng_accs hvcur (fun e => Engine.next (atRow 64 e) ((atRow 64 e).word + 2))
  obtain ⟨b0, b1, -⟩ := modEng_accs hcur (fun e =>
    { e with stack := e.stack.drop xs.length, inWord := some s.word, ops := xs, step := 0, sub := 0, state := .running
             satnan := s.ctx.status.satnan })
  rw [← latch_eq, ← hvcore] at b0 b1
  rw [modEng_eng, veng, latch_eq, modEng_eng]
  refine ⟨rfl, rfl, ?_, a0.trans b0, a1.trans b1, ?_, rfl⟩
  · rw [← hxlen]
    rfl
  · rw [modEng_ctx hvcur, vctx, latch_eq, modEng_ctx hcur]

end Mstore

end Sys2Proof.Proofs.Package

/-!
O42. The array words, a pass of the array and `MSTORE` (R124, R196, R391 to R399).
-/

namespace Sys2Proof.Proofs.Package

open Sys2Proof Sys2Proof.Machine Sys2Proof.Safety Sys2Proof.Laws

/-! ### The words begin -/

theorem exec_arrayWord {i : Instr} (hi : i ∈ [Instr.mma, .mmas, .mmasp]) (s : State) : exec i s = engineWord ewArray s := by
  simp only [List.mem_cons, List.not_mem_nil, or_false] at hi
  rcases hi with rfl | rfl | rfl
  · exact exec_mma s
  · exact exec_mmas s
  · exact exec_mmasp s

section Begin

variable {s : State} {k : Nat} (h : s.cur = .matrix k) (hin : s.eng.inWord = none) {i : Instr}
  (hi : i ∈ [Instr.mma, .mmas, .mmasp])
include h hin hi

theorem arrayWord_few (hfew : s.eng.stack.length < (ArrayWord.ofWord s.word).count) : EngineFaults i s s tStack := by
  refine (exec_arrayWord hi s).trans (engineWord_trap ?_)
  rw [ewArray_begin h hin, etop_few hfew]
  rfl

variable {xs : List Word} (hlen : (ArrayWord.ofWord s.word).count ≤ s.eng.stack.length)
  (hxs : (s.eng.stack.take (ArrayWord.ofWord s.word).count).reverse = xs)
include hlen hxs

theorem arrayWord_bad {c : Byte} {u : State}
    (hc : arrayCheck (ArrayWord.ofWord s.word) ((ArrayWord.ofWord s.word).ops xs) s = .error (.trap c u)) : EngineFaults i s u c := by
  refine (exec_arrayWord hi s).trans (engineWord_trap ?_)
  simp only [ewArray_begin h hin, etop_ok hlen, hxs, bind, Except.bind, hc]

theorem arrayWord_begins (hc : arrayCheck (ArrayWord.ofWord s.word) ((ArrayWord.ofWord s.word).ops xs) s = .ok ()) :
    exec i s = .next (arrayBegun s k xs) := by
  refine (exec_arrayWord hi s).trans (engineWord_ok ?_)
  simp only [ewArray_begin h hin, etop_ok hlen, hxs, bind, Except.bind, hc]

end Begin

theorem matrixWords_begin : Claims.MatrixWords := by
  intro s k hcur hin
  refine ⟨fun i hi => ⟨arrayWord_few hcur hin hi, fun hlen c u => arrayWord_bad hcur hin hi hlen rfl, fun hlen hc => ?_⟩,
    fun hfew => ?_, fun hlen c u hc => ?_, fun hlen hc hd hclear hp => ?_, fun hlen hc hd u hu => ?_⟩
  · refine ⟨_, arrayWord_begins hcur hin hi hlen rfl hc, ?_⟩
    obtain ⟨heng, hmem, h0, h1⟩ := arrayBegun_spec hcur (s.eng.stack.take (ArrayWord.ofWord s.word).count).reverse
    rw [heng, length_taken hlen]
    exact ⟨rfl, rfl, rfl, rfl, rfl, rfl, rfl, h0, h1, fun a => congrArg (Memory.read · a) hmem⟩
  · exact (exec_mstore s).trans (engineWord_trap (ewMstore_few hin hfew))
  · exact (exec_mstore s).trans (engineWord_trap (ewMstore_bad hin hlen rfl hc))
  · obtain ⟨t, ht, hspec⟩ := ewMstore_share hin hlen rfl hcur hc hd hclear hp
    exact ⟨t, (exec_mstore s).trans (engineWord_ok ht), hspec⟩
  · exact (exec_mstore s).trans (engineWord_ok (ewMstore_rows hin hlen rfl hc hu))

/-! ### A pass (R392) -/

section Pass

variable {s : State} {k : Nat} {enc : BitVec 16}

/-- A word of the array is in progress on core `k`, and nothing keeps its sequencer. -/
structure PassDue (s : State) (k : Nat) (enc : BitVec 16) : Prop where
  named : s.inp.n = k
  cur : s.cur = .matrix k
  word : s.word = enc
  inWord : (s.engine k false).inWord = some enc
  inArray : (s.engine k false).inArray = true
  running : (s.engine k false).state = .running
  fault : (s.engine k false).fault = none
  free : (s.core k).engHeld = false

theorem exec_matrixPassCommit_due (h : PassDue s k enc) : exec .matrixPassCommit s = engineWord passCommit s := by
  have hcur : ({ s with cur := .matrix s.inp.n } : State) = s := by rw [h.named, ← h.cur]
  have hsame : ({ s with cur := .matrix s.inp.n, word := s.eng.inWord.getD 0 } : State) = s := by
    rw [eng_matrix h.cur, h.inWord, Option.getD_some, h.named, ← h.word, ← h.cur]
  have hgo : (s.eng.inArray && s.eng.state == .running && s.eng.fault.isNone && !(s.core s.inp.n).engHeld) = true := by
    rw [eng_matrix h.cur, h.inArray, h.running, h.fault, h.named, h.free]
    rfl
  rw [exec_matrixPassCommit, execMatrixPassCommit]
  dsimp only
  rw [hcur, if_pos hgo, hsame]

theorem freeLease_keeps (s : State) (k : Nat) : (s.freeLease k).cores = s.cores ∧ (s.freeLease k).cur = s.cur := by
  unfold State.freeLease
  split <;> exact ⟨rfl, rfl⟩

theorem freeLease_holdsLease (s : State) (k : Nat) : (s.freeLease k).holdsLease k = false := by
  unfold State.freeLease
  split
  · simp only [State.holdsLease, modLease_tile, if_true, finish_held, Bool.false_and]
  next h => exact Bool.eq_false_of_not_eq_true h

theorem awaitLease_holdsLease (s : State) (k : Nat) : (s.awaitLease k).holdsLease k = s.holdsLease k := by
  obtain ⟨h1, h2, -⟩ := awaitLease_lease s k (k / 4)
  rw [State.holdsLease, h1, h2]
  rfl

/-- The cycle of the lease in which a pass that begins now ends. -/
def passEnd (s : State) (k : Nat) : Nat := (s.tile (k / 4)).lease.cycles s.cycle + s.passSpan (k / 4)

variable (hcur : s.cur = .matrix k)
include hcur

theorem passCommit_waits (hl : s.holdsLease k = false) : passCommit s = .ok (s.awaitLease k) := by
  simp only [passCommit, engAt_matrix hcur, hl, Bool.not_false, if_true]

theorem passCommit_late (hl : s.holdsLease k = true) (he : 1024 < passEnd s k) :
    passCommit s = .ok ((s.freeLease k).awaitLease k) := by
  unfold passEnd at he
  simp only [passCommit, engAt_matrix hcur, hl, Bool.not_true, Bool.false_eq_true, if_false, he, if_true]

theorem passCommit_governed (hl : s.holdsLease k = true) (he : passEnd s k ≤ 1024) (hg : s.governed (k / 4) = true) :
    passCommit s = .error (.hold s) := by
  have hend := Nat.not_lt.mpr he
  unfold passEnd at hend
  simp only [passCommit, engAt_matrix hcur, hl, Bool.not_true, Bool.false_eq_true, if_false, hend, hg, ehold]
  rfl

omit hcur

/-- The state in which a pass has added its groups, and is counted. -/
def passAdded (t : State) (k : Nat) (w : ArrayWord) (o : ArrayOps) (e0 n : Nat) (bss : List (List Byte)) : State :=
  ((t.edropGot.modCore k (fun c => if w.mods.a then { c with acc1 := passAcc t w o e0 n bss c.acc1 }
    else { c with acc0 := passAcc t w o e0 n bss c.acc0 })).activePass (k / 4)).modEng (fun e => { e with step := e.step + 1 })

/-- The state after a pass, the last of which completes the word. -/
def passDone (x : State) (k passes : Nat) : State :=
  if passes ≤ x.eng.step.toNat then (x.countWord k).wordDone else x

/-- The first element of a pass, and how many it has. -/
def passFirst (w : ArrayWord) (e : Engine) : Nat := e.step.toNat * w.perPass
def passLength (w : ArrayWord) (o : ArrayOps) (e : Engine) : Nat := min w.perPass (o.k - passFirst w e)
/-- The bytes of a row of B, as it is stored, that `x` elements take. -/
def storedBytes (w : ArrayWord) (x : Nat) : Nat := if w.sparse then x / 2 * w.width / 8 else x * w.width / 8

include hcur

theorem passCommit_passes (hl : s.holdsLease k = true) (he : passEnd s k ≤ 1024) (hg : s.governed (k / 4) = false)
    (hp : s.poison = []) (hclear : s.eng.shareClear = true) {w : ArrayWord} (hw : w = ArrayWord.ofWord s.word) {o : ArrayOps}
    (ho : o = w.ops s.eng.ops) (hshare : s.shareFree = true ∨ arrayCheck w o s = .ok ()) {bss : List (List Byte)} {t : State}
    (hb : bRows w o (storedBytes w (passFirst w s.eng)) (storedBytes w (passLength w o s.eng)) 64 0 0 s = .ok (bss, t)) :
    passCommit s = .ok (passDone (passAdded t k w o (passFirst w s.eng) (passLength w o s.eng) bss) k (w.passes o.k)) := by
  have hend := Nat.not_lt.mpr he
  have hgood (ps : List Nat) : s.shareGood ps = true := by simp only [State.shareGood, hp, beq_self_eq_true, Bool.true_or]
  have hall : (List.range 64).all (fun i => true) = true := List.all_eq_true.mpr fun _ _ => rfl
  unfold passEnd at hend
  unfold storedBytes passLength passFirst at hb
  subst hw ho
  simp only [passCommit, engAt_matrix hcur, hl, Bool.not_true, Bool.false_eq_true, if_false, hend, hg, ehold, Bool.not_false, if_true,
    hclear, hgood, eneed, hall, bind, Except.bind, hb]
  rcases hshare with hf | hc
  · rw [if_pos hf]
    rfl
  · simp only [hc, ite_self]
    rfl

end Pass

/-! ### What a pass leaves (R196, R392) -/

/-- The groups of a pass are added to the accumulator that the word names. -/
def addPass (t : State) (w : ArrayWord) (o : ArrayOps) (e0 n : Nat) (bss : List (List Byte)) (c : Core) : Core :=
  if w.mods.a then { c with acc1 := passAcc t w o e0 n bss c.acc1 } else { c with acc0 := passAcc t w o e0 n bss c.acc0 }

theorem addPass_spec (t : State) (w : ArrayWord) (o : ArrayOps) (e0 n : Nat) (bss : List (List Byte)) (c : Core) :
    (addPass t w o e0 n bss c).mat = c.mat
      ∧ (addPass t w o e0 n bss c).acc0 = (if w.mods.a then c.acc0 else passAcc t w o e0 n bss c.acc0)
      ∧ (addPass t w o e0 n bss c).acc1 = (if w.mods.a then passAcc t w o e0 n bss c.acc1 else c.acc1) := by
  unfold addPass
  by_cases ha : w.mods.a = true <;> simp only [ha, if_true, Bool.false_eq_true, if_false, and_self]

section Added

variable {t : State} {k : Nat} (hcur : t.cur = .matrix k) (w : ArrayWord) (o : ArrayOps) (e0 n : Nat) (bss : List (List Byte))

theorem passAdded_lease : ((passAdded t k w o e0 n bss).tile (k / 4)).lease = (t.tile (k / 4)).lease := by
  simp only [passAdded, modEng_tile, State.activePass, modTile_tile, if_true]
  rfl

include hcur

theorem passAdded_core : (passAdded t k w o e0 n bss).core k
    = { addPass t w o e0 n bss { t.core k with mat := { (t.core k).mat with got := [] } } with
        mat := { (t.core k).mat with got := [], step := (t.core k).mat.step + 1 } } := by
  have hdrop : t.edropGot.core k = { t.core k with mat := { (t.core k).mat with got := [] } } := by
    rw [State.edropGot, modEng_core hcur, if_pos rfl]
  have hadd : ((t.edropGot.modCore k (addPass t w o e0 n bss)).activePass (k / 4)).core k
      = addPass t w o e0 n bss { t.core k with mat := { (t.core k).mat with got := [] } } := by
    rw [State.activePass, modTile_core, modCore_core, if_pos rfl, hdrop]
  have hpass : passAdded t k w o e0 n bss
      = ((t.edropGot.modCore k (addPass t w o e0 n bss)).activePass (k / 4)).modEng (fun e => { e with step := e.step + 1 }) := rfl
  rw [hpass, modEng_core (s := (t.edropGot.modCore k (addPass t w o e0 n bss)).activePass (k / 4)) hcur, if_pos rfl, hadd,
    (addPass_spec t w o e0 n bss _).1]

theorem passAdded_eng : (passAdded t k w o e0 n bss).eng = { t.engine k false with got := [], step := (t.engine k false).step + 1 } := by
  rw [eng_matrix (s := passAdded t k w o e0 n bss) hcur]
  change ((passAdded t k w o e0 n bss).core k).mat = _
  rw [passAdded_core hcur]
  rfl

theorem passAdded_accs : ((passAdded t k w o e0 n bss).core k).acc0
      = (if w.mods.a then (t.core k).acc0 else passAcc t w o e0 n bss (t.core k).acc0)
    ∧ ((passAdded t k w o e0 n bss).core k).acc1
      = (if w.mods.a then passAcc t w o e0 n bss (t.core k).acc1 else (t.core k).acc1) := by
  rw [passAdded_core hcur]
  exact (addPass_spec t w o e0 n bss _).2

end Added

section Counted

variable (x : State) (k : Nat)

/-- A word counted: the cores stay, and the lease goes on up to its sixteenth word (R196). -/
theorem countWord_spec : (x.countWord k).cores = x.cores ∧ (x.countWord k).cur = x.cur
    ∧ ((x.tile (k / 4)).lease.words + 1 < 16 → (x.countWord k).holdsLease k = x.holdsLease k
        ∧ ((x.countWord k).tile (k / 4)).lease.words = (x.tile (k / 4)).lease.words + 1)
    ∧ (16 ≤ (x.tile (k / 4)).lease.words + 1 → (x.countWord k).holdsLease k = false) := by
  have hlease : ((x.modLease (k / 4) (fun l => { l with words := l.words + 1 })).tile (k / 4)).lease
      = { (x.tile (k / 4)).lease with words := (x.tile (k / 4)).lease.words + 1 } := by
    rw [modLease_tile, if_pos rfl]
  unfold State.countWord
  dsimp only
  rw [hlease]
  by_cases h16 : 16 ≤ (x.tile (k / 4)).lease.words + 1
  · rw [if_pos h16]
    obtain ⟨hc, hu⟩ := freeLease_keeps (x.modLease (k / 4) (fun l => { l with words := l.words + 1 })) k
    exact ⟨hc, hu, fun h => absurd h16 (Nat.not_le.mpr h), fun _ => freeLease_holdsLease _ k⟩
  · rw [if_neg h16]
    refine ⟨rfl, rfl, fun _ => ⟨?_, ?_⟩, fun h => absurd h h16⟩
    · rw [State.holdsLease, hlease]
      rfl
    · rw [hlease]

end Counted

theorem passDone_goesOn {x : State} {k passes : Nat} (h : x.eng.step.toNat < passes) : passDone x k passes = x :=
  if_neg (Nat.not_le.mpr h)

/-- The last pass completes the word, and counts it toward the lease's sixteen. -/
theorem passDone_completes {x : State} {k passes : Nat} (hcur : x.cur = .matrix k) (h : passes ≤ x.eng.step.toNat) :
    (passDone x k passes).engine k false = Engine.next x.eng (x.eng.word + 2)
      ∧ ((passDone x k passes).core k).acc0 = (x.core k).acc0 ∧ ((passDone x k passes).core k).acc1 = (x.core k).acc1
      ∧ ((x.tile (k / 4)).lease.words + 1 < 16 → (passDone x k passes).holdsLease k = x.holdsLease k
          ∧ ((passDone x k passes).tile (k / 4)).lease.words = (x.tile (k / 4)).lease.words + 1)
      ∧ (16 ≤ (x.tile (k / 4)).lease.words + 1 → (passDone x k passes).holdsLease k = false) := by
  obtain ⟨hcores, hsame, hfew, hmany⟩ := countWord_spec x k
  have hcur' : (x.countWord k).cur = .matrix k := hsame.trans hcur
  have hcore : (x.countWord k).core k = x.core k := by unfold State.core; rw [hcores]
  have heng : (x.countWord k).eng = x.eng := by
    rw [eng_matrix hcur', eng_matrix hcur, State.engine, State.engine, hcore]
  have hdone : passDone x k passes = (x.countWord k).modEng (fun e => Engine.next e (e.word + 2)) :=
    (if_pos h).trans (wordDone_eq _)
  obtain ⟨a0, a1, -⟩ := modEng_accs hcur' (fun e => Engine.next e (e.word + 2))
  rw [hdone, a0, a1, hcore, modEng_holdsLease, modEng_tile]
  refine ⟨?_, rfl, rfl, hfew, hmany⟩
  rw [← eng_matrix (s := (x.countWord k).modEng _) hcur', modEng_eng, heng]

/-- What a pass leaves of its word, its accumulators and its lease. -/
structure PassLeaves (s t u : State) (k : Nat) (w : ArrayWord) (o : ArrayOps) (e0 n : Nat) (bss : List (List Byte)) (enc : BitVec 16) :
    Prop where
  acc0 : (u.core k).acc0 = (if w.mods.a then (s.core k).acc0 else passAcc t w o e0 n bss (s.core k).acc0)
  acc1 : (u.core k).acc1 = (if w.mods.a then passAcc t w o e0 n bss (s.core k).acc1 else (s.core k).acc1)
  done : w.passes o.k ≤ ((s.engine k false).step + 1).toNat → (u.engine k false).inWord = none
    ∧ (u.engine k false).word = (s.engine k false).word + 2
    ∧ ((s.tile (k / 4)).lease.words + 1 < 16 → u.holdsLease k = true
        ∧ (u.tile (k / 4)).lease.words = (s.tile (k / 4)).lease.words + 1)
    ∧ (16 ≤ (s.tile (k / 4)).lease.words + 1 → u.holdsLease k = false)
  goesOn : ((s.engine k false).step + 1).toNat < w.passes o.k → (u.engine k false).inWord = some enc
    ∧ (u.engine k false).step = (s.engine k false).step + 1 ∧ u.holdsLease k = true

theorem passDone_leaves {s t : State} {k : Nat} {enc : BitVec 16} (hcur : s.cur = .matrix k)
    (hin : (s.engine k false).inWord = some enc) (hl : s.holdsLease k = true) (htc : t.cur = s.cur) (htk : t.cores = s.cores)
    (htt : t.tiles = s.tiles) (w : ArrayWord) (o : ArrayOps) (e0 n : Nat) (bss : List (List Byte)) :
    PassLeaves s t (passDone (passAdded t k w o e0 n bss) k (w.passes o.k)) k w o e0 n bss enc := by
  have htcur : t.cur = .matrix k := htc.trans hcur
  have hcore : t.core k = s.core k := by unfold State.core; rw [htk]
  have hengine : t.engine k false = s.engine k false := by rw [State.engine, State.engine, hcore]
  have hlease : ((passAdded t k w o e0 n bss).tile (k / 4)).lease = (s.tile (k / 4)).lease := by
    rw [passAdded_lease, State.tile, htt]
    rfl
  obtain ⟨h0, h1⟩ := passAdded_accs htcur w o e0 n bss
  rw [hcore] at h0 h1
  have heng := passAdded_eng htcur w o e0 n bss
  rw [hengine] at heng
  have hxcur : (passAdded t k w o e0 n bss).cur = .matrix k := htcur
  generalize passAdded t k w o e0 n bss = x at *
  have hholds : x.holdsLease k = true := by
    rw [State.holdsLease, hlease]
    exact hl
  have hstep : x.eng.step = (s.engine k false).step + 1 := by rw [heng]
  rcases Nat.lt_or_ge x.eng.step.toNat (w.passes o.k) with hmore | hlast
  · rw [passDone_goesOn hmore]
    refine ⟨h0, h1, fun hle => ?_, fun _ => ?_⟩
    · rw [← hstep] at hle
      omega
    · rw [← eng_matrix hxcur, heng]
      exact ⟨hin, rfl, hholds⟩
  · obtain ⟨dengine, d0, d1, dfew, dmany⟩ := passDone_completes hxcur hlast
    rw [hlease] at dfew dmany
    rw [hholds] at dfew
    refine ⟨d0.trans h0, d1.trans h1, fun _ => ?_, fun hlt => ?_⟩
    · rw [dengine, heng]
      exact ⟨rfl, rfl, dfew, dmany⟩
    · rw [← hstep] at hlt
      omega

/-- A pass that may begin commits, and leaves what `PassLeaves` says. -/
theorem pass_commits {s t : State} {k : Nat} {enc : BitVec 16} (h : PassDue s k enc) (hl : s.holdsLease k = true)
    (he : passEnd s k ≤ 1024) (hg : s.governed (k / 4) = false) (hp : s.poison = [])
    (hclear : (s.engine k false).shareClear = true) {w : ArrayWord} (hw : w = ArrayWord.ofWord enc) {o : ArrayOps}
    (ho : o = w.ops (s.engine k false).ops) (hshare : s.shareFree = true ∨ arrayCheck w o s = .ok ()) {bss : List (List Byte)}
    (hb : bRows w o (storedBytes w (passFirst w (s.engine k false))) (storedBytes w (passLength w o (s.engine k false))) 64 0 0 s
      = .ok (bss, t)) (htc : t.cur = s.cur) (htk : t.cores = s.cores) (htt : t.tiles = s.tiles) :
    ∃ u, exec .matrixPassCommit s = .next u
      ∧ PassLeaves s t u k w o (passFirst w (s.engine k false)) (passLength w o (s.engine k false)) bss enc := by
  have heng : s.eng = s.engine k false := eng_matrix h.cur
  rw [← heng] at hclear ho hb ⊢
  refine ⟨_, (exec_matrixPassCommit_due h).trans (engineWord_ok (passCommit_passes h.cur hl he hg hp hclear ?_ ho hshare hb)), ?_⟩
  · rw [h.word, hw]
  · exact passDone_leaves h.cur h.inWord hl htc htk htt w o _ _ bss

theorem matrixPasses : Claims.MatrixPasses := by
  rintro s k _ enc hn hcur hword rfl hin harray hrun hfault hfree
  have hdue : PassDue s k enc := ⟨hn, hcur, hword, hin, harray, hrun, hfault, hfree⟩
  have hexec := exec_matrixPassCommit_due hdue
  refine ⟨fun hl => ?_, fun hl he => ?_, fun hl he hg => ?_, fun hl he hg hp hclear hshare bss t hb htc htk htt => ?_⟩
  · exact ⟨_, hexec.trans (engineWord_ok (passCommit_waits hcur hl)), awaitLease_engine s k, awaitLease_accs s k⟩
  · obtain ⟨hcores, -⟩ := freeLease_keeps s k
    have hcore : (s.freeLease k).core k = s.core k := by unfold State.core; rw [hcores]
    obtain ⟨h0, h1⟩ := awaitLease_accs (s.freeLease k) k
    rw [hcore] at h0 h1
    refine ⟨_, hexec.trans (engineWord_ok (passCommit_late hcur hl he)), ?_, ?_, h0, h1⟩
    · rw [awaitLease_holdsLease, freeLease_holdsLease]
    · rw [awaitLease_engine, State.engine, State.engine, hcore]
  · exact hexec.trans (engineWord_hold (passCommit_governed hcur hl he hg))
  · obtain ⟨u, hu, hleaves⟩ := pass_commits hdue hl he hg hp hclear rfl rfl hshare hb htc htk htt
    exact ⟨u, hu, hleaves.acc0, hleaves.acc1, hleaves.done, hleaves.goesOn⟩

/-! ### The words complete -/

/-- Rows of B in the local share that hold no uncorrectable data are read as they stand. -/
theorem bRows_share {s : State} (w : ArrayWord) (o : ArrayOps) (hs : w.mods.s = false) (hp : s.poison = []) (q n r j used : Nat) :
    bRows w o q n r j used s = .ok ((List.range' j r).map (fun i =>
      (List.range n).map (fun x => s.shareByte (sramOff o.b0 o.b1 i (q + x)))), s) := by
  have hgood (ps : List Nat) : s.shareGood ps = true := by simp only [State.shareGood, hp, beq_self_eq_true, Bool.true_or]
  induction r generalizing j with
  | zero => rfl
  | succ r ih =>
    simp only [bRows, hs, Bool.false_eq_true, if_false, hgood, eneed, if_true, bind, Except.bind, ih, List.map_map, List.range'_succ,
      List.map_cons]
    rfl

/-- Operands on top of a stack, in push order. -/
theorem take_operands {xs rest stack : List Word} {n : Nat} (hstack : stack = xs.reverse ++ rest) (hlen : xs.length = n) :
    n ≤ stack.length ∧ (stack.take n).reverse = xs ∧ stack.drop n = rest := by
  have hn : n = xs.reverse.length := hlen.symm.trans List.length_reverse.symm
  subst hstack hn
  rw [List.take_left, List.drop_left, List.reverse_reverse, List.length_append]
  exact ⟨Nat.le_add_right _ _, rfl, rfl⟩

theorem matrixComplete : Claims.MatrixComplete := by
  constructor
  · intro s k rest hcur hin w m begun xs hstack
    refine ⟨fun hlen hc => ?_, fun hlen hc hd hclear hp => ?_⟩
    · obtain ⟨hlong, htake, hdrop⟩ := take_operands hstack hlen
      have hbegun : begun xs (arrayBegun s k xs) := by
        obtain ⟨heng, hmem, -, -⟩ := arrayBegun_spec hcur xs
        refine ⟨?_, ?_, ?_, ?_, ?_, hmem⟩ <;> rw [heng]
        rw [hlen]
        exact hdrop
      have hall (i : Instr) (hi : i ∈ [Instr.mma, .mmas, .mmasp]) : ∃ t, exec i s = .next t ∧ begun xs t :=
        ⟨_, arrayWord_begins hcur hin hi hlong htake hc, hbegun⟩
      exact ⟨hall .mma (by decide), hall .mmas (by decide), hall .mmasp (by decide)⟩
    · obtain ⟨hlong, htake, hdrop⟩ := take_operands hstack hlen
      obtain ⟨t, ht, hword, hnone, hrest, -⟩ := ewMstore_share hin hlong htake hcur hc hd hclear hp
      exact ⟨t, (exec_mstore s).trans (engineWord_ok ht), hword, hnone, hrest.trans hdrop⟩
  · rintro s k _ enc hn hcur hword rfl hin harray hrun hfault hfree w o hl he hg hp hclear hshare hs e0 n q m rows
    have hdue : PassDue s k enc := ⟨hn, hcur, hword, hin, harray, hrun, hfault, hfree⟩
    have hb := bRows_share w o hs hp q m 64 0 0
    rw [← List.range_eq_range'] at hb
    obtain ⟨u, hu, hleaves⟩ := pass_commits hdue hl he hg hp hclear rfl rfl (.inl hshare) hb rfl rfl rfl
    refine ⟨u, hu, hleaves.acc0, hleaves.acc1, fun hlast => ?_, fun hmore => ?_⟩
    · obtain ⟨hnone, hnext, -⟩ := hleaves.done hlast
      exact ⟨hnone, hnext⟩
    · obtain ⟨hsome, hstep, -⟩ := hleaves.goesOn hmore
      exact ⟨hsome, hstep⟩

/-- Settles O42: the words that begin, a pass by its cases, and what completes, by the lemma of each. -/
theorem matrixWords : Obligations.MatrixWords := ⟨matrixWords_begin, matrixPasses, matrixComplete⟩

end Sys2Proof.Proofs.Package

/-!
O47. Flits of a Linnor port (R32 to R36): what is received, sent, asked for again and resent.
-/

namespace Sys2Proof.Proofs.Links

open Sys2Proof Sys2Proof.Machine Sys2Proof.Safety Sys2Proof.Laws Sys2Proof.Proofs.Package

/-! ### Ports after an update -/

@[simp] theorem setPort_lnPort (s : State) (p : Nat) (x : LnPort) (j : Nat) :
    (s.setPort p x).lnPort j = if j = p then x else s.lnPort j := Assoc.get_set _ _ _ _ _
@[simp] theorem modPort_lnPort (s : State) (p : Nat) (f : LnPort → LnPort) (j : Nat) :
    (s.modPort p f).lnPort j = if j = p then f (s.lnPort p) else s.lnPort j := setPort_lnPort s p _ j
@[simp] theorem push_lnPort (s : State) (i : Instr) (inp : Input) (j : Nat) : (s.push i inp).lnPort j = s.lnPort j := rfl
@[simp] theorem pushAll_lnPort (s : State) (xs : List (Instr × Input)) (j : Nat) : (s.pushAll xs).lnPort j = s.lnPort j := rfl
@[simp] theorem modPort_sched (s : State) (p : Nat) (f : LnPort → LnPort) : (s.modPort p f).sched = s.sched := rfl

/-! ### A flit as bytes (R33, R34) -/

theorem header_word (h : FlitHeader) : FlitHeader.ofWord h.word = h := by
  obtain ⟨seq, ack, ackv, kind, creq, crsp⟩ := h
  simp (disch := decide) only [FlitHeader.ofWord, FlitHeader.word, extract_low, extract_high, Nat.sub_self, extract_self,
    BitVec.getLsbD_append, BitVec.getLsbD_ofBool, FlitHeader.mk.injEq]
  simp

theorem flitBytes_header (h : FlitHeader) (slots : List Byte) (seed : Nat) :
    FlitHeader.ofWord (BitVec.ofNat 64 (field (flitBytes h slots seed) 0 8)) = h := by
  have hword : field (flitBytes h slots seed) 0 8 = h.word.toNat := by
    simp only [field, flitBytes, List.drop_zero, List.append_assoc]
    rw [List.take_left' (leBytes_length 8 _)]
    exact leNat_leBytes 8 _ h.word.isLt
  rw [hword, BitVec.ofNat_toNat, BitVec.setWidth_eq, header_word]

theorem flitBytes_length (h : FlitHeader) {slots : List Byte} (hs : slots.length ≤ 224) (seed : Nat) :
    (flitBytes h slots seed).length = 256 := by
  simp only [flitBytes, List.length_append, leBytes_length, List.length_replicate, List.length_map, List.length_range]
  omega

/-- Which lane a byte goes to depends on the parity of its place. -/
theorem onLane_shift (i k : Nat) (bs : List Byte) : ((bs.zipIdx (k + 2)).filter (fun e => e.2 % 2 == i)).map (·.1)
    = ((bs.zipIdx k).filter (fun e => e.2 % 2 == i)).map (·.1) := by
  induction bs generalizing k with
  | nil => rfl
  | cons a rest ih =>
    have hparity : (k + 2) % 2 = k % 2 := Nat.add_mod_right k 2
    simp only [List.zipIdx_cons, List.filter_cons, hparity, Nat.add_right_comm k 2 1]
    split <;> simp only [List.map_cons, ih]

theorem onLane_zero_cons_cons (a b : Byte) (rest : List Byte) : onLane 0 (a :: b :: rest) = a :: onLane 0 rest :=
  congrArg (a :: ·) (onLane_shift 0 0 rest)

theorem onLane_one_cons_cons (a b : Byte) (rest : List Byte) : onLane 1 (a :: b :: rest) = b :: onLane 1 rest :=
  congrArg (b :: ·) (onLane_shift 1 0 rest)

/-- The bytes dealt to two lanes come together again (R32). -/
theorem fromLanes_onLane (bs : List Byte) : fromLanes (onLane 0 bs) (onLane 1 bs) = bs := by
  induction bs using List.twoStepInduction with
  | nil => rfl
  | singleton a => rfl
  | cons_cons a b rest ih _ =>
    rw [onLane_zero_cons_cons, onLane_one_cons_cons]
    exact congrArg (a :: b :: ·) ih

/-! ### What a port sends -/

/-- A flit without packets has the flit's length and the kind asked for, and leaves what the port holds for its replay. -/
theorem sendBare_wire (q : LnPort) (kind : BitVec 3) (seed : Nat) : (q.sendBare kind seed).wire.length = 256
    ∧ (FlitHeader.ofWord (BitVec.ofNat 64 (field (q.sendBare kind seed).wire 0 8))).kind = kind :=
  ⟨flitBytes_length _ (Nat.zero_le _) seed, congrArg FlitHeader.kind (flitBytes_header (q.header kind) [] seed)⟩

theorem sendBare_keeps (q : LnPort) (kind : BitVec 3) (seed : Nat) : (q.sendBare kind seed).next = q.next
    ∧ (q.sendBare kind seed).replay = q.replay ∧ (q.sendBare kind seed).missing = q.missing
    ∧ (q.sendBare kind seed).creq = q.creq ∧ (q.sendBare kind seed).crsp = q.crsp
    ∧ (q.sendBare kind seed).expect = q.expect := by
  unfold LnPort.sendBare
  exact ⟨rfl, rfl, rfl, rfl, rfl, rfl⟩

/-- Packing takes packets from the queue, and neither numbers a flit nor fills the replay buffer. -/
theorem lnPack_keeps (n : Nat) (l : List LnSlot) (q : LnPort) (stopReq stopRsp : Bool) :
    (lnPack n l q stopReq stopRsp).next = q.next ∧ (lnPack n l q stopReq stopRsp).replay = q.replay := by
  induction l generalizing q stopReq stopRsp with
  | nil => exact ⟨rfl, rfl⟩
  | cons x rest ih =>
    obtain ⟨response, pkt⟩ := x
    unfold lnPack
    cases response <;> simp only [Bool.false_eq_true, if_true, if_false] <;> split <;> exact ih _ _ _

/-- The port with what its next data flit carries. -/
def packedPort (q : LnPort) : LnPort := lnPack 224 q.sendq { q with sendq := [] } false false

theorem packedPort_keeps (q : LnPort) : (packedPort q).next = q.next ∧ (packedPort q).replay = q.replay := lnPack_keeps _ _ _ _ _

/-- With a full replay buffer, or nothing to send, a port sends an idle flit (R35). -/
theorem sendData_idle {q : LnPort} (h : 256 ≤ q.replay.length ∨ (packedPort q).rest = []) (seed : Nat) :
    q.sendData seed = q.sendBare 1 seed := by
  have hidle : (256 ≤ q.replay.length || (packedPort q).rest = []) = true := by simpa using h
  exact if_pos hidle

/-- The data flit that a port sends of what it has packed. -/
def dataFlit (packed : LnPort) (seed : Nat) : List Byte := flitBytes (packed.header 0) (packed.rest.take 224) seed

/-- The port once it has sent that flit. -/
def dataSent (packed : LnPort) (seed : Nat) : LnPort :=
  { packed with wire := dataFlit packed seed, rest := packed.rest.drop 224
                replay := packed.replay ++ [(packed.next, dataFlit packed seed)], next := packed.next + 1
                retReq := packed.retReq - 255, retRsp := packed.retRsp - 255 }

theorem sendData_data {q : LnPort} (hroom : q.replay.length < 256) (hrest : (packedPort q).rest ≠ []) (seed : Nat) :
    q.sendData seed = dataSent (packedPort q) seed := by
  have hdata : ¬ (256 ≤ q.replay.length || (packedPort q).rest = []) = true := by simp [hrest, hroom]
  exact if_neg hdata

/-- A data flit takes the port's next number and stands in its replay buffer (R35). -/
theorem dataSent_packed (q : LnPort) (seed : Nat) : (dataSent (packedPort q) seed).next = q.next + 1
    ∧ (dataSent (packedPort q) seed).wire.length = 256
    ∧ (dataSent (packedPort q) seed).replay = q.replay ++ [(q.next, (dataSent (packedPort q) seed).wire)] := by
  obtain ⟨hnext, hreplay⟩ := packedPort_keeps q
  exact ⟨congrArg (· + 1) hnext, flitBytes_length _ (List.length_take_le _ _) seed,
    congrArg₂ (fun replay next => replay ++ [(next, dataFlit (packedPort q) seed)]) hreplay hnext⟩

/-! ### Asking for a flit (R35) -/

/-- Port `p` of `t` has asked for the flit it expects, `n` times by now, and its credits and replay buffer are those of `s`. -/
def Asks (s t : State) (p n : Nat) : Prop :=
  (t.lnPort p).wire.length = 256 ∧ (t.lnPort p).missing = true ∧ (t.lnPort p).asks = n ∧ (t.lnPort p).askedAt = s.ptime
    ∧ (t.lnPort p).replay = (s.lnPort p).replay ∧ (t.lnPort p).creq = (s.lnPort p).creq ∧ (t.lnPort p).crsp = (s.lnPort p).crsp
    ∧ (FlitHeader.ofWord (BitVec.ofNat 64 (field (t.lnPort p).wire 0 8))).kind = 2

section Receives

variable {s : State} {p : Nat}

/-- A port that sends a retry request has asked. -/
theorem asks_of_sent {t : State} {n seed : Nat} (h : t.lnPort p
    = { (s.lnPort p).sendBare 2 seed with missing := true, asks := n, askedAt := s.ptime }) : Asks s t p n := by
  obtain ⟨hlength, hkind⟩ := sendBare_wire (s.lnPort p) 2 seed
  obtain ⟨-, hreplay, -, hcreq, hcrsp, -⟩ := sendBare_keeps (s.lnPort p) 2 seed
  unfold Asks
  simp only [h, hlength, hreplay, hcreq, hcrsp, hkind, and_self]

theorem lnMissing_first (h : (s.lnPort p).missing = false) : (s.lnMissing p).lnPort p
    = { (s.lnPort p).sendBare 2 s.fresh with missing := true, asks := 1, askedAt := s.ptime } := by
  simp only [State.lnMissing, modPort_lnPort, if_true, h, Bool.false_eq_true, if_false]

theorem lnMissing_asks (h : (s.lnPort p).missing = false) : Asks s (s.lnMissing p) p 1
    ∧ ((s.lnMissing p).lnPort p).expect = (s.lnPort p).expect := by
  obtain ⟨-, -, -, -, -, hexpect⟩ := sendBare_keeps (s.lnPort p) 2 s.fresh
  exact ⟨asks_of_sent (lnMissing_first h), by simp only [lnMissing_first h, hexpect]⟩

theorem lnMissing_again (h : (s.lnPort p).missing = true) : (s.lnMissing p).lnPort p = s.lnPort p := by
  simp only [State.lnMissing, modPort_lnPort, if_true, h]

@[simp] theorem lnMissing_sched : (s.lnMissing p).sched = s.sched := rfl

/-! ### A flit arrives (R33 to R36) -/

variable {ok : Bool} {bs : List Byte}

/-- The header of the flit received. -/
def headerOf (bs : List Byte) : FlitHeader := FlitHeader.ofWord (BitVec.ofNat 64 (field bs 0 8))

/-- The flit received is whole and sound, and of a kind that means something. -/
def Sound (ok : Bool) (bs : List Byte) : Prop :=
  ok = true ∧ field bs 232 8 = (crc64 (bs.take 232)).toNat ∧ bs.length = 240 ∧ (headerOf bs).kind.toNat < 4

/-- What a sound flit does to its port. -/
def soundFlit (p : Nat) (bs : List Byte) (s : State) : State :=
  let h := headerOf bs
  let q := s.lnPort p
  let later := h.seq != q.expect && decide ((h.seq - q.expect).toNat < 2048)
  match h.kind.toNat with
  | 0 => if h.seq = q.expect then (s.lnTake p h).lnAccept p ((bs.drop 8).take 224) else if later then s.lnMissing p else s
  | 1 => if h.seq = q.expect then (if q.missing then s else s.lnTake p h) else if later then s.lnMissing p else s
  | 2 => (s.lnTake p h).push .linnorRetryRequest { n := p, m := h.ack.toNat }
  | _ => (s.lnTake p h).push .linnorRetrain { n := p }

theorem receive_sound (hup : s.lnUp p = true) (h : Sound ok bs) : linnorFlitReceive p ok bs s = soundFlit p bs s := by
  obtain ⟨hok, hcrc, hlen, hkind⟩ := h
  have hgood : (!ok || field bs 232 8 != (crc64 (bs.take 232)).toNat || decide (bs.length < 240)
      || decide (4 ≤ (headerOf bs).kind.toNat)) = false := by
    simp [hok, hcrc, hlen, hkind]
  have hdown : ¬ (!s.lnUp p) = true := by simp [hup]
  exact (if_neg hdown).trans (if_neg (Bool.eq_false_iff.mp hgood))

theorem receive_unsound (hup : s.lnUp p = true) (hlen : bs.length = 240) (h : ¬ Sound ok bs) :
    linnorFlitReceive p ok bs s = s.lnMissing p := by
  have hbad : (!ok || field bs 232 8 != (crc64 (bs.take 232)).toNat || decide (bs.length < 240)
      || decide (4 ≤ (headerOf bs).kind.toNat)) = true := by
    by_contra hgood
    refine h ?_
    simp only [Bool.not_eq_true, Bool.or_eq_false_iff, Bool.not_eq_false', bne_eq_false_iff_eq, decide_eq_false_iff_not, not_le] at hgood
    obtain ⟨⟨⟨hok, hcrc⟩, -⟩, hkind⟩ := hgood
    exact ⟨hok, hcrc, hlen, hkind⟩
  have hdown : ¬ (!s.lnUp p) = true := by simp [hup]
  exact (if_neg hdown).trans (if_pos hbad)

theorem soundFlit_data (hk : (headerOf bs).kind = 0) (hseq : (headerOf bs).seq = (s.lnPort p).expect) :
    soundFlit p bs s = (s.lnTake p (headerOf bs)).lnAccept p ((bs.drop 8).take 224) := by
  simp only [soundFlit, hk, hseq, if_true]
  rfl

theorem soundFlit_later (hk : (headerOf bs).kind.toNat ≤ 1) (hseq : (headerOf bs).seq ≠ (s.lnPort p).expect)
    (hl : ((headerOf bs).seq - (s.lnPort p).expect).toNat < 2048) : soundFlit p bs s = s.lnMissing p := by
  have hlater : ((headerOf bs).seq != (s.lnPort p).expect && decide (((headerOf bs).seq - (s.lnPort p).expect).toNat < 2048)) = true := by
    rw [bne_iff_ne.mpr hseq, decide_eq_true hl, Bool.and_self]
  obtain hkind | hkind := Nat.le_one_iff_eq_zero_or_eq_one.mp hk <;> simp only [soundFlit, hkind, hseq, hlater, if_true, if_false]

theorem soundFlit_idle (hk : (headerOf bs).kind = 1) (hseq : (headerOf bs).seq = (s.lnPort p).expect) :
    soundFlit p bs s = if (s.lnPort p).missing then s else s.lnTake p (headerOf bs) := by
  simp only [soundFlit, hk, hseq, if_true]
  rfl

/-- The port once a flit's credits and acknowledgement are taken (R34, R36). -/
theorem lnTake_lnPort (h : FlitHeader) : (s.lnTake p h).lnPort p
    = { s.lnPort p with
        creq := (s.lnPort p).creq + h.creq.toNat, crsp := (s.lnPort p).crsp + h.crsp.toNat
        replay := if h.ackv && h.kind.toNat ≤ 1 then replayFrom (h.ack + 1) (s.lnPort p).replay else (s.lnPort p).replay } := by
  simp only [State.lnTake, modPort_lnPort, if_true]

/-- What the slots of a data flit do to its port, and the packets they complete. -/
theorem lnAccept_spec (slots : List Byte) :
    let q := s.lnPort p
    let r := lnParse 100 (q.part ++ slots)
    let t := s.lnAccept p slots
    (t.lnPort p).expect = q.expect + 1 ∧ (t.lnPort p).missing = false ∧ (t.lnPort p).creq = q.creq ∧ (t.lnPort p).crsp = q.crsp
      ∧ (t.lnPort p).replay = q.replay ∧ (t.lnPort p).part = r.2
      ∧ t.sched = r.1.map (fun x => .happen (lnHappening x.kind) { n := p, lpkt := some x }) ++ s.sched := by
  simp only [State.lnAccept, pushAll_lnPort, setPort_lnPort, if_true, true_and]
  simp only [State.pushAll, List.map_map]
  rfl

/-! ### Sending, and resending (R35) -/

@[simp] theorem checkRetry_lnPort (j : Nat) : (s.checkRetry p).lnPort j = s.lnPort j := by
  unfold State.checkRetry
  split <;> rfl

theorem transmit_data (hup : s.lnUp p = true) : (linnorFlitTransmit p .data s).lnPort p = (s.lnPort p).sendData s.fresh := by
  simp only [linnorFlitTransmit, hup, Bool.not_true, Bool.false_eq_true, if_false, modPort_lnPort, if_true]

theorem transmit_idle (hup : s.lnUp p = true) : (linnorFlitTransmit p .idle s).lnPort p = (s.lnPort p).sendBare 1 s.fresh := by
  simp only [linnorFlitTransmit, hup, Bool.not_true, Bool.false_eq_true, if_false, modPort_lnPort, if_true]

theorem retryRequest_lnPort (hup : s.lnUp p = true) (seq : BitVec 12) : (linnorRetryRequest p seq s).lnPort p
    = (s.lnPort p).resend (replayFrom seq (s.lnPort p).replay) s.ptime := by
  simp only [linnorRetryRequest, hup, Bool.not_true, Bool.false_eq_true, if_false, checkRetry_lnPort, modPort_lnPort, if_true]

theorem retrain_lnPort (hup : s.lnUp p = true) : (linnorRetrain p s).lnPort p
    = { (s.lnPort p).resend (s.lnPort p).replay s.ptime with missing := false, asks := 0 } := by
  simp only [linnorRetrain, hup, Bool.not_true, Bool.false_eq_true, if_false, checkRetry_lnPort, modPort_lnPort, if_true]

theorem timeout_due (hup : s.lnUp p = true) (hm : (s.lnPort p).missing = true)
    (ht : 2000 ≤ (s.ptime - (s.lnPort p).askedAt).toNat) : retryRequestTimeout p s =
      if 8 ≤ (s.lnPort p).asks then (s.modPort p (fun q => q.sendBare 3 s.fresh)).push .linnorRetrain { n := p }
      else s.modPort p (fun q => { q.sendBare 2 s.fresh with asks := q.asks + 1, askedAt := s.ptime }) := by
  have hdue : ¬ (!s.lnUp p || !(s.lnPort p).missing || decide ((s.ptime - (s.lnPort p).askedAt).toNat < 2000)) = true := by
    rw [hup, hm, decide_eq_false (Nat.not_lt.mpr ht)]
    decide
  exact if_neg hdue

end Receives

/-- Settles O47: what a flit received does by its cases, and what a port sends, asks for and resends. -/
theorem linnorFlits : Obligations.LinnorFlits := by
  intro s hup _ p q bs h sound asks
  have hexec : exec .linnorFlitReceive s = .next (linnorFlitReceive p s.inp.flag bs s) := rfl
  refine ⟨?_, ?_, ?_, ?_, ?_, ?_, ?_, ?_, ?_, ?_, ?_, fun x => fromLanes_onLane x.wire⟩
  · intro hs hk hseq
    obtain ⟨hexpect, hmissing, hcreq, hcrsp, -, hpart, hsched⟩ := lnAccept_spec (s := s.lnTake p h) (p := p) ((bs.drop 8).take 224)
    rw [lnTake_lnPort] at hexpect hcreq hcrsp hpart hsched
    dsimp only at hexpect hcreq hcrsp hpart hsched
    refine ⟨_, hexec.trans (congrArg _ ((receive_sound hup hs).trans (soundFlit_data hk hseq))), hexpect, hmissing, hcreq, hcrsp, ?_⟩
    generalize lnParse 100 (q.part ++ (bs.drop 8).take 224) = parsed at hpart hsched ⊢
    exact ⟨hpart, hsched⟩
  · intro hs hk hl hseq hm
    obtain ⟨hasks, hexpect⟩ := lnMissing_asks hm
    exact ⟨_, hexec.trans (congrArg _ ((receive_sound hup hs).trans (soundFlit_later hk hseq hl))), hasks, hexpect, rfl⟩
  · intro hs hk hseq hm
    rw [hexec, receive_sound hup hs, soundFlit_idle hk hseq, if_pos hm]
  · intro hs hlen hm
    obtain ⟨hasks, hexpect⟩ := lnMissing_asks hm
    exact ⟨_, hexec.trans (congrArg _ (receive_unsound hup hlen hs)), hasks, hexpect, rfl⟩
  · intro hs hlen hm
    exact ⟨_, hexec.trans (congrArg _ (receive_unsound hup hlen hs)), lnMissing_again hm, rfl⟩
  · intro hs hk hm hack hseq
    have htake : (h.ackv && decide (h.kind.toNat ≤ 1)) = true := by rw [hack, decide_eq_true hk]; rfl
    have hreplay : ((s.lnTake p h).lnPort p).replay = replayFrom (h.ack + 1) q.replay := by
      rw [lnTake_lnPort]
      exact if_pos htake
    obtain hkind | hkind := Nat.le_one_iff_eq_zero_or_eq_one.mp hk
    · obtain ⟨-, -, -, -, hkept, -, -⟩ := lnAccept_spec (s := s.lnTake p h) (p := p) ((bs.drop 8).take 224)
      exact ⟨_, hexec.trans (congrArg _ ((receive_sound hup hs).trans (soundFlit_data (BitVec.eq_of_toNat_eq hkind) hseq))),
        hkept.trans hreplay⟩
    · have hidle : h.kind = 1 := BitVec.eq_of_toNat_eq hkind
      have hmissing : q.missing = false := hm.resolve_left (by rw [hidle]; decide)
      have hnot : ¬ q.missing = true := Bool.eq_false_iff.mp hmissing
      exact ⟨_, hexec.trans (congrArg _ ((receive_sound hup hs).trans ((soundFlit_idle hidle hseq).trans (if_neg hnot)))), hreplay⟩
  · intro hf hroom hrest
    have hsent : ((linnorFlitTransmit p s.inp.flit s).lnPort p) = dataSent (packedPort q) s.fresh := by
      rw [hf, transmit_data hup]
      exact sendData_data hroom hrest s.fresh
    obtain ⟨hnext, hlen, hreplay⟩ := dataSent_packed q s.fresh
    refine ⟨_, rfl, ?_⟩
    rw [hsent]
    exact ⟨hnext, hlen, hreplay⟩
  · intro hf
    have hsent : ((linnorFlitTransmit p s.inp.flit s).lnPort p) = q.sendBare 1 s.fresh := by
      obtain hf | ⟨hf, hfull⟩ := hf
      · rw [hf, transmit_idle hup]
      · rw [hf, transmit_data hup]
        exact sendData_idle (.inl hfull) s.fresh
    obtain ⟨hlen, hkind⟩ := sendBare_wire q 1 s.fresh
    obtain ⟨hnext, hreplay, -⟩ := sendBare_keeps q 1 s.fresh
    refine ⟨_, rfl, ?_⟩
    rw [hsent]
    exact ⟨hnext, hreplay, hlen, hkind⟩
  · refine ⟨_, rfl, ?_⟩
    rw [retryRequest_lnPort hup]
    exact ⟨rfl, rfl⟩
  · intro hm ht
    refine ⟨fun hfew => ⟨_, rfl, ?_⟩, fun hmany => ⟨_, rfl, ?_⟩⟩
    · obtain ⟨-, -, hmissing, -⟩ := sendBare_keeps q 2 s.fresh
      rw [timeout_due hup hm ht, if_neg (Nat.not_le.mpr hfew)]
      refine ⟨asks_of_sent (seed := s.fresh) ?_, rfl⟩
      rw [modPort_lnPort, if_pos rfl, ← hm, ← hmissing]
    · rw [timeout_due hup hm ht, if_pos hmany]
      rfl
  · refine ⟨_, rfl, ?_⟩
    rw [retrain_lnPort hup]
    exact ⟨rfl, rfl, rfl, rfl, rfl⟩

end Sys2Proof.Proofs.Links

/-!
O48, first half. Requests of other devices at a Linnor port (R38 to R40, R46, R47, R49).
-/

namespace Sys2Proof.Proofs.Links

open Sys2Proof Sys2Proof.Machine Sys2Proof.Safety Sys2Proof.Laws Sys2Proof.Proofs.Package

/-! ### What a write of memory leaves -/

theorem setBytesKey_memoryOnly (key : BitVec 8) (vs : List Byte) (s : State) (a : Nat) : MemoryOnly s (s.setBytesKey key a vs) := by
  induction vs generalizing s a with
  | nil => exact .refl s
  | cons v vs ih => exact (setByteKey_memoryOnly s key a v).trans (ih _ _)

theorem setBytesKey_keeps (s : State) (key : BitVec 8) (a : Nat) (vs : List Byte) :
    (s.setBytesKey key a vs).links = s.links ∧ (s.setBytesKey key a vs).mgmt = s.mgmt := by
  obtain ⟨⟨m, k, p, h⟩, -⟩ := setBytesKey_memoryOnly key vs s a
  rw [h]
  exact ⟨rfl, rfl⟩

/-- An atomic at its home gives the old value. -/
theorem atomic_old (s : State) (op n : Nat) (key : BitVec 8) (cell c x : Nat) :
    (s.atomic op n key cell c x).1 = leNat (s.bytesKey key cell n) := by
  unfold State.atomic
  dsimp only
  split <;> rfl

/-- An atomic other than CAS writes its new value. -/
theorem atomic_new (s : State) {op : Nat} (h : op < 7) (n : Nat) (key : BitVec 8) (cell c x : Nat) :
    (s.atomic op n key cell c x).2
      = s.setBytesKey key cell (leBytes n (atomicNew op (8 * n) (leNat (s.bytesKey key cell n)) x)) := by
  simp only [State.atomic, Nat.ne_of_lt h, if_false]

/-- CAS writes where the old value is the one it compares with. -/
theorem atomic_cas (s : State) (n : Nat) (key : BitVec 8) (cell c x : Nat) :
    (s.atomic 7 n key cell c x).2 = if leNat (s.bytesKey key cell n) = c then s.setBytesKey key cell (leBytes n x) else s := rfl

theorem atomic_links (s : State) (op n : Nat) (key : BitVec 8) (cell c x : Nat) :
    (s.atomic op n key cell c x).2.links = s.links := by
  unfold State.atomic
  dsimp only
  split
  · split
    · exact (setBytesKey_keeps s key cell _).1
    · rfl
  · exact (setBytesKey_keeps s key cell _).1

/-! ### Answers on the port of the request (R38, R40) -/

/-- `u` sends one packet more on the port than `s`: the answer to `p`. -/
def Replies (s u : State) (port : Nat) (p : LinnorPacket) (kind op : BitVec 4) (data : List Byte) : Prop :=
  (u.lnPort port).sendq = (s.lnPort port).sendq
    ++ [⟨lnResponse kind, ⟨kind, p.src, s.links.self, p.tag, BitVec.ofNat 8 (data.length - 1), op, 0, data⟩⟩]

theorem lnReply_replies {s t : State} (h : t.links = s.links) (port : Nat) (p : LinnorPacket) (kind op : BitVec 4)
    (data : List Byte) : Replies s (t.lnReply port p kind op data) port p kind op data := by
  have hport : t.lnPort port = s.lnPort port := by simp only [State.lnPort, h]
  simp only [Replies, State.lnReply, State.lnSend, modPort_lnPort, if_true, h, hport]

theorem lnReply_mem (t : State) (port : Nat) (p : LinnorPacket) (kind op : BitVec 4) (data : List Byte) :
    (t.lnReply port p kind op data).mem = t.mem := rfl

/-- Instruction `i` answers `p` with ERR and status `c`, and memory stays. -/
def Refuses (i : Instr) (s : State) (p : LinnorPacket) (c : BitVec 4) : Prop :=
  ∃ u, exec i s = .next u ∧ Replies s u s.inp.n p 9 c [] ∧ u.mem = s.mem

section Requests

variable {s : State} {p : LinnorPacket}

theorem refuses_of_lnErr {i : Instr} {c : BitVec 4} (h : exec i s = .next (s.lnErr s.inp.n p c)) : Refuses i s p c :=
  ⟨_, h, lnReply_replies rfl _ _ _ _ _, rfl⟩

/-- A happening at a Linnor port does to the state what it does with its packet. -/
theorem withLinnor_of_lpkt (hp : s.inp.lpkt = some p) (f : Nat → LinnorPacket → State → State) :
    withLinnor f s = .next (f s.inp.n p s) := by
  rw [withLinnor, hp]

/-! ### Requests that are performed at a home (R46) -/

section Serves

variable {port n : Nat} {write bad : Bool} {f : BitVec 8 → Nat → State → State}

theorem lnServe_elsewhere (h : p.dst ≠ s.links.self) : lnServe port p n write bad s f = s.lnErr port p lnNotMapped :=
  if_pos (bne_iff_ne.mpr h)

/-- The request is for this device, which is not in IDLE. -/
def Here (s : State) (p : LinnorPacket) : Prop := p.dst = s.links.self ∧ s.mgmt.idle ≠ .idle

theorem lnServe_idle (h : p.dst = s.links.self) (hi : s.mgmt.idle = .idle) :
    lnServe port p n write bad s f = s.lnErr port p lnIdle := by
  simp only [lnServe, h, hi, bne_self_eq_false, Bool.false_eq_true, if_false, beq_self_eq_true, if_true]

theorem Here.tests (h : Here s p) : (p.dst != s.links.self) = false ∧ (s.mgmt.idle == .idle) = false := by
  obtain ⟨hd, hi⟩ := h
  exact ⟨by simp [hd], by simpa using hi⟩

theorem lnServe_bad (h : Here s p) (hb : bad = true) : lnServe port p n write bad s f = s.lnErr port p lnMalformed := by
  obtain ⟨hdst, hidle⟩ := h.tests
  simp only [lnServe, hdst, hidle, hb, Bool.false_eq_true, if_false, if_true]

theorem lnServe_unexported (h : Here s p) (hb : bad = false) (he : exported s p n write = false) :
    lnServe port p n write bad s f = s.lnErr port p lnNotMapped := by
  obtain ⟨hdst, hidle⟩ := h.tests
  simp only [lnServe, hdst, hidle, hb, he, Bool.false_eq_true, if_false, Bool.not_false, if_true]

theorem lnServe_performs (h : Here s p) (hb : bad = false) (he : exported s p n write = true)
    (hr : outerRefuse s (physKey p.addr) (physCell p.addr) n write = none) :
    lnServe port p n write bad s f = (f (physKey p.addr) (physCell p.addr) s).countFar (physCell p.addr) := by
  obtain ⟨hdst, hidle⟩ := h.tests
  simp only [lnServe, hdst, hidle, hb, he, hr, Bool.not_true, Bool.false_eq_true, if_false]

end Serves

/-! ### The message ring (R47, R97) -/

/-- The ring is enabled and has room. -/
def RingRoom (s : State) : Prop := s.mgmt.msgen = true ∧ (s.mgmt.msgtail - s.mgmt.msghead).toNat < 2 ^ s.mgmt.msgsize.toNat

/-- The place of the ring's next entry. -/
def ringBase (s : State) : BitVec 52 := s.mgmt.msgbase.extractLsb' 0 52
def ringCell (s : State) : Nat := physCell (ringBase s) + 256 * (s.mgmt.msgtail.toNat % 2 ^ s.mgmt.msgsize.toNat)

/-- The 256 bytes of an entry. -/
def ringEntry (src : BitVec 10) (bs : List Byte) : List Byte :=
  leBytes 2 src.toNat ++ [BitVec.ofNat 8 (bs.length - 1)] ++ List.replicate 5 0 ++ bs ++ List.replicate (248 - bs.length) 0

theorem ringEntry_length (src : BitVec 10) {bs : List Byte} (h : bs.length ≤ 248) : (ringEntry src bs).length = 256 := by
  simp only [ringEntry, List.length_append, leBytes_length, List.length_replicate, List.length_cons, List.length_nil]
  omega

theorem msgPut_full (h : ¬ RingRoom s) (src : BitVec 10) (bs : List Byte) : s.msgPut src bs = none := by
  refine if_pos ?_
  simp only [RingRoom, not_and_or, Bool.not_eq_true, not_lt] at h
  simpa using h

/-- The state with the message in the ring, behind those before it. -/
def ringPut (s : State) (src : BitVec 10) (bs : List Byte) : State :=
  let t := s.setBytesKey (physKey (ringBase s)) (ringCell s) (ringEntry src bs)
  { t with mgmt := { t.mgmt with msgtail := s.mgmt.msgtail + 1 } }

/-- The same once the MSI of a ring that was empty is sent. -/
def ringTold (s : State) (src : BitVec 10) (bs : List Byte) : State :=
  if s.mgmt.msgtail = s.mgmt.msghead then (ringPut s src bs).sendMsi s.mgmt.msgmsi else ringPut s src bs

theorem msgPut_room (h : RingRoom s) (src : BitVec 10) (bs : List Byte) : s.msgPut src bs = some (ringTold s src bs) := by
  obtain ⟨hen, hfree⟩ := h
  have hentry : ringEntry src bs = leBytes 2 src.toNat ++ [BitVec.ofNat 8 (bs.length - 1)] ++ List.replicate 5 0
      ++ (bs ++ List.replicate (248 - bs.length) 0) := by simp only [ringEntry, List.append_assoc]
  rw [ringTold, ringPut, hentry]
  simp only [State.msgPut, hen, decide_eq_false (Nat.not_le.mpr hfree), Bool.not_true, Bool.or_self, Bool.false_eq_true, if_false]
  rfl

theorem ringTold_keeps (s : State) (src : BitVec 10) (bs : List Byte) : (ringTold s src bs).links = s.links
    ∧ (ringTold s src bs).mgmt.msgtail = s.mgmt.msgtail + 1
    ∧ (ringTold s src bs).mem = (s.setBytesKey (physKey (ringBase s)) (ringCell s) (ringEntry src bs)).mem := by
  obtain ⟨hlinks, -⟩ := setBytesKey_keeps s (physKey (ringBase s)) (ringCell s) (ringEntry src bs)
  unfold ringTold
  split <;> simp only [ringPut, State.sendMsi, hlinks, and_self]

/-- The bytes that a packet carries. -/
def payload (p : LinnorPacket) : List Byte := p.data.take (p.len.toNat + 1)

theorem payload_length_le (p : LinnorPacket) : (payload p).length ≤ p.len.toNat + 1 := List.length_take_le _ _

/-- `u` has the message `p` in the ring, and has acknowledged it. -/
def Entered (s u : State) (port : Nat) (p : LinnorPacket) : Prop :=
  Replies s u port p 7 0 [] ∧ u.mgmt.msgtail = s.mgmt.msgtail + 1
    ∧ (payload p ≠ [] → SameKey s (physKey (ringBase s)) (ringCell s) 256 → MemInv s →
        Stored s u (ringCell s) (ringEntry p.src (payload p)))

theorem deliver_room (h : RingRoom s) (port : Nat) : deliver port p s = (ringTold s p.src (payload p)).lnReply port p 7 0 [] := by
  rw [deliver, msgPut_room h]
  rfl

theorem deliver_entered (h : RingRoom s) (port : Nat) (hlen : p.len.toNat < 248) : Entered s (deliver port p s) port p := by
  obtain ⟨hlinks, htail, hmem⟩ := ringTold_keeps s p.src (payload p)
  rw [deliver_room h]
  refine ⟨lnReply_replies hlinks _ _ _ _ _, htail, fun _ hkey hinv b => ?_⟩
  have hlength := ringEntry_length p.src ((payload_length_le p).trans hlen)
  rw [← setBytesKey_stored (hlength.symm ▸ hkey) hinv b]
  exact congrArg (Memory.read · b) hmem

theorem deliver_full (h : ¬ RingRoom s) (port : Nat) : deliver port p s = s.lnErr port p lnBusy := by
  rw [deliver, msgPut_full h]

theorem linnorMsg_here (h : Here s p) (port : Nat) : linnorMsg port p s =
    if 192 ≤ p.len.toNat then s.lnErr port p lnMalformed else deliver port p s := by
  obtain ⟨hdst, hidle⟩ := h.tests
  simp only [linnorMsg, hdst, hidle, Bool.false_eq_true, if_false]

/-! ### Wake frames (R48, R49) -/

theorem setHeld_spec (s : State) (port : Nat) (f : Option LinnorPacket) :
    ((s.setHeld port f).lnPort port).held = f ∧ (s.setHeld port f).wakeHeld port = f.isSome
      ∧ ((s.setHeld port f).lnPort port).sendq = (s.lnPort port).sendq ∧ (s.setHeld port f).mem = s.mem
      ∧ (s.setHeld port f).mgmt = s.mgmt := by
  have hport : (s.setHeld port f).lnPort port = { s.lnPort port with held := f } :=
    (modPort_lnPort s port (fun q => { q with held := f }) port).trans (if_pos rfl)
  refine ⟨by rw [hport], ?_, by rw [hport], rfl, rfl⟩
  simp only [State.wakeHeld, State.setHeld, Assoc.get_set_same]
  cases f <;> simp

/-- The state in which a matched frame is held and begins the wake. -/
def wakeBegun (port : Nat) (p : LinnorPacket) (s : State) : State :=
  let k := wakeCore s port
  let t := s.setHeld port (some p)
  { t with mgmt := { t.mgmt with idle := .waking, idleCause := 2, wokeAt := s.cycle,
                                 restored := if t.tileUp (k / 4) then k :: t.mgmt.restored else t.mgmt.restored } }

theorem linnorWake_gated (hd : p.dst = s.links.self) (hg : s.allGated = true) (port : Nat) : linnorWake port p s =
    if !wakeMatches s port p then s.lnErr port p lnIdle
    else if s.wakeHeld port then s.lnErr port p lnBusy
    else wakeBegun port p s := by
  have hdst : ¬ (p.dst != s.links.self) = true := by simp [hd]
  exact (if_neg hdst).trans (if_pos hg)

/-- Only a frame of 8 to 64 bytes matches. -/
theorem wakeMatches_length {port : Nat} (h : p.len.toNat + 1 < 8 ∨ 64 < p.len.toNat + 1) : wakeMatches s port p = false := by
  have hlen : (decide (8 ≤ p.len.toNat + 1) && decide (p.len.toNat + 1 ≤ 64)) = false := by
    rw [Bool.and_eq_false_iff, decide_eq_false_iff_not, decide_eq_false_iff_not]
    omega
  unfold wakeMatches
  rw [hlen]
  rfl

/-- A frame that arrives while the package is on its way into IDLE brings it back. -/
def stillRunning (s : State) : State :=
  if s.mgmt.idle == .entering then { s with mgmt := { s.mgmt with idle := .running, gated := false, restored := [] } } else s

theorem badWake_iff {n : Nat} : (decide (n < 8) || decide (64 < n)) = true ↔ n < 8 ∨ 64 < n := by
  rw [Bool.or_eq_true, decide_eq_true_eq, decide_eq_true_eq]

theorem stillRunning_keeps (s : State) : (stillRunning s).links = s.links ∧ (stillRunning s).mem = s.mem
    ∧ (RingRoom (stillRunning s) ↔ RingRoom s)
    ∧ ∀ u port, Entered (stillRunning s) u port p → Entered s u port p := by
  unfold stillRunning
  split
  · exact ⟨rfl, rfl, Iff.rfl, fun _ _ => id⟩
  · exact ⟨rfl, rfl, Iff.rfl, fun _ _ => id⟩

theorem linnorWake_awake (hd : p.dst = s.links.self) (hg : s.allGated = false) (port : Nat) : linnorWake port p s =
    if p.len.toNat + 1 < 8 || 64 < p.len.toNat + 1 then s.lnErr port p lnMalformed
    else if s.wakeHeld port && wakeMatches s port p then s.lnErr port p lnBusy
    else deliver port p (stillRunning s) := by
  have hdst : ¬ (p.dst != s.links.self) = true := by simp [hd]
  have hawake : ¬ s.allGated = true := Bool.eq_false_iff.mp hg
  have hdeliver : deliver port p (stillRunning s) = if s.mgmt.idle == .entering then
      deliver port p { s with mgmt := { s.mgmt with idle := .running, gated := false, restored := [] } } else deliver port p s :=
    apply_ite _ _ _ _
  rw [hdeliver]
  exact (if_neg hdst).trans (if_neg hawake)

/-! ### The forms of a request -/

/-- The happenings that a request of another device is, with what each does with its packet. -/
def requestForms : List (Instr × (Nat → LinnorPacket → State → State)) :=
  [(.linnorRd, linnorRd), (.linnorWr, linnorWr), (.linnorAtom, linnorAtom), (.linnorMsg, linnorMsg), (.linnorWake, linnorWake),
    (.linnorReservedKind, linnorReserved)]

theorem exec_requestForms (hp : s.inp.lpkt = some p) : ∀ f ∈ requestForms, exec f.1 s = .next (f.2 s.inp.n p s) := by
  simp only [requestForms, List.forall_mem_cons]
  exact ⟨withLinnor_of_lpkt hp _, withLinnor_of_lpkt hp _, withLinnor_of_lpkt hp _, withLinnor_of_lpkt hp _,
    withLinnor_of_lpkt hp _, withLinnor_of_lpkt hp _, fun _ h => absurd h List.not_mem_nil⟩

theorem requestForms_elsewhere (hd : p.dst ≠ s.links.self) (port : Nat) :
    ∀ f ∈ requestForms, f.2 port p s = s.lnErr port p lnNotMapped := by
  have hdst : (p.dst != s.links.self) = true := bne_iff_ne.mpr hd
  simp only [requestForms, List.forall_mem_cons]
  exact ⟨if_pos hdst, if_pos hdst, if_pos hdst, if_pos hdst, if_pos hdst, if_pos hdst, fun _ h => absurd h List.not_mem_nil⟩

theorem requestForms_idle (hd : p.dst = s.links.self) (hi : s.mgmt.idle = .idle) (port : Nat) :
    ∀ f ∈ requestForms.take 4, f.2 port p s = s.lnErr port p lnIdle := by
  have hmsg : linnorMsg port p s = s.lnErr port p lnIdle := by
    simp only [linnorMsg, hd, hi, bne_self_eq_false, Bool.false_eq_true, if_false, beq_self_eq_true, if_true]
  simp only [requestForms, List.take_succ_cons, List.take_zero, List.forall_mem_cons]
  exact ⟨by rw [linnorRd, lnServe_idle hd hi], by rw [linnorWr, lnServe_idle hd hi], by rw [linnorAtom, lnServe_idle hd hi], hmsg,
    fun _ h => absurd h List.not_mem_nil⟩

section Forms

variable {port : Nat}

/-- The header of an atomic is malformed. -/
def badAtom (p : LinnorPacket) : Prop := (p.len.toNat + 1 ≠ 4 ∧ p.len.toNat + 1 ≠ 8) ∨ p.addr.toNat % (p.len.toNat + 1) ≠ 0

theorem badAtom_iff (p : LinnorPacket) : ((decide (p.len.toNat + 1 ≠ 4) && decide (p.len.toNat + 1 ≠ 8))
    || decide (p.addr.toNat % (p.len.toNat + 1) ≠ 0)) = true ↔ badAtom p := by
  simp only [badAtom, Bool.or_eq_true, Bool.and_eq_true, decide_eq_true_eq]

theorem linnorReserved_here (h : Here s p) : linnorReserved port p s = s.lnErr port p lnMalformed :=
  if_neg (by simp [h.1])

section Read

variable (h : Here s p)

include h

theorem linnorRd_bad (hb : 256 < p.addr.toNat % 256 + (p.len.toNat + 1)) : linnorRd port p s = s.lnErr port p lnMalformed := by
  unfold linnorRd
  exact lnServe_bad h (decide_eq_true hb)

theorem linnorRd_unexported (hb : ¬ 256 < p.addr.toNat % 256 + (p.len.toNat + 1))
    (he : exported s p (p.len.toNat + 1) false = false) : linnorRd port p s = s.lnErr port p lnNotMapped := by
  unfold linnorRd
  exact lnServe_unexported h (decide_eq_false hb) he

theorem linnorRd_performs (hb : ¬ 256 < p.addr.toNat % 256 + (p.len.toNat + 1)) (he : exported s p (p.len.toNat + 1) false = true)
    (hr : outerRefuse s (physKey p.addr) (physCell p.addr) (p.len.toNat + 1) false = none) : linnorRd port p s
    = (s.lnReply port p 1 0 (s.bytesKey (physKey p.addr) (physCell p.addr) (p.len.toNat + 1))).countFar (physCell p.addr) := by
  unfold linnorRd
  exact lnServe_performs h (decide_eq_false hb) he hr

end Read

section Write

variable (h : Here s p)

include h

theorem linnorWr_bad (hb : 256 < p.addr.toNat % 256 + (payload p).length) : linnorWr port p s = s.lnErr port p lnMalformed := by
  unfold linnorWr
  exact lnServe_bad h (decide_eq_true hb)

theorem linnorWr_unexported (hb : ¬ 256 < p.addr.toNat % 256 + (payload p).length)
    (he : exported s p (payload p).length true = false) : linnorWr port p s = s.lnErr port p lnNotMapped := by
  unfold linnorWr
  exact lnServe_unexported h (decide_eq_false hb) he

theorem linnorWr_performs (hb : ¬ 256 < p.addr.toNat % 256 + (payload p).length) (he : exported s p (payload p).length true = true)
    (hr : outerRefuse s (physKey p.addr) (physCell p.addr) (payload p).length true = none) : linnorWr port p s
    = ((s.setBytesKey (physKey p.addr) (physCell p.addr) (payload p)).lnReply port p 3 0 []).countFar (physCell p.addr) := by
  unfold linnorWr
  exact lnServe_performs h (decide_eq_false hb) he hr

end Write

/-- What an atomic request compares with, and its operand. -/
def atomCompare (p : LinnorPacket) : Nat := if p.op.toNat = 7 then field p.data 0 (p.len.toNat + 1) else 0
def atomOperand (p : LinnorPacket) : Nat :=
  if p.op.toNat = 7 then field p.data (p.len.toNat + 1) (p.len.toNat + 1) else field p.data 0 (p.len.toNat + 1)

/-- The state in which an atomic request has been performed at its home. -/
def atomDone (p : LinnorPacket) (s : State) : State :=
  (s.atomic p.op.toNat (p.len.toNat + 1) (physKey p.addr) (physCell p.addr) (atomCompare p) (atomOperand p)).2

theorem linnorAtom_bad (h : Here s p) (hb : badAtom p) : linnorAtom port p s = s.lnErr port p lnMalformed := by
  unfold linnorAtom
  exact lnServe_bad h ((badAtom_iff p).mpr hb)

theorem linnorAtom_unexported (h : Here s p) (hb : ¬ badAtom p) (he : exported s p (p.len.toNat + 1) true = false) :
    linnorAtom port p s = s.lnErr port p lnNotMapped := by
  unfold linnorAtom
  exact lnServe_unexported h (Bool.eq_false_iff.mpr (mt (badAtom_iff p).mp hb)) he

theorem linnorAtom_performs (h : Here s p) (hb : ¬ badAtom p) (he : exported s p (p.len.toNat + 1) true = true)
    (hr : outerRefuse s (physKey p.addr) (physCell p.addr) (p.len.toNat + 1) true = none)
    (hp : s.poisoned (physCell p.addr) (p.len.toNat + 1) = false) (hop : p.op.toNat < 8) :
    linnorAtom port p s = ((atomDone p s).lnReply port p 5 0 (leBytes (p.len.toNat + 1)
      (leNat (s.bytesKey (physKey p.addr) (physCell p.addr) (p.len.toNat + 1))))).countFar (physCell p.addr) := by
  rw [← atomic_old s p.op.toNat _ _ _ (atomCompare p) (atomOperand p)]
  unfold linnorAtom
  refine (lnServe_performs h (Bool.eq_false_iff.mpr (mt (badAtom_iff p).mp hb)) he hr).trans ?_
  simp only [Nat.not_le.mpr hop, hp, Bool.false_eq_true, if_false]
  rfl

end Forms

end Requests

/-! ### The claim -/

theorem linnorRequests : Claims.LinnorRequests := by
  intro s p hp port n bs key cell answers err bad here admits
  have hexec := exec_requestForms hp
  have hrd : (Instr.linnorRd, linnorRd) ∈ requestForms := by simp [requestForms]
  have hwr : (Instr.linnorWr, linnorWr) ∈ requestForms := by simp [requestForms]
  have hatom : (Instr.linnorAtom, linnorAtom) ∈ requestForms := by simp [requestForms]
  have hmsg : (Instr.linnorMsg, linnorMsg) ∈ requestForms := by simp [requestForms]
  have hwake : (Instr.linnorWake, linnorWake) ∈ requestForms := by simp [requestForms]
  have hreserved : (Instr.linnorReservedKind, linnorReserved) ∈ requestForms := by simp [requestForms]
  have refuse (i : Instr) (f : Nat → LinnorPacket → State → State) (hf : (i, f) ∈ requestForms) (c : BitVec 4)
      (h : f port p s = s.lnErr port p c) : err i c := refuses_of_lnErr ((hexec _ hf).trans (congrArg _ h))
  refine ⟨?_, ?_, ?_, ?_, ?_, ?_, ?_, ?_⟩
  · intro hd i hi
    obtain ⟨f, hf, rfl⟩ := List.mem_map.mp (show i ∈ requestForms.map Prod.fst from hi)
    exact refuse _ _ hf _ (requestForms_elsewhere hd port f hf)
  · intro hd hidle i hi
    obtain ⟨f, hf, rfl⟩ := List.mem_map.mp (show i ∈ (requestForms.take 4).map Prod.fst from hi)
    exact refuse _ _ (List.mem_of_mem_take hf) _ (requestForms_idle hd hidle port f hf)
  · intro hd hg
    refine ⟨fun hbad => ?_, fun hm hh => ?_, fun hm hh => ?_⟩
    · have hno : wakeMatches s port p = false := hbad.elim id wakeMatches_length
      exact refuse _ _ hwake 3 (by rw [linnorWake_gated hd hg, hno]; rfl)
    · exact refuse _ _ hwake 4 (by rw [linnorWake_gated hd hg, hm, hh]; rfl)
    · obtain ⟨hheld, hbit, hsendq, hmem, -⟩ := setHeld_spec s port (some p)
      have hbegun : linnorWake port p s = wakeBegun port p s := by rw [linnorWake_gated hd hg, hm, hh]; rfl
      exact ⟨wakeBegun port p s, (hexec _ hwake).trans (congrArg _ hbegun), rfl, rfl, hheld, hbit, hsendq, hmem⟩
  · intro hh
    refine ⟨?_, fun hb he => ?_, fun hb he => ?_, fun hb he => ?_⟩
    · rintro i (⟨rfl, hb⟩ | ⟨rfl, hb⟩ | ⟨rfl, hb⟩ | ⟨rfl, hb⟩ | rfl | ⟨rfl, hg, hb⟩)
      · exact refuse _ _ hrd 6 (linnorRd_bad hh hb)
      · exact refuse _ _ hwr 6 (linnorWr_bad hh hb)
      · exact refuse _ _ hatom 6 (linnorAtom_bad hh hb)
      · exact refuse _ _ hmsg 6 ((linnorMsg_here hh port).trans (if_pos (Nat.le_of_lt_succ hb)))
      · exact refuse _ _ hreserved 6 (linnorReserved_here hh)
      · exact refuse _ _ hwake 6 ((linnorWake_awake hh.1 hg port).trans (if_pos (badWake_iff.mpr hb)))
    · exact refuse _ _ hrd 2 (linnorRd_unexported hh (fun h => hb (.inl ⟨rfl, h⟩)) he)
    · exact refuse _ _ hwr 2 (linnorWr_unexported hh (fun h => hb (.inr (.inl ⟨rfl, h⟩))) he)
    · exact refuse _ _ hatom 2 (linnorAtom_unexported hh (fun h => hb (.inr (.inr (.inl ⟨rfl, h⟩)))) he)
  · rintro ⟨hh, he, hr⟩ hb
    exact ⟨_, (hexec _ hrd).trans (congrArg _ (linnorRd_performs hh (fun h => hb (.inl ⟨rfl, h⟩)) he hr)),
      lnReply_replies rfl _ _ _ _ _, rfl⟩
  · rintro ⟨hh, he, hr⟩ hb hkey hinv
    exact ⟨_, (hexec _ hwr).trans (congrArg _ (linnorWr_performs hh (fun h => hb (.inr (.inl ⟨rfl, h⟩))) he hr)),
      lnReply_replies (setBytesKey_keeps s key cell bs).1 _ _ _ _ _, setBytesKey_stored hkey hinv⟩
  · rintro ⟨hh, he, hr⟩ hb hp
    have hatomic (hop : p.op.toNat < 8) := (hexec _ hatom).trans (congrArg _
      (linnorAtom_performs hh (fun h => hb (.inr (.inr (.inl ⟨rfl, h⟩)))) he hr hp hop))
    have hlinks : (atomDone p s).links = s.links := atomic_links s _ _ _ _ _ _
    refine ⟨fun hop => ⟨_, hatomic (hop.trans (by decide)), lnReply_replies hlinks _ _ _ _ _, ?_⟩,
      fun hop => ⟨_, hatomic (hop ▸ by decide), lnReply_replies hlinks _ _ _ _ _, ?_⟩⟩
    · have hx : atomOperand p = field p.data 0 n := if_neg (Nat.ne_of_lt hop)
      rw [lnReply_mem, atomDone, atomic_new s hop, hx]
    · have hx : atomOperand p = field p.data n n := if_pos hop
      have hc : atomCompare p = field p.data 0 n := if_pos hop
      rw [lnReply_mem, atomDone, hop, atomic_cas, hx, hc]
  · intro hh
    refine ⟨refuse _ _ hreserved 6 (linnorReserved_here hh), fun hn => ?_, fun hg h8 h64 hheld => ?_⟩
    · have hdeliver : linnorMsg port p s = deliver port p s :=
        (linnorMsg_here hh port).trans (if_neg (Nat.not_le.mpr hn))
      exact ⟨fun hroom => ⟨_, (hexec _ hmsg).trans (congrArg _ hdeliver), deliver_entered hroom port (by omega)⟩,
        fun hfull => refuse _ _ hmsg 4 (hdeliver.trans (deliver_full hfull port))⟩
    · have hdeliver : linnorWake port p s = deliver port p (stillRunning s) := by
        have hsize : ¬ (decide (n < 8) || decide (64 < n)) = true := mt badWake_iff.mp (by omega)
        rw [linnorWake_awake hh.1 hg port, if_neg hsize, hheld]
        rfl
      obtain ⟨hlinks, hmem, hring, hentered⟩ := stillRunning_keeps (p := p) s
      refine ⟨fun hroom => ⟨_, (hexec _ hwake).trans (congrArg _ hdeliver), hentered _ _ (deliver_entered (hring.mpr hroom) port ?_)⟩,
        fun hfull => ⟨_, (hexec _ hwake).trans (congrArg _ (hdeliver.trans (deliver_full (mt hring.mp hfull) port))),
          lnReply_replies hlinks _ _ _ _ _, hmem⟩⟩
      omega

end Sys2Proof.Proofs.Links

/-!
O48, second half. Answers of other devices to the C7's own requests (R40, R45), and held wake frames (R99).
-/

namespace Sys2Proof.Proofs.Links

open Sys2Proof Sys2Proof.Machine Sys2Proof.Safety Sys2Proof.Laws Sys2Proof.Proofs.Package

/-! ### What is learned of a path (R45) -/

theorem learned_unknown {w : BitVec 64} {i : Nat} (ok : Bool) (hk : w.getLsbD 62 = false) (hl : w.getLsbD (40 + i) = false) :
    learned w i ok = if ok then w ||| (1#64 <<< (40 + i)) ||| (1#64 <<< (48 + i))
      else (w ||| (1#64 <<< (40 + i))) &&& ~~~(1#64 <<< (48 + i)) := by
  simp only [learned, hk, hl, Bool.or_self, Bool.false_eq_true, if_false]

section Answers

variable {s : State} {r : LnReq}

/-- The capability that an atomic request tries. -/
def triedBit (r : LnReq) : Nat := capBit r.pkt.op.toNat (r.pkt.len == 7)

/-- The capability word of the request's route. -/
def routeWord (s : State) (r : LnReq) : BitVec 64 := Assoc.get 0 s.links.route r.pkt.dst.toNat

theorem lnLearn_other (h : r.pkt.kind ≠ 4) (ok : Bool) : s.lnLearn r ok = s := if_pos (bne_iff_ne.mpr h)

/-- Learning of a path changes neither the mesh nor the requests on their way. -/
theorem lnLearn_keeps (s : State) (r : LnReq) (ok : Bool) : (s.lnLearn r ok).mesh = s.mesh
    ∧ (s.lnLearn r ok).links.reqs = s.links.reqs := by
  unfold State.lnLearn State.learnPath
  split
  · exact ⟨rfl, rfl⟩
  · refine ⟨rfl, ?_⟩
    dsimp only
    split <;> rfl

/-- An atomic's answer teaches its route. -/
theorem lnLearn_route (h : r.pkt.kind = 4) (ok : Bool) :
    routeWord (s.lnLearn r ok) r = learned (routeWord s r) (triedBit r) ok := by
  have hatomic : ¬ (r.pkt.kind != 4) = true := by simp [h]
  have hdevice : r.pkt.dst.toNat < 1024 := r.pkt.dst.isLt
  have hlearn : s.lnLearn r ok = s.learnPath r.pkt.dst.toNat (triedBit r) ok := if_neg hatomic
  simp only [routeWord, hlearn, State.learnPath, State.pathWord, hdevice, if_true, Assoc.get_set_same]

/-! ### The request is done (R40) -/

/-- The request `r` is no longer on its way. -/
def Gone (t : State) (r : LnReq) : Prop := Assoc.find? t.links.reqs r.pkt.tag.toNat = none

theorem lnDone_gone (s : State) (r : LnReq) : Gone (s.lnDone r) r := find?_erase_same _ _

/-- An answer of the mesh sent from a state with the same mesh. -/
theorem lnAnswer_answers {t : State} {o : Packet} (ho : r.orig = some o) (hmesh : t.mesh = s.mesh) (kind op : BitVec 4)
    (data : List Byte) : Answers s (t.lnAnswer r kind op data) o kind op 0 data := by
  have hanswer : t.lnAnswer r kind op data = t.respond o kind op 0 data := by rw [State.lnAnswer, ho]
  obtain ⟨q, hq, hrest⟩ := respond_answers t o kind op 0 data
  rw [hanswer]
  exact ⟨q, by rw [hq, hmesh], hrest⟩

theorem lnAnswer_links (t : State) (r : LnReq) (kind op : BitVec 4) (data : List Byte) : (t.lnAnswer r kind op data).links = t.links := by
  unfold State.lnAnswer
  split <;> rfl

/-- The state in which a request is done, its route has learned, and the mesh request it serves is answered. -/
def settled (s : State) (r : LnReq) (ok : Bool) (kind op : BitVec 4) (data : List Byte) : State :=
  ((s.lnDone r).lnLearn r ok).lnAnswer r kind op data

theorem settled_spec {o : Packet} (ho : r.orig = some o) (ok : Bool) (kind op : BitVec 4) (data : List Byte) :
    let t := settled s r ok kind op data
    Answers s t o kind op 0 data ∧ Gone t r ∧ (r.pkt.kind ≠ 4 → t.links.route = s.links.route)
      ∧ (r.pkt.kind = 4 → routeWord t r = learned (routeWord s r) (triedBit r) ok) := by
  obtain ⟨hmesh, hreqs⟩ := lnLearn_keeps (s.lnDone r) r ok
  have hlinks := lnAnswer_links ((s.lnDone r).lnLearn r ok) r kind op data
  refine ⟨lnAnswer_answers ho hmesh _ _ _, ?_, fun h => ?_, fun h => ?_⟩
  · rw [Gone, settled, hlinks, hreqs]
    exact lnDone_gone s r
  · rw [settled, hlinks, lnLearn_other h]
    rfl
  · rw [routeWord, settled, hlinks]
    exact lnLearn_route h ok

/-- A request that is done without learning, and the mesh request it serves is answered. -/
theorem lnDone_answers {o : Packet} (ho : r.orig = some o) (kind op : BitVec 4) (data : List Byte) :
    Answers s ((s.lnDone r).lnAnswer r kind op data) o kind op 0 data ∧ Gone ((s.lnDone r).lnAnswer r kind op data) r := by
  refine ⟨lnAnswer_answers ho rfl _ _ _, ?_⟩
  rw [Gone, lnAnswer_links]
  exact lnDone_gone s r

/-! ### What each answer does (R40) -/

section Received

variable {p : LinnorPacket}

theorem exec_linnorRdrsp_of_lpkt (hp : s.inp.lpkt = some p) : exec .linnorRdrsp s = .next (linnorAnswered 8 p s) :=
  withLinnor_of_lpkt hp (fun _ p s => linnorAnswered 8 p s)

theorem exec_linnorWrack_of_lpkt (hp : s.inp.lpkt = some p) :
    exec .linnorWrack s = .next (linnorAnswered 9 { p with data := [] } s) :=
  withLinnor_of_lpkt hp (fun _ p s => linnorAnswered 9 { p with data := [] } s)

theorem exec_linnorAtomrsp_of_lpkt (hp : s.inp.lpkt = some p) : exec .linnorAtomrsp s = .next (linnorAnswered 0xA p s) :=
  withLinnor_of_lpkt hp (fun _ p s => linnorAnswered 0xA p s)

theorem exec_linnorMsgack_of_lpkt (hp : s.inp.lpkt = some p) : exec .linnorMsgack s = .next (linnorMsgack p s) :=
  withLinnor_of_lpkt hp (fun _ p s => linnorMsgack p s)

theorem exec_linnorErr_of_lpkt (hp : s.inp.lpkt = some p) : exec .linnorErr s = .next (linnorErr p s) :=
  withLinnor_of_lpkt hp (fun _ p s => linnorErr p s)

variable (hr : s.lnReq p = some r)

include hr

theorem linnorAnswered_eq (kind : BitVec 4) : linnorAnswered kind p s = settled s r true kind 0 p.data := by
  rw [linnorAnswered, hr]
  rfl

theorem linnorMsgack_eq : linnorMsgack p s = s.lnDone r := by
  rw [linnorMsgack, hr]

theorem linnorErr_unsupported (h : p.op = 1) :
    linnorErr p s = settled s r false 0xB (if r.pkt.kind = 4 then nackPath else nackPartition) [] := by
  simp only [linnorErr, hr, h, beq_iff_eq]
  rfl

theorem linnorErr_waits (h : p.op = 3 ∨ p.op = 4) : linnorErr p s
    = { s with links := { s.links with reqs := Assoc.set s.links.reqs p.tag.toNat { r with waiting := true } } } := by
  obtain h | h := h <;> simp only [linnorErr, hr, h] <;> rfl

theorem linnorErr_poison (h : p.op = 5) : linnorErr p s = (s.lnDone r).lnAnswer r 0xB nackPoison [] := by
  simp only [linnorErr, hr, h]
  rfl

theorem linnorErr_refused (h : p.op = 2 ∨ p.op = 6) : linnorErr p s = (s.lnDone r).lnAnswer r 0xB nackPartition [] := by
  obtain h | h := h <;> simp only [linnorErr, hr, h] <;> rfl

end Received

/-! ### Requests that wait (R40) -/

/-- The request is sent again. -/
def resent (s : State) (r : LnReq) (tag : Nat) : State :=
  { s with links := { s.links with reqs := Assoc.set s.links.reqs tag { r with waiting := false, sentAt := s.ptime } } }.lnSend
    r.port r.pkt

section Waiting

variable {tag : Nat} (h : Assoc.find? s.links.reqs tag = some r)

include h

theorem linnorResend_due (hw : r.waiting = true) (ht : 4000 ≤ (s.ptime - r.sentAt).toNat) : linnorResend tag s = resent s r tag := by
  rw [linnorResend, h]
  exact if_pos (by rw [hw, decide_eq_true ht]; rfl)

theorem linnorResend_early (hw : r.waiting = false ∨ (s.ptime - r.sentAt).toNat < 4000) : linnorResend tag s = s := by
  rw [linnorResend, h]
  refine if_neg ?_
  rw [Bool.and_eq_true, decide_eq_true_eq]
  rintro ⟨hwait, hlong⟩
  obtain hw | hw := hw
  · rw [hw] at hwait
    cases hwait
  · omega

theorem linnorGiveup_due (hw : r.waiting = true) (ht : 10000000 ≤ (s.ptime - r.since).toNat) :
    linnorGiveup tag s = (s.lnDone r).lnAnswer r 0xB nackPoison [] := by
  rw [linnorGiveup, h]
  exact if_pos (by rw [hw, decide_eq_true ht]; rfl)

end Waiting

/-- A request sent again is on its port, and its time counts anew. -/
theorem resent_spec (tag : Nat) : ((resent s r tag).lnPort r.port).sendq
      = (s.lnPort r.port).sendq ++ [⟨lnResponse r.pkt.kind, r.pkt⟩]
    ∧ Assoc.find? (resent s r tag).links.reqs tag = some { r with waiting := false, sentAt := s.ptime } := by
  refine ⟨?_, find?_set_same _ _ _⟩
  simp only [resent, State.lnSend, modPort_lnPort, if_true]
  rfl

/-! ### A held wake frame (R99) -/

section Replay

variable {k port : Nat} {p : LinnorPacket} (hheld : (s.lnPort port).held = some p) (hi : s.mgmt.idle ≠ .idle)
  (hg : s.coreGated k = false) (hk : wakeCore s port = k)

include hheld hi hg hk

theorem wakeReplay_ready : wakeReplay k port s
    = ((s.msgPut p.src (payload p)).map (fun t => (t.lnReply port p 7 0 []).setHeld port none)).getD s := by
  have hready : ¬ (s.mgmt.idle == .idle || s.coreGated k || decide (wakeCore s port ≠ k)) = true := by
    simp [hi, hg, hk]
  rw [wakeReplay, hheld]
  refine (if_neg hready).trans ?_
  change _ = ((s.msgPut p.src (p.data.take (p.len.toNat + 1))).map _).getD s
  cases s.msgPut p.src (p.data.take (p.len.toNat + 1)) <;> rfl

theorem wakeReplay_room (h : RingRoom s) :
    wakeReplay k port s = ((ringTold s p.src (payload p)).lnReply port p 7 0 []).setHeld port none := by
  rw [wakeReplay_ready hheld hi hg hk, msgPut_room h]
  rfl

theorem wakeReplay_full (h : ¬ RingRoom s) : wakeReplay k port s = s := by
  rw [wakeReplay_ready hheld hi hg hk, msgPut_full h]
  rfl

end Replay

end Answers

/-! ### The claim -/

theorem linnorAnswers : Claims.LinnorAnswers := by
  refine ⟨?_, ?_, ?_⟩
  · intro s p r o hp hr ho htag gone d cap known i good
    have hgone {t : State} (h : Gone t r) : gone t := by rwa [Gone, htag] at h
    have hgood (kind : BitVec 4) (data : List Byte) : good (settled s r true kind 0 data) kind data := by
      obtain ⟨hanswers, hdone, hother, hlearned⟩ := settled_spec (s := s) ho true kind 0 data
      exact ⟨hanswers, hgone hdone, hother, fun h4 hk hl => (hlearned h4).trans (learned_unknown true hk hl)⟩
    refine ⟨?_, ?_, ?_, ?_, fun h => ?_, fun h => ?_, fun h => ?_, fun h => ?_⟩
    · exact ⟨_, (exec_linnorRdrsp_of_lpkt hp).trans (congrArg _ (linnorAnswered_eq hr 8)), hgood 8 p.data⟩
    · exact ⟨_, (exec_linnorWrack_of_lpkt hp).trans (congrArg _ (linnorAnswered_eq (p := { p with data := [] }) hr 9)), hgood 9 []⟩
    · exact ⟨_, (exec_linnorAtomrsp_of_lpkt hp).trans (congrArg _ (linnorAnswered_eq hr 0xA)), hgood 0xA p.data⟩
    · exact ⟨_, (exec_linnorMsgack_of_lpkt hp).trans (congrArg _ (linnorMsgack_eq hr)), hgone (lnDone_gone s r), rfl⟩
    · obtain ⟨hanswers, hdone, -, hlearned⟩ := settled_spec (s := s) ho false 0xB (if r.pkt.kind = 4 then nackPath else nackPartition) []
      exact ⟨_, (exec_linnorErr_of_lpkt hp).trans (congrArg _ (linnorErr_unsupported hr h)), hgone hdone, hanswers,
        fun h4 hk hl => (hlearned h4).trans (learned_unknown false hk hl)⟩
    · obtain ⟨hanswers, hdone⟩ := lnDone_answers (s := s) ho 0xB nackPoison []
      exact ⟨_, (exec_linnorErr_of_lpkt hp).trans (congrArg _ (linnorErr_poison hr h)), hgone hdone, hanswers⟩
    · obtain ⟨hanswers, hdone⟩ := lnDone_answers (s := s) ho 0xB nackPartition []
      exact ⟨_, (exec_linnorErr_of_lpkt hp).trans (congrArg _ (linnorErr_refused hr h)), hgone hdone, hanswers⟩
    · exact ⟨_, (exec_linnorErr_of_lpkt hp).trans (congrArg _ (linnorErr_waits hr h)), rfl, find?_set_same _ _ _⟩
  · intro s r h htag sent
    refine ⟨fun hw ht => ⟨_, congrArg Host.Outcome.next (linnorResend_due h hw ht), resent_spec s.inp.n⟩,
      fun hw => congrArg Host.Outcome.next (linnorResend_early h hw), fun o ho hw ht => ?_⟩
    obtain ⟨hanswers, hdone⟩ := lnDone_answers (s := s) ho 0xB nackPoison []
    exact ⟨_, congrArg Host.Outcome.next (linnorGiveup_due h hw ht), hanswers, htag ▸ hdone⟩
  · intro s p hheld hi hg hk size
    refine ⟨fun hen hfree => ?_, fun hfull => ?_⟩
    · have hroom : RingRoom s := ⟨hen, hfree⟩
      obtain ⟨-, htail, -⟩ := ringTold_keeps s p.src (payload p)
      obtain ⟨hnone, hbit, -, -, hmgmt⟩ := setHeld_spec ((ringTold s p.src (payload p)).lnReply s.inp.m p 7 0 []) s.inp.m none
      exact ⟨_, congrArg Host.Outcome.next (wakeReplay_room hheld hi hg hk hroom), by rw [hmgmt]; exact htail, hnone, hbit⟩
    · refine congrArg Host.Outcome.next (wakeReplay_full hheld hi hg hk ?_)
      rintro ⟨hen, hfree⟩
      obtain hfull | hfull := hfull
      · rw [hfull] at hen
        cases hen
      · exact absurd hfree (Nat.not_lt.mpr hfull)

/-- Settles O48: requests by the check that refuses each or by what is performed, answers by what each does to its request. -/
theorem linnorPackets : Obligations.LinnorPackets := ⟨linnorRequests, linnorAnswers⟩

end Sys2Proof.Proofs.Links

/-!
O33. Atomics at their home (R39, R344), and LDA, STL and FENCE (R169 to R171, R179, R345, R346).
-/

namespace Sys2Proof.Proofs.Links

open Sys2Proof Sys2Proof.Machine Sys2Proof.Safety Sys2Proof.Laws Sys2Proof.Proofs.Package

/-! ### What the steps of an access give -/

section Steps

variable {s : State}

theorem notFw_ok (h : s.isFw = false) : notFw s = .ok () := by
  rw [notFw, h]
  rfl

theorem notFw_illegal (h : s.isFw = true) : notFw s = .error (.trap { code := tIllegal } s) := by
  rw [notFw, h]
  rfl

theorem single_of_dom (ha : Alone s) {r : DReg} {x : Word} (h : s.ctx.regs.dom r = Dom.single x) : single s r = .ok x := by
  have hsrc : s.src.regs.dom r = Dom.single x := by rw [src_of_alone s ha.2, h]
  have hsingle : (s.src.regs.dom r).isSingle = true := by rw [hsrc]; exact beq_self_eq_true x
  rw [single_ok s r hsingle, hsrc]
  rfl

/-- The number that a register holds, or a pair. -/
def pairValue (wide : Bool) (hi lo : Word) : Nat := if wide then (hi ++ lo).toNat else lo.toNat

/-- A register, or a pair, that holds single values gives its number. -/
theorem dataOf_of_doms (ha : Alone s) {wide : Bool} {r : DReg} {hi lo : Word} (hlo : s.ctx.regs.dom r = Dom.single lo)
    (hhi : wide = true → s.ctx.regs.dom (r + 1) = Dom.single hi) :
    ∃ x, dataOf s wide r = .ok x ∧ x.toNat = pairValue wide hi lo := by
  cases wide
  · refine ⟨0#32 ++ lo, ?_, ?_⟩
    · simp only [dataOf, single_of_dom ha hlo, Bool.false_eq_true, if_false, eff_ok_bind]
      rfl
    · rw [pairValue, BitVec.toNat_append]
      simp
  · refine ⟨hi ++ lo, ?_, rfl⟩
    simp only [dataOf, single_of_dom ha hlo, single_of_dom ha (hhi rfl), if_true, eff_ok_bind]

theorem fencing_ok {mask : BitVec 16} {scope : BitVec 3} (h : s.ctx.performed mask (isSystem scope) = true) :
    fencing s mask scope = .ok () := if_pos h

theorem fencing_waits {mask : BitVec 16} {scope : BitVec 3} (h : s.ctx.performed mask (isSystem scope) = false) :
    fencing s mask scope = .error (.stall (if isSystem scope then s.flush else s)) := by
  have hwait : fencing s mask scope = .error (if isSystem scope then s.await else .stall s) := if_neg (Bool.eq_false_iff.mp h)
  rw [hwait]
  split <;> rfl

theorem orderWait_ok {cls : BitVec 4} {l : Loc} {n : Nat} (h : s.ctx.clearFor cls l n none l.offPackage = true) :
    orderWait s cls l n = .ok () := if_pos h

theorem atHome_ok {l : Loc} {n : Nat} {write : Bool} (h : homeTrap s l n write = none) : atHome s l n write = .ok () := by
  rw [atHome, h]
  rfl

/-- Outside replay and recording an interlocked operation goes on. -/
theorem replayGate_off (h : s.replayMode = 0) (kind : Byte) (v : BitVec 64) : replayGate kind v s = .ok s := by
  simp [replayGate, State.record, h]

end Steps

/-! ### Values at a home (R39) -/

theorem leNat_lt (bs : List Byte) : leNat bs < 256 ^ bs.length := by
  induction bs with
  | nil => exact Nat.one_pos
  | cons b rest ih =>
    have hb : b.toNat < 256 := b.isLt
    rw [leNat, List.length_cons, Nat.pow_succ]
    omega

theorem bytesKey_length (s : State) (key : BitVec 8) (n a : Nat) : (s.bytesKey key a n).length = n := by
  induction n generalizing a with
  | zero => rfl
  | succ n ih => exact congrArg (· + 1) (ih (a + 1))

/-- The bytes of a register or a pair. -/
abbrev wordBytes (wide : Bool) : Nat := if wide then 8 else 4

theorem pairValue_lt (wide : Bool) (hi lo : Word) : pairValue wide hi lo < 2 ^ (8 * wordBytes wide) := by
  cases wide
  · exact lo.isLt
  · exact (hi ++ lo).isLt

theorem signedOf_eq {w n : Nat} (hw : 0 < w) (hn : n < 2 ^ w) : signedOf w n = (BitVec.ofNat w n).toInt := by
  obtain ⟨k, rfl⟩ : ∃ k, w = k + 1 := ⟨w - 1, by omega⟩
  rw [BitVec.toInt_eq_toNat_cond, BitVec.toNat_ofNat, Nat.mod_eq_of_lt hn, signedOf, Nat.add_sub_cancel]
  have hhalf : 2 * n < 2 ^ (k + 1) ↔ n < 2 ^ k := by rw [Nat.pow_succ]; omega
  simp only [hhalf]

/-- What an atomic leaves is its operation on numbers of its width. -/
theorem atomicNew_eq {w a x : Nat} (hw : 0 < w) (ha : a < 2 ^ w) (hx : x < 2 ^ w) :
    let v := BitVec.ofNat w a
    let y := BitVec.ofNat w x
    atomicNew 0 w a x = (v + y).toNat ∧ atomicNew 1 w a x = (if y.slt v then y else v).toNat
      ∧ atomicNew 2 w a x = (if v.slt y then y else v).toNat ∧ atomicNew 3 w a x = (v &&& y).toNat
      ∧ atomicNew 4 w a x = (v ||| y).toNat ∧ atomicNew 5 w a x = (v ^^^ y).toNat ∧ atomicNew 6 w a x = y.toNat := by
  intro v y
  have hv : v.toNat = a := Nat.mod_eq_of_lt ha
  have hy : y.toNat = x := Nat.mod_eq_of_lt hx
  refine ⟨?_, ?_, ?_, ?_, ?_, ?_, hy.symm⟩
  · rw [BitVec.toNat_add, hv, hy]
    rfl
  · simp only [atomicNew, signedOf_eq hw ha, signedOf_eq hw hx, BitVec.slt, decide_eq_true_eq, apply_ite BitVec.toNat]
    rw [hv, hy]
  · simp only [atomicNew, signedOf_eq hw ha, signedOf_eq hw hx, BitVec.slt, decide_eq_true_eq, apply_ite BitVec.toNat]
    rw [hv, hy]
  · rw [BitVec.toNat_and, hv, hy]
    rfl
  · rw [BitVec.toNat_or, hv, hy]
    rfl
  · rw [BitVec.toNat_xor, hv, hy]
    rfl

/-! ### The frame of an access at a home -/

/-- `t` has the context in progress and the bundle in progress of `s`. -/
def SameContext (s t : State) : Prop := t.ctx = s.ctx ∧ t.issue = s.issue

theorem inject_sameContext (s : State) (p : Packet) : SameContext s (s.inject p).1 := by
  unfold State.inject
  split <;> exact ⟨rfl, rfl⟩

theorem countFar_sameContext (s : State) (a : Nat) : SameContext s (s.countFar a) := by
  unfold State.countFar
  split
  · exact inject_sameContext s _
  · exact ⟨rfl, rfl⟩

theorem setBytesKey_sameContext (s : State) (key : BitVec 8) (a : Nat) (vs : List Byte) :
    SameContext s (s.setBytesKey key a vs) := by
  have h := setBytesKey_memoryOnly key vs s a
  obtain ⟨-, -, hctx, -⟩ := h.keeps
  refine ⟨hctx, ?_⟩
  obtain ⟨⟨m, k, p, ht⟩, -⟩ := h
  rw [ht]

theorem SameContext.trans {s t u : State} (h : SameContext s t) (h' : SameContext t u) : SameContext s u :=
  ⟨h'.1.trans h.1, h'.2.trans h.2⟩

/-! ### The results of a load -/

/-- The state with `v` on its way to a register, or to a pair. -/
def loaded (wide : Bool) (dd : DReg) (v : Nat) (t : State) : State :=
  if wide then (t.write 1 (.d dd (Dom.single (BitVec.ofNat 32 v)))).write 1 (.d (dd + 1) (Dom.single (BitVec.ofNat 32 (v / 2 ^ 32))))
  else t.write 1 (.d dd (Dom.single (BitVec.ofNat 32 v)))

theorem writes_loadResults (wide : Bool) (dd : DReg) (bs : List Byte) (t : State) :
    t.writes 1 (loadResults (if wide then .d else .w) dd bs) = loaded wide dd (leNat bs) t := by
  cases wide <;> rfl

theorem loaded_mem (wide : Bool) (dd : DReg) (v : Nat) (t : State) : (loaded wide dd v t).mem = t.mem := by
  unfold loaded
  split <;> simp only [write_mem]

theorem loaded_ctx {s t : State} (h : SameContext s t) (wide : Bool) (dd : DReg) (v : Nat) :
    (loaded wide dd v t).ctx = (loaded wide dd v s).ctx := by
  obtain ⟨hctx, hissue⟩ := h
  unfold loaded
  split <;> simp only [write_ctx, write_issue, hctx, hissue]

/-! ### Atomics at their home (R39, R344) -/

/-- What stands at a place, as a number. -/
abbrev valueAt (t : State) (l : Loc) (n : Nat) : Nat := leNat (t.bytesKey l.key l.cell n)

theorem valueAt_lt (t : State) (l : Loc) (n : Nat) : valueAt t l n < 256 ^ n := by
  have h := leNat_lt (t.bytesKey l.key l.cell n)
  rwa [bytesKey_length] at h

/-- The state in which an atomic has left `new` at its home, and the old value is on its way. -/
def exchanged (wide : Bool) (dd : DReg) (l : Loc) (t : State) (new : Nat) : State :=
  loaded wide dd (valueAt t l (wordBytes wide))
    ((t.setBytesKey l.key l.cell (leBytes (wordBytes wide) new)).countFar l.cell)

section AtHome

variable {s t : State} {op : Nat} {wide : Bool} {dd ds : DReg} {m : AtomOp} {l : Loc} {o : Offset} {x c : BitVec 64}

/-- Outside the firmware context, replay and recording, an atomic whose operand is on the package performs at its home. -/
theorem atomicOp_atHome (hfw : s.isFw = false) (hx : dataOf s wide ds = .ok x)
    (hc : (if op = 7 then dataOf s wide dd else .ok 0) = .ok c)
    (hoperand : operand s (atomMem m) (wordBytes wide) (wordBytes wide) (wordBytes wide) .all accAtomic = .ok (o, l, t))
    (hgoes : Goes t (ordClass (atomMem m) (s.desc m.bd)) l (wordBytes wide) false)
    (hreleased : m.order.getLsbD 1 = true → t.ctx.performed (BitVec.allOnes 16) (isSystem m.scope) = true)
    (hmode : t.replayMode = 0) :
    atomicOp op wide dd m ds s = .ok (loaded wide dd (valueAt t l (wordBytes wide))
      ((t.atomic op (wordBytes wide) l.key l.cell c.toNat x.toNat).2.countFar l.cell)) := by
  obtain ⟨hnear, hclear, hhome⟩ := hgoes
  have hrelease (h : m.order.getLsbD 1 = true) : released t m.scope = .ok () := fencing_ok (hreleased h)
  have hwait := orderWait_ok (s := t) (hnear.symm ▸ hclear)
  have hold := leNat_leBytes _ _ (valueAt_lt t l (wordBytes wide))
  have hsteps (body : BitVec 64 → Eff State) : (if op = 7 then dataOf s wide dd >>= body else body 0) = body c := by
    rw [← eff_ok_bind c body, ← hc]
    split <;> rfl
  simp only [atomicOp, notFw_ok hfw, hx, hoperand, hnear, hwait, atHome_ok hhome, replayGate_off hmode, eff_ok_bind,
    Bool.false_eq_true, if_false, writes_loadResults, atomic_old, hold]
  refine (hsteps _).trans ?_
  split
  · rw [hrelease ‹_›]
    rfl
  · rfl

/-- A form that does what operation `op` does completes with the operation's value at the home. -/
theorem atomicOp_completes {i : Instr} (ha : Alone s) (hi : exec i s = syllable (atomicOp op wide dd m ds) s) (hop : op < 7)
    (hperforms : atomicOp op wide dd m ds s = .ok (loaded wide dd (valueAt t l (wordBytes wide))
      ((t.atomic op (wordBytes wide) l.key l.cell c.toNat x.toNat).2.countFar l.cell))) {new : Nat}
    (hnew : atomicNew op (8 * wordBytes wide) (valueAt t l (wordBytes wide)) x.toNat = new) :
    let u := exchanged wide dd l t new
    Room u → Completes i s u := by
  intro u hroom
  have hu : atomicOp op wide dd m ds s = .ok u := by
    rw [hperforms, atomic_new t hop, hnew]
    rfl
  exact hi.trans (syllable_completes ha hu hroom)

/-- CAS exchanges where the old value is the one it compares with, and else leaves its home as it is. -/
theorem atomicOp_cas (hperforms : atomicOp 7 wide dd m ds s = .ok (loaded wide dd (valueAt t l (wordBytes wide))
      ((t.atomic 7 (wordBytes wide) l.key l.cell c.toNat x.toNat).2.countFar l.cell))) :
    atomicOp 7 wide dd m ds s = .ok (if valueAt t l (wordBytes wide) = c.toNat then exchanged wide dd l t x.toNat
      else loaded wide dd (valueAt t l (wordBytes wide)) (t.countFar l.cell)) := by
  rw [hperforms, atomic_cas]
  split <;> rfl

end AtHome

/-- `f` does what operation `op` does, and names the value that it leaves. -/
def Performs (op : Nat) (f : (Bool → DReg → AtomOp → DReg → Instr) × ((w : Nat) → BitVec w → BitVec w → BitVec w)) : Prop :=
  (∀ wide dd m ds s, exec (f.1 wide dd m ds) s = syllable (atomicOp op wide dd m ds) s)
    ∧ ∀ w a x, 0 < w → a < 2 ^ w → x < 2 ^ w → atomicNew op w a x = (f.2 w (BitVec.ofNat w a) (BitVec.ofNat w x)).toNat

theorem atomicForms_perform : ∀ f ∈ atomicForms, ∃ op < 7, Performs op f := by
  have hnew (w a x : Nat) (hw : 0 < w) (ha : a < 2 ^ w) (hx : x < 2 ^ w) := atomicNew_eq hw ha hx
  simp only [atomicForms, List.forall_mem_cons]
  refine ⟨⟨0, by omega, exec_amoAdd, fun w a x hw ha hx => ?_⟩, ⟨1, by omega, exec_amoMin, fun w a x hw ha hx => ?_⟩,
    ⟨2, by omega, exec_amoMax, fun w a x hw ha hx => ?_⟩, ⟨3, by omega, exec_amoAnd, fun w a x hw ha hx => ?_⟩,
    ⟨4, by omega, exec_amoOr, fun w a x hw ha hx => ?_⟩, ⟨5, by omega, exec_amoXor, fun w a x hw ha hx => ?_⟩,
    ⟨6, by omega, exec_amoSwap, fun w a x hw ha hx => ?_⟩, fun _ h => absurd h List.not_mem_nil⟩
  all_goals
    obtain ⟨hadd, hmin, hmax, hand, hor, hxor, hswap⟩ := hnew w a x hw ha hx
    assumption

/-- The seven operations go through `atomicForms_perform`; CAS goes by its comparison. -/
theorem atomicsAtHome : Claims.AtomicsAtHome := by
  intro s wide dd m ds l o t x0 x1 c0 c1 ha hfw hreplay hx0 hx1 n cls hoperand hgoes hreleased hctl hissue old x done
  obtain ⟨y, hy, hyx⟩ := dataOf_of_doms ha hx0 hx1
  have hmode : t.replayMode = 0 := by
    have hsnap : t.issue.snap = none := by rw [hissue, ha.2]
    rw [State.replayMode, src_of_alone t hsnap, hctl, hreplay]
    rfl
  have hperforms {op : Nat} {c : BitVec 64} (hc : (if op = 7 then dataOf s wide dd else .ok 0) = .ok c) :=
    atomicOp_atHome hfw hy hc hoperand hgoes hreleased hmode
  refine ⟨fun f hf => ?_, fun hc0 hc1 => ?_⟩
  · obtain ⟨op, hop, hexec, hnew⟩ := atomicForms_perform f hf
    have hold : old < 2 ^ (8 * wordBytes wide) := by
      rw [Nat.pow_mul]
      exact valueAt_lt t l (wordBytes wide)
    have hpos : 0 < 8 * wordBytes wide := by cases wide <;> decide
    refine atomicOp_completes ha (hexec wide dd m ds s) hop (hperforms (if_neg (Nat.ne_of_lt hop))) ?_
    rw [hyx]
    exact hnew _ _ _ hpos hold (pairValue_lt wide x1 x0)
  · obtain ⟨c, hc, hcc⟩ := dataOf_of_doms ha hc0 hc1
    have hcas := hperforms ((if_pos rfl : (if 7 = 7 then dataOf s wide dd else .ok 0) = dataOf s wide dd).trans hc)
    refine ⟨fun heq hroom => ?_, fun hne => ⟨loaded wide dd old (t.countFar l.cell), fun hroom => ?_, loaded_mem .., ?_⟩⟩
    · have hu : atomicOp 7 wide dd m ds s = .ok (done x) := by
        rw [atomicOp_cas hcas, if_pos (heq.trans hcc.symm), hyx]
        rfl
      exact (exec_cas wide dd m ds s).trans (syllable_completes ha hu hroom)
    · have hu := (atomicOp_cas hcas).trans (congrArg Except.ok (if_neg fun h => hne (h.trans hcc)))
      exact (exec_cas wide dd m ds s).trans (syllable_completes ha hu hroom)
    · have hwrite := (setBytesKey_sameContext t l.key l.cell (leBytes n x)).trans (countFar_sameContext _ l.cell)
      rw [loaded_ctx (countFar_sameContext t l.cell)]
      exact (loaded_ctx hwrite wide dd old).symm

/-! ### Requests that go out -/

section Requests

variable (t : State) (kind op cls : BitVec 4) (l : Loc) (n : Nat) (data : List Byte) (write held : Bool)

/-- What the context counts as outstanding for a request. -/
def requestAccess (c : Ctx) : Access :=
  let p := requestTo t kind op false cls l n data
  { cls := cls, dst := p.dst, seq := (t.inject p).2, x := false, addr := l.cell, len := n, off := l.offPackage, write := write,
    held := held, count := c.count }

/-- The state that has sent a request: a packet more waits for the mesh, and the context counts it. -/
def requested : State :=
  (t.inject (requestTo t kind op false cls l n data)).1.modCtx
    (fun c => { c with out := c.out ++ [requestAccess t kind op cls l n data write held c] })

theorem sendRequest_admitted (hclear : t.ctx.clearFor cls l n (some (t.homeNode l.cell)) l.offPackage = true)
    (hhold : t.injectHold t.cur t.ctx.id.region = 0) : sendRequest t kind op cls l n data write held
      = .ok (t.homeNode l.cell, (t.inject (requestTo t kind op false cls l n data)).2,
          requested t kind op cls l n data write held) := by
  have hnoHold : (t.injectHold t.cur t.ctx.id.region != 0) = false := by rw [hhold]; rfl
  have hclear' : t.ctx.clearFor cls l n (some (requestTo t kind op false cls l n data).dst) l.offPackage = true := hclear
  simp only [sendRequest, hclear', hnoHold, Bool.not_true, Bool.false_eq_true, if_false]
  rfl

theorem requested_sent : Sent t (requested t kind op cls l n data write held) kind op cls l n data := by
  obtain ⟨hctx, -⟩ := inject_sameContext t (requestTo t kind op false cls l n data)
  have hpending : (requested t kind op cls l n data write held).mesh.pending = t.mesh.pending
      ++ [{ requestTo t kind op false cls l n data with seq := (t.inject (requestTo t kind op false cls l n data)).2 }] := by
    rw [requested, modCtx_mesh]
    rfl
  have hctx' : (requested t kind op cls l n data write held).ctx
      = { t.ctx with out := t.ctx.out ++ [requestAccess t kind op cls l n data write held t.ctx] } := by
    rw [requested, modCtx_ctx, hctx]
  have hmem : (requested t kind op cls l n data write held).mem = t.mem := by
    rw [requested, modCtx_mem, inject_mem]
  refine ⟨_, _, hpending, by rw [hctx'], rfl, rfl, rfl, rfl, rfl, rfl, rfl, rfl, rfl, rfl, rfl, rfl, rfl, rfl, rfl, rfl, hmem, ?_⟩
  rw [hctx']
  exact ⟨rfl, rfl, rfl⟩

end Requests

/-! ### LDA, STL and FENCE (R169 to R171, R179, R345, R346) -/

section Order

variable {s t : State} {wide : Bool} {dd ds : DReg} {m : MemOp} {l : Loc} {o : Offset}

theorem acquireRelease_illegal (ha : Alone s) (hfw : s.isFw = true) (scope : BitVec 3) (mask : BitVec 16) :
    AllTrap s tIllegal [.lda wide dd m, .stl wide ds m, .fence scope mask] := by
  have hlda : lda wide dd m s = .error (.trap { code := tIllegal } s) := by
    rw [lda, notFw_illegal hfw]
    rfl
  have hstl : stl wide ds m s = .error (.trap { code := tIllegal } s) := by
    rw [stl, notFw_illegal hfw]
    rfl
  have hfence : fence scope mask s = .error (.trap { code := tIllegal } s) := by
    rw [fence, notFw_illegal hfw]
    rfl
  simp only [AllTrap, List.forall_mem_cons]
  exact ⟨syllable_traps ha hlda, syllable_traps ha hstl, syllable_traps ha hfence, fun _ h => absurd h List.not_mem_nil⟩

theorem fence_ok (hfw : s.isFw = false) {scope : BitVec 3} {mask : BitVec 16}
    (h : s.ctx.performed mask (isSystem scope) = true) : fence scope mask s = .ok s := by
  rw [fence, notFw_ok hfw, fencing_ok h]
  rfl

theorem fence_waits (hfw : s.isFw = false) {scope : BitVec 3} {mask : BitVec 16}
    (h : s.ctx.performed mask (isSystem scope) = false) :
    fence scope mask s = .error (.stall (if isSystem scope then s.flush else s)) := by
  rw [fence, notFw_ok hfw, fencing_waits h]
  rfl

theorem dropGot_of_nil (h : t.ctx.waits.got = []) : t.dropGot = t := if_pos h

theorem lda_atHome (hfw : s.isFw = false)
    (hoperand : operand s m (wordBytes wide) (wordBytes wide) (wordBytes wide) .all accRead = .ok (o, l, t))
    (hgoes : Goes t (ordClass m (s.desc m.bd)) l (wordBytes wide) false) (hgot : t.ctx.waits.got = []) :
    lda wide dd m s = .ok (loaded wide dd (valueAt t l (wordBytes wide)) (t.countFar l.cell)) := by
  obtain ⟨hnear, hclear, hhome⟩ := hgoes
  obtain ⟨hctx, -⟩ := countFar_sameContext t l.cell
  have hwait := orderWait_ok (s := t) (hnear.symm ▸ hclear)
  have hload : loadAt 0 t (ordClass m (s.desc m.bd)) l (wordBytes wide)
      = .ok (t.load l (wordBytes wide), 0, t.countFar l.cell) := by
    simp only [loadAt, hnear, hwait, atHome_ok hhome, eff_ok_bind, Bool.false_eq_true, if_false]
  have hdrop : (t.countFar l.cell).dropGot = t.countFar l.cell := dropGot_of_nil (by rw [hctx, hgot])
  simp only [lda, notFw_ok hfw, hoperand, hload, hdrop, eff_ok_bind, writes_loadResults]
  rfl

/-- STL up to its release: its data and its place are known. -/
theorem stl_eq (hfw : s.isFw = false) {x : BitVec 64} (hx : dataOf s wide ds = .ok x)
    (hoperand : operand s m (wordBytes wide) (wordBytes wide) (wordBytes wide) .all accWrite = .ok (o, l, t)) :
    stl wide ds m s
      = (released t m.scope >>= fun _ => storeOut t (ordClass m (s.desc m.bd)) l (leBytes (wordBytes wide) x.toNat)) := by
  simp only [stl, notFw_ok hfw, hx, hoperand, eff_ok_bind]

theorem storeOut_near {cls : BitVec 4} {bs : List Byte} (h : l.near = true) (hgoes : Goes t cls l bs.length true) :
    storeOut t cls l bs = .ok (t.setBytesKey l.key l.cell bs) := by
  obtain ⟨hnear, hclear, -⟩ := hgoes
  simp only [storeOut, h, if_true, orderWait_ok (s := t) (hnear.symm ▸ hclear), eff_ok_bind]
  rfl

theorem storeOut_away {cls : BitVec 4} {bs : List Byte} (h : MaySend t cls l bs.length true) :
    ∃ v, Sent t v 1 0 cls l bs.length bs ∧ storeOut t cls l bs = .ok v := by
  obtain ⟨hnear, hroute, hclear, hhold⟩ := h
  have hrouted : routed t l true = .ok () := by
    rw [routed, hroute]
  have hsend := sendRequest_admitted t 1 0 cls l bs.length bs true false hclear hhold
  refine ⟨_, requested_sent t 1 0 cls l bs.length bs true false, ?_⟩
  simp only [storeOut, hnear, hrouted, hsend, eff_ok_bind, Bool.false_eq_true, if_false]

end Order

/-- Each instruction is its steps in order; STL at SYSTEM scope waits at its release, before it stores. -/
theorem acquireRelease : Claims.AcquireRelease := by
  intro s wide dd ds m scope mask x0 x1 ha n cls bs
  refine ⟨fun hfw => acquireRelease_illegal ha hfw scope mask, fun hfw hperf hroom => ?_, fun hfw hperf => ?_,
    fun hfw o l t hoperand hgoes hgot => ?_, fun hfw hx0 hx1 o l t hoperand => ?_⟩
  · exact syllable_completes ha (fence_ok hfw hperf) hroom
  · exact syllable_waits ha (fence_waits hfw hperf)
  · exact syllable_completes ha (lda_atHome hfw hoperand hgoes hgot)
  · obtain ⟨x, hx, hxx⟩ := dataOf_of_doms ha hx0 hx1
    have hstl := stl_eq hfw hx hoperand
    have hlen : bs.length = n := leBytes_length _ _
    refine ⟨fun hperf => ?_, fun hperf => ?_⟩
    · refine syllable_waits ha (hstl.trans ?_)
      rw [released, fencing_waits hperf]
      rfl
    · have hstore : stl wide ds m s = storeOut t cls l bs := by
        rw [hstl, released, fencing_ok hperf, hxx]
        rfl
      refine ⟨fun hnear hgoes => ⟨?_, ?_⟩, fun hmay => ?_⟩
      · exact syllable_completes ha (hstore.trans (storeOut_near hnear (hlen.symm ▸ hgoes)))
      · exact fun hinv hkey => setBytesKey_stored (hlen.symm ▸ hkey) hinv
      · obtain ⟨v, hsent, hv⟩ := storeOut_away (bs := bs) (hlen.symm ▸ hmay)
        exact ⟨v, hlen ▸ hsent, syllable_completes ha (hstore.trans hv)⟩

/-- Settles O33: an atomic performs at its home in one step, and LDA, STL and FENCE follow
what comes before them, each step by its own lemma. -/
theorem atomicsAndOrder : Obligations.AtomicsAndOrder := ⟨atomicsAtHome, acquireRelease⟩

end Sys2Proof.Proofs.Links

/-!
O44 and O45. What a home does with the requests that reach it through the mesh (R61 to R65), and the operations of the
structures that stand there (R63, R115, R176, R228).
-/

namespace Sys2Proof.Proofs.Mesh

open Sys2Proof Sys2Proof.Machine Sys2Proof.Safety Sys2Proof.Laws Sys2Proof.Proofs.Package Sys2Proof.Proofs.Links

/-! ### A request that its home serves -/

theorem withPacket_of_pkt {s : State} {p : Packet} (hp : s.inp.pkt = some p) (f : Packet → State → State) :
    withPacket f s = .next (f p s) := by
  rw [withPacket, hp]

section Serve

variable {s u : State} {p : Packet} {key : BitVec 8} {cell n : Nat} {write : Bool} {f : BitVec 8 → Nat → State → State}

/-- A home that does not refuse performs the request, and far memory counts it. -/
theorem serve_performs (h : Served s p key cell n write) : serve p n write s f = (f key cell s).countFar cell := by
  obtain ⟨-, hhome, hoff, hnack⟩ := h
  obtain ⟨hlinnor, hpcie⟩ := Bool.or_eq_false_iff.mp hoff
  simp only [serve, hhome, hlinnor, hpcie, hnack, Bool.false_eq_true, if_false]

/-- A happening that serves its packet leaves what its home makes of the state. -/
theorem exec_of_served (h : Served s p key cell n write) {i : Instr} {g : Packet → State → State}
    (hi : exec i s = withPacket g s) (hg : g p s = serve p n write s f) (hu : f key cell s = u) :
    exec i s = .next (u.countFar cell) := by
  rw [hi, withPacket_of_pkt h.1, hg, serve_performs h, hu]

end Serve

/-! ### Answers of a home -/

/-- What answers a request after a change of memory alone is one answer more on its way. -/
theorem respond_answers_of_memoryOnly {s t : State} (h : MemoryOnly s t) (p : Packet) (kind op : BitVec 4) (addr : Nat)
    (data : List Byte) : Answers s (t.respond p kind op addr data) p kind op addr data := by
  obtain ⟨⟨m, k, q, rfl⟩, -⟩ := h
  exact respond_answers _ p kind op addr data

theorem hopr_answers {s t : State} (h : MemoryOnly s t) (p : Packet) (status : BitVec 4) (data : List Byte) :
    Answers s (t.hopr p status data) p 0xC status 0 data :=
  respond_answers_of_memoryOnly h p 0xC status 0 data

/-- A fold that begins with a change of memory is answered OK. -/
theorem hopr_beginsFold {s t : State} (h : MemoryOnly s t) (p : Packet) (x : Fold) {P : Fold → Prop} (hx : P x) :
    let u := ({ t with folds := t.folds ++ [x] } : State).hopr p 0 []
    Answers s u p 0xC 0 0 [] ∧ u.mem = t.mem ∧ ∃ f, u.folds = s.folds ++ [f] ∧ P f := by
  obtain ⟨⟨m, k, q, rfl⟩, -⟩ := h
  exact ⟨respond_answers _ p 0xC 0 0 [], rfl, x, rfl, hx⟩

theorem respond_mem (s : State) (p : Packet) (kind op : BitVec 4) (addr : Nat) (data : List Byte) :
    (s.respond p kind op addr data).mem = s.mem := rfl

theorem respond_bytesKey (s : State) (p : Packet) (kind op : BitVec 4) (addr : Nat) (data : List Byte) (key : BitVec 8)
    (a n : Nat) : (s.respond p kind op addr data).bytesKey key a n = s.bytesKey key a n := by
  induction n generalizing a with
  | zero => rfl
  | succ n ih => exact congrArg _ (ih (a + 1))

theorem memoryOnly_mmu {s t : State} (h : MemoryOnly s t) : t.mmu = s.mmu := by
  obtain ⟨⟨m, k, q, rfl⟩, -⟩ := h
  rfl

/-! ### A nibble write (R61, R335)

Each nibble that the mask selects receives the low nibble of the request's data byte (R335), the high one too. -/

theorem nibbles_low (old v : Byte) (mask : BitVec 2) :
    (nibbles old v mask).extractLsb' 0 4 = if mask.getLsbD 0 then v.extractLsb' 0 4 else old.extractLsb' 0 4 := by
  rw [nibbles, extract_low _ _ 0 4 (Nat.le_refl 4), extract_self]

theorem nibbles_high (old v : Byte) (mask : BitVec 2) :
    (nibbles old v mask).extractLsb' 4 4 = if mask.getLsbD 1 then v.extractLsb' 0 4 else old.extractLsb' 4 4 := by
  rw [nibbles, extract_high _ _ 4 4 (Nat.le_refl 4), Nat.sub_self, extract_self]

/-- A byte whose unit no other key holds reads as its home holds it. -/
theorem byteKey_of_sameKey {s : State} {key : BitVec 8} {a : Nat} (h : SameKey s key a 1) : s.byteKey key a = s.byte a := by
  unfold State.byteKey
  split
  next hk => exact if_pos (h 0 Nat.one_pos hk)
  next => rfl

theorem landData_byte (s : State) (p : Packet) (key : BitVec 8) (cell : Nat) (bs : List Byte) (b : Nat) :
    (landData s p key cell bs).byte b = (s.setBytesKey key cell bs).byte b := by
  unfold landData
  split <;> rfl

theorem landData_mesh (s : State) (p : Packet) (key : BitVec 8) (cell : Nat) (bs : List Byte) :
    (landData s p key cell bs).mesh = s.mesh := by
  obtain ⟨⟨m, k, q, h⟩, -⟩ := setBytesKey_memoryOnly key bs s cell
  simp only [landData, h]
  split <;> rfl

theorem stored_head {s t : State} {a : Nat} {v : Byte} {vs : List Byte} (h : Stored s t a (v :: vs)) : t.byte a = v := by
  refine (h a).trans ?_
  rw [if_pos ⟨Nat.le_refl a, Nat.lt_add_of_pos_right (Nat.succ_pos _)⟩, Nat.sub_self]
  rfl

theorem landData_answers (s : State) (p : Packet) (key : BitVec 8) (cell : Nat) (bs : List Byte) :
    Answers s ((landData s p key cell bs).respond p 9 0 0 []) p 9 0 0 [] := by
  have h := respond_answers (landData s p key cell bs) p 9 0 0 []
  unfold Answers at h ⊢
  rwa [landData_mesh] at h

theorem mask_bit (x : Byte) {i : Nat} (h : i < 2) : (x.extractLsb' 0 2).getLsbD i = x.getLsbD i := by
  simp [h]

/-- What the clause of `MESH_WRN` says, with R335's nibble in the high one: the write is acknowledged, a nibble that the mask
selects receives the low nibble of the data, and the other keeps its own. -/
theorem meshWrn_stores {s : State} {p : Packet} {key : BitVec 8} {cell : Nat} (h : Served s p key cell 1 true)
    (hk : SameKey s key cell 1) (hm : MemInv s) :
    ∃ u, exec .meshWrn s = .next (u.countFar cell) ∧ Answers s u p 9 0 0 [] ∧ ∃ v, Stored s u cell [v]
      ∧ v.extractLsb' 0 4 = (if ((pktBody p).getD 1 0).getLsbD 0 then ((pktBody p).getD 0 0).extractLsb' 0 4
          else (s.byte cell).extractLsb' 0 4)
      ∧ v.extractLsb' 4 4 = (if ((pktBody p).getD 1 0).getLsbD 1 then ((pktBody p).getD 0 0).extractLsb' 0 4
          else (s.byte cell).extractLsb' 4 4) := by
  have hstored := setBytesKey_stored (vs := [nibbles (s.byteKey key cell) ((pktBody p).getD 0 0)
    (((pktBody p).getD 1 0).extractLsb' 0 2)]) hk hm
  refine ⟨_, exec_of_served h (exec_meshWrn s) rfl rfl, landData_answers s p key cell _, _,
    fun b => (landData_byte s p key cell _ b).trans (hstored b), ?_, ?_⟩
  · rw [nibbles_low, byteKey_of_sameKey hk, mask_bit _ (by decide)]
  · rw [nibbles_high, byteKey_of_sameKey hk, mask_bit _ (by decide)]

/-- A request to write 9 into the high nibble of the byte at offset 0x40 of tile 0's slice. -/
def highNibbleWrite : Packet :=
  { kind := 3, x := false, cls := 2, dst := tileNode 0 4, src := tileNode 1 0, seq := 0, region := 1, stamp := 0, op := 0
    len := 0, addr := 0x40, fw := false, poison := false, data := [9, 2] }

/-- The home of that byte, which is 5 and belongs to the region of the request. -/
def nibbleHome : State :=
  { State.reset with
    boot := { State.reset.boot with tiles := 1 }
    dist := { State.reset.dist with owners := [(0, 1)] }
    mem := [(sramBase + 0x40, 5)]
    inp := { pkt := some highNibbleWrite } }

theorem nibbleHome_serves : Served nibbleHome highNibbleWrite 0 (sramBase + 0x40) 1 true := by
  unfold Served
  decide +kernel

theorem nibbleHome_sameKey : SameKey nibbleHome 0 (sramBase + 0x40) 1 := by
  unfold SameKey
  decide +kernel

theorem nibbleHome_memInv : MemInv nibbleHome := by
  unfold MemInv
  decide +kernel

/-- Refutes O44: the statement's clause of `MESH_WRN` wants the high nibble of the data in a high nibble that the mask selects,
where the home stores the data's low nibble (R335). Data 9 makes 0x95 of 5; the clause wants a high nibble of 0. -/
theorem not_meshRequests : ¬ Obligations.MeshRequests := by
  intro h
  obtain ⟨-, -, hwrn, -⟩ := h nibbleHome highNibbleWrite 0 (sramBase + 0x40)
  obtain ⟨u, hu, -, v, hv, -, hzero⟩ := hwrn nibbleHome_serves nibbleHome_sameKey nibbleHome_memInv
  obtain ⟨u', hu', -, v', hv', -, hnine⟩ := meshWrn_stores nibbleHome_serves nibbleHome_sameKey nibbleHome_memInv
  have hsame : u.countFar (sramBase + 0x40) = u'.countFar (sramBase + 0x40) := Host.Outcome.next.inj (hu.symm.trans hu')
  have hmem : u.mem = u'.mem := by
    rw [← countFar_mem u (sramBase + 0x40), hsame, countFar_mem]
  have hbyte : v = v' := by
    calc v = u.byte (sramBase + 0x40) := (stored_head hv).symm
      _ = u'.byte (sramBase + 0x40) := by rw [State.byte, hmem, State.byte]
      _ = v' := stored_head hv'
  have hnibbles : (9 : Byte).extractLsb' 4 4 = (9 : Byte).extractLsb' 0 4 := hzero.symm.trans (hbyte ▸ hnine)
  exact absurd hnibbles (by decide)

/-! ### Structures at a home change memory alone (R115, R176, R228) -/

section Structures

variable {s v : State} {key : BitVec 8} {cell : Nat}

theorem barTimeout_reached {g : Word} (h : (s.barWord key cell).reached g = true) : s.barTimeout key cell g = (false, s) := by
  simp only [State.barTimeout, h, if_true]

theorem barTimeout_sets {g : Word} (h : (s.barWord key cell).reached g = false) :
    s.barTimeout key cell g
      = (true, s.setBytesKey key cell { s.barWord key cell with flags := (s.barWord key cell).flags ||| 8 }.bytes) := by
  simp only [State.barTimeout, h, Bool.false_eq_true, if_false, State.setBarWord]

theorem dqPush_full {item : List Byte} (h : 128 ≤ s.dqHeld cell) : s.dqPush cell item = none := by
  simp only [State.dqPush, h, if_true]

theorem dqPush_memoryOnly {item : List Byte} (h : s.dqPush cell item = some v) : MemoryOnly s v := by
  unfold State.dqPush at h
  split at h
  · cases h
  · cases h
    exact (setBytesKey_memoryOnly 0 _ s _).trans (setBytesKey_memoryOnly 0 _ _ _)

theorem dqPop_empty {one : Bool} (h : s.dqHeld cell = 0) : s.dqPop cell one = none := by
  simp only [State.dqPop, h, if_true]

theorem dqPop_memoryOnly {one : Bool} {item : List Byte} (h : s.dqPop cell one = some (item, v)) : MemoryOnly s v := by
  unfold State.dqPop at h
  split at h
  · cases h
  · dsimp only at h
    split at h
    · cases h
      exact setBytesKey_memoryOnly 0 _ s _
    · cases h
      exact setBytesKey_memoryOnly 0 _ s _

theorem dqSteal_empty (h : s.dqHeld cell = 0) : s.dqSteal cell = none := by
  simp only [State.dqSteal, h, if_true]

theorem dqSteal_memoryOnly {item : List Byte} (h : s.dqSteal cell = some (item, v)) : MemoryOnly s v := by
  unfold State.dqSteal at h
  split at h
  · cases h
  · cases h
    exact setBytesKey_memoryOnly 0 _ s _

theorem glAttach_refused {image : List Byte} (h : 8 ≤ glN (s.glList key cell) ∨ glRetired (s.glList key cell) = true) :
    s.glAttach key cell image = none := by
  have hrefused : (decide (8 ≤ glN (s.glList key cell)) || glRetired (s.glList key cell)) = true := by simpa using h
  simp only [State.glAttach, hrefused, if_true]

theorem glAttach_memoryOnly {image : List Byte} (h : s.glAttach key cell image = some v) : MemoryOnly s v := by
  unfold State.glAttach at h
  dsimp only at h
  split at h
  · cases h
  · cases h
    exact ((setBytesKey_memoryOnly key _ s _).trans (setBytesKey_memoryOnly key _ _ _)).trans (setBytesKey_memoryOnly key _ _ _)

theorem glDetach_refused {slot : Nat}
    (h : glN (s.glList key cell) ≤ slot ∨ slDver (glSlot (s.glList key cell) slot) ≠ 0) :
    s.glDetach key cell slot = none := by
  have hrefused : (decide (glN (s.glList key cell) ≤ slot) || slDver (glSlot (s.glList key cell) slot) != 0) = true := by
    simpa using h
  simp only [State.glDetach, hrefused, if_true]

theorem glDetach_memoryOnly {slot : Nat} (h : s.glDetach key cell slot = some v) : MemoryOnly s v := by
  unfold State.glDetach at h
  dsimp only at h
  split at h
  · cases h
  · cases h
    exact (setBytesKey_memoryOnly key _ s _).trans (setBytesKey_memoryOnly key _ _ _)

theorem glFoldStart_refused (h : glFolding (s.glList key cell) = true ∨ glRetired (s.glList key cell) = true) :
    s.glFoldStart key cell = none := by
  have hrefused : (glFolding (s.glList key cell) || glRetired (s.glList key cell)) = true := by simpa using h
  simp only [State.glFoldStart, hrefused, if_true]

theorem glFoldStart_starts (hf : glFolding (s.glList key cell) = false) (hr : glRetired (s.glList key cell) = false) :
    s.glFoldStart key cell = some (s.setBytesKey key (cell + 23) [glNstat (s.glList key cell) ||| 0x80]) := by
  simp only [State.glFoldStart, hf, hr, Bool.or_self, Bool.false_eq_true, if_false]

end Structures

/-! ### The notice of a counter (R155, R160) -/

theorem inject_mmu (s : State) (p : Packet) : (s.inject p).1.mmu = s.mmu := by
  unfold State.inject
  split <;> rfl

theorem countFar_mmu (s : State) (a : Nat) : (s.countFar a).mmu = s.mmu := by
  unfold State.countFar
  split
  · exact inject_mmu s _
  · rfl

theorem unitStore_mmu (s : State) (key : BitVec 8) (cell : Nat) (bs : List Byte) : (s.unitStore key cell bs).mmu = s.mmu := by
  unfold State.unitStore
  split
  · rfl
  · exact (countFar_mmu _ cell).trans (memoryOnly_mmu (setBytesKey_memoryOnly key bs s cell))

/-- A record written takes the next place of the ring. -/
theorem fbWrite_fbtail (s : State) (bytes : List Byte) : (s.fbWrite bytes).mmu.fbtail = s.mmu.fbtail + 1 := by
  unfold State.fbWrite
  dsimp only
  split
  · exact congrArg (·.fbtail + 1) (unitStore_mmu s _ _ _)
  · exact congrArg (·.fbtail + 1) (unitStore_mmu s _ _ _)

theorem notice_fbtail {s : State} (h : s.fbRoom = true) (node : BitVec 13) (cell : Nat) (v : Byte) :
    (s.notice node cell v).mmu.fbtail = s.mmu.fbtail + 1 := by
  rw [State.notice, if_pos h]
  exact fbWrite_fbtail s _

theorem notice_fbovf {s : State} (h : s.fbRoom = false) (node : BitVec 13) (cell : Nat) (v : Byte) :
    (s.notice node cell v).mmu.fbovf = true ∧ (s.notice node cell v).mem = s.mem := by
  rw [State.notice, if_neg (Bool.eq_false_iff.mp h)]
  exact ⟨rfl, rfl⟩

/-! ### What the operations answer (R63) -/

section Operations

variable {s v : State} {p : Packet} {key : BitVec 8} {cell n : Nat} {write : Bool}

/-- An operation whose home changes memory alone answers OK with its result. -/
theorem hop_becomes (h : Served s p key cell n write) {f : BitVec 8 → Nat → State → State} {i : Instr}
    {g : Packet → State → State} {data : List Byte} (hi : exec i s = withPacket g s) (hg : g p s = serve p n write s f)
    (hu : f key cell s = v.hopr p 0 data) (hv : MemoryOnly s v) :
    ∃ u, exec i s = .next (u.countFar cell) ∧ Answers s u p 0xC 0 0 data ∧ u.mem = v.mem :=
  ⟨_, exec_of_served h hi hg hu, hopr_answers hv p 0 data, rfl⟩

/-- An operation that changes nothing answers with its status and data. -/
theorem hop_same (h : Served s p key cell n write) {f : BitVec 8 → Nat → State → State} {i : Instr}
    {g : Packet → State → State} {status : BitVec 4} {data : List Byte} (hi : exec i s = withPacket g s)
    (hg : g p s = serve p n write s f) (hu : f key cell s = s.hopr p status data) :
    ∃ u, exec i s = .next (u.countFar cell) ∧ Answers s u p 0xC status 0 data ∧ u.mem = s.mem ∧ u.folds = s.folds :=
  ⟨_, exec_of_served h hi hg hu, hopr_answers (.refl s) p status data, rfl, rfl⟩

/-- `HOP_BTIMEOUT` of a generation that has been reached answers with the word. -/
theorem hopBtimeout_reached (h : Served s p key cell 24 false)
    (hw : (s.barWord key cell).reached (BitVec.ofNat 32 (field (pktBody p) 0 4)) = true) :
    ∃ u, exec .hopBtimeout s = .next (u.countFar cell) ∧ Answers s u p 0xC 0 0 (s.bytesKey key cell 24) ∧ u.mem = s.mem
      ∧ u.folds = s.folds :=
  hop_same h (exec_hopBtimeout s) rfl (by simp only [barTimeout_reached hw, Bool.false_eq_true, if_false])

/-- An operation that answers with what it leaves in its structure. -/
theorem hop_rereads (h : Served s p key cell n write) {f : BitVec 8 → Nat → State → State} {i : Instr}
    {g : Packet → State → State} {status : BitVec 4} {m : Nat} (hi : exec i s = withPacket g s)
    (hg : g p s = serve p n write s f) (hu : f key cell s = v.hopr p status (v.bytesKey key cell m)) (hv : MemoryOnly s v) :
    ∃ u, exec i s = .next (u.countFar cell) ∧ u.mem = v.mem ∧ Answers s u p 0xC status 0 (u.bytesKey key cell m) := by
  refine ⟨_, exec_of_served h hi hg hu, rfl, ?_⟩
  rw [State.hopr, respond_bytesKey]
  exact hopr_answers hv p status _

/-- `HOP_BTIMEOUT` of one that has not sets TIMEOUT, and answers with the word as it is then. -/
theorem hopBtimeout_sets (h : Served s p key cell 24 false)
    (hw : (s.barWord key cell).reached (BitVec.ofNat 32 (field (pktBody p) 0 4)) = false) :
    ∃ u, exec .hopBtimeout s = .next (u.countFar cell)
      ∧ u.mem = (s.setBytesKey key cell { s.barWord key cell with flags := (s.barWord key cell).flags ||| 8 }.bytes).mem
      ∧ Answers s u p 0xC 1 0 (u.bytesKey key cell 24) :=
  hop_rereads h (exec_hopBtimeout s) rfl (by simp only [barTimeout_sets hw, if_true]) (setBytesKey_memoryOnly key _ s cell)

/-- The parts of a list of 256 bytes, each an answer, are the list. -/
theorem parts_answer (s : State) (p : Packet) {l : List Byte} (hl : l.length = 256) :
    let u := (List.range 4).foldl (fun t i => t.respond p 0xC 0 (64 * i) ((l.drop (64 * i)).take 64)) s
    u.mem = s.mem ∧ ∃ t1 t2 t3, Answers s t1 p 0xC 0 0 (l.take 64) ∧ Answers t1 t2 p 0xC 0 64 ((l.drop 64).take 64)
      ∧ Answers t2 t3 p 0xC 0 128 ((l.drop 128).take 64) ∧ Answers t3 u p 0xC 0 192 (l.drop 192) := by
  have hlast : (l.drop 192).take 64 = l.drop 192 := List.take_of_length_le (by rw [List.length_drop, hl])
  have hparts : List.range 4 = [0, 1, 2, 3] := rfl
  simp only [hparts, List.foldl_cons, List.foldl_nil, Nat.reduceMul, List.drop_zero, hlast, respond_mem]
  exact ⟨trivial, _, _, _, respond_answers s p 0xC 0 0 _, respond_answers _ p 0xC 0 64 _,
    respond_answers _ p 0xC 0 128 _, respond_answers _ p 0xC 0 192 _⟩

/-- `HOP_GREAD` answers with the list in four parts of 64 bytes. -/
theorem hopGread_parts (h : Served s p key cell 256 false) :
    ∃ u, exec .hopGread s = .next (u.countFar cell) ∧ u.mem = s.mem ∧ ∃ t1 t2 t3,
      Answers s t1 p 0xC 0 0 ((s.bytesKey key cell 256).take 64)
      ∧ Answers t1 t2 p 0xC 0 64 (((s.bytesKey key cell 256).drop 64).take 64)
      ∧ Answers t2 t3 p 0xC 0 128 (((s.bytesKey key cell 256).drop 128).take 64)
      ∧ Answers t3 u p 0xC 0 192 ((s.bytesKey key cell 256).drop 192) :=
  ⟨_, exec_of_served h (exec_hopGread s) rfl rfl, parts_answer s p (bytesKey_length s key 256 cell)⟩

/-- `HOP_GFOLD` sets FOLDING and begins a fold that is the request's. -/
theorem hopGfold_starts (h : Served s p key cell 256 false) (hf : glFolding (s.glList key cell) = false)
    (hr : glRetired (s.glList key cell) = false) :
    ∃ u, exec .hopGfold s = .next (u.countFar cell) ∧ Answers s u p 0xC 0 0 []
      ∧ u.mem = (s.setBytesKey key (cell + 23) [glNstat (s.glList key cell) ||| 0x80]).mem
      ∧ ∃ f : Fold, u.folds = s.folds ++ [f] ∧ f.old = physAddr key cell
      ∧ f.newVa = BitVec.ofNat 48 (field (pktBody p) 0 8)
      ∧ f.bar = BitVec.ofNat 52 (field (pktBody p) 8 8) ∧ f.tag = BitVec.ofNat 4 (field (pktBody p) 16 1)
      ∧ f.pasid = BitVec.ofNat 20 (field (pktBody p) 20 4) ∧ f.region = p.region := by
  have hv := setBytesKey_memoryOnly key [glNstat (s.glList key cell) ||| 0x80] s (cell + 23)
  refine ⟨_, exec_of_served h (exec_hopGfold s) rfl rfl, ?_⟩
  simp only [glFoldStart_starts hf hr]
  exact hopr_beginsFold hv p _ ⟨rfl, rfl, rfl, rfl, rfl, rfl⟩

/-! ### Counters (R160) -/

/-- A counter's next value: it stays at 255. -/
def counted (v : Byte) : Byte := if v = 255 then 255 else v + 1

theorem counted_eq (v : Byte) : (if v = 255 then v else v + 1) = counted v := by
  unfold counted
  split
  · assumption
  · rfl

/-- A counter is noticed when it has counted to the threshold. -/
theorem counted_notices (v t : Byte) : (v != counted v && counted v == t) = true ↔ v ≠ 255 ∧ v + 1 = t := by
  by_cases h : v = 255
  · simp [counted, h]
  · have hnext : counted v = v + 1 := if_neg h
    have hne : v ≠ v + 1 := by bv_omega
    simp only [hnext, Bool.and_eq_true, bne_iff_ne, beq_iff_eq, ne_eq, h, hne, not_false_eq_true]

theorem hopCntinc_quiet (h : Served s p key cell 1 false)
    (hquiet : s.byteKey key cell = 255 ∨ s.byteKey key cell + 1 ≠ s.mmu.thresh) :
    ∃ u, exec .hopCntinc s = .next (u.countFar cell) ∧ Answers s u p 0xC 0 0 []
      ∧ u.mem = (s.setByteKey key cell (counted (s.byteKey key cell))).mem := by
  refine hop_becomes h (exec_hopCntinc s) rfl ?_ (setByteKey_memoryOnly s key cell _)
  simp only [counted_eq, counted_notices]
  rw [if_neg (by tauto)]

theorem hopCntinc_notices (h : Served s p key cell 1 false) (hmax : s.byteKey key cell ≠ 255)
    (hthresh : s.byteKey key cell + 1 = s.mmu.thresh) {w : State}
    (hw : w = s.setByteKey key cell (counted (s.byteKey key cell))) :
    ∃ u, exec .hopCntinc s = .next (u.countFar cell) ∧ ∃ x, Answers x u p 0xC 0 0 []
      ∧ (w.fbRoom = true → x.mmu.fbtail = s.mmu.fbtail + 1)
      ∧ (w.fbRoom = false → x.mmu.fbovf = true ∧ u.mem = w.mem) := by
  have hu : exec .hopCntinc s
      = .next (((w.notice p.dst cell (counted (s.byteKey key cell))).hopr p 0 []).countFar cell) := by
    refine exec_of_served h (exec_hopCntinc s) rfl ?_
    simp only [counted_eq, counted_notices]
    rw [if_pos ⟨hmax, hthresh⟩, hw]
  have hmmu : w.mmu = s.mmu := by
    rw [hw, memoryOnly_mmu (setByteKey_memoryOnly s key cell _)]
  refine ⟨_, hu, _, hopr_answers (.refl _) p 0 [], fun hroom => ?_, fun hroom => notice_fbovf hroom _ _ _⟩
  rw [notice_fbtail hroom, hmmu]

end Operations

/-- Settles O45: an operation that changes its structure answers OK with the result, one that is refused changes nothing, and a
reserved one is a machine check. -/
theorem homeOperations : Obligations.HomeOperations := by
  intro s p key cell
  dsimp only
  refine ⟨fun h => ?initialise, fun h => ?barrier, fun h => ?push, fun h => ?take, fun h => ?gloss, fun h => ?counter,
    fun hp => ?reserved⟩
  case initialise => exact hop_becomes h (exec_hopBinit s) rfl rfl (setBytesKey_memoryOnly key _ s cell)
  case barrier =>
    exact ⟨hop_same h (exec_hopBread s) rfl rfl, fun hw => hopBtimeout_reached h hw, fun hw => hopBtimeout_sets h hw⟩
  case push =>
    refine ⟨fun hfull => ?_, fun v hv => ?_⟩
    · exact hop_same h (exec_hopWqpush s) rfl (by simp only [dqPush_full hfull])
    · exact hop_becomes h (exec_hopWqpush s) rfl (by simp only [hv]) (dqPush_memoryOnly hv)
  case take =>
    refine ⟨fun hempty => ⟨?_, ?_⟩, fun item v hv => ?_, fun item v hv => ?_⟩
    · exact hop_same h (exec_hopWqpop s) rfl (by simp only [dqPop_empty hempty, State.taken])
    · exact hop_same h (exec_hopWqsteal s) rfl (by simp only [dqSteal_empty hempty, State.taken])
    · exact hop_becomes h (exec_hopWqpop s) rfl (by simp only [hv, State.taken]) (dqPop_memoryOnly hv)
    · exact hop_becomes h (exec_hopWqsteal s) rfl (by simp only [hv, State.taken]) (dqSteal_memoryOnly hv)
  case gloss =>
    refine ⟨hopGread_parts h, fun hno => ?_, fun v hv => ?_, fun hno => ?_, fun v hv => ?_, fun hno => ?_,
      fun hf hr => hopGfold_starts h hf hr⟩
    · exact hop_same h (exec_hopGattach s) rfl (by simp only [glAttach_refused hno])
    · exact hop_becomes h (exec_hopGattach s) rfl (by simp only [hv]) (glAttach_memoryOnly hv)
    · exact hop_same h (exec_hopGdetach s) rfl (by simp only [glDetach_refused hno])
    · exact hop_becomes h (exec_hopGdetach s) rfl (by simp only [hv]) (glDetach_memoryOnly hv)
    · exact hop_same h (exec_hopGfold s) rfl (by simp only [glFoldStart_refused hno])
  case counter =>
    exact ⟨fun hquiet => hopCntinc_quiet h hquiet, fun hmax hthresh => hopCntinc_notices h hmax hthresh rfl⟩
  case reserved => exact ⟨withPacket_of_pkt hp _, withPacket_of_pkt hp _⟩

end Sys2Proof.Proofs.Mesh

/-!
O56 and O58, what they share: what the C7's own accesses to memory may change (R86, R149 to R155, R160), and reading a queue, a
launch, a region and a context after an update.
-/

namespace Sys2Proof.Proofs.Launch

open Sys2Proof Sys2Proof.Machine Sys2Proof.Safety Sys2Proof.Laws Sys2Proof.Proofs.Package Sys2Proof.Proofs.Links

/-! ### What an access of the LFE may change -/

/-- `t` is `s` after accesses that the C7 makes for itself: at most memory, packets of the counters, walks and open faults, MSIs and
the LFE's translation cache are not as in `s`. -/
def Accessed (s t : State) : Prop :=
  ∃ m k p me mu mg tlb, t = { s with mem := m, unitKey := k, poison := p, mesh := me, mmu := mu, mgmt := mg, lfe := { s.lfe with tlb := tlb } }

theorem Accessed.refl (s : State) : Accessed s s := ⟨_, _, _, _, _, _, _, rfl⟩

theorem Accessed.trans {s t u : State} (h : Accessed s t) (h' : Accessed t u) : Accessed s u := by
  obtain ⟨m, k, p, me, mu, mg, tlb, rfl⟩ := h
  obtain ⟨m', k', p', me', mu', mg', tlb', rfl⟩ := h'
  exact ⟨m', k', p', me', mu', mg', tlb', rfl⟩

theorem Accessed.ite {s t u : State} {c : Prop} [Decidable c] (ht : Accessed s t) (hu : Accessed s u) :
    Accessed s (if c then t else u) := by
  split
  · exact ht
  · exact hu

/-- What such accesses leave as it is. -/
theorem Accessed.keeps {s t : State} (h : Accessed s t) : t.cores = s.cores ∧ t.lookups = s.lookups ∧ t.regions = s.regions
    ∧ t.lives = s.lives ∧ t.dist = s.dist ∧ t.sched = s.sched ∧ t.ptime = s.ptime := by
  obtain ⟨m, k, p, me, mu, mg, tlb, rfl⟩ := h
  exact ⟨rfl, rfl, rfl, rfl, rfl, rfl, rfl⟩

theorem Accessed.lfe {s t : State} (h : Accessed s t) : t.lfe.queues = s.lfe.queues ∧ t.lfe.launches = s.lfe.launches
    ∧ t.lfe.nextLaunch = s.lfe.nextLaunch := by
  obtain ⟨m, k, p, me, mu, mg, tlb, rfl⟩ := h
  exact ⟨rfl, rfl, rfl⟩

theorem accessed_of_memoryOnly {s t : State} (h : MemoryOnly s t) : Accessed s t := by
  obtain ⟨⟨m, k, p, rfl⟩, -⟩ := h
  exact ⟨m, k, p, _, _, _, _, rfl⟩

theorem setBytesKey_accessed (s : State) (key : BitVec 8) (cell : Nat) (bs : List Byte) : Accessed s (s.setBytesKey key cell bs) :=
  accessed_of_memoryOnly (setBytesKey_memoryOnly key bs s cell)

theorem inject_accessed (s : State) (p : Packet) : Accessed s (s.inject p).1 := by
  unfold State.inject
  split <;> exact ⟨_, _, _, _, _, _, _, rfl⟩

theorem countFar_accessed (s : State) (cell : Nat) : Accessed s (s.countFar cell) := by
  unfold State.countFar
  exact .ite (inject_accessed s _) (.refl s)

theorem unitStore_accessed (s : State) (key : BitVec 8) (cell : Nat) (bs : List Byte) : Accessed s (s.unitStore key cell bs) := by
  unfold State.unitStore
  exact .ite (.refl s) ((setBytesKey_accessed s key cell bs).trans (countFar_accessed _ cell))

theorem sendMsi_accessed (s : State) (irq : BitVec 37) : Accessed s (s.sendMsi irq) := ⟨_, _, _, _, _, _, _, rfl⟩

theorem withMmu_accessed (s : State) (mu : Mmu) : Accessed s { s with mmu := mu } := ⟨_, _, _, _, _, _, _, rfl⟩

theorem fbWrite_accessed (s : State) (bs : List Byte) : Accessed s (s.fbWrite bs) := by
  have hstored := unitStore_accessed s (physKey (s.mmu.fbbase.extractLsb' 0 52))
    (physCell (s.mmu.fbbase.extractLsb' 0 52) + 32 * (s.mmu.fbtail.toNat % 2 ^ s.mmu.fbsize.toNat)) bs
  unfold State.fbWrite
  exact .ite ((hstored.trans (withMmu_accessed _ _)).trans (sendMsi_accessed _ _)) (hstored.trans (withMmu_accessed _ _))

theorem raiseFault_accessed (s : State) (f : OpenFault) : Accessed s (s.raiseFault f) := by
  unfold State.raiseFault
  exact .ite (withMmu_accessed s _) (.ite ((fbWrite_accessed s _).trans (withMmu_accessed _ _)) (withMmu_accessed s _))

/-! #### Walks (R148, R149) -/

/-- The state in which a walk ends. -/
def walkedState : Walked → State
  | .leaf _ s | .prot s | .fault _ s => s

theorem tableRead_accessed {s t : State} {key : BitVec 8} {cell n : Nat} {bs : List Byte}
    (h : s.tableRead key cell n = some (bs, t)) : Accessed s t := by
  unfold State.tableRead at h
  split at h
  · cases h
  · cases h
    exact countFar_accessed s cell

theorem walkLeaf_accessed (s : State) (pasid : BitVec 20) (va : Addr) (acc : BitVec 4) (level : Nat) (key : BitVec 8) (cell : Nat)
    (pte : BitVec 64) : Accessed s (walkedState (walkLeaf s pasid va acc level key cell pte)) := by
  simp only [walkLeaf, apply_ite walkedState]
  exact .ite (.refl s) (.ite (.refl s) (.ite (.refl s) (.ite (.refl s) (.ite (.refl s)
    (.ite (.refl s) ((setBytesKey_accessed s _ _ _).trans (countFar_accessed _ _)))))))

theorem walkFrom_accessed (s : State) (pasid : BitVec 20) (va : Addr) (acc : BitVec 4) (level : Nat) (ppn : BitVec 44) :
    Accessed s (walkedState (walkFrom s pasid va acc level ppn)) := by
  induction level generalizing s ppn with
  | zero => exact .refl s
  | succ level ih =>
    unfold walkFrom
    dsimp only
    split
    · exact .refl s
    next bs t hread =>
      have ht := tableRead_accessed hread
      simp only [apply_ite walkedState]
      exact .ite ht (.ite ht (.ite ht (.ite (ht.trans (walkLeaf_accessed t ..)) (.ite ht (.ite ht (ht.trans (ih t _)))))))

/-- The state in which a look-up of a process context ends. -/
def procState : Except (Byte × State) (ProcCtx × State) → State
  | .ok (_, s) | .error (_, s) => s

theorem procFrom_accessed (s : State) (pasid : BitVec 20) (level : Nat) (ppn : BitVec 44) :
    Accessed s (procState (procFrom s pasid level ppn)) := by
  induction level generalizing s ppn with
  | zero =>
    unfold procFrom
    split
    · exact .refl s
    next bs t hread => split <;> exact tableRead_accessed hread
  | succ level ih =>
    unfold procFrom
    split
    · exact .refl s
    next bs t hread =>
      dsimp only
      split
      · exact (tableRead_accessed hread).trans (ih t _)
      · exact tableRead_accessed hread

theorem procCtx_accessed (s : State) (pasid : BitVec 20) : Accessed s (procState (s.procCtx pasid)) := by
  simp only [State.procCtx, apply_ite procState]
  exact .ite (.refl s) (procFrom_accessed s pasid _ _)

theorem walk_accessed (s : State) (pasid : BitVec 20) (va : Addr) (acc : BitVec 4) : Accessed s (walkedState (s.walk pasid va acc)) := by
  have hp := procCtx_accessed s pasid
  unfold State.walk
  split
  next p t h =>
    rw [h] at hp
    rw [apply_ite walkedState]
    exact .ite (hp.trans (walkFrom_accessed t ..)) hp
  next c t h =>
    rw [h] at hp
    exact hp

theorem tlbFill_lfe_accessed (s : State) (e : TlbEntry) : Accessed s (s.tlbFill .lfe e) := ⟨_, _, _, _, _, _, _, rfl⟩

/-- The state in which a translation ends. -/
def xlateState (s : State) : Xlate → State
  | .ok _ t | .prot t | .fault _ t => t
  | .wait => s

theorem translate_accessed (s : State) (conf : Bool) (pasid : BitVec 20) (va : Addr) (acc : BitVec 4) :
    Accessed s (xlateState s (s.translate .lfe conf pasid va acc)) := by
  have hw := walk_accessed s pasid va acc
  simp only [State.translate]
  split
  · rw [apply_ite (xlateState s)]
    exact .ite (.refl s) (.refl s)
  · split
    · exact .refl s
    · split
      next e t h =>
        rw [h] at hw
        have hfill := hw.trans (tlbFill_lfe_accessed t e)
        rw [apply_ite (xlateState s)]
        exact .ite hfill hfill
      next t h => rw [h] at hw; exact hw
      next c t h => rw [h] at hw; exact hw

/-! #### Accesses page by page (R86, R153) -/

/-- The state that an access which does not complete leaves: that of the fault it has raised. -/
def stopState (s : State) : LfeStop → State
  | .fault _ t => t
  | .refused | .wait | .err _ => s

theorem Accessed.stop {s t : State} {x : LfeStop} (h : Accessed s t) (h' : Accessed t (stopState t x)) : Accessed s (stopState s x) := by
  cases x with
  | fault va u => exact h.trans h'
  | refused => exact .refl s
  | wait => exact .refl s
  | err c => exact .refl s

/-- The state that an access of the LFE leaves. -/
def lfeState (s : State) : LfeAccess → State
  | .ok _ _ t | .fault t => t
  | .refused | .wait => s

theorem lfeAt_accessed (s : State) (pasid : BitVec 20) (va : Addr) (n : Nat) (acc : BitVec 4) :
    Accessed s (lfeState s (s.lfeAt pasid va n acc)) := by
  have hx := translate_accessed s false pasid va acc
  unfold State.lfeAt
  split
  next pa t h =>
    rw [h] at hx
    rw [apply_ite (lfeState s)]
    exact .ite (.refl s) hx
  · exact .refl s
  · exact .refl s
  next c t h =>
    rw [h] at hx
    exact hx.trans (raiseFault_accessed t _)

theorem lfeCell_accessed {s t : State} {pasid : BitVec 20} {va : Addr} {n : Nat} {acc : BitVec 4} {key : BitVec 8} {cell : Nat}
    (h : lfeCell s pasid va n acc = .ok (key, cell, t)) : Accessed s t := by
  have ha := lfeAt_accessed s pasid va n acc
  unfold lfeCell at h
  split at h
  next k c u hu => cases h; rw [hu] at ha; exact ha
  all_goals cases h

theorem lfeCell_stops {s : State} {pasid : BitVec 20} {va : Addr} {n : Nat} {acc : BitVec 4} {x : LfeStop}
    (h : lfeCell s pasid va n acc = .error x) : Accessed s (stopState s x) := by
  have ha := lfeAt_accessed s pasid va n acc
  unfold lfeCell at h
  split at h
  · cases h
  next t ht => cases h; rw [ht] at ha; exact ha
  · cases h; exact .refl s
  · cases h; exact .refl s

@[simp] theorem lfe_ok_bind {α β : Type} (a : α) (f : α → Except LfeStop β) : ((Except.ok a : Except LfeStop α) >>= f) = f a := rfl

theorem bind_eq_ok {α β : Type} {x : Except LfeStop α} {f : α → Except LfeStop β} {b : β} (h : x >>= f = .ok b) :
    ∃ a, x = .ok a ∧ f a = .ok b := by
  cases x with
  | error e => cases h
  | ok a => exact ⟨a, rfl, h⟩

theorem bind_eq_error {α β : Type} {x : Except LfeStop α} {f : α → Except LfeStop β} {e : LfeStop} (h : x >>= f = .error e) :
    x = .error e ∨ ∃ a, x = .ok a ∧ f a = .error e := by
  cases x with
  | error e' => cases h; exact .inl rfl
  | ok a => exact .inr ⟨a, rfl, h⟩

theorem lfeWriteIn_accessed (pasid : BitVec 20) (k : Nat) {s t : State} {va : Addr} {bs : List Byte}
    (h : lfeWriteIn pasid k s va bs = .ok t) : Accessed s t := by
  induction k generalizing s va bs with
  | zero => cases h; exact .refl _
  | succ k ih =>
    unfold lfeWriteIn at h
    split at h
    · cases h; exact .refl _
    · obtain ⟨⟨key, cell, u⟩, hcell, hrest⟩ := bind_eq_ok h
      exact ((lfeCell_accessed hcell).trans ((setBytesKey_accessed u _ _ _).trans (countFar_accessed _ _))).trans (ih hrest)

theorem lfeWriteIn_stops (pasid : BitVec 20) (k : Nat) {s : State} {va : Addr} {bs : List Byte} {x : LfeStop}
    (h : lfeWriteIn pasid k s va bs = .error x) : Accessed s (stopState s x) := by
  induction k generalizing s va bs with
  | zero => cases h
  | succ k ih =>
    unfold lfeWriteIn at h
    split at h
    · cases h
    · obtain hcell | ⟨⟨key, cell, u⟩, hcell, hrest⟩ := bind_eq_error h
      · exact lfeCell_stops hcell
      · exact ((lfeCell_accessed hcell).trans ((setBytesKey_accessed u _ _ _).trans (countFar_accessed _ _))).stop (ih hrest)

theorem lfeWrite_accessed {s t : State} {pasid : BitVec 20} {va : Addr} {bs : List Byte} (h : lfeWrite s pasid va bs = .ok t) :
    Accessed s t := lfeWriteIn_accessed pasid 2 h

theorem lfeWrite_stops {s : State} {pasid : BitVec 20} {va : Addr} {bs : List Byte} {x : LfeStop}
    (h : lfeWrite s pasid va bs = .error x) : Accessed s (stopState s x) := lfeWriteIn_stops pasid 2 h

end Sys2Proof.Proofs.Launch

/-!
O56, launch queues (R82 to R86, R96, R99): a queue's registers, the choice of the next queue, and the records of a queue.
-/

namespace Sys2Proof.Proofs.Launch

open Sys2Proof Sys2Proof.Machine Sys2Proof.Safety Sys2Proof.Laws Sys2Proof.Proofs.Package Sys2Proof.Proofs.Links

/-! ### A queue after an update -/

@[simp] theorem setQueue_queue_same (s : State) (q : Nat) (x : Queue) : (s.setQueue q x).queue q = x := Assoc.get_set_same _ _ _ _

@[simp] theorem modQueue_queue_same (s : State) (q : Nat) (f : Queue → Queue) : (s.modQueue q f).queue q = f (s.queue q) :=
  setQueue_queue_same s q _

@[simp] theorem setQueue_mem (s : State) (q : Nat) (x : Queue) : (s.setQueue q x).mem = s.mem := rfl
@[simp] theorem modQueue_mem (s : State) (q : Nat) (f : Queue → Queue) : (s.modQueue q f).mem = s.mem := rfl
@[simp] theorem setQueue_region (s : State) (q : Nat) (x : Queue) (r : BitVec 12) : (s.setQueue q x).region r = s.region r := rfl
@[simp] theorem setQueue_launch (s : State) (q : Nat) (x : Queue) (n : Nat) : (s.setQueue q x).launch n = s.launch n := rfl
@[simp] theorem sendMsi_mem (s : State) (irq : BitVec 37) : (s.sendMsi irq).mem = s.mem := rfl
@[simp] theorem sendMsi_queue (s : State) (irq : BitVec 37) (q : Nat) : (s.sendMsi irq).queue q = s.queue q := rfl

theorem queue_congr {s t : State} (h : t.lfe.queues = s.lfe.queues) (q : Nat) : t.queue q = s.queue q :=
  congrArg (fun m : Assoc Queue => Assoc.get ({} : Queue) m q) h

theorem recordVa_congr {s t : State} {q : Nat} (h : t.queue q = s.queue q) : t.recordVa q = s.recordVa q := by
  unfold State.recordVa
  rw [h]

theorem Accessed.queue {s t : State} (h : Accessed s t) (q : Nat) : t.queue q = s.queue q := queue_congr h.lfe.1 q

/-- Where no write to a queue's registers waits, none is performed late. -/
theorem settleQueue_quiet {s : State} {q : Nat} (h : (s.queue q).waiting = []) : settleQueue q s = s := by
  simp [settleQueue, h]

theorem passRecord_queue (s : State) (q : Nat) (irq : Bool) : (s.passRecord q irq).queue q =
    { s.queue q with head := (s.queue q).head + 1, held := false, bytes := [], fenced := false, lrecSkip := false, fetched := false } := by
  simp only [State.passRecord]
  split
  · rw [sendMsi_queue, setQueue_queue_same]
  · rw [setQueue_queue_same]

theorem passRecord_mem (s : State) (q : Nat) (irq : Bool) : (s.passRecord q irq).mem = s.mem := by
  simp only [State.passRecord]
  split <;> rfl

/-- LQHEAD passes a record of a queue on whose registers no write waits. -/
theorem settleQueue_passRecord {s : State} {q : Nat} (h : (s.queue q).waiting = []) (irq : Bool) :
    settleQueue q (s.passRecord q irq) = s.passRecord q irq :=
  settleQueue_quiet (by rw [passRecord_queue]; exact h)

theorem recordDone_writes {s v : State} {q : Nat} (hw : lfeWrite s (s.queue q).pasid (s.recordVa q + 4) [2, 0, 0, 0] = .ok v)
    (b : List Byte) : s.recordDone q b = v.passRecord q (OpRec.irq b) := by
  simp only [State.recordDone, hw]

/-! ### A queue that stops (R84) -/

theorem writeStatus_accessed (s : State) (pasid : BitVec 20) (record lrec : Addr) (state err : Byte) :
    Accessed s (s.writeStatus pasid record lrec state err) := by
  have hput (t : State) (va : Addr) : Accessed t (match lfeWrite t pasid va [state, err, 0, 0] with | .ok u => u | .error _ => t) := by
    split
    next u h => exact lfeWrite_accessed h
    · exact .refl t
  exact .ite (hput s _) ((hput s _).trans (hput _ _))

theorem queueError_queue (s : State) (q : Nat) (code : Byte) : (s.queueError q code).queue q =
    { s.queue q with err := code, stop := true, held := false, bytes := [], fault := none, fenced := false
                     lrecWait := false, lrecSkip := false, fetched := false } := by
  unfold State.queueError
  rw [modQueue_queue_same, (writeStatus_accessed s ..).queue]

/-! ### A queue's registers (R82, R83, R99) -/

theorem lqctlEnable_size {q : Nat} {v : BitVec 64} {s : State} (h : (v.extractLsb' 52 6).toNat < 4 ∨ 16 < (v.extractLsb' 52 6).toNat) :
    lqctlEnable q v s = s.setQueue q { s.queue q with
      prio := v.extractLsb' 58 4, size := v.extractLsb' 52 6, pasid := v.extractLsb' 32 20, err := 4 } := by
  simp only [lqctlEnable]
  rw [if_pos (by simpa using h)]

theorem lqctlEnable_pasid {q : Nat} {v : BitVec 64} {s : State} (h4 : 4 ≤ (v.extractLsb' 52 6).toNat)
    (h16 : (v.extractLsb' 52 6).toNat ≤ 16) (ha : s.pasidState (v.extractLsb' 32 20) ≠ .active) :
    lqctlEnable q v s = s.setQueue q { s.queue q with
      prio := v.extractLsb' 58 4, size := v.extractLsb' 52 6, pasid := v.extractLsb' 32 20, err := 5 } := by
  simp only [lqctlEnable]
  rw [if_neg (by simp only [Bool.or_eq_true, decide_eq_true_eq]; omega), if_pos (by simpa using ha)]

theorem lqctlEnable_enables {q : Nat} {v : BitVec 64} {s : State} (h4 : 4 ≤ (v.extractLsb' 52 6).toNat)
    (h16 : (v.extractLsb' 52 6).toNat ≤ 16) (ha : s.pasidState (v.extractLsb' 32 20) = .active) :
    lqctlEnable q v s = s.setQueue q { s.queue q with
      prio := v.extractLsb' 58 4, size := v.extractLsb' 52 6, pasid := v.extractLsb' 32 20, v := true, stop := false, err := 0 } := by
  simp only [lqctlEnable]
  rw [if_neg (by simp only [Bool.or_eq_true, decide_eq_true_eq]; omega), if_neg (by simpa using ha)]

/-- Whatever comes of it, an enable takes the PASID and leaves LQHEAD. -/
theorem lqctlEnable_takes (q : Nat) (v : BitVec 64) (s : State) :
    ((lqctlEnable q v s).queue q).head = (s.queue q).head ∧ ((lqctlEnable q v s).queue q).pasid = v.extractLsb' 32 20 := by
  by_cases hsize : (v.extractLsb' 52 6).toNat < 4 ∨ 16 < (v.extractLsb' 52 6).toNat
  · rw [lqctlEnable_size hsize, setQueue_queue_same]
    exact ⟨rfl, rfl⟩
  · by_cases ha : s.pasidState (v.extractLsb' 32 20) = .active
    · rw [lqctlEnable_enables (by omega) (by omega) ha, setQueue_queue_same]
      exact ⟨rfl, rfl⟩
    · rw [lqctlEnable_pasid (by omega) (by omega) ha, setQueue_queue_same]
      exact ⟨rfl, rfl⟩

/-- A clear of V is performed between two records. -/
theorem lqctlDisable_between {q : Nat} {s : State} (h : (s.queue q).inProgress = false) : lqctlDisable q s = queueOff q s := by
  simp only [lqctlDisable, h, Bool.false_eq_true, if_false]

theorem lqctlDisable_waits {q : Nat} {s : State} (h : (s.queue q).inProgress = true) :
    lqctlDisable q s = s.modQueue q (fun c => { c with waiting := c.waiting ++ [(0, 0)] }) := by
  simp only [lqctlDisable, h, if_true]

/-- A WAIT that has not ended is not in progress, nor is a queue with no record and no open fault. -/
theorem inProgress_between {c : Queue} (hf : c.held = false → c.fault = none) (hk : OpRec.kind c.bytes = 2 ∨ c.held = false) :
    c.inProgress = false := by
  unfold Queue.inProgress
  cases hh : c.held with
  | false => simp [hf hh]
  | true =>
    rcases hk with hk | hk
    · simp [hk]
    · rw [hh] at hk; cases hk

theorem inProgress_fault {c : Queue} (hh : c.held = false) (hf : c.fault.isSome = true) : c.inProgress = true := by
  simp only [Queue.inProgress, hh, hf, Bool.false_eq_true, if_false]

/-- A wake leaves the queues, and every core that is not fenced is restored. -/
theorem wakeAll_spec (s : State) (cause : BitVec 4) : (s.wakeAll cause).lfe = s.lfe ∧ (s.wakeAll cause).mgmt.gated = false
    ∧ (s.mgmt.idle = .idle → (s.wakeAll cause).mgmt.idle = .waking ∧ (s.wakeAll cause).mgmt.idleCause = cause)
    ∧ (s.mgmt.idle = .entering → (s.wakeAll cause).mgmt.idle = .running) := by
  unfold State.wakeAll
  cases h : s.mgmt.idle <;> simp [h]

/-! ### The next queue (R83) -/

/-- The queues that the LFE may take a record from. -/
def openQueues (s : State) : Assoc Queue := s.lfe.queues.filter (fun e => e.2.ready && !(e.2.fenced && s.queueBusy e.1))

/-- Their highest PRIO. -/
def topPrio (s : State) : Nat := (openQueues s).foldl (fun m e => max m e.2.prio.toNat) 0

theorem prio_le_topPrio {s : State} {e : Nat × Queue} (h : e ∈ openQueues s) : e.2.prio.toNat ≤ topPrio s := by
  have hmax := (foldl_max_spec id ((openQueues s).map (fun e => e.2.prio.toNat)) 0).2.1 _ (List.mem_map_of_mem h)
  rwa [List.foldl_map] at hmax

theorem nextQueue_open {s : State} {q : Nat} (h : s.nextQueue = some q) :
    ∃ e ∈ openQueues s, e.1 = q ∧ e.2.prio.toNat = topPrio s := by
  have hmem : q ∈ ((openQueues s).filter (fun e => e.2.prio.toNat == topPrio s)).map (·.1) := by
    simp only [State.nextQueue, Option.or_eq_some_iff] at h
    rcases h with h | ⟨-, h⟩
    · split at h
      · exact List.mem_of_find?_eq_some h
      · cases h
    · exact List.mem_of_mem_head? h
  obtain ⟨e, he, rfl⟩ := List.mem_map.mp hmem
  obtain ⟨he, htop⟩ := List.mem_filter.mp he
  exact ⟨e, he, rfl, by simpa using htop⟩

/-- The LFE takes a record of a queue of the highest PRIO among those that have one and are not held by a FENCE. -/
theorem nextQueue_spec {s : State} {q : Nat} (h : s.nextQueue = some q) : ∃ e ∈ s.lfe.queues, e.1 = q ∧ e.2.ready = true
    ∧ ∀ f ∈ s.lfe.queues, f.2.ready = true → f.2.fenced = false → f.2.prio.toNat ≤ e.2.prio.toNat := by
  obtain ⟨e, he, hq, htop⟩ := nextQueue_open h
  obtain ⟨hmem, hopen⟩ := List.mem_filter.mp he
  refine ⟨e, hmem, hq, (Bool.and_eq_true_iff.mp hopen).1, fun f hf hr hfence => ?_⟩
  rw [htop]
  exact prio_le_topPrio (List.mem_filter.mpr ⟨hf, by simp [hr, hfence]⟩)

/-! ### Fetching a record (R84 to R87, R96) -/

/-- The LFE turns to queue `q`. -/
def fetching (s : State) (q : Nat) : State :=
  { s with lfe := { s.lfe with lastQueue := Assoc.set s.lfe.lastQueue (s.queue q).prio.toNat q } }

theorem lfeRecordFetch_none {s : State} (h : s.nextQueue = none) : lfeRecordFetch s = s := by
  simp only [lfeRecordFetch, h]

/-- A record with FENCE waits for the launches of its queue that have not ended. -/
def Fenced (s : State) (q : Nat) (b : List Byte) : Prop := OpRec.fence b = true ∧ s.queueBusy q = true

theorem beginRecord_skips {u : State} {q : Nat} {b : List Byte} (h : OpRec.clean b = false ∨ OpRec.kind b ≠ 1 ∨ Fenced u q b) :
    beginRecord u q b = .ok u := by
  have hskip : ((u.queue q).fetched || !OpRec.clean b || OpRec.kind b != 1 || (OpRec.fence b && u.queueBusy q)) = true := by
    rcases h with h | h | ⟨hf, hb⟩ <;> simp [*]
  simp only [beginRecord, hskip, if_true]

theorem takeRecord_unclean {u : State} {q : Nat} {b : List Byte} (h : OpRec.clean b = false) : takeRecord u q b = .error (.err 1) := by
  simp [takeRecord, h]

theorem takeRecord_fenced {u : State} {q : Nat} {b : List Byte} (hc : OpRec.clean b = true) (h : Fenced u q b) :
    takeRecord u q b = .ok (u.setQueue q { u.queue q with fenced := true }) := by
  simp [takeRecord, hc, h.1, h.2]

section Fetched

variable {s u : State} {q : Nat} {b : List Byte}

theorem not_fenced (h : OpRec.fence b = true → u.queueBusy q = false) : (OpRec.fence b && u.queueBusy q) = false := by
  cases hf : OpRec.fence b with
  | false => rfl
  | true => simp [h hf]

theorem takeRecord_nop (hc : OpRec.clean b = true) (hf : OpRec.fence b = true → u.queueBusy q = false) (hk : OpRec.kind b = 0) :
    takeRecord u q b = .ok (u.recordDone q b) := by
  simp [takeRecord, hc, not_fenced hf, hk]

theorem takeRecord_launch (hc : OpRec.clean b = true) (hf : OpRec.fence b = true → u.queueBusy q = false) (hk : OpRec.kind b = 1) :
    takeRecord u q b = takeLaunch u q b := by
  simp [takeRecord, hc, not_fenced hf, hk]

theorem takeRecord_wait (hc : OpRec.clean b = true) (hf : OpRec.fence b = true → u.queueBusy q = false) (hk : OpRec.kind b = 2) :
    takeRecord u q b = .ok (u.setQueue q { u.queue q with held := true, bytes := b }) := by
  simp [takeRecord, hc, not_fenced hf, hk]

theorem takeRecord_signal (hc : OpRec.clean b = true) (hf : OpRec.fence b = true → u.queueBusy q = false) (hk : OpRec.kind b = 3) :
    takeRecord u q b = .ok ((u.setQueue q { u.queue q with held := true, bytes := b }).push .signalRecord { n := q }) := by
  simp [takeRecord, hc, not_fenced hf, hk]

variable (hq : s.nextQueue = some q) (hr : lfeRead (s.queue q).pasid 2 (fetching s q) (s.recordVa q) 128 = .ok (b, u))
include hq hr

/-- A record that has been read is begun and taken up. -/
theorem lfeRecordFetch_takes {v w : State} (hb : beginRecord u q b = .ok v) (ht : takeRecord v q b = .ok w) :
    exec .lfeRecordFetch s = .next (settleQueue q w) := by
  have hr' : lfeRead ((fetching s q).queue q).pasid 2 (fetching s q) ((fetching s q).recordVa q) 128 = .ok (b, u) := hr
  show Host.Outcome.next (lfeRecordFetch s) = _
  simp only [lfeRecordFetch, hq]
  rw [← fetching, hr']
  simp only [hb, ht]

/-- A record that has been begun and is not taken up stops its queue. -/
theorem lfeRecordFetch_stops {v : State} {x : LfeStop} (hb : beginRecord u q b = .ok v) (ht : takeRecord v q b = .error x) :
    exec .lfeRecordFetch s = .next (settleQueue q (v.queueStop q x)) := by
  have hr' : lfeRead ((fetching s q).queue q).pasid 2 (fetching s q) ((fetching s q).recordVa q) 128 = .ok (b, u) := hr
  show Host.Outcome.next (lfeRecordFetch s) = _
  simp only [lfeRecordFetch, hq]
  rw [← fetching, hr']
  simp only [hb, ht]

end Fetched

end Sys2Proof.Proofs.Launch

/-!
O56, launches as they are made (R85 to R91, R96): a LAUNCH record that is begun, its checks and its root region.
-/

namespace Sys2Proof.Proofs.Launch

open Sys2Proof Sys2Proof.Machine Sys2Proof.Safety Sys2Proof.Laws Sys2Proof.Proofs.Package Sys2Proof.Proofs.Links

/-! ### A LAUNCH is begun (R96) -/

section Begun

variable {s u w x y : State} {q : Nat} {b : List Byte}

theorem fetchTime_none (hl : OpRec.lrec b = 0) : fetchTime w q b = .ok w := by
  simp [fetchTime, hl]

theorem fetchTime_writes (hl : OpRec.lrec b ≠ 0) (hskip : (w.queue q).lrecSkip = false)
    (hx : lfeWrite w (w.queue q).pasid (OpRec.lrec b + 16) (leBytes 8 w.ptime.toNat) = .ok x)
    (hy : lfeWrite x (w.queue q).pasid (OpRec.lrec b + 56) [0, 0, 0, 0] = .ok y) : fetchTime w q b = .ok y := by
  simp only [fetchTime]
  rw [if_neg (by rw [hskip, Bool.or_false, decide_eq_true_eq]; exact hl), hx]
  simp only [hy]

theorem fetchTime_accessed (h : fetchTime w q b = .ok x) : Accessed w x := by
  simp only [fetchTime] at h
  split at h
  · cases h; exact .refl w
  · split at h
    · cases h
    · cases h
    · cases h; exact .refl w
    next y hy =>
      split at h
      · cases h
      · cases h
      · cases h; exact lfeWrite_accessed hy
      next z hz => cases h; exact (lfeWrite_accessed hy).trans (lfeWrite_accessed hz)

/-- A LAUNCH gets STATUS 0, and then T_FETCH and STATUS 0 in its launch record. -/
theorem beginRecord_launch (hc : OpRec.clean b = true) (hf : OpRec.fence b = true → u.queueBusy q = false) (hk : OpRec.kind b = 1)
    (hfetched : (u.queue q).fetched = false) (hw : lfeWrite u (u.queue q).pasid (u.recordVa q + 4) [0, 0, 0, 0] = .ok w)
    (ht : fetchTime w q b = .ok x) : beginRecord u q b = .ok (x.modQueue q (fun c => { c with fetched := true })) := by
  have hgo : ((u.queue q).fetched || !OpRec.clean b || OpRec.kind b != 1 || (OpRec.fence b && u.queueBusy q)) = false := by
    simp [hfetched, hc, hk, not_fenced hf]
  simp only [beginRecord, hgo, Bool.false_eq_true, if_false, hw, lfe_ok_bind, ht]

theorem beginRecord_launches (h : beginRecord u q b = .ok x) : x.lfe.launches = u.lfe.launches := by
  unfold beginRecord at h
  dsimp only at h
  split at h
  · cases h; rfl
  · obtain ⟨w, hw, h⟩ := bind_eq_ok h
    obtain ⟨y, hy, h⟩ := bind_eq_ok h
    cases h
    exact ((lfeWrite_accessed hw).trans (fetchTime_accessed hy)).lfe.2.1

theorem queueBusy_congr (h : x.lfe.launches = u.lfe.launches) (q : Nat) : x.queueBusy q = u.queueBusy q :=
  congrArg (fun m : Assoc Machine.Launch => m.any (fun l => l.2.queue.toNat == q)) h

theorem takeRecord_begun (hc : OpRec.clean b = true) (hf : OpRec.fence b = true → u.queueBusy q = false) (hk : OpRec.kind b = 1)
    (hb : beginRecord u q b = .ok x) : takeRecord x q b = takeLaunch x q b :=
  takeRecord_launch hc (fun h => by rw [queueBusy_congr (beginRecord_launches hb)]; exact hf h) hk

/-- As a LAUNCH is begun it gets STATUS 0, and its launch record, where it has one, T_FETCH and STATUS 0. -/
theorem beginRecord_writes (hc : OpRec.clean b = true) (hf : OpRec.fence b = true → u.queueBusy q = false) (hk : OpRec.kind b = 1)
    (hu : u.queue q = s.queue q) (hfetched : (s.queue q).fetched = false)
    (hw : lfeWrite u (s.queue q).pasid (s.recordVa q + 4) [0, 0, 0, 0] = .ok w) (hwq : w.queue q = s.queue q)
    (hskip : (s.queue q).lrecSkip = false) :
    (OpRec.lrec b = 0 → ∃ x, beginRecord u q b = .ok x ∧ x.mem = w.mem)
    ∧ (OpRec.lrec b ≠ 0 → ∀ x y, lfeWrite w (s.queue q).pasid (OpRec.lrec b + 16) (leBytes 8 w.ptime.toNat) = .ok x →
        lfeWrite x (s.queue q).pasid (OpRec.lrec b + 56) [0, 0, 0, 0] = .ok y →
        ∃ z, beginRecord u q b = .ok z ∧ z.mem = y.mem) := by
  rw [← hu] at hfetched hw
  rw [← recordVa_congr hu] at hw
  rw [← hwq] at hskip ⊢
  exact ⟨fun hl => ⟨_, beginRecord_launch hc hf hk hfetched hw (fetchTime_none hl), rfl⟩,
    fun hl x y hx hy => ⟨_, beginRecord_launch hc hf hk hfetched hw (fetchTime_writes hl hskip hx hy), rfl⟩⟩

/-! ### The checks of a LAUNCH (R85 to R90) -/

theorem takeLaunch_ranges (h : OpRec.ranges b = false) : takeLaunch x q b = .error (.err 1) := by
  simp [takeLaunch, h]

theorem takeLaunch_ungrantable {bank : BankImage} (h : OpRec.ranges b = true) (hh : lfeHeader x (x.queue q) b = .ok (bank, y))
    (hg : y.grantable b = false) : takeLaunch x q b = .error (.err 3) := by
  simp only [takeLaunch, h, Bool.not_true, Bool.false_eq_true, if_false, hh, lfe_ok_bind, hg, Bool.not_false, if_true]

theorem takeLaunch_grantable {bank : BankImage} {r : BitVec 12} (h : OpRec.ranges b = true)
    (hh : lfeHeader x (x.queue q) b = .ok (bank, y)) (hg : y.grantable b = true) (hr : y.freeRegionId = some r) :
    takeLaunch x q b = .ok ((createLaunch y q b bank r).setQueue q
      { y.queue q with head := (x.queue q).head + 1, fenced := false, lrecSkip := false, fetched := false }) := by
  simp only [takeLaunch, h, Bool.not_true, Bool.false_eq_true, if_false, hh, lfe_ok_bind, hg, hr]

end Begun

/-! ### The root region of a launch (R86, R103, R105) -/

theorem region_withLfe (u : State) (d : Dist) (l : Lfe) (r : BitVec 12) : ({ u with dist := d, lfe := l } : State).region r = u.region r := rfl

theorem launch_withLfe (u : State) (d : Dist) (m : Assoc Machine.Launch) (n j : Nat) :
    ({ u with dist := d, lfe := { u.lfe with launches := m, nextLaunch := n } } : State).launch j = Assoc.find? m j := rfl

theorem setBytes_region (s : State) (cell : Nat) (bs : List Byte) (r : BitVec 12) : (s.setBytes cell bs).region r = s.region r :=
  congrArg (fun m : Assoc Region => Assoc.find? m r.toNat) (setBytesKey_accessed s 0 cell bs).keeps.2.2.1

theorem setLife_region (s : State) (r : BitVec 12) (l : RegionLife) (x : BitVec 12) : (s.setLife r l).region x = s.region x := rfl

theorem setRegion_region_same (s : State) (r : BitVec 12) (g : Region) : (s.setRegion r g).region r = some g := find?_set_same _ _ _

theorem allocArea_lfe (s : State) (n : Nat) : (s.allocArea n).2.lfe = s.lfe := rfl

/-- What a LAUNCH record and its bank make: a root region that waits, and its launch. -/
theorem createLaunch_makes (s : State) (q : Nat) (b : List Byte) (bank : BankImage) (r : BitVec 12) :
    ∃ g l, (createLaunch s q b bank r).region r = some g ∧ g.parent = 0 ∧ g.pasid = (s.queue q).pasid ∧ g.state = .queued
      ∧ g.count = BitVec.ofNat 32 (field b 36 4) ∧ g.first = BitVec.ofNat 32 (field b 32 4) ∧ g.tileBudget = OpRec.tiles b
      ∧ g.coreBudget = OpRec.cores b ∧ g.prio = bank.prio ∧ g.tiles = []
      ∧ (createLaunch s q b bank r).launch s.lfe.nextLaunch = some l ∧ l.region = r
      ∧ l.stage = (if OpRec.waitbw b = 0 then 1 else 0) := by
  unfold createLaunch
  dsimp only
  rw [region_withLfe, setBytes_region, setLife_region, setRegion_region_same, launch_withLfe, allocArea_lfe, allocArea_lfe, allocArea_lfe,
    find?_set_same]
  exact ⟨_, _, rfl, rfl, rfl, rfl, rfl, rfl, rfl, rfl, rfl, rfl, rfl, rfl, rfl⟩

/-! ### What comes of a record that is fetched -/

section Fetch

variable {s u : State} {q : Nat} {b : List Byte}
variable (hq : s.nextQueue = some q) (hr : lfeRead (s.queue q).pasid 2 (fetching s q) (s.recordVa q) 128 = .ok (b, u))
include hq hr

theorem fetch_takes {v w : State} (hb : beginRecord u q b = .ok v) (ht : takeRecord v q b = .ok w) (hw : (w.queue q).waiting = []) :
    exec .lfeRecordFetch s = .next w := by
  rw [lfeRecordFetch_takes hq hr hb ht, settleQueue_quiet hw]

/-- A record that is refused stops its queue with an error, and LQHEAD stays at it. -/
theorem fetch_errs {v : State} {c : Byte} (hb : beginRecord u q b = .ok v) (ht : takeRecord v q b = .error (.err c))
    (hw : (v.queue q).waiting = []) : ∃ t, exec .lfeRecordFetch s = .next t ∧ (t.queue q).err = c ∧ (t.queue q).stop = true
      ∧ (t.queue q).head = (v.queue q).head := by
  have hquiet : settleQueue q (v.queueError q c) = v.queueError q c := settleQueue_quiet (by rw [queueError_queue]; exact hw)
  refine ⟨v.queueError q c, (lfeRecordFetch_stops hq hr hb ht).trans (congrArg _ hquiet), ?_⟩
  rw [queueError_queue]
  exact ⟨rfl, rfl, rfl⟩

variable (hw : (s.queue q).waiting = []) (hu : u.queue q = s.queue q)
include hw hu

theorem fetch_unclean (hc : OpRec.clean b = false) : ∃ t, exec .lfeRecordFetch s = .next t ∧ (t.queue q).err = 1
    ∧ (t.queue q).stop = true ∧ (t.queue q).head = (s.queue q).head := by
  obtain ⟨t, ht, herr, hstop, hhead⟩ := fetch_errs hq hr (beginRecord_skips (.inl hc)) (takeRecord_unclean hc) (by rw [hu]; exact hw)
  exact ⟨t, ht, herr, hstop, by rw [hhead, hu]⟩

theorem fetch_fenced (hc : OpRec.clean b = true) (hf : Fenced u q b) : ∃ t, exec .lfeRecordFetch s = .next t
    ∧ (t.queue q).fenced = true ∧ (t.queue q).head = (s.queue q).head ∧ t.mem = u.mem := by
  refine ⟨_, fetch_takes hq hr (beginRecord_skips (.inr (.inr hf))) (takeRecord_fenced hc hf) ?_, ?_⟩
  · rw [setQueue_queue_same, hu]; exact hw
  · rw [setQueue_queue_same, hu]
    exact ⟨rfl, rfl, rfl⟩

variable (hc : OpRec.clean b = true) (hf : OpRec.fence b = true → u.queueBusy q = false)
include hc hf

theorem fetch_nop (hk : OpRec.kind b = 0) {v : State} (hv : lfeWrite u (s.queue q).pasid (s.recordVa q + 4) [2, 0, 0, 0] = .ok v)
    (hvq : v.queue q = s.queue q) : ∃ t, exec .lfeRecordFetch s = .next t ∧ (t.queue q).head = (s.queue q).head + 1 ∧ t.mem = v.mem := by
  rw [← hu, ← recordVa_congr hu] at hv
  have ht : takeRecord u q b = .ok (v.passRecord q (OpRec.irq b)) := by rw [takeRecord_nop hc hf hk, recordDone_writes hv]
  refine ⟨_, fetch_takes hq hr (beginRecord_skips (.inr (.inl (by omega)))) ht ?_, ?_, passRecord_mem _ _ _⟩
  · rw [passRecord_queue, hvq]; exact hw
  · rw [passRecord_queue, hvq]

theorem fetch_wait (hk : OpRec.kind b = 2) : ∃ t, exec .lfeRecordFetch s = .next t ∧ (t.queue q).held = true ∧ (t.queue q).bytes = b
    ∧ (t.queue q).head = (s.queue q).head := by
  refine ⟨_, fetch_takes hq hr (beginRecord_skips (.inr (.inl (by omega)))) (takeRecord_wait hc hf hk) ?_, ?_⟩
  · rw [setQueue_queue_same, hu]; exact hw
  · rw [setQueue_queue_same, hu]
    exact ⟨rfl, rfl, rfl⟩

theorem fetch_signal (hk : OpRec.kind b = 3) : ∃ t, exec .lfeRecordFetch s = .next t ∧ (t.queue q).held = true ∧ (t.queue q).bytes = b
    ∧ (t.queue q).head = (s.queue q).head ∧ t.sched = .happen .signalRecord { n := q } :: u.sched := by
  have hq' : ((u.setQueue q { u.queue q with held := true, bytes := b }).push .signalRecord { n := q }).queue q
      = { u.queue q with held := true, bytes := b } := setQueue_queue_same u q _
  refine ⟨_, fetch_takes hq hr (beginRecord_skips (.inr (.inl (by omega)))) (takeRecord_signal hc hf hk) ?_, ?_⟩
  · rw [hq', hu]; exact hw
  · rw [hq', hu]
    exact ⟨rfl, rfl, rfl, rfl⟩

/-! #### A LAUNCH (R85 to R90, R96) -/

variable (hk : OpRec.kind b = 1)
include hk

variable {x : State} (hb : beginRecord u q b = .ok x) (hx : x.queue q = { s.queue q with fetched := true })
include hb hx

omit hu in
/-- A LAUNCH that is refused stops its queue, and LQHEAD stays at it. -/
theorem fetch_launch_errs {c : Byte} (ht : takeLaunch x q b = .error (.err c)) : ∃ t, exec .lfeRecordFetch s = .next t
    ∧ (t.queue q).err = c ∧ (t.queue q).head = (s.queue q).head := by
  obtain ⟨t, ht, herr, -, hhead⟩ := fetch_errs hq hr hb ((takeRecord_begun hc hf hk hb).trans ht) (by rw [hx]; exact hw)
  exact ⟨t, ht, herr, by rw [hhead, hx]⟩

omit hu in
/-- A LAUNCH that may be granted makes its root region and its launch, and LQHEAD passes it. -/
theorem fetch_launch_makes (hranges : OpRec.ranges b = true) {bank : BankImage} {v : State} {r : BitVec 12}
    (hh : lfeHeader x (x.queue q) b = .ok (bank, v)) (hv : v.queue q = x.queue q) (hg : v.grantable b = true)
    (hid : v.freeRegionId = some r) :
    ∃ t g, exec .lfeRecordFetch s = .next t ∧ (t.queue q).head = (s.queue q).head + 1 ∧ t.region r = some g ∧ g.parent = 0
      ∧ g.pasid = (s.queue q).pasid
      ∧ g.state = .queued ∧ g.count = BitVec.ofNat 32 (field b 36 4) ∧ g.first = BitVec.ofNat 32 (field b 32 4)
      ∧ g.tileBudget = OpRec.tiles b ∧ g.coreBudget = OpRec.cores b ∧ g.prio = bank.prio ∧ g.tiles = []
      ∧ ∃ l, t.launch v.lfe.nextLaunch = some l ∧ l.region = r ∧ l.stage = (if OpRec.waitbw b = 0 then 1 else 0) := by
  obtain ⟨g, l, hregion, hparent, hpasid, hstate, hcount, hfirst, htiles, hcores, hprio, hnone, hlaunch, hl, hstage⟩ :=
    createLaunch_makes v q b bank r
  have ht := (takeRecord_begun hc hf hk hb).trans (takeLaunch_grantable hranges hh hg hid)
  refine ⟨_, g, fetch_takes hq hr hb ht ?_, ?_, (setQueue_region ..).trans hregion, hparent, ?_, hstate, hcount, hfirst,
    htiles, hcores, hprio, hnone, l, (setQueue_launch ..).trans hlaunch, hl, hstage⟩
  · rw [setQueue_queue_same, hv, hx]; exact hw
  · rw [setQueue_queue_same, hx]
  · rw [hpasid, hv, hx]

end Fetch

end Sys2Proof.Proofs.Launch

/-!
O56, the records of a queue that wait or signal (R84, R86), and what the launch queues claim.
-/

namespace Sys2Proof.Proofs.Launch

open Sys2Proof Sys2Proof.Machine Sys2Proof.Safety Sys2Proof.Laws Sys2Proof.Proofs.Package Sys2Proof.Proofs.Links

/-! ### A WAIT or a SIGNAL at LQHEAD (R86) -/

section Held

variable {s u v : State} {q : Nat}

/-- A record whose STATUS is written is done, and LQHEAD passes it. -/
theorem recordDone_settled (hw : (s.queue q).waiting = []) (hu : u.queue q = s.queue q) (hvq : v.queue q = s.queue q)
    (hv : lfeWrite u (s.queue q).pasid (u.recordVa q + 4) [2, 0, 0, 0] = .ok v) (b : List Byte) :
    settleQueue q (u.recordDone q b) = v.passRecord q (OpRec.irq b) := by
  rw [recordDone_writes (by rw [hu]; exact hv), settleQueue_passRecord (by rw [hvq]; exact hw)]

theorem passRecord_done (hvq : v.queue q = s.queue q) (irq : Bool) :
    ((v.passRecord q irq).queue q).head = (s.queue q).head + 1 ∧ ((v.passRecord q irq).queue q).held = false
      ∧ (v.passRecord q irq).mem = v.mem := by
  rw [passRecord_queue, hvq]
  exact ⟨rfl, rfl, passRecord_mem _ _ _⟩

variable (hon : (s.queue q).v = true) (hstop : (s.queue q).stop = false) (hheld : (s.queue q).held = true)
  (hfault : (s.queue q).fault = none)
include hon hstop hheld hfault

theorem held_goes {k : Nat} (hk : OpRec.kind (s.queue q).bytes = k) : (!(s.queue q).v || (s.queue q).stop || !(s.queue q).held
    || (s.queue q).fault.isSome || OpRec.kind (s.queue q).bytes != k) = false := by
  simp [hon, hstop, hheld, hfault, hk]

theorem waitRecord_early (hk : OpRec.kind (s.queue q).bytes = 2)
    (hr : lfeReached s (s.queue q).pasid (OpRec.waitbw (s.queue q).bytes) (OpRec.waitgen (s.queue q).bytes) = .ok (false, u)) :
    waitRecord q s = u := by
  simp only [waitRecord, held_goes hon hstop hheld hfault hk, Bool.false_eq_true, if_false, hr]

variable (hw : (s.queue q).waiting = [])
include hw

theorem waitRecord_done (hk : OpRec.kind (s.queue q).bytes = 2)
    (hr : lfeReached s (s.queue q).pasid (OpRec.waitbw (s.queue q).bytes) (OpRec.waitgen (s.queue q).bytes) = .ok (true, u))
    (hu : u.queue q = s.queue q) (hv : lfeWrite u (s.queue q).pasid (u.recordVa q + 4) [2, 0, 0, 0] = .ok v)
    (hvq : v.queue q = s.queue q) : waitRecord q s = v.passRecord q (OpRec.irq (s.queue q).bytes) := by
  simp only [waitRecord, held_goes hon hstop hheld hfault hk, Bool.false_eq_true, if_false, hr]
  exact recordDone_settled hw hu hvq hv _

theorem signalRecord_done {key : BitVec 8} {cell : Nat} {w : State} (hk : OpRec.kind (s.queue q).bytes = 3)
    (hc : lfeCell s (s.queue q).pasid (s.recordVa q + 4) 4 accWrite = .ok (key, cell, u))
    (hadd : lfeAdd u (s.queue q).pasid (OpRec.donebw (s.queue q).bytes) (OpRec.doneadd (s.queue q).bytes) = .ok v)
    (hvq : v.queue q = s.queue q) (hwr : lfeWrite v (s.queue q).pasid (v.recordVa q + 4) [2, 0, 0, 0] = .ok w)
    (hwq : w.queue q = s.queue q) : signalRecord q s = w.passRecord q (OpRec.irq (s.queue q).bytes) := by
  simp only [signalRecord, held_goes hon hstop hheld hfault hk, Bool.false_eq_true, if_false, hc, hadd]
  exact recordDone_settled hw hvq hwq hwr _

end Held

/-! ### The claim -/

theorem queueRegisters (s : State) (q : Nat) (v : BitVec 64) (hn : s.inp.n = q) (hv : s.inp.value = v) :
    let size := (v.extractLsb' 52 6).toNat
    let active := s.pasidState (v.extractLsb' 32 20) = .active
    (∃ t, exec .lqctlEnable s = .next t ∧ (t.queue q).head = (s.queue q).head ∧ (t.queue q).pasid = v.extractLsb' 32 20
      ∧ (size < 4 ∨ 16 < size → (t.queue q).err = 4 ∧ (t.queue q).v = (s.queue q).v)
      ∧ (4 ≤ size → size ≤ 16 → ¬ active → (t.queue q).err = 5 ∧ (t.queue q).v = (s.queue q).v)
      ∧ (4 ≤ size → size ≤ 16 → active → (t.queue q).v = true ∧ (t.queue q).stop = false ∧ (t.queue q).err = 0))
    ∧ (((s.queue q).held = false → (s.queue q).fault = none) → (OpRec.kind (s.queue q).bytes = 2 ∨ (s.queue q).held = false) →
        ∃ t, exec .lqctlDisable s = .next t ∧ (t.queue q).v = false ∧ (t.queue q).head = (s.queue q).head)
    ∧ ((s.queue q).held = false → (s.queue q).fault.isSome = true →
        ∃ t, exec .lqctlDisable s = .next t ∧ t.queue q = { s.queue q with waiting := (s.queue q).waiting ++ [(0, 0)] })
    ∧ ∃ t, exec .lqtailDoorbell s = .next t ∧ t.queue q = { s.queue q with tail := v.extractLsb' 0 32 }
        ∧ t.mgmt.gated = false ∧ (s.mgmt.idle = .idle → t.mgmt.idle = .waking ∧ t.mgmt.idleCause = 1)
        ∧ (s.mgmt.idle = .entering → t.mgmt.idle = .running) := by
  subst hn hv
  refine ⟨⟨_, rfl, (lqctlEnable_takes _ _ s).1, (lqctlEnable_takes _ _ s).2, fun h => ?_, fun h4 h16 ha => ?_, fun h4 h16 ha => ?_⟩,
    fun hf hk => ⟨_, rfl, ?_⟩, fun hh hf => ⟨_, rfl, ?_⟩, ?_⟩
  · rw [lqctlEnable_size h, setQueue_queue_same]
    exact ⟨rfl, rfl⟩
  · rw [lqctlEnable_pasid h4 h16 ha, setQueue_queue_same]
    exact ⟨rfl, rfl⟩
  · rw [lqctlEnable_enables h4 h16 ha, setQueue_queue_same]
    exact ⟨rfl, rfl, rfl⟩
  · rw [lqctlDisable_between (inProgress_between hf hk), queueOff, modQueue_queue_same]
    exact ⟨rfl, rfl⟩
  · rw [lqctlDisable_waits (inProgress_fault hh hf), modQueue_queue_same]
  · obtain ⟨hlfe, hgated, hidle, hentering⟩ := wakeAll_spec
      (s.modQueue s.inp.n (fun c => { c with tail := s.inp.value.extractLsb' 0 32 })) 1
    exact ⟨_, rfl, (queue_congr (congrArg Lfe.queues hlfe) _).trans (modQueue_queue_same _ _ _), hgated, hidle, hentering⟩

theorem launchQueues : Claims.LaunchQueues := by
  refine ⟨queueRegisters, fun s h => congrArg Host.Outcome.next (lfeRecordFetch_none h), fun s q h => nextQueue_spec h,
    fun s q b u hq hw => ?_, fun s q hn hon hstop hheld hfault hw => ?_⟩
  · intro c at_ hr hu
    have hu := queue_congr hu q
    refine ⟨fetch_unclean hq hr hw hu, fun hc hfence hbusy => fetch_fenced hq hr hw hu hc ⟨hfence, hbusy⟩, fun hc hf =>
      ⟨fun hk v hv hvq => fetch_nop hq hr hw hu hc hf hk hv (queue_congr hvq q), fetch_wait hq hr hw hu hc hf,
      fetch_signal hq hr hw hu hc hf, fun hk hfetched => ⟨fun w hw0 hwq hskip =>
        ⟨fun hl => ?none, fun hl x y hx _ hy => ?written⟩, fun x hb hx =>
          ⟨fun hranges => ?ranges, fun hranges bank v hh hv => ⟨?_, ?_⟩⟩⟩⟩⟩
    case none => exact (beginRecord_writes hc hf hk hu hfetched hw0 (queue_congr hwq q) hskip).1 hl
    case written => exact (beginRecord_writes hc hf hk hu hfetched hw0 (queue_congr hwq q) hskip).2 hl x y hx hy
    case ranges => exact fetch_launch_errs hq hr hw hc hf hk hb hx (takeLaunch_ranges hranges)
    · exact fun hg => fetch_launch_errs hq hr hw hc hf hk hb hx (takeLaunch_ungrantable hranges hh hg)
    · exact fun hg r hid => fetch_launch_makes hq hr hw hc hf hk hb hx hranges hh (queue_congr hv q) hg hid
  · subst hn
    refine ⟨fun hk u hr => ?_, fun hk u v hr hu hv hvq => ?_, fun hk key cell u v w hc hadd hv hwr hwq => ?_⟩
    · exact congrArg Host.Outcome.next (waitRecord_early hon hstop hheld hfault hk hr)
    · have hvq := queue_congr hvq s.inp.n
      exact ⟨_, congrArg Host.Outcome.next (waitRecord_done hon hstop hheld hfault hw hk hr (queue_congr hu _) hv hvq),
        passRecord_done hvq _⟩
    · have hwq := queue_congr hwq s.inp.n
      exact ⟨_, congrArg Host.Outcome.next (signalRecord_done hon hstop hheld hfault hw hk hc hadd (queue_congr hv _) hwr hwq),
        passRecord_done hwq _⟩

end Sys2Proof.Proofs.Launch

/-!
O56, launches under way (R86, R91 to R94, R101, R116, R125): WAITBW, the grant, the shadow banks and completion.
-/

namespace Sys2Proof.Proofs.Launch

open Sys2Proof Sys2Proof.Machine Sys2Proof.Safety Sys2Proof.Laws Sys2Proof.Proofs.Package Sys2Proof.Proofs.Links

/-! ### WAITBW (R86) -/

@[simp] theorem setLaunch_launch_same (s : State) (n : Nat) (l : Machine.Launch) : (s.setLaunch n l).launch n = some l :=
  find?_set_same _ _ _

@[simp] theorem dropLaunch_launch_same (s : State) (n : Nat) : (s.dropLaunch n).launch n = none := find?_erase_same _ _

section Wait

variable {s u : State} {n : Nat} {l : Machine.Launch} {g : Region} (hl : s.launch n = some l) (hg : s.region l.region = some g)
include hl hg

theorem launchWait_idle (h : l.stage ≠ 0 ∨ g.ending ≠ none) : launchWait n s = s := by
  have hskip : (l.stage != 0 || l.fault.isSome || l.ended.isSome || g.ending.isSome) = true := by
    rcases h with h | h
    · rw [bne_iff_ne.mpr h]; rfl
    · simp [Option.isSome_iff_ne_none.mpr h]
  simp only [launchWait, hl, hg, hskip, if_true]

variable (h0 : l.stage = 0) (hf : l.fault = none) (he : l.ended = none) (hge : g.ending = none)
include h0 hf he hge

theorem launchWait_early (hr : lfeReached s l.pasid (OpRec.waitbw l.bytes) (OpRec.waitgen l.bytes) = .ok (false, u)) :
    launchWait n s = u := by
  simp [launchWait, hl, hg, h0, hf, he, hge, hr]

theorem launchWait_ready (hr : lfeReached s l.pasid (OpRec.waitbw l.bytes) (OpRec.waitgen l.bytes) = .ok (true, u)) :
    (launchWait n s).launch n = some { l with stage := 1, order := u.dist.nextOrder } := by
  simp only [launchWait, hl, hg, h0, hf, he, hge, hr, bne_self_eq_false, Option.isSome_none, Bool.or_self, Bool.false_eq_true, if_false]
  exact setLaunch_launch_same u n _

end Wait

/-! ### What a grant places (R116, R118) -/

/-- The regions and the LFE are as they were. -/
def Placed (s t : State) : Prop := t.regions = s.regions ∧ t.lfe = s.lfe

theorem Placed.refl (s : State) : Placed s s := ⟨rfl, rfl⟩

theorem Placed.trans {s t u : State} (h : Placed s t) (h' : Placed t u) : Placed s u := ⟨h'.1.trans h.1, h'.2.trans h.2⟩

theorem placed_of_memoryOnly {s t : State} (h : MemoryOnly s t) : Placed s t := by
  obtain ⟨⟨m, k, p, rfl⟩, -⟩ := h
  exact ⟨rfl, rfl⟩

theorem foldl_placed {α : Type} {f : State → α → State} (hf : ∀ t x, Placed t (f t x)) (xs : List α) (s : State) :
    Placed s (xs.foldl f s) :=
  List.foldlRecOn (motive := fun t => Placed s t) _ _ (.refl s) fun t ht x _ => ht.trans (hf t x)

theorem journalGrain_placed (s : State) (x : Grain) (st : BitVec 2) : Placed s (s.journalGrain x st) := ⟨rfl, rfl⟩

theorem withDist_placed (s : State) (d : Dist) : Placed s { s with dist := d } := ⟨rfl, rfl⟩

theorem setGrain_placed (s : State) (x : Grain) (st : BitVec 2) : Placed s (s.setGrain x st) :=
  (journalGrain_placed s x st).trans (withDist_placed _ _)

theorem dealOne_placed (r : BitVec 12) (k : Nat) (s : State) (x : Grain) : Placed s (dealOne r k s x) := by
  unfold dealOne
  split
  next t h =>
    obtain ⟨cell, -, hpush⟩ := Option.bind_eq_some_iff.mp h
    exact (setGrain_placed s x 1).trans (placed_of_memoryOnly (Mesh.dqPush_memoryOnly hpush))
  · exact .refl s

theorem dealOut_placed (s : State) (r : BitVec 12) (die : Nat) : Placed s (dealOut s r die) := by
  unfold dealOut
  refine foldl_placed (fun t e => ?_) _ s
  exact foldl_placed (dealOne_placed r e.1) _ t

/-- A die's deques of a region begin empty. -/
theorem emptyDeques_placed (r : BitVec 12) (cores : List Nat) (s : State) : Placed s (cores.foldl (fun t k => match t.dequeCell r k with
    | some c => t.setBytes c (leBytes 8 0)
    | none => t) s) := by
  refine foldl_placed (fun t k => ?_) _ s
  split
  · exact placed_of_memoryOnly (setBytesKey_memoryOnly 0 _ t _)
  · exact .refl t

theorem dealDie_placed (s : State) (r : BitVec 12) (die : Nat) : Placed s (dealDie s r die) := by
  unfold dealDie
  exact (emptyDeques_placed r _ s).trans (dealOut_placed _ r die)

theorem place_placed (s : State) (r : BitVec 12) : Placed s (s.place r) := by
  unfold State.place
  split
  · exact .refl s
  next g hg =>
    have hcut := foldl_placed (fun t x => journalGrain_placed t x 0) (regionGrains r g (s.workCores r)) s
    dsimp only
    split
    · exact hcut.trans (withDist_placed _ _)
    · exact ((hcut.trans (withDist_placed _ _)).trans (dealDie_placed _ r 0)).trans (dealDie_placed _ r 1)

theorem Placed.region {s t : State} (h : Placed s t) (r : BitVec 12) : t.region r = s.region r :=
  congrArg (fun m : Assoc Region => Assoc.find? m r.toNat) h.1

theorem Placed.launch {s t : State} (h : Placed s t) (n : Nat) : t.launch n = s.launch n :=
  congrArg (fun x : Lfe => Assoc.find? x.launches n) h.2

/-! ### Shadow banks (R91 to R93) -/

/-- Shadow banks have been begun: the regions, what runs on the cores and how far each launch is are as they were. -/
structure Banked (s t : State) : Prop where
  regions : t.regions = s.regions
  cores : ∀ k, (t.core k).active = (s.core k).active ∧ (t.core k).swapping = (s.core k).swapping ∧ (t.core k).user = (s.core k).user
  launches : ∀ n l, s.launch n = some l → ∃ m, t.launch n = some m ∧ m.stage = l.stage ∧ m.region = l.region

theorem Banked.refl (s : State) : Banked s s := ⟨rfl, fun _ => ⟨rfl, rfl, rfl⟩, fun _ l h => ⟨l, h, rfl, rfl⟩⟩

theorem Banked.trans {s t u : State} (h : Banked s t) (h' : Banked t u) : Banked s u where
  regions := h'.regions.trans h.regions
  cores k := ⟨(h'.cores k).1.trans (h.cores k).1, (h'.cores k).2.1.trans (h.cores k).2.1, (h'.cores k).2.2.trans (h.cores k).2.2⟩
  launches n l hl := by
    obtain ⟨m, hm, hstage, hregion⟩ := h.launches n l hl
    obtain ⟨m', hm', hstage', hregion'⟩ := h'.launches n m hm
    exact ⟨m', hm', hstage'.trans hstage, hregion'.trans hregion⟩

/-- A bank is begun for launch `n` on core `k`. -/
def bankBegun (s : State) (n : Nat) (l : Machine.Launch) (k : Nat) : State :=
  (s.modCore k (fun c => { c with shadow := l.bank, shadowState := .loading })).setLaunch n { l with banked := l.banked ++ [k] }

theorem bankBegun_core (s : State) (n : Nat) (l : Machine.Launch) (k j : Nat) : (bankBegun s n l k).core j =
    if j = k then { s.core k with shadow := l.bank, shadowState := .loading } else s.core j :=
  modCore_core s k (fun c => { c with shadow := l.bank, shadowState := .loading }) j

theorem bankBegun_launch (s : State) (n : Nat) (l : Machine.Launch) (k j : Nat) : (bankBegun s n l k).launch j =
    if j = n then some { l with banked := l.banked ++ [k] } else s.launch j := find?_set _ _ _ _

theorem bankBegun_banked {s : State} {n : Nat} {l : Machine.Launch} (hl : s.launch n = some l) (k : Nat) :
    Banked s (bankBegun s n l k) where
  regions := rfl
  cores j := by
    rw [bankBegun_core]
    split
    next h => subst h; exact ⟨rfl, rfl, rfl⟩
    · exact ⟨rfl, rfl, rfl⟩
  launches j x hx := by
    rw [bankBegun_launch]
    split
    next h =>
      rw [h, hl] at hx
      cases hx
      exact ⟨_, rfl, rfl, rfl⟩
    · exact ⟨x, hx, rfl, rfl⟩

theorem lfeBanks_banked (s : State) : Banked s (lfeBanks s) := by
  unfold lfeBanks
  refine List.foldlRecOn (motive := fun acc : Bool × State => Banked s acc.2) _ _ (.refl s) fun acc hacc e _ => ?_
  split
  · exact hacc
  · split
    · exact hacc
    next l hl =>
      split
      · exact hacc
      · exact hacc.trans (bankBegun_banked hl e.2)

/-! ### The grant (R93, R116, R125) -/

theorem modCore_placed (s : State) (k : Nat) (f : Core → Core) : Placed s (s.modCore k f) := ⟨rfl, rfl⟩

theorem setLaunch_region (s : State) (n : Nat) (l : Machine.Launch) (r : BitVec 12) : (s.setLaunch n l).region r = s.region r := rfl

theorem modLife_placed (s : State) (r : BitVec 12) (f : RegionLife → RegionLife) : Placed s (s.modLife r f) := ⟨rfl, rfl⟩

/-- Grains that are cut and banks that are begun leave a region that is granted, and its launch. -/
theorem lfeBanks_place_grants {s : State} {r : BitVec 12} {n : Nat} {g : Region} {l : Machine.Launch} (hr : s.region r = some g)
    (hn : s.launch n = some l) : ∃ h m, (lfeBanks (s.place r)).region r = some h ∧ h.tiles = g.tiles
      ∧ (lfeBanks (s.place r)).launch n = some m ∧ m.stage = l.stage ∧ m.region = l.region := by
  have hplace := place_placed s r
  have hbanks := lfeBanks_banked (s.place r)
  obtain ⟨m, hm, hstage, hregion⟩ := hbanks.launches n l ((hplace.launch n).trans hn)
  exact ⟨g, m, (congrArg (fun x : Assoc Region => Assoc.find? x r.toNat) hbanks.regions).trans ((hplace.region r).trans hr), rfl, hm,
    hstage, hregion⟩

/-- A grant gives the root its tiles, and its launch is granted. -/
theorem grantTiles_grants (n : Nat) (l : Machine.Launch) (g : Region) (tiles : List Nat) (s : State) :
    ∃ h m, (grantTiles n l g tiles s).region l.region = some h ∧ h.tiles = tiles ∧ (grantTiles n l g tiles s).launch n = some m
      ∧ m.stage = 2 ∧ m.region = l.region := by
  unfold grantTiles
  dsimp only
  generalize (splitCores tiles g.coreBudget _).getD [] = cores
  generalize (splitGranules tiles _ _).getD [] = granules
  refine lfeBanks_place_grants (g := { g with tiles := tiles, cores := sortNats cores, granules := sortNats granules })
    (l := { l with stage := 2 }) ?_ ?_
  · rw [(withDist_placed _ _).region, (modLife_placed _ _ _).region, setLaunch_region,
      (foldl_placed (fun t e => modCore_placed t _ _) _ _).region, (withDist_placed _ _).region, setRegion_region_same]
  · rw [(withDist_placed _ _).launch, (modLife_placed _ _ _).launch, setLaunch_launch_same]

/-- The tiles that are picked are as many as the budget asks, in service, and held by no root. -/
theorem pickTiles_spec {s : State} {n : Nat} {except_ : List (BitVec 12)} {tiles : List Nat} (h : s.pickTiles n except_ = some tiles) :
    tiles.length = n ∧ ∀ x ∈ tiles, s.tileUp x = true ∧ x ∉ s.heldTiles except_ := by
  have htake {free : List Nat} (hn : n ≤ free.length)
      (hfree : ∀ x ∈ free, x ∈ (List.range 256).filter (fun t => s.tileUp t && !(s.heldTiles except_).contains t)) :
      (free.take n).length = n ∧ ∀ x ∈ free.take n, s.tileUp x = true ∧ x ∉ s.heldTiles except_ := by
    refine ⟨List.length_take_of_le hn, fun x hx => ?_⟩
    simpa using (List.mem_filter.mp (hfree x (List.mem_of_mem_take hx))).2
  simp only [State.pickTiles] at h
  split at h
  next hn => cases h; exact htake hn fun x hx => (List.mem_filter.mp hx).1
  · split at h
    next hn => cases h; exact htake hn fun x hx => (List.mem_filter.mp hx).1
    · split at h
      next hn => cases h; exact htake hn fun x hx => hx
      · cases h

/-- Roots that are asked to give way are asked in their order. -/
theorem foldl_push_sched (rs : List (BitVec 12)) (i : Instr) (f : BitVec 12 → Input) (s : State) :
    rs.reverse.foldl (fun t r => t.push i (f r)) s = { s with sched := rs.map (fun r => .happen i (f r)) ++ s.sched } := by
  rw [List.foldl_reverse]
  induction rs with
  | nil => rfl
  | cons r rest ih => rw [List.foldr_cons, ih]; rfl

section Grant

variable {s : State} {n : Nat} {l : Machine.Launch} {g : Region} (hl : s.launch n = some l) (hg : s.region l.region = some g)
include hl hg

theorem launchGrant_idle (h : l.stage ≠ 1 ∨ g.ending ≠ none) : launchGrant n s = s := by
  have hskip : (l.stage != 1 || l.ended.isSome || g.ending.isSome || s.launchBehind n l) = true := by
    rcases h with h | h
    · rw [bne_iff_ne.mpr h]; rfl
    · simp [Option.isSome_iff_ne_none.mpr h]
  simp only [launchGrant, hl, hg, hskip, if_true]

variable (h1 : l.stage = 1) (he : l.ended = none) (hge : g.ending = none) (hb : s.launchBehind n l = false)
include h1 he hge hb

theorem launchGrant_grants {tiles : List Nat} (ht : s.pickTiles g.tileBudget [] = some tiles) :
    launchGrant n s = grantTiles n l g tiles s := by
  simp [launchGrant, hl, hg, h1, he, hge, hb, ht]

theorem launchGrant_asks (ht : s.pickTiles g.tileBudget [] = none) : launchGrant n s = { s with
    sched := (s.victims g.prio g.tileBudget).map (fun r => .happen .preemptRequest { n := r.toNat }) ++ s.sched } := by
  rw [← foldl_push_sched]
  simp only [launchGrant, hl, hg, h1, he, hge, hb, ht, bne_self_eq_false, Option.isSome_none, Bool.or_self, Bool.false_eq_true, if_false]

end Grant

/-! ### The end of a launch (R94, R101) -/

section Completion

variable {s t : State} {n : Nat} {l : Machine.Launch}

theorem completeFrom_step {k i : Nat} (h : completionStep l i s = .ok t) : completeFrom n l (k + 1) i s = completeFrom n l k (i + 1) t := by
  simp only [completeFrom, h]

theorem completeFrom_end (n : Nat) (l : Machine.Launch) (i : Nat) (s : State) :
    (completeFrom n l 0 i s).launch n = none ∧ (completeFrom n l 0 i s).mem = s.mem := by
  simp only [completeFrom]
  split <;> exact ⟨dropLaunch_launch_same s n, rfl⟩

theorem launchCompletion_running (hl : s.launch n = some l) (he : l.ended = none) : launchCompletion n s = s := by
  simp [launchCompletion, hl, he]

theorem launchCompletion_torn {c : Byte} (hl : s.launch n = some l) (he : l.ended = some c) (hp : s.pasidState l.pasid ≠ .active) :
    launchCompletion n s = s.dropLaunch n := by
  simp [launchCompletion, hl, he, hp]

theorem launchCompletion_begins {c : Byte} (hl : s.launch n = some l) (he : l.ended = some c) (hp : s.pasidState l.pasid = .active)
    (hf : l.fault = none) (hs : l.starting = false) (h0 : l.step = 0) : launchCompletion n s = completeFrom n l 4 0 s := by
  simp [launchCompletion, hl, he, hp, hf, hs, h0]

/-- What the LFE writes of a launch that has ended, in its order: T_DONE and STATUS of the launch record where there is one, the
operator record's STATUS, and the addition. -/
theorem launchCompletion_writes {c : Byte} {u v w x : State} (hl : s.launch n = some l) (he : l.ended = some c)
    (hp : s.pasidState l.pasid = .active) (hf : l.fault = none) (hs : l.starting = false) (h0 : l.step = 0)
    (hrec : OpRec.lrec l.bytes = 0 ∧ v = s ∨ OpRec.lrec l.bytes ≠ 0
      ∧ lfeWrite s l.pasid (OpRec.lrec l.bytes + 32) (leBytes 8 s.ptime.toNat) = .ok u
      ∧ lfeWrite u l.pasid (OpRec.lrec l.bytes + 56) [if c = 0 then 2 else 3, 0, 0, 0] = .ok v)
    (hw : lfeWrite v l.pasid (l.record + 4) [if c = 0 then 2 else 3, 0, 0, 0] = .ok w)
    (hx : lfeAdd w l.pasid (OpRec.donebw l.bytes) (OpRec.doneadd l.bytes) = .ok x) :
    (launchCompletion n s).launch n = none ∧ (launchCompletion n s).mem = x.mem := by
  have hstatus : (if l.ended = some 0 then (2 : Byte) else 3) = if c = 0 then 2 else 3 := by simp [he]
  have hfirst : completeFrom n l 4 0 s = completeFrom n l 2 2 v := by
    rcases hrec with ⟨hnone, rfl⟩ | ⟨hsome, hu, hv⟩
    · have h0 : completionStep l 0 v = .ok v := if_pos hnone
      have h1 : completionStep l 1 v = .ok v := if_pos hnone
      rw [completeFrom_step h0, completeFrom_step h1]
    · have h0 : completionStep l 0 s = .ok u := (if_neg hsome).trans hu
      have h1 : completionStep l 1 u = .ok v := by
        simp only [completionStep, hstatus]
        exact (if_neg hsome).trans hv
      rw [completeFrom_step h0, completeFrom_step h1]
  have h2 : completionStep l 2 v = .ok w := by
    simp only [completionStep, hstatus]
    exact hw
  have h3 : completionStep l 3 w = .ok x := hx
  rw [launchCompletion_begins hl he hp hf hs h0, hfirst, completeFrom_step h2, completeFrom_step h3]
  exact completeFrom_end n l 4 x

end Completion

/-! ### A core's banks change (R92) -/

section Swap

variable {s : State} {k : Nat}

/-- Does bind record `b` of core `k` belong to its active operator? -/
def BoundHere (s : State) (k : Nat) (b : Machine.Bind) : Prop := ∃ g, s.region b.region = some g ∧ g.root = (s.core k).active.region

theorem workless_iff : s.workless k = true ↔ (s.core k).user.running = false ∧ (s.core k).parked = none ∧ (s.core k).enginesIdle = true
    ∧ ∀ b ∈ s.armed k, ¬ BoundHere s k b := by
  simp only [State.workless, Bool.and_eq_true, Bool.not_eq_true', Option.isNone_iff_eq_none, List.all_eq_true, and_assoc]
  refine and_congr_right fun _ => and_congr_right fun _ => and_congr_right fun _ => forall₂_congr fun b _ => ?_
  unfold BoundHere
  cases s.region b.region <;> simp

theorem shadowBankLoaded_loads (h : (s.core k).shadowState = .loading) :
    shadowBankLoaded k s = s.modCore k (fun c => { c with shadowState := .loaded }) := by
  simp [shadowBankLoaded, h]

theorem shadowBankLoaded_idle (h : (s.core k).shadowState ≠ .loading) : shadowBankLoaded k s = s := by
  simp [shadowBankLoaded, h]

theorem bankSwap_begins (hl : (s.core k).shadowState = .loaded) (hw : s.workless k = true) (hs : (s.core k).swapping = false) :
    bankSwap k s = s.modCore k (fun c => { c with swapping := true }) := by
  simp [bankSwap, hl, hw, hs]

theorem bankSwap_waits (h : (s.core k).shadowState ≠ .loaded ∨ s.workless k = false) : bankSwap k s = s := by
  rcases h with h | h <;> simp [bankSwap, h]

theorem bankSwapDone_swaps (hs : (s.core k).swapping = true) : ((bankSwapDone k s).core k).active = (s.core k).shadow
    ∧ ((bankSwapDone k s).core k).swapping = false ∧ ((bankSwapDone k s).core k).user = (s.core k).user := by
  simp only [bankSwapDone, hs, if_true]
  obtain ⟨hactive, hswapping, huser⟩ := (lfeBanks_banked (s.modCore k (fun c =>
    { c with active := c.shadow, shadow := BankImage.empty, shadowState := .empty, swapping := false }))).cores k
  rw [hactive, hswapping, huser, modCore_core, if_pos rfl]
  exact ⟨rfl, rfl, rfl⟩

theorem bankSwapDone_idle (h : (s.core k).swapping = false) : bankSwapDone k s = s := by
  simp [bankSwapDone, h]

/-- A change of one core leaves the others. -/
theorem modCore_only (s : State) (k : Nat) (f : Core → Core) : (s.modCore k f).core k = f (s.core k)
    ∧ ∀ j, j ≠ k → (s.modCore k f).core j = s.core j :=
  ⟨by rw [modCore_core, if_pos rfl], fun j hj => by rw [modCore_core, if_neg hj]⟩

end Swap

/-! ### The claims -/

theorem launchesRun : Claims.LaunchesRun := by
  refine ⟨fun s n l g hn hl hg => ?_, fun s n l hn hl => ?_, fun s k hk => ?_⟩
  · subst hn
    refine ⟨fun h0 hf he hge => ⟨fun u hr => ?_, fun u hr => ⟨_, rfl, launchWait_ready hl hg h0 hf he hge hr⟩⟩, fun h => ?_, fun h => ?_,
      fun h1 he hge hb => ⟨fun tiles ht => ?_, fun ht => ⟨_, congrArg Host.Outcome.next (launchGrant_asks hl hg h1 he hge hb ht), rfl, rfl,
        rfl⟩⟩, fun h => ⟨?_, ?_⟩⟩
    · exact congrArg Host.Outcome.next (launchWait_early hl hg h0 hf he hge hr)
    · exact congrArg Host.Outcome.next (launchWait_idle hl hg (.inl h))
    · exact congrArg Host.Outcome.next (launchGrant_idle hl hg (.inl h))
    · obtain ⟨h, m, hregion, htiles, hlaunch, hstage, hroot⟩ := grantTiles_grants s.inp.n l g tiles s
      obtain ⟨hlength, hfree⟩ := pickTiles_spec ht
      exact ⟨_, h, m, congrArg Host.Outcome.next (launchGrant_grants hl hg h1 he hge hb ht), hregion, htiles, hlength, hfree, hlaunch, hstage,
        hroot⟩
    · exact congrArg Host.Outcome.next (launchWait_idle hl hg (.inr h))
    · exact congrArg Host.Outcome.next (launchGrant_idle hl hg (.inr h))
  · subst hn
    refine ⟨fun he => congrArg Host.Outcome.next (launchCompletion_running hl he), fun c he => ⟨fun hp => ?_,
      fun hp hf hs h0 u v w x => ?_⟩⟩
    · exact ⟨_, congrArg Host.Outcome.next (launchCompletion_torn hl he hp), dropLaunch_launch_same _ _, rfl⟩
    · exact fun hrec hw hx => ⟨_, rfl, launchCompletion_writes hl he hp hf hs h0 hrec hw hx⟩
  · subst hk
    refine ⟨fun h => ⟨_, congrArg Host.Outcome.next (shadowBankLoaded_loads h), modCore_only s _ _⟩,
      fun h => congrArg Host.Outcome.next (shadowBankLoaded_idle h), fun hload hrun hpark hidle hbound hswap => ⟨_,
        congrArg Host.Outcome.next (bankSwap_begins hload (workless_iff.mpr ⟨hrun, hpark, hidle, hbound⟩) hswap), modCore_only s _ _⟩,
      fun h => congrArg Host.Outcome.next (bankSwap_waits ?_), fun h => ⟨_, rfl, bankSwapDone_swaps h⟩,
      fun h => congrArg Host.Outcome.next (bankSwapDone_idle h)⟩
    refine h.imp_right fun hwork => Bool.eq_false_iff.mpr fun hno => ?_
    obtain ⟨hrun, hpark, hidle, hbound⟩ := workless_iff.mp hno
    rcases hwork with h | h | h | ⟨b, hb, hmine⟩
    · rw [hrun] at h; cases h
    · exact h hpark
    · rw [hidle] at h; cases h
    · exact hbound b hb hmine

theorem lfeReached_none (s : State) (pasid : BitVec 20) (g : Word) : lfeReached s pasid 0 g = .ok (true, s) := rfl

theorem lfeAdd_none (s : State) (pasid : BitVec 20) (n : BitVec 64) : lfeAdd s pasid 0 n = .ok s := rfl

theorem recordsComplete : Claims.RecordsComplete := by
  refine ⟨fun s q b hq hw hread hc hf hk => ?_, fun s q hn hon hstop hheld hfault hw => ⟨fun hk hwait => ?_, fun w hk hmade => ?_⟩,
    fun s n l hn hl hfault => ⟨fun g hg hge h0 he hbw => ?_, fun c w he hp hs h0 hrec hbw hwr => ?_⟩⟩
  · obtain ⟨u, hr, hu⟩ := hread
    have hu := queue_congr hu q
    have hfree : OpRec.fence b = true → u.queueBusy q = false := fun h => by rw [hf] at h; cases h
    rcases hk with hk | hk
    · exact fetch_wait hq hr hw hu hc hfree hk
    · obtain ⟨t, ht, hheld, hbytes, hhead, -⟩ := fetch_signal hq hr hw hu hc hfree hk
      exact ⟨t, ht, hheld, hbytes, hhead⟩
  · subst hn
    obtain ⟨u, v, hr, hu, hv, hvq⟩ := hwait
    have hvq := queue_congr hvq s.inp.n
    obtain ⟨hhead, hdone, -⟩ := passRecord_done hvq (OpRec.irq (s.queue s.inp.n).bytes)
    exact ⟨_, congrArg Host.Outcome.next (waitRecord_done hon hstop hheld hfault hw hk hr (queue_congr hu _) hv hvq), hhead, hdone⟩
  · subst hn
    obtain ⟨key, cell, u, v, hc, hadd, hv, hwr, hwq⟩ := hmade
    have hwq := queue_congr hwq s.inp.n
    obtain ⟨hhead, hdone, hmem⟩ := passRecord_done hwq (OpRec.irq (s.queue s.inp.n).bytes)
    exact ⟨_, congrArg Host.Outcome.next (signalRecord_done hon hstop hheld hfault hw hk hc hadd (queue_congr hv _) hwr hwq),
      ⟨hhead, hdone⟩, hmem⟩
  · subst hn
    exact ⟨_, rfl, launchWait_ready hl hg h0 hfault he hge (by rw [hbw, lfeReached_none])⟩
  · subst hn
    exact ⟨_, rfl, launchCompletion_writes (u := s) hl he hp hfault hs h0 (.inl ⟨hrec, rfl⟩) hwr (by rw [hbw, lfeAdd_none])⟩

/-- Settles O56: each happening by the equation of its case, and what an access of the LFE leaves as it was. -/
theorem launches : Obligations.Launches := ⟨launchQueues, launchesRun, recordsComplete⟩

end Sys2Proof.Proofs.Launch

/-!
O58, what starts on a core (R91, R110 to R112, R121, R123, R183, R193, R200): tasks, continuations, images, the firmware and
lookup cores.
-/

namespace Sys2Proof.Proofs.Launch

open Sys2Proof Sys2Proof.Machine Sys2Proof.Safety Sys2Proof.Laws Sys2Proof.Proofs.Package Sys2Proof.Proofs.Links

/-! ### The first dispatch of a region (R95, R96, R125) -/

/-- The cores, and the continuations that wait in each region, are as they were. -/
def Started (s t : State) : Prop := t.cores = s.cores ∧ ∀ x, (t.life x).conts = (s.life x).conts

theorem Started.refl (s : State) : Started s s := ⟨rfl, fun _ => rfl⟩

theorem Started.trans {s t u : State} (h : Started s t) (h' : Started t u) : Started s u :=
  ⟨h'.1.trans h.1, fun x => (h'.2 x).trans (h.2 x)⟩

theorem Started.core {s t : State} (h : Started s t) (k : Nat) : t.core k = s.core k :=
  congrArg (fun m : Assoc Core => Assoc.get ({} : Core) m k) h.1

theorem Accessed.life {s t : State} (h : Accessed s t) (x : BitVec 12) : t.life x = s.life x :=
  congrArg (fun m : Assoc RegionLife => Assoc.get ({} : RegionLife) m x.toNat) h.keeps.2.2.2.1

theorem started_of_accessed {s t : State} (h : Accessed s t) : Started s t := ⟨h.keeps.1, fun x => congrArg RegionLife.conts (h.life x)⟩

theorem setLife_life (s : State) (r : BitVec 12) (l : RegionLife) (x : BitVec 12) :
    (s.setLife r l).life x = if x = r then l else s.life x := by
  unfold State.life State.setLife
  rw [Assoc.get_set]
  simp only [BitVec.toNat_inj]

theorem setLife_started (s : State) (r : BitVec 12) {l : RegionLife} (h : l.conts = (s.life r).conts) : Started s (s.setLife r l) := by
  refine ⟨rfl, fun x => ?_⟩
  rw [setLife_life]
  split
  next hx => rw [hx, h]
  · rfl

/-- A root is numbered in the order in which roots start. -/
theorem rootStarted_started (s : State) (r : BitVec 12) (n : Nat) (d : Dist) :
    Started s { s.setLife r { s.life r with started := n } with dist := d } :=
  setLife_started s r (l := { s.life r with started := n }) rfl

theorem setLaunch_started (s : State) (n : Nat) (l : Machine.Launch) : Started s (s.setLaunch n l) := ⟨rfl, fun _ => rfl⟩

theorem writeRcb_accessed (s : State) (r : BitVec 12) (off : Nat) (bs : List Byte) : Accessed s (s.writeRcb r off bs) := by
  unfold State.writeRcb
  split
  · exact unitStore_accessed s _ _ bs
  · exact .refl s

theorem modRegion_started (s : State) (r : BitVec 12) (f : Region → Region) : Started s (s.modRegion r f) := by
  unfold State.modRegion
  split <;> exact ⟨rfl, fun _ => rfl⟩

theorem setRegionState_started (s : State) (r : BitVec 12) (x : RegionState) : Started s (s.setRegionState r x) :=
  (modRegion_started s r _).trans (started_of_accessed (writeRcb_accessed _ r 4 _))

theorem lrecWrite_accessed {s t : State} {l : Machine.Launch} {off : Nat} {bs : List Byte} (h : lrecWrite l off bs s = .ok t) :
    Accessed s t := by
  unfold lrecWrite at h
  split at h
  · cases h; exact .refl s
  · exact lfeWrite_accessed h

theorem lrecWrite_stops {s : State} {l : Machine.Launch} {off : Nat} {bs : List Byte} {x : LfeStop}
    (h : lrecWrite l off bs s = .error x) : Accessed s (stopState s x) := by
  unfold lrecWrite at h
  split at h
  · cases h
  · exact lfeWrite_stops h

theorem startStep_accessed {s t : State} {l : Machine.Launch} {i : Nat} (h : startStep l i s = .ok t) : Accessed s t := by
  unfold startStep at h
  split at h
  · exact lrecWrite_accessed h
  · exact lrecWrite_accessed h
  · exact lfeWrite_accessed h

theorem startStep_stops {s : State} {l : Machine.Launch} {i : Nat} {x : LfeStop} (h : startStep l i s = .error x) :
    Accessed s (stopState s x) := by
  unfold startStep at h
  split at h
  · exact lrecWrite_stops h
  · exact lrecWrite_stops h
  · exact lfeWrite_stops h

theorem startFrom_started (n : Nat) (l : Machine.Launch) (k i : Nat) (s : State) : Started s (startFrom n l k i s) := by
  induction k generalizing i s with
  | zero => exact setLaunch_started s n _
  | succ k ih =>
    unfold startFrom
    split
    next t h => exact (started_of_accessed (startStep_accessed h)).trans (ih (i + 1) t)
    next va t h => exact (started_of_accessed (startStep_stops h)).trans (setLaunch_started t n _)
    · exact ih (i + 1) s

theorem begun_started (s : State) (r : BitVec 12) : Started s (s.begun r) := by
  unfold State.begun
  split
  · exact .refl s
  next g hg =>
    have hstate : Started s (if g.state == .queued then s.setRegionState r .running else s) := by
      split
      · exact setRegionState_started s r _
      · exact .refl s
    dsimp only
    generalize (if g.state == .queued then s.setRegionState r .running else s) = u at hstate ⊢
    split
    · exact hstate
    · split
      · exact hstate
      · split
        · exact hstate
        · exact (hstate.trans (rootStarted_started u g.root _ _)).trans (startFrom_started _ _ 3 0 _)

/-! ### A task starts on a core (R110, R183, R193) -/

/-- A task starts: both contexts of its core take the region's identity, its engines and its registers are as dispatch sets them, and
no other core changes. -/
theorem startTask_core (s : State) (k : Nat) (r : BitVec 12) (g : Region) (fresh : Bool) (pc : Addr) (d : Assoc Dom) (index : Option Word) :
    let c := s.core k
    let t := startTask s k r g fresh pc d index
    (t.core k).user = c.user.dispatched pc d (bankDescs c.active g) c.active.events (identOf s r g) ∧ (t.core k).fw.id = identOf s r g
      ∧ (t.core k).mat = c.mat.dispatched (if fresh then c.active.mstart else 0)
      ∧ (t.core k).cpy = c.cpy.dispatched (if fresh then c.active.cstart else 0) ∧ (t.core k).index = index
      ∧ ∀ j, j ≠ k → t.core j = s.core j := by
  have hcore := (begun_started s r).core
  unfold startTask
  dsimp only
  obtain ⟨hsame, hother⟩ := modCore_only (s.begun r) k (fun c => { c with
      user := c.user.dispatched pc d (bankDescs c.active g) c.active.events (identOf s r g), fw := { c.fw with id := identOf s r g }
      mat := c.mat.dispatched (if fresh then c.active.mstart else 0)
      cpy := c.cpy.dispatched (if fresh then c.active.cstart else 0), quill := c.quill.dispatched
      acc0 := List.replicate 4096 0, acc1 := List.replicate 4096 0, index := index, engHeld := false })
  rw [hsame, hcore]
  exact ⟨rfl, rfl, rfl, rfl, rfl, fun j hj => (hother j hj).trans (hcore j)⟩

theorem startTask_conts (s : State) (k : Nat) (r : BitVec 12) (g : Region) (fresh : Bool) (pc : Addr) (d : Assoc Dom) (index : Option Word)
    (x : BitVec 12) : ((startTask s k r g fresh pc d index).life x).conts = (s.life x).conts := (begun_started s r).2 x

/-! ### The armed bind record (R121) -/

/-- A core may take a task: its user context is free, no bank is being swapped, it runs, and its quill is empty. -/
def CoreFree (s : State) (k : Nat) : Prop := (s.core k).user.running = false ∧ (s.core k).swapping = false ∧ s.coreGated k = false
  ∧ s.tileUp (k / 4) = true ∧ (s.core k).quill.fifo = [] ∧ (s.core k).quill.part = []

theorem coreFree_iff (s : State) (k : Nat) : ((s.core k).user.running || (s.core k).swapping || s.coreGated k || !s.tileUp (k / 4)
    || (s.core k).quill.fifo != [] || (s.core k).quill.part != []) = false ↔ CoreFree s k := by
  simp only [CoreFree, Bool.or_eq_false_iff, Bool.not_eq_false', bne_eq_false_iff_eq, and_assoc]

theorem taskDispatch_busy {s : State} {k : Nat} (h : ¬ CoreFree s k) : taskDispatch k s = s := by
  have hbusy := Bool.eq_true_of_not_eq_false (mt (coreFree_iff s k).mp h)
  simp only [taskDispatch, hbusy, if_true]

theorem taskDispatch_none {s : State} {k : Nat} (h : ∀ b, (s.armed k).head? = some b → s.canStart k b = false) : taskDispatch k s = s := by
  have hnone : (s.armed k).head?.filter (s.canStart k) = none := by
    rw [Option.filter_eq_none_iff]
    exact fun b hb => by simp [h b hb]
  simp only [taskDispatch, hnone, ite_self]

section Dispatch

variable {s : State} {k : Nat} {b : Machine.Bind} {g : Region} (hfree : CoreFree s k) (hb : (s.armed k).head? = some b)
  (hs : s.canStart k b = true) (hg : s.region b.region = some g)
include hfree hb hs hg

theorem taskDispatch_task (hk : b.kind = 1) :
    taskDispatch k s = startInstance (s.setByte (bindCell k b.slot) 0) k b.region g b.index := by
  have hg' : (s.setByte (bindCell k b.slot) 0).region b.region = some g := hg
  simp only [taskDispatch, (coreFree_iff s k).mpr hfree, hb, Option.filter, hs, Bool.false_eq_true, if_false, if_true, hg', hk]

theorem taskDispatch_cont (hk : b.kind = 2) :
    taskDispatch k s = startCont (s.setByte (bindCell k b.slot) 0) k b.region g b.addr := by
  have hg' : (s.setByte (bindCell k b.slot) 0).region b.region = some g := hg
  simp only [taskDispatch, (coreFree_iff s k).mpr hfree, hb, Option.filter, hs, Bool.false_eq_true, if_false, if_true, hg', hk]

theorem taskDispatch_image (hk : b.kind = 3) :
    taskDispatch k s = startImage (s.setByte (bindCell k b.slot) 0) k b.region g b.addr := by
  have hg' : (s.setByte (bindCell k b.slot) 0).region b.region = some g := hg
  simp only [taskDispatch, (coreFree_iff s k).mpr hfree, hb, Option.filter, hs, Bool.false_eq_true, if_false, if_true, hg', hk]

end Dispatch

/-! #### A task, a continuation, an image -/

/-- A task of region `r` has begun on core `k`, and no other core has changed. -/
def Begins (s t : State) (k : Nat) (r : BitVec 12) (g : Region) : Prop :=
  (t.core k).user.running = true ∧ (t.core k).user.id.region = r ∧ (t.core k).user.id.pasid = g.pasid ∧ (t.core k).user.pend = []
    ∧ (t.core k).fw.id.region = r ∧ (t.core k).fw.id.group = (t.core k).user.id.group ∧ ∀ j, j ≠ k → t.core j = s.core j

theorem startTask_begins (s : State) (k : Nat) (r : BitVec 12) (g : Region) (fresh : Bool) (pc : Addr) (d : Assoc Dom) (index : Option Word) :
    Begins s (startTask s k r g fresh pc d index) k r g := by
  obtain ⟨huser, hfw, -, -, -, hother⟩ := startTask_core s k r g fresh pc d index
  unfold Begins
  rw [huser, hfw]
  exact ⟨rfl, rfl, rfl, rfl, rfl, rfl, hother⟩

/-- An engine starts at dispatch where it has a start address. -/
theorem dispatched_word (e : Engine) (start : Addr) : (e.dispatched start).word = start
    ∧ ((e.dispatched start).state = .running ↔ start ≠ 0) := by
  refine ⟨rfl, ?_⟩
  by_cases h : start = 0 <;> simp [Engine.dispatched, h]

theorem dispatched_idle (e : Engine) : (e.dispatched 0).state = .idle := rfl

/-- The domain registers that a task begins with (R110). -/
theorem dom_taskRegisters {r : Regs} {i f c n : Dom} (h : r.d = [(1, i), (2, f), (3, c), (4, n)]) : r.dom 1 = i ∧ r.dom 2 = f ∧ r.dom 3 = c
    ∧ r.dom 4 = n ∧ ∀ x : DReg, 4 < x.toNat → r.dom x = Dom.single 0 := by
  have hdom (x : DReg) : r.dom x = if x = 0 then Dom.single 0 else Assoc.get (Dom.single 0) [(1, i), (2, f), (3, c), (4, n)] x.toNat := by
    rw [Regs.dom, h]
  refine ⟨hdom 1, hdom 2, hdom 3, hdom 4, fun x hx => ?_⟩
  have hx0 : x ≠ 0 := by
    rintro rfl
    exact absurd hx (by decide)
  rw [hdom, if_neg hx0, Assoc.get, if_neg (by omega), Assoc.get, if_neg (by omega), Assoc.get, if_neg (by omega), Assoc.get,
    if_neg (by omega), Assoc.get]

/-- A continuation leaves the pool. -/
theorem startCont_conts (s : State) (k : Nat) (r : BitVec 12) (g : Region) (a : BitVec 52) :
    ∀ x ∈ ((startCont s k r g a).life r).conts, x.1 ≠ a := by
  intro x hx
  rw [startCont, startTask_conts, (accessed_of_memoryOnly (setByteKey_memoryOnly _ _ _ _)).life, State.modLife, setLife_life, if_pos rfl] at hx
  simpa using (List.mem_filter.mp hx).2

/-- A continuation begins with idle engines (R183). -/
theorem startCont_begins (s : State) (k : Nat) (r : BitVec 12) (g : Region) (a : BitVec 52) : Begins s (startCont s k r g a) k r g
    ∧ ((startCont s k r g a).core k).mat.state = .idle ∧ ((startCont s k r g a).core k).cpy.state = .idle := by
  unfold startCont
  dsimp only
  generalize hu : State.setByteKey _ _ _ _ = u
  have hcore (j : Nat) : u.core j = s.core j := by
    rw [← hu]
    exact (started_of_accessed (accessed_of_memoryOnly (setByteKey_memoryOnly _ _ _ _))).core j
  obtain ⟨-, -, hmat, hcpy, -, -⟩ := startTask_core u k r g false (bitsAt 48 (s.bytesKey (physKey a) (physCell a) 384) 0 8) _ _
  refine ⟨?_, (congrArg Engine.state hmat).trans (dispatched_idle _), (congrArg Engine.state hcpy).trans (dispatched_idle _)⟩
  obtain ⟨hrun, hregion, hpasid, hpend, hfw, hgroup, hother⟩ := startTask_begins u k r g false
    (bitsAt 48 (s.bytesKey (physKey a) (physCell a) 384) 0 8) _ _
  exact ⟨hrun, hregion, hpasid, hpend, hfw, hgroup, fun j hj => (hother j hj).trans (hcore j)⟩

theorem imageAt_parked {s : State} {k : Nat} {a : BitVec 52} {p : Kept} (hp : (s.core k).parked = some p) (ha : p.addr = a) (r : BitVec 12)
    (g : Region) : imageAt s k r g a = p := by
  simp [imageAt, hp, ha, Option.filter]

theorem startImage_restores {s t : State} {k : Nat} {r : BitVec 12} {g : Region} {a : BitVec 52}
    (h : restoreCore s (imageAt s k r g a) = some t) :
    startImage s k r g a = t.modCore k (fun c => { c with parked := c.parked.filter (fun q => q.addr != a) }) := by
  simp only [startImage, h]

theorem startImage_faults {s : State} {k : Nat} {r : BitVec 12} {g : Region} {a : BitVec 52} (h : restoreCore s (imageAt s k r g a) = none) :
    startImage s k r g a = s.push .regionFault { n := r.toNat, m := k, value := 0xFF, addr := some (imageAt s k r g a).ctx.pc, who := .user k } := by
  simp only [startImage, h]

end Sys2Proof.Proofs.Launch

/-!
O58, continuations and grains (R113, R117, R122): eligibility, levels, and the grains a free core asks for.
-/

namespace Sys2Proof.Proofs.Launch

open Sys2Proof Sys2Proof.Machine Sys2Proof.Safety Sys2Proof.Laws Sys2Proof.Proofs.Package Sys2Proof.Proofs.Links

/-! ### Continuations (R113, R122) -/

section Continuation

variable {s : State} {r : BitVec 12} {a : BitVec 52} {g : Region} (hg : s.region r = some g)

/-- The record at `a` waits in region `r`. -/
def Waiting (s : State) (r : BitVec 12) (a : BitVec 52) : Prop := (s.life r).conts.any (fun c => c.1 == a) = true

/-- The 384 bytes of the continuation record at `a`. -/
def contRecord (s : State) (a : BitVec 52) : List Byte := s.bytesKey (physKey a) (physCell a) 384

theorem contEligible_pending {b : List Byte} (h : field b 11 1 ≠ 0) : contEligible s g b = (false, s) := by
  simp only [contEligible, bne_iff_ne.mpr h, if_true]

theorem contEligible_noWaits {b : List Byte} (hp : field b 11 1 = 0) (hw : field b 12 1 = 0) : contEligible s g b = (true, s) := by
  simp [contEligible, hp, hw]

include hg

theorem continuationEligible_idle (h : ¬ Waiting s r a ∨ field (contRecord s a) 16 8 ≠ 0) : continuationEligible r a s = s := by
  have hskip : (!(s.life r).conts.any (fun c => c.1 == a) || field (contRecord s a) 16 8 != 0) = true := by
    rcases h with h | h
    · rw [Bool.eq_false_of_not_eq_true h]; rfl
    · rw [bne_iff_ne.mpr h, Bool.or_true]
  simp only [continuationEligible, hg]
  exact if_pos hskip

theorem continuationEligible_reads (ht : Waiting s r a) (hr : field (contRecord s a) 16 8 = 0) {ok : Bool} {u : State}
    (he : contEligible s g (contRecord s a) = (ok, u)) : continuationEligible r a s =
      if !ok then u else u.setBytesKey (physKey a) (physCell a + 16) (leBytes 8 u.mesh.count.toNat) := by
  have hgo : (!(s.life r).conts.any (fun c => c.1 == a) || field (contRecord s a) 16 8 != 0) = false := by
    rw [ht, hr]; rfl
  simp only [continuationEligible, hg]
  rw [if_neg (by rw [← contRecord, hgo]; decide), ← contRecord, he]

/-- When a record's level is due to rise: it is READY, below level 15, and has waited 2^20 cycles for each level above its PRIO. -/
def LevelDue (s : State) (a : BitVec 52) (g : Region) : Prop :=
  field (contRecord s a) 16 8 ≠ 0 ∧ field (contRecord s a) 13 1 % 16 < 15
    ∧ field (contRecord s a) 13 1 % 16 < g.prio.toNat + (s.mesh.count.toNat - field (contRecord s a) 16 8) / 2 ^ 20

theorem levelPromotion_climbs (ht : Waiting s r a) (hd : LevelDue s a g) : levelPromotion r a s =
    s.setByteKey (physKey a) (physCell a + 13) (BitVec.ofNat 8 (field (contRecord s a) 13 1 % 16 + 1)) := by
  obtain ⟨hready, h15, hdue⟩ := hd
  simp only [levelPromotion, hg]
  refine if_neg ?_
  simp only [Bool.or_eq_true, decide_eq_true_eq, Bool.not_eq_true', not_or]
  exact ⟨⟨⟨by rw [ht]; decide, hready⟩, Nat.not_le.mpr h15⟩, Nat.not_le.mpr hdue⟩

theorem levelPromotion_idle (h : ¬ Waiting s r a ∨ ¬ LevelDue s a g) : levelPromotion r a s = s := by
  simp only [levelPromotion, hg]
  refine if_pos ?_
  simp only [Bool.or_eq_true, decide_eq_true_eq, Bool.not_eq_true']
  by_cases ht : Waiting s r a
  · have hnot := h.resolve_left (not_not.mpr ht)
    unfold LevelDue at hnot
    simp only [not_and_or, not_not, Nat.not_lt] at hnot
    rcases hnot with h | h | h
    · exact .inl (.inl (.inr h))
    · exact .inl (.inr h)
    · exact .inr h
  · exact .inl (.inl (.inl (Bool.eq_false_of_not_eq_true ht)))

end Continuation

/-! ### Bytes of two states with the same memory -/

theorem clearPoison_memory (s : State) (a : Nat) : (clearPoison s a).mem = s.mem ∧ (clearPoison s a).unitKey = s.unitKey := by
  unfold clearPoison
  split <;> exact ⟨rfl, rfl⟩

section SameMemory

variable {s t : State} (hm : t.mem = s.mem) (hk : t.unitKey = s.unitKey)
include hm

theorem byte_congr (a : Nat) : t.byte a = s.byte a := congrArg (Memory.read · a) hm

theorem unitData_congr (u : Nat) : t.unitData u = s.unitData u := by
  unfold State.unitData
  simp only [byte_congr hm]

theorem putBytes_mem_congr (at_ : Nat → Nat) (v : Nat → Byte) (l : List Nat) : (putBytes at_ v l t).mem = (putBytes at_ v l s).mem := by
  induction l generalizing s t with
  | nil => exact hm
  | cons i rest ih => exact ih (by rw [setByte_mem, setByte_mem, hm])

include hk

theorem bytesKey_congr (key : BitVec 8) (n a : Nat) : t.bytesKey key a n = s.bytesKey key a n := by
  have hbyte (a : Nat) : t.byteKey key a = s.byteKey key a := by
    unfold State.byteKey
    rw [hk, byte_congr hm, unitData_congr hm]
  induction n generalizing a with
  | zero => rfl
  | succ n ih => rw [State.bytesKey, State.bytesKey, hbyte, ih]

theorem rekey_congr (key : BitVec 8) (u : Nat) : (t.rekey key u).mem = (s.rekey key u).mem ∧ (t.rekey key u).unitKey = (s.rekey key u).unitKey := by
  rw [rekey_eq, rekey_eq, hk, unitData_congr hm]
  split
  · exact ⟨hm, hk⟩
  · exact ⟨putBytes_mem_congr hm _ _ _, rfl⟩

theorem setByteKey_congr (key : BitVec 8) (a : Nat) (v : Byte) : (t.setByteKey key a v).mem = (s.setByteKey key a v).mem
    ∧ (t.setByteKey key a v).unitKey = (s.setByteKey key a v).unitKey := by
  have hkeyed : (if keyed a then t.rekey key (a / 64) else t).mem = (if keyed a then s.rekey key (a / 64) else s).mem
      ∧ (if keyed a then t.rekey key (a / 64) else t).unitKey = (if keyed a then s.rekey key (a / 64) else s).unitKey := by
    split
    · exact rekey_congr hm hk key _
    · exact ⟨hm, hk⟩
  simp only [setByteKey_eq, clearPoison_memory, setByte_mem, hkeyed.1, true_and]
  exact hkeyed.2

theorem setBytesKey_congr (key : BitVec 8) (vs : List Byte) (a : Nat) : (t.setBytesKey key a vs).mem = (s.setBytesKey key a vs).mem
    ∧ (t.setBytesKey key a vs).unitKey = (s.setBytesKey key a vs).unitKey := by
  induction vs generalizing s t a with
  | nil => exact ⟨hm, hk⟩
  | cons v vs ih => exact ih (setByteKey_congr hm hk key a v).1 (setByteKey_congr hm hk key a v).2 (a + 1)

theorem dqHeld_congr (cell : Nat) : t.dqHeld cell = s.dqHeld cell := by
  unfold State.dqHeld State.dqBottom State.dqTop State.bytes
  rw [bytesKey_congr hm hk, bytesKey_congr hm hk]

/-- A push gives the same memory in both. -/
theorem dqPush_congr {cell : Nat} (h : s.dqHeld cell < 128) (item : List Byte) :
    ∃ u v, s.dqPush cell item = some u ∧ t.dqPush cell item = some v ∧ v.mem = u.mem := by
  have hbottom : t.dqBottom cell = s.dqBottom cell := by
    unfold State.dqBottom State.bytes
    rw [bytesKey_congr hm hk]
  unfold State.dqPush
  rw [dqHeld_congr hm hk, if_neg (Nat.not_le.mpr h), if_neg (Nat.not_le.mpr h), hbottom]
  obtain ⟨hm', hk'⟩ := setBytesKey_congr hm hk 0 item (State.dqItem cell (s.dqBottom cell))
  exact ⟨_, _, rfl, rfl, (setBytesKey_congr hm' hk' 0 _ _).1⟩

end SameMemory

/-! ### Grains (R117, R118) -/

/-- A grain of region `r` waits at the distributor of core `k`'s die. -/
def PendingGrain (s : State) (k : Nat) (r : BitVec 12) (x : Grain) : Prop :=
  x ∈ s.dist.grains ∧ x.region = r ∧ x.die.toNat = tileDie (k / 4) ∧ x.state = 0

/-- The grains that wait there. -/
def pendingGrains (s : State) (k : Nat) (r : BitVec 12) : List Grain :=
  s.dist.grains.filter (fun x => x.region == r && x.die.toNat == tileDie (k / 4) && x.state == 0)

theorem mem_pendingGrains {s : State} {k : Nat} {r : BitVec 12} {x : Grain} : x ∈ pendingGrains s k r ↔ PendingGrain s k r x := by
  simp only [pendingGrains, PendingGrain, List.mem_filter, Bool.and_eq_true, beq_iff_eq, and_assoc]

/-- The lower of a grain found so far and the next one. -/
def lowerGrain (m : Option Grain) (x : Grain) : Option Grain :=
  match m with
  | some y => if x.first.toNat < y.first.toNat then some x else m
  | none => some x

theorem foldl_lowerGrain (l : List Grain) (m : Grain) : ∃ x, l.foldl lowerGrain (some m) = some x ∧ (x = m ∨ x ∈ l)
    ∧ x.first.toNat ≤ m.first.toNat ∧ ∀ y ∈ l, x.first.toNat ≤ y.first.toNat := by
  induction l generalizing m with
  | nil => exact ⟨m, rfl, .inl rfl, Nat.le_refl _, fun y hy => by cases hy⟩
  | cons y rest ih =>
    by_cases hlt : y.first.toNat < m.first.toNat
    · obtain ⟨x, hx, hin, hle, hall⟩ := ih y
      refine ⟨x, by rw [List.foldl_cons, lowerGrain, if_pos hlt, hx], .inr (List.mem_cons.mpr hin), by omega, ?_⟩
      exact List.forall_mem_cons.mpr ⟨hle, hall⟩
    · obtain ⟨x, hx, hin, hle, hall⟩ := ih m
      refine ⟨x, by rw [List.foldl_cons, lowerGrain, if_neg hlt, hx], hin.imp_right (List.mem_cons_of_mem y), hle, ?_⟩
      exact List.forall_mem_cons.mpr ⟨by omega, hall⟩

/-- The lowest grain that waits, if one waits. -/
def lowGrain (s : State) (k : Nat) (r : BitVec 12) : Option Grain := (pendingGrains s k r).foldl lowerGrain none

theorem lowGrain_none {s : State} {k : Nat} {r : BitVec 12} (h : ∀ x, ¬ PendingGrain s k r x) : lowGrain s k r = none := by
  have hnil : pendingGrains s k r = [] := List.eq_nil_iff_forall_not_mem.mpr fun x hx => h x (mem_pendingGrains.mp hx)
  rw [lowGrain, hnil]
  rfl

theorem lowGrain_spec {s : State} {k : Nat} {r : BitVec 12} (h : ∃ x, PendingGrain s k r x) :
    ∃ x, lowGrain s k r = some x ∧ PendingGrain s k r x ∧ ∀ y, PendingGrain s k r y → x.first.toNat ≤ y.first.toNat := by
  simp only [← mem_pendingGrains, lowGrain] at h ⊢
  cases hl : pendingGrains s k r with
  | nil => simp [hl] at h
  | cons m rest =>
    obtain ⟨x, hx, hin, hle, hall⟩ := foldl_lowerGrain rest m
    exact ⟨x, hx, List.mem_cons.mpr hin, List.forall_mem_cons.mpr ⟨hle, hall⟩⟩

/-- A core may have a grain of region `r`. -/
def MayHaveGrain (s : State) (k : Nat) (r : BitVec 12) (g : Region) : Prop :=
  k ∈ s.usableCores r ∧ s.seeksGrain k r = true ∧ g.state ≠ .preempted ∧ g.ending = none

/-- A core that runs a task, or has one bound to it, asks for no grain. -/
theorem not_mayHaveGrain {s : State} {k : Nat} {r : BitVec 12} {g : Region} (h : (s.core k).user.running = true ∨ s.armed k ≠ []) :
    ¬ MayHaveGrain s k r g := by
  rintro ⟨-, hseeks, -, -⟩
  simp only [State.seeksGrain, Bool.and_eq_true, Bool.not_eq_true', beq_iff_eq] at hseeks
  obtain ⟨⟨⟨hrun, harmed⟩, -⟩, -⟩ := hseeks
  rcases h with h | h
  · rw [hrun] at h; cases h
  · exact h harmed

section Grains

variable {s : State} {k : Nat} {r : BitVec 12} {g : Region} {cell : Nat} (hg : s.region r = some g) (hc : s.dequeCell r k = some cell)

theorem setGrain_grains (s : State) (x : Grain) (st : BitVec 2) :
    (s.setGrain x st).dist.grains = s.dist.grains.map (fun y => if y = x then { y with state := st } else y) := by
  simp only [← beq_iff_eq (b := x)]
  rfl

include hc

theorem dealOne_full (hfull : 128 ≤ s.dqHeld cell) (x : Grain) : dealOne r k s x = s := by
  have hfull' : 128 ≤ (s.setGrain x 1).dqHeld cell := by rwa [dqHeld_congr (t := s.setGrain x 1) (s := s) rfl rfl]
  simp only [dealOne, hc, Option.bind_some, Mesh.dqPush_full hfull']

/-- A grain that is dealt is pushed as a range, and is DEALT. -/
theorem dealOne_deals (hroom : s.dqHeld cell < 128) (x : Grain) :
    ∃ u, s.dqPush cell (rangeItem x.first.toNat x.count.toNat) = some u ∧ (dealOne r k s x).mem = u.mem
      ∧ (dealOne r k s x).dist.grains = s.dist.grains.map (fun y => if y = x then { y with state := 1 } else y) := by
  obtain ⟨u, v, hu, hv, hmem⟩ := dqPush_congr (s := s) (t := s.setGrain x 1) rfl rfl hroom (rangeItem x.first.toNat x.count.toNat)
  have hdist : v.dist = (s.setGrain x 1).dist := (accessed_of_memoryOnly (Mesh.dqPush_memoryOnly hv)).keeps.2.2.2.2.1
  refine ⟨u, hu, ?_⟩
  simp only [dealOne, hc, Option.bind_some, hv]
  exact ⟨hmem, by rw [hdist, setGrain_grains]⟩

include hg

theorem grainRequest_none (h : lowGrain s k r = none) : grainRequest k r s = s := by
  simp only [grainRequest, hg, hc]
  change (match lowGrain s k r with | none => s | some x => _) = s
  rw [h]

theorem grainRequest_of_low {x : Grain} (hx : lowGrain s k r = some x) : grainRequest k r s =
    if !(s.usableCores r).contains k || !s.seeksGrain k r || g.state == .preempted || g.ending.isSome then s else dealOne r k s x := by
  simp only [grainRequest, hg, hc]
  change (match lowGrain s k r with | none => s | some x => _) = _
  rw [hx]

omit hg hc in
theorem mayHaveGrain_iff : (!(s.usableCores r).contains k || !s.seeksGrain k r || g.state == .preempted || g.ending.isSome) = false
    ↔ MayHaveGrain s k r g := by
  simp [MayHaveGrain, and_assoc]

theorem grainRequest_barred (h : ¬ MayHaveGrain s k r g) : grainRequest k r s = s := by
  cases hlow : lowGrain s k r with
  | none => exact grainRequest_none hg hc hlow
  | some x => rw [grainRequest_of_low hg hc hlow, if_pos (Bool.eq_true_of_not_eq_false (mt mayHaveGrain_iff.mp h))]

theorem grainRequest_full (hfull : 128 ≤ s.dqHeld cell) : grainRequest k r s = s := by
  cases hlow : lowGrain s k r with
  | none => exact grainRequest_none hg hc hlow
  | some x => rw [grainRequest_of_low hg hc hlow, dealOne_full hc hfull, ite_self]

theorem grainRequest_deals {x : Grain} (hx : lowGrain s k r = some x) (h : MayHaveGrain s k r g) : grainRequest k r s = dealOne r k s x := by
  rw [grainRequest_of_low hg hc hx, if_neg (by rw [mayHaveGrain_iff.mpr h]; decide)]

end Grains

end Sys2Proof.Proofs.Launch

/-!
O58, the firmware's restart and lookup cores (R193, R200), and what is claimed of what starts on a core.
-/

namespace Sys2Proof.Proofs.Launch

open Sys2Proof Sys2Proof.Machine Sys2Proof.Safety Sys2Proof.Laws Sys2Proof.Proofs.Package Sys2Proof.Proofs.Links

/-! ### Firmware and lookup cores (R193, R200) -/

theorem firmwareRestart_running {s : State} {k : Nat} (h : (s.core k).fw.running = true) : firmwareRestart k s = s := by
  simp only [firmwareRestart, h, if_true]

theorem firmwareRestart_stopped {s : State} {k : Nat} (h : (s.core k).fw.running = false) : firmwareRestart k s =
    s.modCore k (fun c => { c with fw := { pc := Config.firmwareEntry, running := true, id := c.fw.id } }) := by
  simp only [firmwareRestart, h, Bool.false_eq_true, if_false]

theorem setLife_lookup (s : State) (r : BitVec 12) (l : RegionLife) (n : Nat) : (s.setLife r l).lookup n = s.lookup n := rfl

section Lookup

variable {s : State} {n : Nat} {r : BitVec 12} {g : Region} (hg : s.region r = some g)
include hg

theorem lookupBank_refused (bank : BankImage)
    (h : (s.lookup n).busy = true ∨ g.state ≠ .running ∨ g.ending ≠ none ∨ s.stackUp (n / 8) = false) :
    lookupBank n r bank s = s := by
  have hskip : ((s.lookup n).busy || g.state != .running || g.ending.isSome || !s.stackUp (n / 8)) = true := by
    rcases h with h | h | h | h
    · simp [h]
    · simp [h]
    · simp [Option.isSome_iff_ne_none.mpr h]
    · simp [h]
  simp only [lookupBank, hg, hskip, if_true]

/-- A lookup core that is bound begins its task, and the region's LIVE counts it. -/
theorem lookupBank_binds (bank : BankImage) (hbusy : (s.lookup n).busy = false) (hrun : g.state = .running) (hend : g.ending = none)
    (hup : s.stackUp (n / 8) = true) : ((lookupBank n r bank s).lookup n).busy = true
      ∧ ((lookupBank n r bank s).lookup n).ctx.running = true ∧ ((lookupBank n r bank s).lookup n).ctx.pc = bank.entry
      ∧ ((lookupBank n r bank s).lookup n).ctx.id.region = r ∧ ((lookupBank n r bank s).life r).live = (s.life r).live + 1 := by
  have hgo : ((s.lookup n).busy || g.state != .running || g.ending.isSome || !s.stackUp (n / 8)) = false := by
    simp [hbusy, hrun, hend, hup]
  simp only [lookupBank, hg, hgo, Bool.false_eq_true, if_false, State.setLive]
  have hkept (t : State) (bs : List Byte) : (t.writeRcb r 80 bs).lookup n = t.lookup n :=
    congrArg (fun m : Assoc Lookup => Assoc.get ({} : Lookup) m n) (writeRcb_accessed t r 80 bs).keeps.2.1
  rw [hkept, (writeRcb_accessed _ r 80 _).life, setLife_life, if_pos rfl, setLife_lookup, setLookup_lookup, if_pos rfl]
  exact ⟨rfl, rfl, rfl, rfl, rfl⟩

end Lookup

/-! ### The claim -/

theorem extract_setWidth (a : BitVec 52) : (a.setWidth 64).extractLsb' 0 52 = a := by
  ext i hi
  simp only [BitVec.getElem_extractLsb', BitVec.getLsbD_setWidth, Nat.zero_add]
  rw [decide_eq_true (by omega), Bool.true_and, BitVec.getLsbD_eq_getElem hi]

/-- What a bind record starts, by its kind. -/
theorem armed_starts (s : State) (k : Nat) (hn : s.inp.n = k) (b : Machine.Bind) (g : Region) (hfree : CoreFree s k)
    (hb : (s.armed k).head? = some b) (hs : s.canStart k b = true) (hg : s.region b.region = some g) :
    let c := s.core k
    (b.kind = 1 → ∃ t, exec .taskDispatch s = .next t ∧ Begins s t k b.region g ∧ (t.core k).user.pc = g.entry
      ∧ (t.core k).mat.word = c.active.mstart ∧ ((t.core k).mat.state = .running ↔ c.active.mstart ≠ 0)
      ∧ (t.core k).cpy.word = c.active.cstart ∧ ((t.core k).cpy.state = .running ↔ c.active.cstart ≠ 0)
      ∧ (t.core k).index = some b.index
      ∧ (t.core k).user.regs.dom 1 = Dom.single b.index ∧ (t.core k).user.regs.dom 2 = Dom.single g.first
      ∧ (t.core k).user.regs.dom 3 = Dom.single g.count
      ∧ (t.core k).user.regs.dom 4 = Dom.single (BitVec.ofNat 32 (g.rankOf k))
      ∧ ∀ r : DReg, 4 < r.toNat → (t.core k).user.regs.dom r = Dom.single 0)
    ∧ (b.kind = 2 → ∃ t, exec .taskDispatch s = .next t ∧ Begins s t k b.region g ∧ (t.core k).mat.state = .idle
        ∧ (t.core k).cpy.state = .idle ∧ ∀ x ∈ (t.life b.region).conts, x.1 ≠ b.addr)
    ∧ (b.kind = 3 → let u := s.setByte (bindCell k b.slot) 0
        let p := imageAt u k b.region g b.addr
        (∀ q, c.parked = some q → q.addr = b.addr → p = q)
        ∧ (∀ t, restoreCore u p = some t → exec .taskDispatch s =
            .next (t.modCore k (fun c => { c with parked := c.parked.filter (fun q => q.addr != b.addr) })))
        ∧ (restoreCore u p = none → exec .taskDispatch s =
            .next (u.push .regionFault { n := b.region.toNat, m := k, value := 0xFF, addr := some p.ctx.pc, who := .user k }))) := by
  subst hn
  refine ⟨fun hk => ?task, fun hk => ?cont, fun hk => ?image⟩
  case task =>
    let u := s.setByte (bindCell s.inp.n b.slot) 0
    let d : Assoc Dom := [(1, .single b.index), (2, .single g.first), (3, .single g.count), (4, .single (BitVec.ofNat 32 (g.rankOf s.inp.n)))]
    obtain ⟨huser, -, hmat, hcpy, hindex, -⟩ := startTask_core u s.inp.n b.region g true g.entry d (some b.index)
    refine ⟨_, congrArg Host.Outcome.next (taskDispatch_task hfree hb hs hg hk),
      startTask_begins u s.inp.n b.region g true g.entry d (some b.index), congrArg Ctx.pc huser, ?_⟩
    obtain ⟨hmword, hmstate⟩ := dispatched_word (s.core s.inp.n).mat (s.core s.inp.n).active.mstart
    obtain ⟨hcword, hcstate⟩ := dispatched_word (s.core s.inp.n).cpy (s.core s.inp.n).active.cstart
    refine ⟨(congrArg Engine.word hmat).trans hmword, ?_, (congrArg Engine.word hcpy).trans hcword, ?_, hindex,
      dom_taskRegisters (congrArg (fun x : Ctx => x.regs.d) huser)⟩
    · rw [← hmstate]
      exact iff_of_eq (congrArg (fun x : Engine => x.state = .running) hmat)
    · rw [← hcstate]
      exact iff_of_eq (congrArg (fun x : Engine => x.state = .running) hcpy)
  case cont =>
    obtain ⟨hbegins, hmat, hcpy⟩ := startCont_begins (s.setByte (bindCell s.inp.n b.slot) 0) s.inp.n b.region g b.addr
    exact ⟨_, congrArg Host.Outcome.next (taskDispatch_cont hfree hb hs hg hk), hbegins, hmat, hcpy, startCont_conts _ _ _ _ _⟩
  case image =>
    refine ⟨fun q hq ha => imageAt_parked hq ha _ _, fun t ht => ?_, fun hnone => ?_⟩
    · exact congrArg Host.Outcome.next ((taskDispatch_image hfree hb hs hg hk).trans (startImage_restores ht))
    · exact congrArg Host.Outcome.next ((taskDispatch_image hfree hb hs hg hk).trans (startImage_faults hnone))

section Continuations

variable {s : State} {r : BitVec 12} {a : BitVec 52} (hn : s.inp.n = r.toNat) (hv : s.inp.value = a.setWidth 64)
include hn hv

/-- The occurrence names the record by its region and its address. -/
theorem exec_continuationEligible_at : exec .continuationEligible s = .next (continuationEligible r a s) := by
  rw [exec_continuationEligible, execContinuationEligible, hn, hv, BitVec.ofNat_toNat, BitVec.setWidth_eq, extract_setWidth]

theorem exec_levelPromotion_at : exec .levelPromotion s = .next (levelPromotion r a s) := by
  rw [exec_levelPromotion, execLevelPromotion, hn, hv, BitVec.ofNat_toNat, BitVec.setWidth_eq, extract_setWidth]

end Continuations

theorem tasksStart : Claims.TasksStart := by
  refine ⟨fun s k hn => ?dispatch, fun s k hn => ?firmware, fun s n r g hn hm hg => ?lookup, fun s r a g hn hv hg => ?conts,
    fun s k r g cell hn hm hg hc => ?grains⟩
  case dispatch =>
    refine ⟨fun h => ?_, fun h => ?_, fun b g hfree hb hs hg _ => armed_starts s k hn b g hfree hb hs hg⟩
    · rw [exec_taskDispatch, execTaskDispatch, hn, taskDispatch_busy h]
    · rw [exec_taskDispatch, execTaskDispatch, hn, taskDispatch_none h]
  case firmware =>
    rw [exec_firmwareRestart, execFirmwareRestart, hn]
    refine ⟨fun h => ⟨_, congrArg Host.Outcome.next (firmwareRestart_stopped h), ?_⟩,
      fun h => congrArg Host.Outcome.next (firmwareRestart_running h)⟩
    rw [(modCore_only s k _).1]
    exact ⟨rfl, rfl, rfl, rfl, rfl⟩
  case lookup =>
    rw [exec_lookupBankWrite, execLookupBankWrite, hn, hm, BitVec.ofNat_toNat, BitVec.setWidth_eq]
    exact ⟨fun hbusy hrun hend hup => ⟨_, rfl, lookupBank_binds hg s.inp.bank hbusy hrun hend hup⟩,
      fun h => congrArg Host.Outcome.next (lookupBank_refused hg s.inp.bank h)⟩
  case conts =>
    rw [exec_continuationEligible_at hn hv, exec_levelPromotion_at hn hv]
    simp only [Host.Outcome.next.injEq]
    refine ⟨fun u ht hr he => continuationEligible_reads hg ht hr he, fun u ht hr he => continuationEligible_reads hg ht hr he,
      contEligible_pending, fun ht hr hp hw => continuationEligible_reads hg ht hr (contEligible_noWaits hp hw),
      continuationEligible_idle hg, fun ht hr h15 hdue => levelPromotion_climbs hg ht ⟨hr, h15, hdue⟩,
      fun h => levelPromotion_idle hg (h.imp_right ?_)⟩
    rintro h ⟨hready, h15, hdue⟩
    rcases h with h | h | h
    · exact hready h
    · exact absurd h15 (Nat.not_lt.mpr h)
    · exact absurd hdue (Nat.not_lt.mpr h)
  case grains =>
    rw [exec_grainRequest, execGrainRequest, hn, hm, BitVec.ofNat_toNat, BitVec.setWidth_eq]
    refine ⟨fun h => congrArg Host.Outcome.next ?_, not_mayHaveGrain, fun hmay hx hroom => ?_,
      fun h => congrArg Host.Outcome.next (grainRequest_full hg hc h)⟩
    · rcases h with h | h
      · exact grainRequest_none hg hc (lowGrain_none h)
      · exact grainRequest_barred hg hc h
    · obtain ⟨x, hlow, hpending, hleast⟩ := lowGrain_spec hx
      obtain ⟨u, hpush, hmem, hgrains⟩ := dealOne_deals (r := r) hc hroom x
      exact ⟨_, x, congrArg Host.Outcome.next (grainRequest_deals hg hc hlow hmay), hpending, hleast, ⟨u, hpush, hmem⟩, hgrains⟩

end Sys2Proof.Proofs.Launch

/-!
O58, the landing of a split-phase load (R111, R187, R190, R336), in its context or in a continuation record; and O58 itself.
-/

namespace Sys2Proof.Proofs.Launch

open Sys2Proof Sys2Proof.Machine Sys2Proof.Safety Sys2Proof.Laws Sys2Proof.Proofs.Package Sys2Proof.Proofs.Links

/-! ### Its results land in its context -/

/-- Results have landed in `dd` and the register after it alone, and nothing else of the context that a landing reads has changed. -/
def Landed (dd : DReg) (c e : Ctx) : Prop := e.ldrs.length = c.ldrs.length ∧ e.pc = c.pc ∧ e.status = c.status ∧ e.trapAt = c.trapAt
  ∧ e.deferred = c.deferred ∧ (∀ k, e.regs.event k = c.regs.event k) ∧ ∀ r, r ≠ dd → r ≠ dd + 1 → e.regs.dom r = c.regs.dom r

theorem Landed.refl (dd : DReg) (c : Ctx) : Landed dd c c := ⟨rfl, rfl, rfl, rfl, rfl, fun _ => rfl, fun _ _ _ => rfl⟩

theorem Landed.trans {dd : DReg} {c d e : Ctx} (h : Landed dd c d) (h' : Landed dd d e) : Landed dd c e := by
  obtain ⟨hldrs, hpc, hstatus, htrap, hdef, hev, hdom⟩ := h
  obtain ⟨hldrs', hpc', hstatus', htrap', hdef', hev', hdom'⟩ := h'
  exact ⟨hldrs'.trans hldrs, hpc'.trans hpc, hstatus'.trans hstatus, htrap'.trans htrap, hdef'.trans hdef,
    fun k => (hev' k).trans (hev k), fun r h0 h1 => (hdom' r h0 h1).trans (hdom r h0 h1)⟩

theorem event_write_dom (r : Regs) (q : DReg) (x : Dom) (k : Nat) : (r.write (.d q x)).event k = r.event k := by
  unfold Regs.write Regs.event
  dsimp only
  split <;> rfl

theorem land_landed (c : Ctx) (n : Nat) {dd q : DReg} (x : Dom) (h : q = dd ∨ q = dd + 1) : Landed dd c (c.land ⟨0, false, 2, n, .d q x⟩) := by
  refine ⟨List.length_map _, rfl, rfl, rfl, rfl, event_write_dom c.regs q x, fun r h0 h1 => ?_⟩
  refine (dom_write c.regs q r x).trans (if_neg ?_)
  rintro ⟨rfl, -⟩
  exact h.elim h0 h1

/-- One result of a load: it lands unless a later write of its register has landed. -/
def landResult (n : Nat) (c : Ctx) (e : Bool × Write) : Ctx := if e.1 then c.land ⟨0, false, 2, n, e.2⟩ else c

theorem landResult_landed (c : Ctx) (n : Nat) (live : Bool) {dd q : DReg} (x : Dom) (h : q = dd ∨ q = dd + 1) :
    Landed dd c (landResult n c (live, .d q x)) := by
  cases live
  · exact .refl dd c
  · exact land_landed c n x h

/-- The context once the `i`-th load has left it and its results have landed. -/
def landLdr (l : Ldr) (i : Nat) (c : Ctx) : Ctx := l.writes.foldl (landResult l.count) { c with ldrs := c.ldrs.eraseIdx i }

/-- A load has one result, for its register, or two, the second for the register after it. -/
theorem writes_cases (l : Ldr) : (∃ x, l.writes = [(l.live, .d l.dd x)])
    ∨ ∃ x y, l.writes = [(l.live, .d l.dd x), (l.liveHi, .d (l.dd + 1) y)] := by
  unfold Ldr.writes
  cases l.size
  case d => exact .inr ⟨_, _, rfl⟩
  all_goals exact .inl ⟨_, rfl⟩

theorem writes_word {l : Ldr} {d : List Byte} (hd : l.data = some d) (hw : l.size = .w) :
    l.writes = [(l.live, .d l.dd (Dom.single (BitVec.ofNat 32 (leNat d))))] := by
  unfold Ldr.writes
  rw [hd, hw]
  rfl

theorem landLdr_landed (l : Ldr) (i : Nat) (c : Ctx) : Landed l.dd { c with ldrs := c.ldrs.eraseIdx i } (landLdr l i c) := by
  unfold landLdr
  rcases writes_cases l with ⟨x, h⟩ | ⟨x, y, h⟩ <;> rw [h]
  · exact landResult_landed _ l.count l.live x (.inl rfl)
  · exact (landResult_landed _ l.count l.live x (.inl rfl)).trans (landResult_landed _ l.count l.liveHi y (.inr rfl))

theorem landLdr_word {l : Ldr} {d : List Byte} (hd : l.data = some d) (hw : l.size = .w) (h0 : l.dd ≠ 0) (i : Nat) (c : Ctx) :
    (landLdr l i c).regs.dom l.dd = if l.live then Dom.single (BitVec.ofNat 32 (leNat d)) else c.regs.dom l.dd := by
  unfold landLdr
  rw [writes_word hd hw, List.foldl_cons, List.foldl_nil, landResult]
  cases l.live
  · rfl
  · exact (dom_write c.regs l.dd l.dd _).trans (if_pos ⟨rfl, h0⟩)

/-! ### `LDR_LANDING` -/

section Landing

variable {s : State} {a : Agent} {i : Nat} {l : Ldr} (hl : (s.ctxOf a).ldrs[i]? = some l) (hf : l.fault = none)
include hl hf

theorem ldrLanding_waits (hd : l.data = none) : ldrLanding a i s = s := by simp [ldrLanding, hl, hf, hd]

variable {d : List Byte} (hd : l.data = some d)
include hd

theorem ldrLanding_context (hr : l.slotOf = none) : ∃ t : State, t.mem = s.mem ∧ t.ctxOf a = landLdr l i (s.ctxOf a) ∧ ldrLanding a i s =
    if (t.ctxOf a).regs.event l.ev.toNat = 255 then t.report a l.count tEventOvf else t.bump a l.ev.toNat := by
  refine ⟨(s.modCtxOf a (fun c => { c with ldrs := c.ldrs.eraseIdx i })).modCtxOf a (fun c => l.writes.foldl (landResult l.count) c), ?_, ?_, ?_⟩
  · rw [modCtxOf_mem, modCtxOf_mem]
  · rw [modCtxOf_ctxOf, modCtxOf_ctxOf, landLdr]
  · simp only [ldrLanding, hl, hf, hd, hr, Option.isSome_none, Option.isNone_some, Bool.false_eq_true, if_false]
    rfl

theorem ldrLanding_record {r : BitVec 52} (hr : l.slotOf = some r) :
    ldrLanding a i s = landInRecord l r (s.modCtxOf a (fun c => { c with ldrs := c.ldrs.eraseIdx i })) := by
  simp only [ldrLanding, hl, hf, hd, hr, Option.isSome_none, Option.isNone_some, Bool.false_eq_true, if_false]

omit hf hd in
theorem length_eraseIdx_ldrs : ((s.ctxOf a).ldrs.eraseIdx i).length + 1 = (s.ctxOf a).ldrs.length :=
  List.length_eraseIdx_add_one (List.getElem?_eq_some_iff.mp hl).1

end Landing

/-- A report for the next boundary: of a context in no handler, or of what was sent before its trap (R192). -/
theorem report_defers {t : State} {a : Agent} {n : Nat} {code : Byte} (h : (t.ctxOf a).status.intrap = false ∨ n < (t.ctxOf a).trapAt) :
    t.report a n code = t.defer a ⟨0, { code := code }, []⟩ := by
  rcases h with h | h
  · exact report_deferred h
  · have hbefore : decide ((t.ctxOf a).trapAt ≤ n) = false := decide_eq_false (Nat.not_le.mpr h)
    simp only [State.report, hbefore, Bool.and_false, Bool.false_and, Bool.false_eq_true, if_false]

/-- The event of a load that has landed: it counts one more, or raises EVENT_OVF at 255. -/
theorem landed_event {t : State} {a : Agent} {n k : Nat}
    (h : (t.ctxOf a).regs.event k ≠ 255 ∨ (t.ctxOf a).status.intrap = false ∨ n < (t.ctxOf a).trapAt) :
    let u := if (t.ctxOf a).regs.event k = 255 then t.report a n tEventOvf else t.bump a k
    u.mem = t.mem ∧ (u.ctxOf a).ldrs = (t.ctxOf a).ldrs ∧ (u.ctxOf a).pc = (t.ctxOf a).pc
      ∧ (∀ r, (u.ctxOf a).regs.dom r = (t.ctxOf a).regs.dom r)
      ∧ ((t.ctxOf a).regs.event k ≠ 255 → (u.ctxOf a).regs.event k = (t.ctxOf a).regs.event k + 1
        ∧ (u.ctxOf a).deferred = (t.ctxOf a).deferred)
      ∧ ((t.ctxOf a).regs.event k = 255 → ∃ e ∈ (u.ctxOf a).deferred, e.req.code = 0x0F) := by
  by_cases hk : (t.ctxOf a).regs.event k = 255
  · rw [if_pos hk, report_defers (h.resolve_left (not_not.mpr hk))]
    dsimp only
    rw [defer_ctxOf]
    exact ⟨modCtxOf_mem _ _ _, rfl, rfl, fun _ => rfl, fun h => absurd hk h, fun _ => ⟨_, mem_insertDeferred _ _, rfl⟩⟩
  · rw [if_neg hk, State.bump]
    dsimp only
    rw [modCtxOf_ctxOf]
    exact ⟨modCtxOf_mem _ _ _, rfl, rfl, fun _ => rfl, fun _ => ⟨Assoc.get_set_same _ _ _ _, rfl⟩, fun h => absurd h hk⟩

/-! ### In a continuation record (R111) -/

theorem Accessed.ctxOf {s t : State} (h : Accessed s t) (a : Agent) : t.ctxOf a = s.ctxOf a := by
  obtain ⟨m, k, p, me, mu, mg, tlb, rfl⟩ := h
  cases a <;> rfl

theorem rekey_holds (s : State) (key : BitVec 8) (u : Nat) : Assoc.get 0 (s.rekey key u).unitKey u = key := by
  rw [rekey_eq]
  split
  next h => exact h
  · exact Assoc.get_set_same _ _ _ _

/-- A byte written under a key reads back under it. -/
theorem byteKey_setByteKey (s : State) (key : BitVec 8) (a : Nat) (v : Byte) (hw : MemInv s) : (s.setByteKey key a v).byteKey key a = v := by
  rw [setByteKey_eq]
  generalize hu : (if keyed a then s.rekey key (a / 64) else s) = u
  have hwf : Memory.wf u.mem = true := by
    rw [← hu]
    split
    · exact rekey_wf s key _ hw
    · exact hw
  have hsame : SameKey (clearPoison (u.setByte a v) a) key a 1 := by
    intro k hk hkeyed
    obtain rfl : k = 0 := by omega
    rw [Nat.add_zero] at hkeyed ⊢
    rw [(clearPoison_memory _ _).2, ← hu, if_pos hkeyed]
    exact rekey_holds s key (a / 64)
  rw [Mesh.byteKey_of_sameKey hsame, byte_congr (clearPoison_memory _ _).1]
  exact (read_write a a v hwf).trans (if_pos rfl)

/-- One result of a load whose context has yielded: it goes to its register's slot of the record, where it has one. -/
def putResult (key : BitVec 8) (cell : Nat) (b : List Byte) (t : State) (e : Bool × Write) : State :=
  match e.2 with
  | .d r x =>
    if !e.1 then t
    else match (List.range (field b 10 1)).find? (fun i => field b (72 + i) 1 == r.toNat) with
      | some i => t.setBytesKey key (cell + 96 + 16 * i) (leBytes 16 x.word.toNat)
      | none => t
  | _ => t

theorem landInRecord_eq (l : Ldr) (r : BitVec 52) (s : State) : landInRecord l r s =
    (l.writes.foldl (putResult (physKey r) (physCell r) (contRecord s r)) s).setByteKey (physKey r) (physCell r + 11)
      (BitVec.ofNat 8 (field (contRecord s r) 11 1 - 1)) := rfl

theorem putResult_stores (key : BitVec 8) (cell : Nat) (b : List Byte) (t : State) (e : Bool × Write) :
    ∃ at_ bs, putResult key cell b t e = t.setBytesKey key at_ bs := by
  unfold putResult
  split
  · split
    · exact ⟨0, [], rfl⟩
    · split
      · exact ⟨_, _, rfl⟩
      · exact ⟨0, [], rfl⟩
  · exact ⟨0, [], rfl⟩

theorem putResults_accessed (key : BitVec 8) (cell : Nat) (b : List Byte) (ws : List (Bool × Write)) (s : State) :
    Accessed s (ws.foldl (putResult key cell b) s) ∧ (MemInv s → MemInv (ws.foldl (putResult key cell b) s)) := by
  induction ws generalizing s with
  | nil => exact ⟨.refl s, id⟩
  | cons e ws ih =>
    obtain ⟨at_, bs, h⟩ := putResult_stores key cell b s e
    rw [List.foldl_cons, h]
    exact ⟨(setBytesKey_accessed s key at_ bs).trans (ih _).1, fun hw => (ih _).2 (setBytesKey_wf s key at_ bs hw)⟩

/-- The load's context keeps what it holds, and the record's PENDING falls by one. -/
theorem landInRecord_pending (l : Ldr) (r : BitVec 52) {s : State} (hw : MemInv s) (a : Agent) :
    (landInRecord l r s).ctxOf a = s.ctxOf a
    ∧ (landInRecord l r s).byteKey (physKey r) (physCell r + 11) = BitVec.ofNat 8 (field (contRecord s r) 11 1 - 1) := by
  obtain ⟨haccessed, hwf⟩ := putResults_accessed (physKey r) (physCell r) (contRecord s r) l.writes s
  rw [landInRecord_eq]
  exact ⟨(haccessed.trans (accessed_of_memoryOnly (setByteKey_memoryOnly _ _ _ _))).ctxOf a, byteKey_setByteKey _ _ _ _ (hwf hw)⟩

/-! ### The claim -/

theorem loadsLand : Claims.LoadsLand := by
  rintro s a i l rfl rfl hl hf hw
  refine ⟨fun hd => congrArg Host.Outcome.next (ldrLanding_waits hl hf hd), fun d hd => ⟨fun hr hreport => ?context, fun r hr => ?record⟩⟩
  case context =>
    obtain ⟨t, hmem, hctx, hrun⟩ := ldrLanding_context hl hf hd hr
    obtain ⟨hldrs, hpc, hstatus, htrap, hdef, hev, hdom⟩ := landLdr_landed l s.inp.n (s.ctxOf s.inp.who)
    rw [← hctx] at hldrs hpc hstatus htrap hdef hev hdom
    rw [← hev, ← hstatus, ← htrap] at hreport
    obtain ⟨humem, huldrs, hupc, hudom, hubump, huovf⟩ := landed_event hreport
    refine ⟨_, congrArg Host.Outcome.next hrun, humem.trans hmem, ?_, hupc.trans hpc, fun h => ?_, fun h => huovf ((hev _).trans h),
      fun hsize h0 => ?_, fun r h0 h1 => (hudom r).trans (hdom r h0 h1)⟩
    · rw [huldrs, hldrs]
      exact length_eraseIdx_ldrs hl
    · obtain ⟨hcount, hkept⟩ := hubump ((hev _).trans_ne h)
      exact ⟨hcount.trans (congrArg (· + 1) (hev _)), hkept.trans hdef⟩
    · rw [hudom, hctx]
      exact landLdr_word hd hsize h0 _ _
  case record =>
    have hw' : MemInv (s.modCtxOf s.inp.who (fun c => { c with ldrs := c.ldrs.eraseIdx s.inp.n })) := by
      rwa [MemInv, modCtxOf_mem]
    obtain ⟨hctx, hpending⟩ := landInRecord_pending l r hw' s.inp.who
    rw [modCtxOf_ctxOf] at hctx
    rw [contRecord, bytesKey_congr (modCtxOf_mem _ _ _) (modCtxOf_unitKey _ _ _)] at hpending
    refine ⟨_, congrArg Host.Outcome.next (ldrLanding_record hl hf hd hr), by rw [hctx], ?_, hpending⟩
    rw [hctx]
    exact length_eraseIdx_ldrs hl

/-- Settles O58: what starts on a core, case by case of what it finds armed, waiting or pending; and the landing of a split-phase
load, in its context or, after a YIELD, in its record. -/
theorem tasksAndLoads : Obligations.TasksAndLoads := ⟨tasksStart, loadsLand⟩

end Sys2Proof.Proofs.Launch

/-!
O34, barrier words (R176, R347 to R349): what an addition does to a word, and the instructions on it.
-/

namespace Sys2Proof.Proofs.Regions

open Sys2Proof Sys2Proof.Machine Sys2Proof.Safety Sys2Proof.Laws Sys2Proof.Proofs.Package Sys2Proof.Proofs.Links Sys2Proof.Proofs.Mesh

/-! ### Barrier words (R176) -/

section Counts

variable {w : BarWord} {n : BitVec 64}

theorem add_counts (h : w.init = false ∨ w.target = 0 ∨ w.isOver = true) : w.add n = { w with count := w.count + n } := by
  have hraw : (!w.init || w.target == 0 || w.isOver) = true := by
    simpa [or_assoc] using h
  simp only [BarWord.add, hraw, if_true]

variable (hinit : w.init = true) (htarget : w.target ≠ 0) (hover : w.isOver = false)

include hinit htarget hover

theorem add_active : (!w.init || w.target == 0 || w.isOver) = false := by
  rw [hinit, hover, beq_eq_false_iff_ne.mpr htarget]
  rfl

theorem add_exact (hexact : w.exact = true) : w.add n = if w.count + n = w.target then { w with gen := w.gen + 1, count := 0 }
    else if w.target < w.count + n then { w with count := w.count + n, flags := w.flags ||| 4 } else { w with count := w.count + n } := by
  simp only [BarWord.add, add_active hinit htarget hover, hexact, Bool.false_eq_true, if_false, if_true, BitVec.lt_def]

theorem add_inexact (hexact : w.exact = false) : w.add n =
    { w with gen := w.gen + ((w.count + n) / w.target).setWidth 32, count := (w.count + n) % w.target } := by
  have hgen : ((w.count + n) / w.target).setWidth 32 = BitVec.ofNat 32 ((w.count + n).toNat / w.target.toNat) :=
    BitVec.eq_of_toNat_eq (by rw [BitVec.toNat_setWidth, BitVec.toNat_udiv, BitVec.toNat_ofNat])
  have hcount : (w.count + n) % w.target = BitVec.ofNat 64 ((w.count + n).toNat % w.target.toNat) :=
    BitVec.eq_of_toNat_eq (by
      rw [BitVec.toNat_umod, BitVec.toNat_ofNat, Nat.mod_eq_of_lt (lt_of_le_of_lt (Nat.mod_le _ _) (w.count + n).isLt)])
  simp only [BarWord.add, add_active hinit htarget hover, hexact, Bool.false_eq_true, if_false, hgen, hcount]

end Counts

theorem reached_iff (w : BarWord) (g : Word) : w.reached g = true ↔ (w.gen - g).toNat < 2 ^ 31 := decide_eq_true_iff

/-! ### The operand of a barrier word (R347 to R349) -/

section Barrier

variable {s t : State} {l : Loc} {m : MemOp}

/-- A barrier word lies on the package. -/
theorem barOperand_onPackage {acc : BitVec 4} (h : barOperand m acc s = .ok (l, t)) : l.offPackage = false := by
  unfold barOperand at h
  cases hop : operand s m 32 32 32 .all acc with
  | error e => rw [hop] at h; cases h
  | ok x =>
    obtain ⟨o, l', t'⟩ := x
    rw [hop, eff_ok_bind] at h
    cases hoff : l'.offPackage with
    | true => simp [hoff] at h
    | false =>
      simp only [hoff, Bool.not_false, need_true, eff_ok_bind] at h
      cases h
      exact hoff

/-! #### `BARWINIT` and `BARWADD` -/

/-- The barrier words' instructions belong to no firmware context. -/
theorem barrier_illegal (ha : Alone s) (hfw : s.isFw = true) (dr dt : DReg) (m : MemOp) (am : AtomOp) (exact_ : Bool) (c : CReg) :
    AllTrap s tIllegal [.barwinit dr m exact_, .barwadd dr am, .barwwait dr m dt, .barwtry dr m c] := by
  have hinit : barwinit dr m exact_ s = .error (.trap { code := tIllegal } s) := by
    rw [barwinit, notFw_illegal hfw]
    rfl
  have hadd : barwadd dr am s = .error (.trap { code := tIllegal } s) := by
    rw [barwadd, notFw_illegal hfw]
    rfl
  have hwait : barwwait dr m dt s = .error (.trap { code := tIllegal } s) := by
    rw [barwwait, notFw_illegal hfw]
    rfl
  have htry : barwtry dr m c s = .error (.trap { code := tIllegal } s) := by
    rw [barwtry, notFw_illegal hfw]
    rfl
  simp only [AllTrap, List.forall_mem_cons]
  exact ⟨syllable_traps ha hinit, syllable_traps ha hadd, syllable_traps ha hwait, syllable_traps ha htry,
    fun _ h => absurd h List.not_mem_nil⟩

section Init

variable {dr : DReg} {x : BitVec 64} {exact_ : Bool} (hfw : s.isFw = false) (hx : dataOf s true dr = .ok x)
  (hop : barOperand m accWrite s = .ok (l, t))

include hfw hx hop

/-- `BARWINIT` in the slice of its core. -/
theorem barwinit_near (hnear : l.near = true) (hclear : t.ctx.clearFor 15 l 32 none false = true) :
    barwinit dr m exact_ s = .ok (t.setBytesKey l.key l.cell
      ((BarWord.mk x 0 (t.barWord l.key l.cell).gen (if exact_ then 3 else 1)).bytes ++ leBytes 8 0)) := by
  have hwait := orderWait_ok (s := t) (cls := 15) (n := 32) ((barOperand_onPackage hop).symm ▸ hclear)
  simp only [barwinit, notFw_ok hfw, hx, hop, hnear, hwait, eff_ok_bind, if_true, State.barInit]

/-- `BARWINIT` elsewhere sends its request. -/
theorem barwinit_away (hmay : MaySend t 15 l 9 true) :
    barwinit dr m exact_ s = .ok (requested t 6 1 15 l 9 (leBytes 8 x.toNat ++ [if exact_ then 1 else 0]) true false) := by
  obtain ⟨hnear, -, hclear, hhold⟩ := hmay
  have hsend := sendRequest_admitted t 6 1 15 l 9 (leBytes 8 x.toNat ++ [if exact_ then 1 else 0]) true false hclear hhold
  simp only [barwinit, notFw_ok hfw, hx, hop, hnear, hsend, eff_ok_bind, Bool.false_eq_true, if_false]

end Init

section Add

variable {dr : DReg} {a : Word} {am : AtomOp} (hfw : s.isFw = false) (ha : single s dr = .ok a)
  (hop : barOperand (atomMem am) accAtomic s = .ok (l, t))
  (hrel : am.order = 2 → t.ctx.performed (BitVec.allOnes 16) (isSystem am.scope) = true)

include hfw ha hop hrel

/-- `BARWADD` up to its release: its operands are known. -/
theorem barwadd_eq : barwadd dr am s = if l.near then (do
      orderWait t (ordClass (atomMem am) (s.desc am.bd)) l 32
      .ok (t.barAdd l.key l.cell (a.setWidth 64)))
    else (do
      let (_, _, t) ← sendRequest t 5 0 (ordClass (atomMem am) (s.desc am.bd)) l 8 (leBytes 8 a.toNat) true false
      .ok t) := by
  simp only [barwadd, notFw_ok hfw, ha, hop, eff_ok_bind]
  by_cases h2 : am.order = 2
  · have hreleased : released t am.scope = .ok () := fencing_ok (hrel h2)
    simp only [h2, hreleased, eff_ok_bind]
    rfl
  · have hne : (am.order == 2) = false := beq_eq_false_iff_ne.mpr h2
    simp only [hne]
    rfl

theorem barwadd_near (hnear : l.near = true)
    (hclear : t.ctx.clearFor (ordClass (atomMem am) (s.desc am.bd)) l 32 none false = true) :
    barwadd dr am s = .ok (t.setBytesKey l.key l.cell ((t.barWord l.key l.cell).add (a.setWidth 64)).bytes) := by
  have hwait := orderWait_ok (s := t) (n := 32) ((barOperand_onPackage hop).symm ▸ hclear)
  simp only [barwadd_eq hfw ha hop hrel, hnear, hwait, eff_ok_bind, if_true, State.barAdd, State.setBarWord]

theorem barwadd_away (hmay : MaySend t (ordClass (atomMem am) (s.desc am.bd)) l 8 true) : barwadd dr am s
    = .ok (requested t 5 0 (ordClass (atomMem am) (s.desc am.bd)) l 8 (leBytes 8 a.toNat) true false) := by
  obtain ⟨hnear, -, hclear, hhold⟩ := hmay
  have hsend := sendRequest_admitted t 5 0 (ordClass (atomMem am) (s.desc am.bd)) l 8 (leBytes 8 a.toNat) true false hclear hhold
  simp only [barwadd_eq hfw ha hop hrel, hnear, hsend, eff_ok_bind, Bool.false_eq_true, if_false]

end Add

/-! #### `BARWTRY` and `BARWWAIT` -/

/-- Replay and recording are off. -/
theorem replayMode_off (ha : Alone s) (h : s.ctx.dbg.replayctl.extractLsb' 62 2 = 0) : s.replayMode = 0 := by
  rw [State.replayMode, src_of_alone s ha.2, h]
  rfl

theorem record_off (h : s.replayMode = 0) (kind : Byte) (v : BitVec 64) : s.record kind v = .ok s := by
  simp [State.record, h]

theorem replayed_off (h : s.replayMode = 0) (kind : Byte) (v : BitVec 64) : replayed kind v s = .ok (v, s) := by
  simp [replayed, record_off h, h]

theorem barLimit_off (h : s.replayMode = 0) (limit : Word) : barLimit limit s = .ok (some limit) := by
  simp [barLimit, h]

section Reads

variable {dr dt : DReg} {a limit : Word} {w : BarWord} {c : CReg} (hfw : s.isFw = false) (ha : single s dr = .ok a)
  (hr : barRead m s = .ok (l, w, t))

include hfw ha hr

/-- `BARWTRY` tells whether the generation has been reached. -/
theorem barwtry_tells (h : w.reached a = true ∨ w.isOver = false) : barwtry dr m c s = .ok (t.write 1 (.c c (w.reached a))) := by
  have hneed : (w.reached a || !w.isOver) = true := by simpa using h
  simp only [barwtry, notFw_ok hfw, ha, hr, hneed, need_true, eff_ok_bind]

theorem barwtry_over (hnot : w.reached a = false) (hover : w.isOver = true) :
    barwtry dr m c s = .error (.trap { code := tBarrierOver } s) := by
  simp only [barwtry, notFw_ok hfw, ha, hr, hnot, hover, Bool.not_true, Bool.or_self, need_false, eff_ok_bind, eff_error_bind]

variable (hl : single s dt = .ok limit) (hm : t.replayMode = 0) (htime : t.ctx.waits.timedOut = false)

include hl hm htime

/-- `BARWWAIT` once its word is read. -/
theorem barwwait_eq : barwwait dr m dt s = if w.reached a then (do
      let t := t.modWaits (fun w => { w with barrier := false })
      if limit = 0 then .ok t
      else do
        let (_, t) ← replayed 8 0 t
        .ok t)
    else (do
      need (!w.isOver) tBarrierOver s
      .error (.stall (s.barWaits l a limit))) := by
  simp only [barwwait, notFw_ok hfw, ha, hl, hr, barLimit_off hm, htime, Bool.not_false, need_true, eff_ok_bind]

/-- A generation that has been reached ends the wait. -/
theorem barwwait_ends (hreached : w.reached a = true) (hsrc : t.issue.snap = none) :
    barwwait dr m dt s = .ok (t.modWaits (fun w => { w with barrier := false })) := by
  have hmode : (t.modWaits (fun w => { w with barrier := false })).replayMode = 0 := by
    have hctx : (t.modWaits (fun w => { w with barrier := false })).ctx.dbg = t.ctx.dbg := by
      rw [State.modWaits, modCtx_ctx]
    rw [State.replayMode, src_of_alone _ hsrc] at hm
    rw [State.replayMode, src_of_alone _ (by rw [State.modWaits, modCtx_issue, hsrc]), hctx, hm]
  simp only [barwwait_eq hfw ha hr hl hm htime, hreached, if_true, replayed_off hmode, eff_ok_bind, ite_self]

theorem barwwait_over (hnot : w.reached a = false) (hover : w.isOver = true) :
    barwwait dr m dt s = .error (.trap { code := tBarrierOver } s) := by
  simp only [barwwait_eq hfw ha hr hl hm htime, hnot, hover, Bool.not_true, need_false, eff_error_bind, Bool.false_eq_true, if_false]

/-- One that has not been reached holds the bundle. -/
theorem barwwait_waits (hnot : w.reached a = false) (hover : w.isOver = false) :
    barwwait dr m dt s = .error (.stall (s.barWaits l a limit)) := by
  simp only [barwwait_eq hfw ha hr hl hm htime, hnot, hover, Bool.not_false, need_true, eff_ok_bind, Bool.false_eq_true, if_false]

end Reads

end Barrier

/-- A waiting context keeps its registers and its place, and waits for the generation from its first issue on. -/
theorem barWaits_spec (s : State) (l : Loc) (g limit : Word) : (s.barWaits l g limit).mem = s.mem
    ∧ (s.barWaits l g limit).ctx.regs = s.ctx.regs ∧ (s.barWaits l g limit).ctx.pc = s.ctx.pc
    ∧ (s.barWaits l g limit).ctx.waits.barrier = true ∧ (s.barWaits l g limit).ctx.waits.gen = g
    ∧ (s.barWaits l g limit).ctx.waits.limit = limit
    ∧ (s.ctx.waits.barrier = false → (s.barWaits l g limit).ctx.waits.since = s.cycle) := by
  have hctx : (s.barWaits l g limit).ctx = { s.ctx with waits := { s.ctx.waits with barrier := true, gen := g, wordKey := l.key, word := l.cell, limit := limit, since := if s.ctx.waits.barrier then s.ctx.waits.since else s.cycle } } := by
    rw [State.barWaits, State.modWaits, modCtx_ctx]
  refine ⟨by rw [State.barWaits, State.modWaits, modCtx_mem], ?_⟩
  rw [hctx]
  exact ⟨rfl, rfl, rfl, rfl, rfl, fun h => by rw [h]; rfl⟩

/-- Each instruction by the lemma of its case. -/
theorem barrierWords : Claims.BarrierWords := by
  intro s dr m am exact_ c dt a b limit ha hreplay hdr hdt
  have hsingle := single_of_dom ha hdr
  have hlimit := single_of_dom ha hdt
  refine ⟨fun hfw => barrier_illegal ha hfw dr dt m am exact_ c, fun hfw hhi l t hop => ?init, fun hfw l t hop hrel => ?add,
    fun hfw l w t hr htime hctl hissue => ?wait, fun w n => ?count⟩
  case init =>
    obtain ⟨x, hx, hxx⟩ := dataOf_of_doms (wide := true) ha hdr fun _ => hhi
    obtain rfl : x = b ++ a := BitVec.eq_of_toNat_eq hxx
    refine ⟨fun hnear hclear => ⟨⟨b ++ a, 0, (t.barWord l.key l.cell).gen, if exact_ then 3 else 1⟩, rfl, rfl, rfl, rfl, ?_⟩,
      fun hmay => ⟨requested t 6 1 15 l 9 (leBytes 8 (b ++ a).toNat ++ [if exact_ then 1 else 0]) true false, requested_sent .., ?_⟩⟩
    · exact syllable_completes ha (barwinit_near hfw hx hop hnear hclear)
    · have haway := barwinit_away (exact_ := exact_) hfw hx hop hmay
      exact syllable_completes ha haway
  case add =>
    refine ⟨fun hnear hclear => ?_, fun hmay => ⟨_, requested_sent t 5 0 _ l 8 (leBytes 8 a.toNat) true false, ?_⟩⟩
    · exact syllable_completes ha (barwadd_near hfw hsingle hop hrel hnear hclear)
    · exact syllable_completes ha (barwadd_away hfw hsingle hop hrel hmay)
  case wait =>
    have hsnap : t.issue.snap = none := hissue ▸ ha.2
    have hmode : t.replayMode = 0 := replayMode_off ⟨hissue ▸ ha.1, hsnap⟩ (hctl ▸ hreplay)
    refine ⟨fun hreached => ⟨?_, ?_⟩, fun hnot hover => ⟨?_, ?_⟩, fun hnot hover => ⟨?_, ?_⟩⟩
    · have htells := barwtry_tells (c := c) hfw hsingle hr (.inl hreached)
      rw [hreached] at htells
      exact syllable_completes ha htells
    · exact syllable_completes ha (barwwait_ends hfw hsingle hr hlimit hmode htime hreached hsnap)
    · simp only [AllTrap, List.forall_mem_cons]
      exact ⟨syllable_traps ha (barwwait_over hfw hsingle hr hlimit hmode htime hnot hover), fun _ h => absurd h List.not_mem_nil⟩
    · exact syllable_traps ha (barwtry_over hfw hsingle hr hnot hover)
    · have htells := barwtry_tells (c := c) hfw hsingle hr (.inr hover)
      rw [hnot] at htells
      exact syllable_completes ha htells
    · exact ⟨_, syllable_waits ha (barwwait_waits hfw hsingle hr hlimit hmode htime hnot hover), barWaits_spec s l a limit⟩
  case count =>
    exact ⟨add_counts, fun hinit htarget hover => ⟨add_exact hinit htarget hover, add_inexact hinit htarget hover⟩, reached_iff w⟩

end Sys2Proof.Proofs.Regions

/-!
O34, work deques (R114, R115, R350, R351): bytes where no key applies, a deque at its home, and the instructions on it.
-/

namespace Sys2Proof.Proofs.Regions

open Sys2Proof Sys2Proof.Machine Sys2Proof.Safety Sys2Proof.Laws Sys2Proof.Proofs.Package Sys2Proof.Proofs.Links Sys2Proof.Proofs.Mesh

/-! ### Bytes where no key applies -/

section Plain

variable {s : State} {a b n : Nat} {vs : List Byte}

/-- No key applies to `n` bytes from `a`. -/
def Unkeyed (a n : Nat) : Prop := ∀ k, k < n → keyed (a + k) = false

theorem Unkeyed.part (h : Unkeyed a n) {m o : Nat} (hle : o + m ≤ n) : Unkeyed (a + o) m := fun k hk => by
  rw [Nat.add_assoc]
  exact h (o + k) (by omega)

theorem Unkeyed.head (h : Unkeyed a n) {m : Nat} (hle : m ≤ n) : Unkeyed a m := fun k hk => h k (hk.trans_le hle)

/-- Where no key applies, bytes read are the bytes that stand there. -/
theorem bytes_eq_map (h : Unkeyed a n) : s.bytes a n = (List.range n).map (fun i => s.byte (a + i)) := by
  unfold State.bytes
  induction n generalizing a with
  | zero => rfl
  | succ n ih =>
    have hrest : Unkeyed (a + 1) n := h.part (o := 1) (by omega)
    have hhead : s.byteKey 0 a = s.byte (a + 0) := by simp [State.byteKey, show keyed a = false from h 0 (by omega)]
    rw [State.bytesKey, ih hrest, List.range_succ_eq_map, List.map_cons, List.map_map, hhead]
    congr 2
    funext i
    simp only [Function.comp, Nat.succ_eq_add_one, Nat.add_assoc, Nat.add_comm 1]

theorem bytes_of_byte {t : State} (h : Unkeyed a n) (heq : ∀ i, i < n → t.byte (a + i) = s.byte (a + i)) : t.bytes a n = s.bytes a n := by
  rw [bytes_eq_map h, bytes_eq_map h]
  exact List.map_congr_left fun i hi => heq i (List.mem_range.mp hi)

variable (hm : MemInv s) (ha : Unkeyed a n) (hn : vs.length = n)

include hm ha hn

theorem setBytes_stored : Stored s (s.setBytes a vs) a vs :=
  setBytesKey_stored (fun k hk hkeyed => absurd hkeyed (by rw [ha k (hn ▸ hk)]; decide)) hm

theorem setBytes_byte_away (h : ¬ (a ≤ b ∧ b < a + n)) : (s.setBytes a vs).byte b = s.byte b :=
  (setBytes_stored hm ha hn b).trans (if_neg (hn.symm ▸ h))

/-- Bytes written are read back. -/
theorem bytes_setBytes_same : (s.setBytes a vs).bytes a n = vs := by
  rw [bytes_eq_map ha]
  refine List.ext_getElem (by simp [hn]) fun i hi hi' => ?_
  rw [List.getElem_map, List.getElem_range, setBytes_stored hm ha hn, if_pos (by omega), Nat.add_sub_cancel_left]
  exact (List.getElem_eq_getD 0).symm

/-- Bytes that no written one stands among are as they were. -/
theorem bytes_setBytes_away {k : Nat} (hb : Unkeyed b k) (h : b + k ≤ a ∨ a + n ≤ b) : (s.setBytes a vs).bytes b k = s.bytes b k :=
  bytes_of_byte hb fun i hi => setBytes_byte_away hm ha hn (by omega)

end Plain

/-! ### A deque at its home (R114, R115) -/

theorem ofNat_leNat_leBytes (x : Word) : BitVec.ofNat 32 (leNat (leBytes 4 x.toNat)) = x := by
  rw [leNat_leBytes 4 _ (by have := x.isLt; omega), BitVec.ofNat_toNat, BitVec.setWidth_eq]

/-- Not among `n` bytes from `lo`. -/
def Away (lo n b : Nat) : Prop := ¬ (lo ≤ b ∧ b < lo + n)

/-- `u` is `t` but for a deque, whose TOP and BOTTOM are `x` and `y`; the bytes of `others` are as they were. -/
def DequeIs (t u : State) (cell : Nat) (x y : Word) (others : Nat → Prop) : Prop :=
  MemoryOnly t u ∧ u.dqTop cell = x ∧ u.dqBottom cell = y ∧ ∀ b, others b → u.byte b = t.byte b

section Deque

variable {t : State} {cell : Nat} (hm : MemInv t) (hk : Unkeyed cell 2112)

theorem dqItem_within (cell : Nat) (k : Word) : ∃ o, State.dqItem cell k = cell + o ∧ 64 ≤ o ∧ o + 16 ≤ 2112 :=
  ⟨64 + 16 * (k.toNat % 128), by rw [State.dqItem, Nat.add_assoc], by omega, by omega⟩

include hm hk

theorem bottom_written (y : Word) : DequeIs t (t.setBytes (cell + 4) (leBytes 4 y.toNat)) cell (t.dqTop cell) y (Away (cell + 4) 4) := by
  have hb : Unkeyed (cell + 4) 4 := hk.part (by omega)
  have hlen : (leBytes 4 y.toNat).length = 4 := leBytes_length 4 _
  refine ⟨setBytesKey_memoryOnly 0 _ t _, ?_, ?_, fun b h => setBytes_byte_away hm hb hlen h⟩
  · rw [State.dqTop, bytes_setBytes_away hm hb hlen (hk.head (by omega)) (.inl (Nat.le_refl _))]
    rfl
  · rw [State.dqBottom, bytes_setBytes_same hm hb hlen]
    exact ofNat_leNat_leBytes y

theorem top_written (x : Word) : DequeIs t (t.setBytes cell (leBytes 4 x.toNat)) cell x (t.dqBottom cell) (Away cell 4) := by
  have hb : Unkeyed cell 4 := hk.head (by omega)
  have hlen : (leBytes 4 x.toNat).length = 4 := leBytes_length 4 _
  refine ⟨setBytesKey_memoryOnly 0 _ t _, ?_, ?_, fun b h => setBytes_byte_away hm hb hlen h⟩
  · rw [State.dqTop, bytes_setBytes_same hm hb hlen]
    exact ofNat_leNat_leBytes x
  · rw [State.dqBottom, bytes_setBytes_away hm hb hlen (hk.part (by omega)) (.inr (Nat.le_refl _))]
    rfl

/-- Bytes of items are written: TOP and BOTTOM stay. -/
theorem items_written {o n : Nat} {vs : List Byte} (hn : vs.length = n) (ho : 8 ≤ o) (hle : o + n ≤ 2112) :
    DequeIs t (t.setBytes (cell + o) vs) cell (t.dqTop cell) (t.dqBottom cell) (Away (cell + o) n) := by
  have hb : Unkeyed (cell + o) n := hk.part hle
  refine ⟨setBytesKey_memoryOnly 0 _ t _, ?_, ?_, fun b h => setBytes_byte_away hm hb hn h⟩
  · rw [State.dqTop, bytes_setBytes_away hm hb hn (hk.head (by omega)) (.inl (by omega))]
    rfl
  · rw [State.dqBottom, bytes_setBytes_away hm hb hn (hk.part (by omega)) (.inl (by omega))]
    rfl

/-- A push writes the item and then BOTTOM. -/
theorem dqPush_pushes {item : List Byte} (hroom : t.dqHeld cell < 128) (hlen : item.length = 16) :
    ∃ u, t.dqPush cell item = some u ∧ u.bytes (State.dqItem cell (t.dqBottom cell)) 16 = item
      ∧ DequeIs t u cell (t.dqTop cell) (t.dqBottom cell + 1)
        (fun b => Away (State.dqItem cell (t.dqBottom cell)) 16 b ∧ Away (cell + 4) 4 b) := by
  have hpush : t.dqPush cell item = some ((t.setBytes (State.dqItem cell (t.dqBottom cell)) item).setBytes (cell + 4)
      (leBytes 4 (t.dqBottom cell + 1).toNat)) := if_neg (by omega)
  refine ⟨_, hpush, ?_⟩
  obtain ⟨o, ho, h64, h2112⟩ := dqItem_within cell (t.dqBottom cell)
  rw [ho]
  have hm' : MemInv (t.setBytes (cell + o) item) := setBytes_wf t _ item hm
  obtain ⟨honly, htop, hbottom, hothers⟩ := items_written hm hk hlen (by omega) h2112
  obtain ⟨honly', htop', hbottom', hothers'⟩ := bottom_written hm' hk (t.dqBottom cell + 1)
  refine ⟨?_, honly.trans honly', htop'.trans htop, hbottom', fun b h => (hothers' b h.2).trans (hothers b h.1)⟩
  rw [bytes_setBytes_away hm' (hk.part (by omega)) (leBytes_length 4 _) (hk.part h2112) (.inr (by omega))]
  exact bytes_setBytes_same hm (hk.part h2112) hlen

/-- The youngest item is taken: BOTTOM falls. -/
theorem dqPop_takes {one : Bool} (hheld : t.dqHeld cell ≠ 0)
    (hwhole : one = false ∨ field (t.bytes (State.dqItem cell (t.dqBottom cell - 1)) 16) 0 1 ≠ 1
      ∨ field (t.bytes (State.dqItem cell (t.dqBottom cell - 1)) 16) 12 4 ≤ 1) :
    ∃ u, t.dqPop cell one = some (t.bytes (State.dqItem cell (t.dqBottom cell - 1)) 16, u)
      ∧ DequeIs t u cell (t.dqTop cell) (t.dqBottom cell - 1) (Away (cell + 4) 4) := by
  refine ⟨_, ?_, bottom_written hm hk (t.dqBottom cell - 1)⟩
  have hno : (one && field (t.bytes (State.dqItem cell (t.dqBottom cell - 1)) 16) 0 1 == 1
      && decide (1 < field (t.bytes (State.dqItem cell (t.dqBottom cell - 1)) 16) 12 4)) = false := by
    rcases hwhole with h | h | h
    · rw [h, Bool.false_and, Bool.false_and]
    · rw [beq_eq_false_iff_ne.mpr h, Bool.and_false, Bool.false_and]
    · rw [decide_eq_false (Nat.not_lt.mpr h), Bool.and_false]
  simp only [State.dqPop, hheld, hno, Bool.false_eq_true, if_false]

/-- One index of a range is taken: the rest stays where it was. -/
theorem dqPop_takesOne (hheld : t.dqHeld cell ≠ 0)
    (hrange : field (t.bytes (State.dqItem cell (t.dqBottom cell - 1)) 16) 0 1 = 1)
    (hmany : 1 < field (t.bytes (State.dqItem cell (t.dqBottom cell - 1)) 16) 12 4) :
    ∃ u, t.dqPop cell true = some ((t.bytes (State.dqItem cell (t.dqBottom cell - 1)) 16).take 12 ++ leBytes 4 1, u)
      ∧ DequeIs t u cell (t.dqTop cell) (t.dqBottom cell) (Away (State.dqItem cell (t.dqBottom cell - 1) + 8) 8) := by
  have hpop : t.dqPop cell true = some ((t.bytes (State.dqItem cell (t.dqBottom cell - 1)) 16).take 12 ++ leBytes 4 1,
      t.setBytes (State.dqItem cell (t.dqBottom cell - 1) + 8)
        (leBytes 4 (field (t.bytes (State.dqItem cell (t.dqBottom cell - 1)) 16) 8 4 + 1)
          ++ leBytes 4 (field (t.bytes (State.dqItem cell (t.dqBottom cell - 1)) 16) 12 4 - 1))) := by
    simp only [State.dqPop, hheld, hrange, hmany, beq_self_eq_true, Bool.and_self, decide_true, if_false, if_true]
  refine ⟨_, hpop, ?_⟩
  obtain ⟨o, ho, h64, h2112⟩ := dqItem_within cell (t.dqBottom cell - 1)
  rw [ho, Nat.add_assoc]
  exact items_written hm hk (by rw [List.length_append, leBytes_length, leBytes_length]) (by omega) (by omega)

/-- The oldest item is taken: TOP rises. -/
theorem dqSteal_takes (hheld : t.dqHeld cell ≠ 0) :
    ∃ u, t.dqSteal cell = some (t.bytes (State.dqItem cell (t.dqTop cell)) 16, u)
      ∧ DequeIs t u cell (t.dqTop cell + 1) (t.dqBottom cell) (Away cell 4) :=
  ⟨_, if_neg hheld, top_written hm hk (t.dqTop cell + 1)⟩

end Deque

/-! ### The deque instructions (R350, R351) -/

section DequeOps

variable {s t : State} {q : BitVec 4} {m : MemOp} {c : CReg} {l : Loc}

theorem memoryOnly_ctx {u : State} (h : MemoryOnly t u) : u.ctx = t.ctx := by
  obtain ⟨-, -, hctx, -⟩ := h.keeps
  exact hctx

theorem replayMode_memoryOnly {u : State} (h : MemoryOnly t u) : u.replayMode = t.replayMode := by
  obtain ⟨⟨_, _, _, rfl⟩, -⟩ := h
  rfl

/-- An item on its way to the registers of a deque instruction. -/
def itemLanded (q : BitVec 4) (c : CReg) (it : List Byte) (u : State) : State :=
  (((u.write 1 (.d (BitVec.ofNat 6 (4 * q.toNat)) (Dom.single (BitVec.ofNat 32 (field it 0 1))))).write 1
      (.d (BitVec.ofNat 6 (4 * q.toNat + 1)) (Dom.single (BitVec.ofNat 32 (field it 8 4))))).write 1
    (.d (BitVec.ofNat 6 (4 * q.toNat + 2)) (Dom.single (BitVec.ofNat 32 (field it 12 4))))).write 1 (.c c false)

theorem wqpush_kind (ha : Alone s) {k a b : Word} (hk : single s (quadReg q 0) = .ok k) (hx : single s (quadReg q 1) = .ok a)
    (hy : single s (quadReg q 2) = .ok b) (h : k.toNat = 0 ∨ 3 < k.toNat) : Traps (.wqpush q m c) s s tProt := by
  have hbad : (decide (1 ≤ k.toNat) && decide (k.toNat ≤ 3)) = false := by
    rcases h with h | h <;> simp [h]
  refine syllable_traps ha ?_
  simp only [wqpush, hk, hx, hy, hbad, need_false, eff_ok_bind, eff_error_bind]

section Push

variable {k a b : Word} (hk : single s (quadReg q 0) = .ok k) (hx : single s (quadReg q 1) = .ok a)
  (hy : single s (quadReg q 2) = .ok b) (h1 : 1 ≤ k.toNat) (h3 : k.toNat ≤ 3) (hop : dqOperand m s = .ok (l, t))
  (hrel : t.ctx.performed (BitVec.allOnes 16) false = true)

include hk hx hy h1 h3 hop hrel

theorem wqpush_full (h : t.dqPush l.cell (leBytes 8 k.toNat ++ leBytes 4 a.toNat ++ leBytes 4 b.toNat) = none) :
    wqpush q m c s = .ok (t.write 1 (.c c true)) := by
  have hreleased : released t deviceScope = .ok () := fencing_ok (scope := deviceScope) hrel
  simp only [wqpush, hk, hx, hy, h1, h3, hop, hreleased, h, decide_true, Bool.and_self, need_true, eff_ok_bind]

theorem wqpush_puts {u : State} (h : t.dqPush l.cell (leBytes 8 k.toNat ++ leBytes 4 a.toNat ++ leBytes 4 b.toNat) = some u) :
    wqpush q m c s = .ok (u.write 1 (.c c false)) := by
  have hreleased : released t deviceScope = .ok () := fencing_ok (scope := deviceScope) hrel
  simp only [wqpush, hk, hx, hy, h1, h3, hop, hreleased, h, decide_true, Bool.and_self, need_true, eff_ok_bind]

end Push

section Take

variable {take : State → Nat → Option (List Byte × State)} (hop : dqOperand m s = .ok (l, t)) (hmode : t.replayMode = 0)

include hop hmode

theorem wqtake_empty (h : take t l.cell = none) : wqtake take q m c s = .ok (t.write 1 (.c c true)) := by
  have hnot : (t.replayMode == 2) = false := by rw [hmode]; rfl
  simp only [wqtake, hop, h, hnot, record_off hmode, eff_ok_bind, Bool.false_eq_true, if_false]

theorem wqtake_takes {it : List Byte} {u : State} (h : take t l.cell = some (it, u)) (hu : MemoryOnly t u) :
    wqtake take q m c s = .ok (itemLanded q c it u) := by
  have hnot : (t.replayMode == 2) = false := by rw [hmode]; rfl
  have humode : u.replayMode = 0 := (replayMode_memoryOnly hu).trans hmode
  simp only [wqtake, hop, h, hnot, record_off humode, eff_ok_bind, Bool.false_eq_true, if_false]
  rfl

end Take

theorem takes_completes {i : Instr} {take : State → Nat → Option (List Byte × State)} (ha : Alone s)
    (hi : exec i s = syllable (wqtake take q m c) s) (hop : dqOperand m s = .ok (l, t)) (hmode : t.replayMode = 0) {it : List Byte}
    {u : State} (h : take t l.cell = some (it, u)) (hu : MemoryOnly t u) (hroom : Room (itemLanded q c it u)) :
    Completes i s (itemLanded q c it u) :=
  hi.trans (syllable_completes ha (wqtake_takes hop hmode h hu) hroom)

end DequeOps

theorem deques : Claims.Deques := by
  intro s q m c l t ha hreplay hop hm hk hctx hissue held top bottom item full takes away
  have hmode : t.replayMode = 0 := replayMode_off ⟨hissue ▸ ha.1, hissue ▸ ha.2⟩ (hctx ▸ hreplay)
  refine ⟨fun k a b hk' ha' hb' => ⟨?kind, fun h1 h3 hrel => ⟨?pushFull, ?push⟩⟩, ?empty, fun hheld => ⟨?pop, ?steal, ?popOne, ?one⟩⟩
  case kind =>
    exact wqpush_kind ha (single_of_dom ha hk') (single_of_dom ha ha') (single_of_dom ha hb')
  case pushFull =>
    exact fun hfull => syllable_completes ha
      (wqpush_full (single_of_dom ha hk') (single_of_dom ha ha') (single_of_dom ha hb') h1 h3 hop hrel (dqPush_full hfull))
  case push =>
    intro hroom
    have hlen : (leBytes 8 k.toNat ++ leBytes 4 a.toNat ++ leBytes 4 b.toNat).length = 16 := by
      rw [List.length_append, List.length_append, leBytes_length, leBytes_length, leBytes_length]
    obtain ⟨u, hpush, hitem, honly, htop, hbottom, hothers⟩ := dqPush_pushes hm hk hroom hlen
    refine ⟨u, hbottom, htop, hitem, memoryOnly_ctx honly, fun x hx hx' => hothers x ⟨hx, hx'⟩, ?_⟩
    exact syllable_completes ha
      (wqpush_puts (single_of_dom ha hk') (single_of_dom ha ha') (single_of_dom ha hb') h1 h3 hop hrel hpush)
  case empty =>
    intro hempty
    exact ⟨syllable_completes ha (wqtake_empty hop hmode (dqPop_empty hempty)),
      syllable_completes ha (wqtake_empty hop hmode (dqPop_empty hempty)),
      syllable_completes ha (wqtake_empty hop hmode (dqSteal_empty hempty))⟩
  case pop =>
    obtain ⟨u, hpop, honly, htop, hbottom, hothers⟩ := dqPop_takes (one := false) hm hk hheld (.inl rfl)
    have hdone := takes_completes (i := .wqpop q m c) (take := fun s a => s.dqPop a false) ha rfl hop hmode hpop honly
    exact ⟨u, memoryOnly_ctx honly, ⟨htop, hbottom⟩, hothers, hdone⟩
  case steal =>
    obtain ⟨u, hsteal, honly, htop, hbottom, hothers⟩ := dqSteal_takes hm hk hheld
    have hdone := takes_completes (i := .wqsteal q m c) (take := State.dqSteal) ha rfl hop hmode hsteal honly
    exact ⟨u, memoryOnly_ctx honly, ⟨htop, hbottom⟩, hothers, hdone⟩
  case popOne =>
    intro hwhole
    obtain ⟨u, hpop, honly, htop, hbottom, hothers⟩ := dqPop_takes (one := true) hm hk hheld (.inr hwhole)
    have hdone := takes_completes (i := .wqpopOne q m c) (take := fun s a => s.dqPop a true) ha rfl hop hmode hpop honly
    exact ⟨u, memoryOnly_ctx honly, ⟨htop, hbottom⟩, hothers, hdone⟩
  case one =>
    intro hrange hmany
    obtain ⟨u, hpop, honly, htop, hbottom, hothers⟩ := dqPop_takesOne hm hk hheld hrange hmany
    have hdone := takes_completes (i := .wqpopOne q m c) (take := fun s a => s.dqPop a true) ha rfl hop hmode hpop honly
    exact ⟨u, memoryOnly_ctx honly, ⟨htop, hbottom⟩, hothers, hdone⟩

/-- Settles O34: barrier words by the case each instruction meets, and a deque by what its operation writes at its home. -/
theorem barriersAndDeques : Obligations.BarriersAndDeques := ⟨barrierWords, deques⟩

end Sys2Proof.Proofs.Regions

/-!
O57 and O59, what they share: reading a region after an update, and the subtree of a region (R103, R107, R109).
-/

namespace Sys2Proof.Proofs.Regions

open Sys2Proof Sys2Proof.Machine Sys2Proof.Safety Sys2Proof.Laws Sys2Proof.Proofs.Package Sys2Proof.Proofs.Links Sys2Proof.Proofs.Launch

/-! ### A region after an update -/

theorem toNat_ne {x r : BitVec 12} (h : x ≠ r) : x.toNat ≠ r.toNat := fun he => h (BitVec.eq_of_toNat_eq he)

theorem region_congr {s t : State} (h : t.regions = s.regions) (x : BitVec 12) : t.region x = s.region x :=
  congrArg (fun m : Assoc Region => Assoc.find? m x.toNat) h

/-- A core depends on the cores alone. -/
theorem core_congr {s t : State} (h : t.cores = s.cores) (k : Nat) : t.core k = s.core k :=
  congrArg (fun m : Assoc Core => Assoc.get ({} : Core) m k) h

theorem setRegion_region (s : State) (r : BitVec 12) (g : Region) (x : BitVec 12) :
    (s.setRegion r g).region x = if x = r then some g else s.region x := by
  refine (find?_set s.regions x.toNat r.toNat g).trans ?_
  by_cases h : x = r
  · rw [h, if_pos rfl, if_pos rfl]
  · rw [if_neg h, if_neg (toNat_ne h)]
    rfl

theorem modRegion_region (s : State) (r : BitVec 12) (f : Region → Region) (x : BitVec 12) :
    (s.modRegion r f).region x = if x = r then (s.region r).map f else s.region x := by
  unfold State.modRegion
  split
  next g hg => rw [setRegion_region, hg, Option.map_some]
  next hg =>
    by_cases h : x = r
    · rw [if_pos h, h, hg]
      rfl
    · rw [if_neg h]

theorem dropRegion_region (s : State) (r x : BitVec 12) : (s.dropRegion r).region x = if x = r then none else s.region x := by
  refine (find?_erase s.regions x.toNat r.toNat).trans ?_
  by_cases h : x = r
  · rw [h, if_pos rfl, if_pos rfl]
  · rw [if_neg h, if_neg (toNat_ne h)]
    rfl

/-- A change that is made of some regions in turn, and leaves what it has made. -/
theorem foldl_updates_region {F : State → BitVec 12 → State} {f : Option Region → Option Region}
    (hF : ∀ t y x, (F t y).region x = if x = y then f (t.region y) else t.region x) (hf : ∀ o, f (f o) = f o)
    (l : List (BitVec 12)) (s : State) (x : BitVec 12) : (l.foldl F s).region x = if x ∈ l then f (s.region x) else s.region x := by
  induction l generalizing s with
  | nil => rfl
  | cons y rest ih =>
    rw [List.foldl_cons, ih, hF]
    by_cases hx : x = y
    · subst hx
      simp [hf]
    · simp [hx]

theorem map_map_self {f : Region → Region} (hf : ∀ g, f (f g) = f g) (o : Option Region) : (o.map f).map f = o.map f := by
  rw [Option.map_map]
  exact congrArg (fun p => o.map p) (funext hf)

theorem foldl_modRegion_region {f : Region → Region} (hf : ∀ g, f (f g) = f g) (l : List (BitVec 12)) (s : State) (x : BitVec 12) :
    (l.foldl (fun t y => t.modRegion y f) s).region x = if x ∈ l then (s.region x).map f else s.region x :=
  foldl_updates_region (fun t y z => modRegion_region t y f z) (map_map_self hf) l s x

theorem foldl_dropRegion_region (l : List (BitVec 12)) (s : State) (x : BitVec 12) :
    (l.foldl (fun t y => t.dropRegion y) s).region x = if x ∈ l then none else s.region x :=
  foldl_updates_region (f := fun _ => none) dropRegion_region (fun _ => rfl) l s x

/-! ### Regions recorded in their control blocks (R103) -/

/-- `t` is `s` but for what it holds of the regions, and for accesses to memory. -/
def Recorded (s t : State) : Prop := ∃ m, Accessed { s with regions := m } t

theorem Recorded.refl (s : State) : Recorded s s := ⟨_, .refl s⟩

theorem Recorded.trans {s t u : State} (h : Recorded s t) (h' : Recorded t u) : Recorded s u := by
  obtain ⟨m, _, _, _, _, _, _, _, rfl⟩ := h
  obtain ⟨m', _, _, _, _, _, _, _, rfl⟩ := h'
  exact ⟨m', _, _, _, _, _, _, _, rfl⟩

theorem recorded_of_accessed {s t : State} (h : Accessed s t) : Recorded s t := ⟨_, h⟩

theorem foldl_recorded {α : Type} {f : State → α → State} (hf : ∀ t x, Recorded t (f t x)) (l : List α) (s : State) :
    Recorded s (l.foldl f s) :=
  List.foldlRecOn (motive := fun t => Recorded s t) _ _ (.refl s) fun t ht x _ => ht.trans (hf t x)

theorem Recorded.keeps {s t : State} (h : Recorded s t) : t.cores = s.cores ∧ t.lives = s.lives ∧ t.dist = s.dist
    ∧ t.sched = s.sched ∧ t.lfe.launches = s.lfe.launches := by
  obtain ⟨m, _, _, _, _, _, _, _, rfl⟩ := h
  exact ⟨rfl, rfl, rfl, rfl, rfl⟩

theorem modRegion_recorded (s : State) (r : BitVec 12) (f : Region → Region) : Recorded s (s.modRegion r f) := by
  unfold State.modRegion
  split
  · exact ⟨_, .refl _⟩
  · exact .refl s

theorem setRegionState_recorded (s : State) (r : BitVec 12) (x : RegionState) : Recorded s (s.setRegionState r x) :=
  (modRegion_recorded s r _).trans (recorded_of_accessed (writeRcb_accessed _ r 4 _))

theorem setRegionState_region (s : State) (r : BitVec 12) (st : RegionState) (x : BitVec 12) :
    (s.setRegionState r st).region x = if x = r then (s.region r).map (fun g => { g with state := st }) else s.region x := by
  obtain ⟨-, -, hregions, -⟩ := (writeRcb_accessed (s.modRegion r (fun g => { g with state := st })) r 4 [st.code]).keeps
  exact (region_congr hregions x).trans (modRegion_region s r _ x)

/-! ### The subtree of a region -/

theorem mem_keys_of_find? {α : Type} {m : Assoc α} {k : Nat} {v : α} (h : Assoc.find? m k = some v) : k ∈ Assoc.keys m :=
  List.mem_map.mpr ⟨(k, v), mem_of_find? m k h, rfl⟩

theorem mem_keys_set {α : Type} (m : Assoc α) (k : Nat) (v : α) (j : Nat) :
    j ∈ Assoc.keys (Assoc.set m k v) ↔ j = k ∨ j ∈ Assoc.keys m := by
  induction m with
  | nil => simp [Assoc.set, Assoc.keys]
  | cons e rest ih =>
    obtain ⟨i, a⟩ := e
    unfold Assoc.keys at ih ⊢
    by_cases hik : i = k
    · simp [Assoc.set, hik]
    · by_cases hki : k < i
      · simp [Assoc.set, hik, hki]
      · simp only [Assoc.set, hik, hki, if_false, List.map_cons, List.mem_cons, ih]
        tauto

/-- `t` has the regions of `s`, and each has its parent: the trees are the same. -/
structure SameTree (s t : State) : Prop where
  keys : ∀ k, k ∈ Assoc.keys t.regions ↔ k ∈ Assoc.keys s.regions
  parent : ∀ x, (t.region x).map Region.parent = (s.region x).map Region.parent

theorem SameTree.refl (s : State) : SameTree s s := ⟨fun _ => Iff.rfl, fun _ => rfl⟩

theorem SameTree.trans {s t u : State} (h : SameTree s t) (h' : SameTree t u) : SameTree s u :=
  ⟨fun k => (h'.keys k).trans (h.keys k), fun x => (h'.parent x).trans (h.parent x)⟩

theorem sameTree_of_regions {s t : State} (h : t.regions = s.regions) : SameTree s t :=
  ⟨fun k => by rw [h], fun x => by rw [region_congr h]⟩

theorem modRegion_sameTree (s : State) (r : BitVec 12) {f : Region → Region} (hf : ∀ g, (f g).parent = g.parent) :
    SameTree s (s.modRegion r f) := by
  refine ⟨fun k => ?_, fun x => ?_⟩
  · unfold State.modRegion
    split
    next g hg =>
      refine (mem_keys_set s.regions r.toNat (f g) k).trans ⟨fun h => ?_, .inr⟩
      exact h.elim (fun he => he ▸ mem_keys_of_find? hg) id
    · rfl
  · rw [modRegion_region]
    split
    next hx =>
      rw [hx, Option.map_map]
      exact congrArg (fun p => (s.region r).map p) (funext hf)
    · rfl

theorem foldl_sameTree {α : Type} {f : State → α → State} (hf : ∀ t x, SameTree t (f t x)) (l : List α) (s : State) :
    SameTree s (l.foldl f s) :=
  List.foldlRecOn (motive := fun t => SameTree s t) _ _ (.refl s) fun t ht x _ => ht.trans (hf t x)

theorem SameTree.isAncestor {s t : State} (h : SameTree s t) (n : Nat) (r x : BitVec 12) : t.isAncestor n r x = s.isAncestor n r x := by
  induction n generalizing x with
  | zero => rfl
  | succ n ih =>
    have hparent := h.parent x
    simp only [State.isAncestor, ih]
    cases hs : s.region x <;> cases ht : t.region x <;> simp_all

theorem mem_subtree {s : State} {r x : BitVec 12} :
    x ∈ s.subtree r ↔ (∃ k ∈ Assoc.keys s.regions, BitVec.ofNat 12 k = x) ∧ s.isAncestor 9 r x = true := by
  simp only [State.subtree, Assoc.keys, List.mem_filter, List.mem_map, exists_exists_and_eq_and]

theorem SameTree.mem_subtree {s t : State} (h : SameTree s t) (r x : BitVec 12) : x ∈ t.subtree r ↔ x ∈ s.subtree r := by
  rw [Regions.mem_subtree, Regions.mem_subtree, h.isAncestor]
  simp only [h.keys]

/-- A region stands in the subtree of each of its ancestors. -/
theorem mem_subtree_of_region {s : State} {r x : BitVec 12} (hx : s.region x ≠ none) (h : s.isAncestor 9 r x = true) :
    x ∈ s.subtree r := by
  obtain ⟨g, hg⟩ := Option.ne_none_iff_exists'.mp hx
  exact Regions.mem_subtree.mpr ⟨⟨x.toNat, mem_keys_of_find? hg, by rw [BitVec.ofNat_toNat, BitVec.setWidth_eq]⟩, h⟩

theorem isAncestor_of_mem {s : State} {r x : BitVec 12} (h : x ∈ s.subtree r) : s.isAncestor 9 r x = true :=
  (Regions.mem_subtree.mp h).2

theorem isAncestor_self (s : State) (r : BitVec 12) : s.isAncestor 9 r r = true := by
  rw [State.isAncestor, beq_self_eq_true, Bool.true_or]

/-! ### Traffic (R75, R109) -/

/-- Whether the traffic of some regions has drained depends on the mesh, the links and which regions they are. -/
theorem quiet_congr {s t : State} (hmesh : t.mesh = s.mesh) (hlinks : t.links = s.links) {rs rs' : List (BitVec 12)}
    (h : ∀ x, x ∈ rs' ↔ x ∈ rs) : t.quiet rs' = s.quiet rs := by
  have hcontains (x : BitVec 12) : rs'.contains x = rs.contains x := by
    rw [Bool.eq_iff_iff, List.contains_iff_mem, List.contains_iff_mem, h]
  simp only [State.quiet, State.packets, hmesh, hlinks, hcontains]

end Sys2Proof.Proofs.Regions

/-!
O57 and O59, what stops with some regions (R109 step 1): the cores of their tasks, and what such a stop leaves.
-/

namespace Sys2Proof.Proofs.Regions

open Sys2Proof Sys2Proof.Machine Sys2Proof.Safety Sys2Proof.Laws Sys2Proof.Proofs.Package Sys2Proof.Proofs.Links Sys2Proof.Proofs.Launch

/-! ### What a stop leaves -/

/-- Work has stopped: at most cores, lookup cores, tiles and memory are not as they were, and what the regions hold of it. -/
structure Stopped (s t : State) : Prop where
  regions : t.regions = s.regions
  mesh : t.mesh = s.mesh
  links : t.links = s.links
  lfe : t.lfe = s.lfe
  launch : ∀ x, (t.life x).launch = (s.life x).launch

theorem Stopped.refl (s : State) : Stopped s s := ⟨rfl, rfl, rfl, rfl, fun _ => rfl⟩

theorem Stopped.trans {s t u : State} (h : Stopped s t) (h' : Stopped t u) : Stopped s u :=
  ⟨h'.regions.trans h.regions, h'.mesh.trans h.mesh, h'.links.trans h.links, h'.lfe.trans h.lfe,
    fun x => (h'.launch x).trans (h.launch x)⟩

theorem foldl_stopped {α : Type} {f : State → α → State} (hf : ∀ t x, Stopped t (f t x)) (l : List α) (s : State) :
    Stopped s (l.foldl f s) :=
  List.foldlRecOn (motive := fun t => Stopped s t) _ _ (.refl s) fun t ht x _ => ht.trans (hf t x)

theorem stopped_of_memoryOnly {s t : State} (h : MemoryOnly s t) : Stopped s t := by
  obtain ⟨⟨_, _, _, rfl⟩, -⟩ := h
  exact ⟨rfl, rfl, rfl, rfl, fun _ => rfl⟩

theorem setBytesKey_stopped (s : State) (key : BitVec 8) (a : Nat) (vs : List Byte) : Stopped s (s.setBytesKey key a vs) :=
  stopped_of_memoryOnly (setBytesKey_memoryOnly key vs s a)

theorem modCore_stopped (s : State) (k : Nat) (f : Core → Core) : Stopped s (s.modCore k f) := ⟨rfl, rfl, rfl, rfl, fun _ => rfl⟩

theorem setLookup_stopped (s : State) (n : Nat) (x : Lookup) : Stopped s (s.setLookup n x) := ⟨rfl, rfl, rfl, rfl, fun _ => rfl⟩

theorem freeLease_stopped (s : State) (k : Nat) : Stopped s (s.freeLease k) := by
  unfold State.freeLease
  split <;> exact ⟨rfl, rfl, rfl, rfl, fun _ => rfl⟩

theorem dropConts_stopped (s : State) (c : Assoc Core) (l : Assoc Lookup) : Stopped s { s with cores := c, lookups := l } :=
  ⟨rfl, rfl, rfl, rfl, fun _ => rfl⟩

theorem forgetConts_stopped (s : State) (r : BitVec 12) : Stopped s (s.modLife r (fun l => { l with conts := [] })) := by
  refine ⟨rfl, rfl, rfl, rfl, fun x => ?_⟩
  rw [State.modLife, setLife_life]
  split
  next h => rw [h]
  · rfl

theorem clearBinds_memoryOnly (rs : List (BitVec 12)) (k : Nat) (s : State) : MemoryOnly s (clearBinds rs k s) := by
  refine List.foldlRecOn (motive := fun t => MemoryOnly s t) _ _ (.refl s) fun t ht i _ => ht.trans ?_
  dsimp only
  split
  · exact setBytesKey_memoryOnly 0 _ t _
  · exact .refl t

theorem clearDeques_memoryOnly (r : BitVec 12) (s : State) : MemoryOnly s (clearDeques r s) := by
  unfold clearDeques
  split
  · exact .refl s
  next g hg =>
    split
    · exact .refl s
    · refine List.foldlRecOn (motive := fun t => MemoryOnly s t) _ _ (.refl s) fun t ht k _ => ht.trans ?_
      split
      · exact setBytesKey_memoryOnly 0 _ t _
      · exact .refl t

/-! ### Cores that stop -/

/-- Core `k` runs no task, and its engines are idle. -/
def CoreIdle (s : State) (k : Nat) : Prop :=
  (s.core k).user.running = false ∧ (s.core k).mat.state = .idle ∧ (s.core k).cpy.state = .idle

theorem coreIdle_congr {s t : State} (h : t.cores = s.cores) {k : Nat} (hk : CoreIdle s k) : CoreIdle t k := by
  rwa [CoreIdle, core_congr h]

/-- A core whose user context and engines have stopped. -/
def stoppedCore (c : Core) : Core :=
  { c with
    user := c.user.stop, mat := {}, cpy := {}, index := none, engHeld := false
    quill := { c.quill with flush := c.quill.flush || c.quill.fifo != [] || c.quill.part != [] }
    fw := { c.fw with waits := { c.fw.waits with idle := false } } }

/-- A core stops where its lease has ended. -/
def leaseLeft (s : State) (k : Nat) : State := (s.freeLease k).modLease (k / 4) (fun l => l.noWait (k % 4) s.cycle)

theorem stopCore_eq (s : State) (k : Nat) : s.stopCore k = (leaseLeft s k).modCore k stoppedCore := by
  simp only [State.stopCore]
  rfl

theorem leaseLeft_core (s : State) (k j : Nat) : (leaseLeft s k).core j = s.core j :=
  core_congr (freeLease_keeps s k).1 j

theorem stopCore_core (s : State) (k j : Nat) : (s.stopCore k).core j = if j = k then stoppedCore (s.core k) else s.core j := by
  rw [stopCore_eq, modCore_core, leaseLeft_core, leaseLeft_core]

theorem stopCore_stopped (s : State) (k : Nat) : Stopped s (s.stopCore k) := by
  have hlease : Stopped s (leaseLeft s k) := (freeLease_stopped s k).trans ⟨rfl, rfl, rfl, rfl, fun _ => rfl⟩
  rw [stopCore_eq]
  exact hlease.trans (modCore_stopped _ k _)

theorem stopCore_idle (s : State) (k : Nat) {j : Nat} (h : j = k ∨ CoreIdle s j) : CoreIdle (s.stopCore k) j := by
  rw [CoreIdle, stopCore_core]
  split
  · exact ⟨rfl, rfl, rfl⟩
  next hne => exact h.resolve_left hne

theorem foldl_stopCore_idle (l : List Nat) (s : State) {k : Nat} (h : k ∈ l ∨ CoreIdle s k) :
    CoreIdle (l.foldl (fun t j => t.stopCore j) s) k := by
  induction l generalizing s with
  | nil => exact h.resolve_left List.not_mem_nil
  | cons j rest ih =>
    rw [List.mem_cons, or_assoc, or_left_comm] at h
    exact ih _ (h.imp_right (stopCore_idle s j))

theorem unpark_idle (s : State) (j : Nat) {k : Nat} (h : CoreIdle s k) : CoreIdle (s.modCore j (fun c => { c with parked := none })) k := by
  rw [CoreIdle, modCore_core]
  split
  next hk => subst hk; exact h
  · exact h

theorem get_map {α : Type} (f : α → α) (d : α) (m : Assoc α) (k : Nat) :
    Assoc.get (f d) (m.map (fun e => (e.1, f e.2))) k = f (Assoc.get d m k) := by
  induction m with
  | nil => rfl
  | cons e rest ih =>
    by_cases h : e.1 = k
    · simp [Assoc.get, h]
    · simpa [Assoc.get, h] using ih

theorem dropConts_idle (s : State) (recs : List (BitVec 52)) (l : Assoc Lookup) {k : Nat} (h : CoreIdle s k) :
    CoreIdle { s with cores := s.cores.map (fun e => (e.1, { e.2 with user := e.2.user.dropConts recs })), lookups := l } k := by
  have hcore : Assoc.get ({} : Core) (s.cores.map (fun e => (e.1, { e.2 with user := e.2.user.dropConts recs }))) k
      = { s.core k with user := (s.core k).user.dropConts recs } :=
    get_map (fun c : Core => { c with user := c.user.dropConts recs }) {} s.cores k
  simp only [CoreIdle, State.core, hcore]
  exact h

/-! ### Everything that runs for some regions stops -/

/-- A stop, and a core that is idle from some point of it on. -/
def Stops (k : Nat) (s t : State) : Prop := Stopped s t ∧ (CoreIdle s k → CoreIdle t k)

theorem Stops.trans {k : Nat} {s t u : State} (h : Stops k s t) (h' : Stops k t u) : Stops k s u :=
  ⟨h.1.trans h'.1, h'.2 ∘ h.2⟩

theorem foldl_stops {k : Nat} {α : Type} {f : State → α → State} (hf : ∀ t x, Stops k t (f t x)) (l : List α) (s : State) :
    Stops k s (l.foldl f s) :=
  List.foldlRecOn (motive := fun t => Stops k s t) _ _ ⟨.refl s, id⟩ fun t ht x _ => ht.trans (hf t x)

theorem stops_of_memoryOnly (k : Nat) {s t : State} (h : MemoryOnly s t) : Stops k s t := by
  obtain ⟨-, -, -, hcores⟩ := h.keeps
  exact ⟨stopped_of_memoryOnly h, coreIdle_congr hcores⟩

/-- The cores that run a task of some regions. -/
def taskCores (rs : List (BitVec 12)) (s : State) : List Nat :=
  (s.cores.filter (fun e => e.2.user.running && rs.contains e.2.user.id.region)).map (·.1)

theorem dropConts_stops (s : State) (recs : List (BitVec 52)) (k : Nat) :
    Stops k s (if recs = [] then s else
      { s with cores := s.cores.map (fun e => (e.1, { e.2 with user := e.2.user.dropConts recs }))
               lookups := s.lookups.map (fun e => (e.1, { e.2 with ctx := e.2.ctx.dropConts recs })) }) := by
  split
  · exact ⟨.refl _, id⟩
  · exact ⟨dropConts_stopped _ _ _, dropConts_idle _ _ _⟩

/-- After its tasks' cores, whatever else stops for some regions leaves an idle core idle. -/
theorem stopRegions_stops (rs : List (BitVec 12)) (s : State) (k : Nat) :
    Stops k ((taskCores rs s).foldl (fun t j => t.stopCore j) s) (stopRegions rs s) := by
  unfold stopRegions
  dsimp only
  refine .trans ?_ (foldl_stops (fun t r => stops_of_memoryOnly k (clearDeques_memoryOnly r t)) _ _)
  refine .trans ?_ (foldl_stops (fun t j => stops_of_memoryOnly k (clearBinds_memoryOnly rs j t)) _ _)
  refine .trans ?_ (foldl_stops (fun t r => ⟨forgetConts_stopped t r, id⟩) _ _)
  refine .trans ?_ (dropConts_stops _ _ k)
  refine .trans ?_ (foldl_stops (fun t n => ⟨setLookup_stopped t n _, id⟩) _ _)
  exact foldl_stops (fun t j => ⟨modCore_stopped t j _, unpark_idle t j⟩) _ _

theorem stopRegions_stopped (rs : List (BitVec 12)) (s : State) : Stopped s (stopRegions rs s) :=
  (foldl_stopped stopCore_stopped _ s).trans (stopRegions_stops rs s 0).1

theorem stopRegions_idle {rs : List (BitVec 12)} {s : State} {k : Nat} {c : Core} (hk : (k, c) ∈ s.cores)
    (hrun : c.user.running = true) (hr : c.user.id.region ∈ rs) : CoreIdle (stopRegions rs s) k := by
  refine (stopRegions_stops rs s k).2 (foldl_stopCore_idle _ s (.inl (List.mem_map.mpr ⟨(k, c), List.mem_filter.mpr ⟨hk, ?_⟩, rfl⟩)))
  simp [hrun, hr]

end Sys2Proof.Proofs.Regions

/-!
O57, how a region ends (R108, R109): it completes, or its fault domain ends and is forgotten once its traffic has drained.
-/

namespace Sys2Proof.Proofs.Regions

open Sys2Proof Sys2Proof.Machine Sys2Proof.Safety Sys2Proof.Laws Sys2Proof.Proofs.Package Sys2Proof.Proofs.Links Sys2Proof.Proofs.Launch

/-! ### What an end leaves -/

/-- `t` is `s` but for what the distributor holds of its regions, and what the C7 writes of them: its cores and launches are there. -/
def Ended (s t : State) : Prop := t.cores = s.cores ∧ t.lfe.launches = s.lfe.launches

theorem Ended.refl (s : State) : Ended s s := ⟨rfl, rfl⟩

theorem Ended.trans {s t u : State} (h : Ended s t) (h' : Ended t u) : Ended s u := ⟨h'.1.trans h.1, h'.2.trans h.2⟩

theorem foldl_ended {α : Type} {f : State → α → State} (hf : ∀ t x, Ended t (f t x)) (l : List α) (s : State) :
    Ended s (l.foldl f s) :=
  List.foldlRecOn (motive := fun t => Ended s t) _ _ (.refl s) fun t ht x _ => ht.trans (hf t x)

theorem Recorded.ended {s t : State} (h : Recorded s t) : Ended s t := by
  obtain ⟨hcores, -, -, -, hlaunches⟩ := h.keeps
  exact ⟨hcores, hlaunches⟩

theorem ended_of_accessed {s t : State} (h : Accessed s t) : Ended s t := (recorded_of_accessed h).ended

theorem Ended.launch {s t : State} (h : Ended s t) (n : Nat) : t.launch n = s.launch n :=
  congrArg (fun m : Assoc Machine.Launch => Assoc.find? m n) h.2

theorem dropRegion_ended (s : State) (r : BitVec 12) : Ended s (s.dropRegion r) := ⟨rfl, rfl⟩

theorem releaseGranules_eq (s : State) (r : BitVec 12) : ∃ d, s.releaseGranules r = { s with dist := d } := by
  unfold State.releaseGranules
  split
  · exact ⟨_, rfl⟩
  · exact ⟨_, rfl⟩

theorem releaseGranules_ended (s : State) (r : BitVec 12) : Ended s (s.releaseGranules r) := by
  obtain ⟨d, h⟩ := releaseGranules_eq s r
  rw [h]
  exact ⟨rfl, rfl⟩

theorem releaseGranules_regions (s : State) (r : BitVec 12) : (s.releaseGranules r).regions = s.regions := by
  obtain ⟨d, h⟩ := releaseGranules_eq s r
  rw [h]

theorem launchEnded_launch {s : State} {n : Nat} {l : Machine.Launch} (h : s.launch n = some l) (c : Byte) :
    (s.launchEnded n c).launch n = some { l with ended := some c } := by
  have hfind : Assoc.find? s.lfe.launches n = some l := h
  unfold State.launchEnded
  rw [hfind]
  exact (find?_set s.lfe.launches n n _).trans (if_pos rfl)

/-- The end of a launch is noted with the launch. -/
theorem launchEnded_keeps (s : State) (n : Nat) (c : Byte) : (s.launchEnded n c).cores = s.cores ∧ (s.launchEnded n c).regions = s.regions
    ∧ (s.launchEnded n c).mem = s.mem ∧ (s.launchEnded n c).unitKey = s.unitKey := by
  unfold State.launchEnded
  split <;> exact ⟨rfl, rfl, rfl, rfl⟩

/-! ### A child has ended (R103, R108) -/

theorem childEnded_children {s : State} {r : BitVec 12} (h : s.region r ≠ none) :
    ((s.childEnded r).life r).children = (s.life r).children - 1 := by
  obtain ⟨g, hg⟩ := Option.ne_none_iff_exists'.mp h
  have hlife (t : State) (v : BitVec 32) (bs : List Byte) :
      (((t.setLife r { t.life r with children := v }).writeRcb r 84 bs).life r).children = v := by
    rw [(writeRcb_accessed _ r 84 bs).life, setLife_life, if_pos rfl]
  simp only [State.childEnded, hg]
  split
  · exact hlife s _ _
  · exact hlife s _ _

theorem childEnded_keeps (s : State) (r : BitVec 12) : Ended s (s.childEnded r) ∧ (s.childEnded r).regions = s.regions := by
  unfold State.childEnded
  split
  · exact ⟨.refl s, rfl⟩
  · have hrcb (l : RegionLife) (bs : List Byte) := writeRcb_accessed (s.setLife r l) r 84 bs
    have hended (l : RegionLife) (bs : List Byte) : Ended s ((s.setLife r l).writeRcb r 84 bs) :=
      .trans (t := s.setLife r l) ⟨rfl, rfl⟩ (ended_of_accessed (hrcb l bs))
    dsimp only
    split
    · exact ⟨.trans (hended _ _) ⟨rfl, rfl⟩, (hrcb _ _).keeps.2.2.1⟩
    · exact ⟨hended _ _, (hrcb _ _).keeps.2.2.1⟩

theorem barAdd_accessed (s : State) (key : BitVec 8) (cell : Nat) (n : BitVec 64) : Accessed s (s.barAdd key cell n) :=
  setBytesKey_accessed s key cell _

/-- The addition to a DONEBW word: its child is counted once the addition is made, or the addition waits. -/
theorem advance_cases (s : State) (a : BarAdd) : ∃ u, Accessed s u ∧ (s.advance a = u.childEnded a.parent
    ∨ a.va ≠ 0 ∧ s.advance a = { u with dist := { u.dist with adds := u.dist.adds ++ [a] } }) := by
  have hx := translate_accessed s a.conf a.pasid a.va accAtomic
  unfold State.advance
  split
  · exact ⟨s, .refl s, .inl rfl⟩
  next hva =>
    split
    next pa t ht =>
      rw [ht] at hx
      dsimp only
      split
      · exact ⟨t, hx, .inl rfl⟩
      · exact ⟨_, hx.trans ((barAdd_accessed t _ _ _).trans (countFar_accessed _ _)), .inl rfl⟩
    next t ht => rw [ht] at hx; exact ⟨t, hx, .inl rfl⟩
    next c t ht =>
      rw [ht] at hx
      exact ⟨_, hx.trans (raiseFault_accessed t _), .inr ⟨hva, rfl⟩⟩
    · exact ⟨s, .refl s, .inl rfl⟩

theorem advance_keeps (s : State) (a : BarAdd) : Ended s (s.advance a) ∧ (s.advance a).regions = s.regions := by
  obtain ⟨u, hu, h | ⟨-, h⟩⟩ := advance_cases s a <;> rw [h]
  · obtain ⟨hended, hregions⟩ := childEnded_keeps u a.parent
    exact ⟨(ended_of_accessed hu).trans hended, hregions.trans hu.keeps.2.2.1⟩
  · exact ⟨.trans (ended_of_accessed hu) ⟨rfl, rfl⟩, hu.keeps.2.2.1⟩

theorem advance_children (s : State) (a : BarAdd) (h : s.region a.parent ≠ none) :
    ((s.advance a).life a.parent).children = (s.life a.parent).children - 1
    ∨ a.va ≠ 0 ∧ ((s.advance a).life a.parent).children = (s.life a.parent).children ∧ a ∈ (s.advance a).dist.adds := by
  obtain ⟨u, hu, hrun | ⟨hva, hrun⟩⟩ := advance_cases s a <;> rw [hrun, ← hu.life a.parent]
  · refine .inl (childEnded_children ?_)
    rwa [region_congr hu.keeps.2.2.1]
  · exact .inr ⟨hva, rfl, List.mem_append_right _ (List.mem_singleton_self a)⟩

end Sys2Proof.Proofs.Regions

/-!
O57, submission (R104, R107): what a control block is refused for, and what makes a child of it.
-/

namespace Sys2Proof.Proofs.Regions

open Sys2Proof Sys2Proof.Machine Sys2Proof.Safety Sys2Proof.Laws Sys2Proof.Proofs.Package Sys2Proof.Proofs.Links Sys2Proof.Proofs.Launch

/-! ### A free region ID (R103) -/

theorem freeRegionId_free {s : State} {r : BitVec 12} (h : s.freeRegionId = some r) : s.region r = none := by
  unfold State.freeRegionId at h
  generalize hids : List.range 4096 = ids at h
  have hmem : r ∈ (ids.filter (fun i => i ≠ 0 && (Assoc.find? s.regions i).isNone)).map (BitVec.ofNat 12) := by
    rcases Option.or_eq_some_iff.mp h with hfirst | ⟨-, hhead⟩
    · exact List.mem_of_find?_eq_some hfirst
    · exact List.mem_of_mem_head? hhead
  obtain ⟨i, hi, rfl⟩ := List.mem_map.mp hmem
  obtain ⟨hin, hfree⟩ := List.mem_filter.mp hi
  have hlt : i < 4096 := List.mem_range.mp (hids ▸ hin)
  rw [State.region, BitVec.toNat_ofNat, Nat.mod_eq_of_lt hlt]
  simpa using (Bool.and_eq_true_iff.mp hfree).2

/-! ### What a control block is checked for (R107) -/

section Validate

variable {s : State} {pid : BitVec 12} {p : Region} {rcb : BitVec 52} {b : List Byte}

theorem validate_illegal (h : rcbOk b = false) : validate s pid p rcb b = .error 1 := by
  simp only [validate, h, Bool.not_false, if_true]

theorem validate_noRoom (hok : rcbOk b = true) (h : carve s pid p b = none) : validate s pid p rcb b = .error 3 := by
  simp only [validate, hok, h, Bool.not_true, Bool.false_eq_true, if_false]

theorem validate_tooDeep (hok : rcbOk b = true) (h : carve s pid p b ≠ none) (hdeep : 8 ≤ p.depth) :
    validate s pid p rcb b = .error 4 := by
  obtain ⟨x, hx⟩ := Option.ne_none_iff_exists'.mp h
  simp only [validate, hok, hx, hdeep, Bool.not_true, Bool.false_eq_true, if_false, if_true]

/-- A region that stands one level below region `pid`, and has no right that it has not. -/
structure ChildOf (pid : BitVec 12) (p g : Region) : Prop where
  parent : g.parent = pid
  root : g.root = p.root
  pasid : g.pasid = p.pasid
  depth : g.depth = p.depth + 1
  prio : g.prio.toNat ≤ p.prio.toNat
  debug : g.debug = true → p.debug = true
  conf : g.conf = true → p.conf = true

/-- A control block that is accepted makes a child. -/
theorem validate_child {g : Region} (h : validate s pid p rcb b = .ok g) : ChildOf pid p g := by
  unfold validate at h
  dsimp only at h
  split at h
  · cases h
  split at h
  · cases h
  split at h
  · cases h
  split at h
  · cases h
  split at h
  · cases h
  next hrights =>
    rw [Bool.and_eq_true, not_and, Bool.or_eq_true, not_or, Bool.and_eq_true, Bool.and_eq_true, Bool.not_eq_true',
      Bool.not_eq_true'] at hrights
    cases h
    refine ⟨rfl, rfl, rfl, rfl, ?_, fun hd => ?_, fun hc => ?_⟩
    · dsimp only
      split
      next hlow => exact Nat.le_of_lt (of_decide_eq_true (Bool.and_eq_true_iff.mp hlow).2)
      · exact Nat.le_refl _
    · dsimp only at hd
      split at hd
      next hovr =>
        obtain ⟨hdebug, -⟩ := hrights hovr
        simpa [hd] using hdebug
      · exact hd
    · dsimp only at hc
      split at hc
      next hovr =>
        obtain ⟨-, hconf⟩ := hrights hovr
        simpa [hc] using hconf
      · exact hc

end Validate

/-! ### Counters and events that grains leave (R116, R118) -/

/-- The counters of the regions, and what is to happen, are as they were. -/
def Dealt (s t : State) : Prop := t.lives = s.lives ∧ t.sched = s.sched

theorem Dealt.refl (s : State) : Dealt s s := ⟨rfl, rfl⟩

theorem Dealt.trans {s t u : State} (h : Dealt s t) (h' : Dealt t u) : Dealt s u := ⟨h'.1.trans h.1, h'.2.trans h.2⟩

theorem dealt_of_memoryOnly {s t : State} (h : MemoryOnly s t) : Dealt s t := by
  obtain ⟨⟨m, k, p, rfl⟩, -⟩ := h
  exact ⟨rfl, rfl⟩

theorem foldl_dealt {α : Type} {f : State → α → State} (hf : ∀ t x, Dealt t (f t x)) (xs : List α) (s : State) :
    Dealt s (xs.foldl f s) :=
  List.foldlRecOn (motive := fun t => Dealt s t) _ _ (.refl s) fun t ht x _ => ht.trans (hf t x)

theorem journalGrain_dealt (s : State) (x : Grain) (st : BitVec 2) : Dealt s (s.journalGrain x st) := ⟨rfl, rfl⟩

theorem withDist_dealt (s : State) (d : Dist) : Dealt s { s with dist := d } := ⟨rfl, rfl⟩

theorem setGrain_dealt (s : State) (x : Grain) (st : BitVec 2) : Dealt s (s.setGrain x st) := ⟨rfl, rfl⟩

theorem dealOne_dealt (r : BitVec 12) (k : Nat) (s : State) (x : Grain) : Dealt s (dealOne r k s x) := by
  unfold dealOne
  split
  next t h =>
    obtain ⟨cell, -, hpush⟩ := Option.bind_eq_some_iff.mp h
    exact (setGrain_dealt s x 1).trans (dealt_of_memoryOnly (Mesh.dqPush_memoryOnly hpush))
  · exact .refl s

theorem dealOut_dealt (s : State) (r : BitVec 12) (die : Nat) : Dealt s (dealOut s r die) := by
  unfold dealOut
  refine foldl_dealt (fun t e => ?_) _ s
  exact foldl_dealt (dealOne_dealt r e.1) _ t

/-- A die's deques of a region begin empty. -/
theorem emptyDeques_dealt (r : BitVec 12) (cores : List Nat) (s : State) : Dealt s (cores.foldl (fun t k => match t.dequeCell r k with
    | some c => t.setBytes c (leBytes 8 0)
    | none => t) s) := by
  refine foldl_dealt (fun t k => ?_) _ s
  split
  · exact dealt_of_memoryOnly (setBytesKey_memoryOnly 0 _ t _)
  · exact .refl t

theorem dealDie_dealt (s : State) (r : BitVec 12) (die : Nat) : Dealt s (dealDie s r die) := by
  unfold dealDie
  exact (emptyDeques_dealt r _ s).trans (dealOut_dealt _ r die)

theorem place_dealt (s : State) (r : BitVec 12) : Dealt s (s.place r) := by
  unfold State.place
  split
  · exact .refl s
  next g hg =>
    have hcut := foldl_dealt (fun t x => journalGrain_dealt t x 0) (regionGrains r g (s.workCores r)) s
    dsimp only
    split
    · exact hcut.trans (withDist_dealt _ _)
    · exact ((hcut.trans (withDist_dealt _ _)).trans (dealDie_dealt _ r 0)).trans (dealDie_dealt _ r 1)

/-! ### A child is made (R103, R104) -/

/-- The counters and links of a child that is made (R103). -/
def childLife (b : List Byte) (g : Region) (pl : RegionLife) (n : Nat) : RegionLife :=
  { donebw := BitVec.ofNat 48 (field b 48 8), doneadd := BitVec.ofNat 64 (field b 56 8)
    fltbw := BitVec.ofNat 48 (field b 64 8), save := pl.save, pool := 0, live := g.count, group := pl.group
    bank := pl.bank, arglen := pl.arglen, started := n }

/-- The distributor has region `g` of the control block `b` as region `r`, a child of `pid`. -/
def childMade (pid r : BitVec 12) (b : List Byte) (g : Region) (s : State) : State :=
  let t := { s with dist := { s.dist with owners := g.granules.foldl (fun m x => Assoc.set m x r) s.dist.owners } }
  (t.setRegion r g).setLife r (childLife b g (s.life pid) s.dist.nextOrder)

/-- A region takes its pool of continuation records from the firmware area (R111). -/
def pooled (r : BitVec 12) (n : Nat) (s : State) : State :=
  let (pool, s) := s.allocArea n
  s.modLife r (fun l => { l with pool := pool })

theorem childMade_region (pid r : BitVec 12) (b : List Byte) (g : Region) (s : State) (x : BitVec 12) :
    (childMade pid r b g s).region x = if x = r then some g else s.region x :=
  setRegion_region s r g x

theorem childMade_life (pid r : BitVec 12) (b : List Byte) (g : Region) (s : State) (x : BitVec 12) :
    (childMade pid r b g s).life x = if x = r then childLife b g (s.life pid) s.dist.nextOrder else s.life x :=
  setLife_life s r _ x

theorem pooled_life (r : BitVec 12) (n : Nat) (s : State) (x : BitVec 12) :
    (pooled r n s).life x = if x = r then { s.life r with pool := (s.allocArea n).1 } else s.life x :=
  setLife_life s r _ x

theorem addChild_accessed (s : State) (r : BitVec 12) :
    Accessed (s.setLife r { s.life r with children := (s.life r).children + 1 }) (s.addChild r) :=
  writeRcb_accessed _ r 84 _

/-- The child is queued in its control block, linked to its parent, and its grains are cut. -/
def childQueued (pid r : BitVec 12) (rcb : BitVec 52) (g : Region) (save : BitVec 52) (s : State) : State :=
  let s := s.unitStore (physKey rcb) (physCell rcb) (leBytes 2 r.toNat ++ leBytes 2 pid.toNat)
  let s := s.unitStore (physKey rcb) (physCell rcb + 72) (leBytes 8 save.toNat ++ leBytes 4 g.count.toNat ++ leBytes 4 0)
  ((s.addChild pid).setRegionState r .queued).place r

theorem childQueued_spec (pid r : BitVec 12) (rcb : BitVec 52) (g : Region) (save : BitVec 52) (s : State) :
    let t := childQueued pid r rcb g save s
    t.region r = (s.region r).map (fun g => { g with state := .queued })
    ∧ (∀ x, t.life x = if x = pid then { s.life pid with children := (s.life pid).children + 1 } else s.life x) ∧ t.sched = s.sched := by
  unfold childQueued
  dsimp only
  have hstored : Accessed s ((s.unitStore (physKey rcb) (physCell rcb) (leBytes 2 r.toNat ++ leBytes 2 pid.toNat)).unitStore (physKey rcb)
      (physCell rcb + 72) (leBytes 8 save.toNat ++ leBytes 4 g.count.toNat ++ leBytes 4 0)) :=
    (unitStore_accessed s _ _ _).trans (unitStore_accessed _ _ _ _)
  generalize State.unitStore (State.unitStore _ _ _ _) _ _ _ = u at hstored ⊢
  obtain ⟨-, -, huregions, -, -, husched, -⟩ := hstored.keeps
  have hadd := addChild_accessed u pid
  obtain ⟨-, -, haregions, -, -, hasched, -⟩ := hadd.keeps
  obtain ⟨-, hqlives, -, hqsched, -⟩ := (setRegionState_recorded (u.addChild pid) r .queued).keeps
  obtain ⟨hplives, hpsched⟩ := place_dealt ((u.addChild pid).setRegionState r .queued) r
  refine ⟨?_, fun x => ?_, ?_⟩
  · rw [(place_placed _ r).region, setRegionState_region, if_pos rfl, region_congr haregions, ← region_congr huregions]
    rfl
  · rw [State.life, hplives, hqlives]
    refine (hadd.life x).trans ?_
    rw [setLife_life, hstored.life, hstored.life]
  · exact ((hpsched.trans hqsched).trans hasched).trans husched

/-! ### `SPAWN_VALIDATE` -/

theorem countFar_unitKey (s : State) (a : Nat) : (s.countFar a).unitKey = s.unitKey := by
  unfold State.countFar
  split <;> rfl

/-- A store of a unit puts its bytes where no other key holds their units, under a key ID that has a key. -/
theorem unitStore_stored {s : State} {key : BitVec 8} {a : Nat} {bs : List Byte} (hk : SameKey s key a bs.length) (hm : MemInv s)
    (hkey : keyed a = true → Assoc.get false s.security.keys key.toNat = true) : Stored s (s.unitStore key a bs) a bs := by
  have hopen : ¬ (keyed a && !Assoc.get false s.security.keys key.toNat) = true := by
    cases h : keyed a
    · simp
    · simp [hkey h]
  intro i
  rw [State.unitStore, if_neg hopen, byte_congr (countFar_mem _ _)]
  exact setBytesKey_stored hk hm i

theorem exec_spawnValidate_of {s : State} {pid : BitVec 12} {rcb : BitVec 52} (hn : s.inp.n = pid.toNat) (hv : s.inp.value = rcb.setWidth 64) :
    exec .spawnValidate s = .next (spawnValidate pid rcb s) := by
  rw [exec_spawnValidate, execSpawnValidate, hn, hv, BitVec.ofNat_toNat, BitVec.setWidth_eq, extract_setWidth]

section Spawn

variable {s u : State} {pid : BitVec 12} {rcb : BitVec 52} {p : Region} {b : List Byte} (hu : s.countFar (physCell rcb) = u)
  (hb : u.bytesKey (physKey rcb) (physCell rcb) 128 = b) (hp : s.region pid = some p)
include hu hp

theorem countFar_parent : u.region pid = some p := by
  rw [← hu, region_congr (countFar_accessed s _).keeps.2.2.1, hp]

include hb

theorem spawnValidate_ignored (h : field b 4 1 ≠ 0 ∨ p.ending ≠ none) : spawnValidate pid rcb s = u := by
  have hskip : (field b 4 1 ≠ 0 || p.ending.isSome) = true := by
    rcases h with h | h
    · simp [h]
    · rw [Option.isSome_iff_ne_none.mpr h, Bool.or_true]
  simp only [spawnValidate, hu, hb, countFar_parent hu hp, hskip, if_true]

variable (hnew : field b 4 1 = 0) (hend : p.ending = none)
include hnew hend

theorem spawnValidate_checked : spawnValidate pid rcb s = match validate u pid p rcb b with
    | .error c => u.unitStore (physKey rcb) (physCell rcb + 4) [6, c]
    | .ok g =>
      let r := (u.freeRegionId).getD 0
      let t := childQueued pid r rcb g (u.life pid).save (pooled r (384 * (g.count.toNat + 1)) (childMade pid r b g u))
      if g.count = 0 then t.push .regionCompletion { n := r.toNat } else t := by
  simp only [spawnValidate, hu, hb, countFar_parent hu hp, hnew, hend]
  rfl

/-- A refused control block takes STATE REJECTED and the code. -/
theorem spawnValidate_refuses {c : Byte} (h : validate u pid p rcb b = .error c) (hk : SameKey s (physKey rcb) (physCell rcb + 4) 2)
    (hm : MemInv s) (hkey : keyed (physCell rcb + 4) = true → Assoc.get false s.security.keys (physKey rcb).toNat = true) :
    let t := spawnValidate pid rcb s
    Stored s t (physCell rcb + 4) [6, c] ∧ t.regions = s.regions := by
  dsimp only
  rw [spawnValidate_checked hu hb hp hnew hend, h]
  subst hu
  have hcount := countFar_accessed s (physCell rcb)
  refine ⟨fun i => ?_, ((unitStore_accessed _ _ _ _).keeps.2.2.1).trans hcount.keeps.2.2.1⟩
  have hk' : SameKey (s.countFar (physCell rcb)) (physKey rcb) (physCell rcb + 4) 2 := by
    rwa [SameKey, countFar_unitKey]
  have hm' : MemInv (s.countFar (physCell rcb)) := by rwa [MemInv, countFar_mem]
  have hsecurity : (s.countFar (physCell rcb)).security = s.security := by
    obtain ⟨_, _, _, _, _, _, _, h⟩ := hcount
    rw [h]
  rw [← hsecurity] at hkey
  rw [← byte_congr (countFar_mem s (physCell rcb)) i]
  exact unitStore_stored hk' hm' hkey i

/-- A child is queued below its parent, and counted with it; without indices it completes at once. -/
theorem spawnValidate_accepts {g : Region} {r : BitVec 12} (h : validate u pid p rcb b = .ok g) (hr : u.freeRegionId = some r) :
    let t := spawnValidate pid rcb s
    t.region r = some { g with state := .queued } ∧ (t.life r).live = g.count ∧ (t.life pid).children = (s.life pid).children + 1
    ∧ (g.count = 0 → t.sched = .happen .regionCompletion { n := r.toNat } :: s.sched) := by
  have hcount := countFar_accessed s (physCell rcb)
  rw [hu] at hcount
  obtain ⟨-, -, -, -, -, hsched, -⟩ := hcount.keeps
  have hother : pid ≠ r := by
    rintro rfl
    exact absurd ((countFar_parent hu hp).symm.trans (freeRegionId_free hr)) nofun
  dsimp only
  rw [spawnValidate_checked hu hb hp hnew hend, h, hr]
  dsimp only [Option.getD_some]
  obtain ⟨hregion, hlife, hnext⟩ := childQueued_spec pid r rcb g (u.life pid).save
    (pooled r (384 * (g.count.toNat + 1)) (childMade pid r b g u))
  generalize childQueued pid r rcb g (u.life pid).save _ = t at hregion hlife hnext ⊢
  have hqueued := hregion.trans (congrArg (Option.map _) ((childMade_region pid r b g u r).trans (if_pos rfl)))
  have hchildren := congrArg RegionLife.children ((hlife pid).trans (if_pos rfl))
  have hlives := congrArg RegionLife.live ((hlife r).trans (if_neg hother.symm))
  simp only [pooled_life, childMade_life, if_true, if_neg hother, hcount.life] at hchildren hlives
  split
  · exact ⟨hqueued, hlives, hchildren, fun _ => congrArg (List.cons _) (hnext.trans hsched)⟩
  next hsome => exact ⟨hqueued, hlives, hchildren, fun h0 => absurd h0 hsome⟩

end Spawn

end Sys2Proof.Proofs.Regions

/-!
O57, the two ways a region ends (R108, R109).
-/

namespace Sys2Proof.Proofs.Regions

open Sys2Proof Sys2Proof.Machine Sys2Proof.Safety Sys2Proof.Laws Sys2Proof.Proofs.Package Sys2Proof.Proofs.Links Sys2Proof.Proofs.Launch

/-! ### A region completes (R108) -/

/-- A region is DONE in its control block, gives its granules back and is forgotten. -/
def doneRegion (r : BitVec 12) (s : State) : State :=
  let t := ((s.setRegionState r .done).releaseGranules r).dropRegion r
  { t with folds := t.folds.map (fun f => if f.region == r && f.ended == 0 then { f with ended := 1 } else f) }

/-- What the parent of a region that completes is told. -/
def doneAdd (s : State) (r : BitVec 12) (g : Region) : BarAdd :=
  { conf := g.conf, pasid := g.pasid, va := (s.life r).donebw, n := (s.life r).doneadd, parent := g.parent }

/-- The distributor forgets the region after its state is written. -/
theorem doneRegion_eq (r : BitVec 12) (s : State) : ∃ d f, doneRegion r s =
    { s.setRegionState r .done with
      regions := Assoc.erase (s.setRegionState r .done).regions r.toNat
      lives := Assoc.erase (s.setRegionState r .done).lives r.toNat, dist := d, folds := f } := by
  obtain ⟨d, h⟩ := releaseGranules_eq (s.setRegionState r .done) r
  unfold doneRegion
  rw [h]
  exact ⟨_, _, rfl⟩

theorem doneRegion_region (r : BitVec 12) (s : State) (x : BitVec 12) :
    (doneRegion r s).region x = if x = r then none else s.region x := by
  obtain ⟨d, f, h⟩ := doneRegion_eq r s
  rw [h]
  refine (dropRegion_region (s.setRegionState r .done) r x).trans ?_
  split
  · rfl
  next hx => rw [setRegionState_region, if_neg hx]

theorem doneRegion_life {r x : BitVec 12} (s : State) (hx : x ≠ r) : (doneRegion r s).life x = s.life x := by
  obtain ⟨d, f, h⟩ := doneRegion_eq r s
  obtain ⟨-, hlives, -⟩ := (setRegionState_recorded s r .done).keeps
  rw [h, State.life, State.life, hlives]
  exact (get_erase s.lives x.toNat r.toNat {}).trans (if_neg (toNat_ne hx))

theorem doneRegion_ended (r : BitVec 12) (s : State) : Ended s (doneRegion r s) := by
  obtain ⟨d, f, h⟩ := doneRegion_eq r s
  rw [h]
  exact (setRegionState_recorded s r .done).ended.trans ⟨rfl, rfl⟩

theorem byteKey_congr {s t : State} (hm : t.mem = s.mem) (hk : t.unitKey = s.unitKey) (key : BitVec 8) (a : Nat) :
    t.byteKey key a = s.byteKey key a :=
  List.head_eq_of_cons_eq (bytesKey_congr hm hk key 1 a)

/-- The STATE of a region that is done reads so in its control block, where its key ID has a key. -/
theorem doneRegion_state {r : BitVec 12} {g : Region} {s : State} (hg : s.region r = some g) (hw : MemInv s)
    (hkey : keyed (physCell g.rcb + 4) = true → Assoc.get false s.security.keys (physKey g.rcb).toNat = true) :
    (doneRegion r s).byteKey (physKey g.rcb) (physCell g.rcb + 4) = 4 := by
  obtain ⟨d, f, h⟩ := doneRegion_eq r s
  have hmod : s.modRegion r (fun g => { g with state := .done }) = s.setRegion r { g with state := .done } := by
    simp only [State.modRegion, hg]
  have hregion : (s.setRegion r { g with state := .done }).region r = some { g with state := .done } := by
    rw [setRegion_region, if_pos rfl]
  have hopen : (keyed (physCell g.rcb + 4) && !Assoc.get false s.security.keys (physKey g.rcb).toNat) = false := by
    cases hk : keyed (physCell g.rcb + 4)
    · rfl
    · rw [hkey hk]
      rfl
  have hstate : s.setRegionState r .done = ((s.setRegion r { g with state := .done }).setByteKey (physKey g.rcb) (physCell g.rcb + 4) 4).countFar
      (physCell g.rcb + 4) := by
    simp only [State.setRegionState, hmod, State.writeRcb, hregion]
    exact if_neg (ne_true_of_eq_false hopen)
  rw [h]
  refine (byteKey_congr (s := s.setRegionState r .done) rfl rfl _ _).trans ?_
  rw [hstate, byteKey_congr (countFar_mem _ _) (countFar_unitKey _ _)]
  exact byteKey_setByteKey _ _ _ _ hw

section Completion

variable {r : BitVec 12} {g : Region} {s : State} (hg : s.region r = some g)
include hg

theorem regionCompletion_stays (h : (s.life r).live ≠ 0 ∨ (s.life r).children ≠ 0 ∨ g.state = .preempted ∨ g.ending ≠ none) :
    regionCompletion r s = s := by
  have hbusy : ((s.life r).live != 0 || (s.life r).children != 0 || g.state == .preempted || g.ending.isSome) = true := by
    simpa [Option.isSome_iff_ne_none, or_assoc] using h
  simp only [regionCompletion, hg, hbusy, if_true]

theorem regionCompletion_ends (hlive : (s.life r).live = 0) (hchild : (s.life r).children = 0) (hp : g.state ≠ .preempted)
    (he : g.ending = none) : regionCompletion r s =
      if g.parent = 0 then (match (s.life r).launch with | some n => (doneRegion r s).launchEnded n 0 | none => doneRegion r s)
      else (doneRegion r s).advance (doneAdd s r g) := by
  have hidle : ((s.life r).live != 0 || (s.life r).children != 0 || g.state == .preempted || g.ending.isSome) = false := by
    simp [hlive, hchild, hp, he]
  simp only [regionCompletion, hg, hidle, Bool.false_eq_true, if_false]
  rfl

end Completion

/-! ### The end of a fault domain (R109) -/

/-- A subtree gives its granules back, is FAULTED in its control blocks, the end noted in that of `r`, and is forgotten. -/
def endedTree (r : BitVec 12) (e : EndCause) (tree : List (BitVec 12)) (s : State) : State :=
  let t := tree.foldl (fun t x => t.setRegionState x .faulted) (tree.reverse.foldl (fun t x => t.releaseGranules x) s)
  tree.foldl (fun t x => t.dropRegion x) ((t.writeRcb r 5 [e.cause]).writeRcb r 88 (leBytes 8 e.pc.toNat ++ leBytes 2 e.core))

theorem finishDomain_eq (r : BitVec 12) (g : Region) (e : EndCause) (s : State) : finishDomain r g e s =
    let t := endedTree r e (s.subtree r) s
    if g.parent = 0 then (match (s.life r).launch with | some n => t.launchEnded n e.cause | none => t)
    else match t.region g.parent with
      | some p => t.advance { conf := p.conf, pasid := p.pasid, va := (t.life g.parent).fltbw, n := 1, parent := g.parent }
      | none => t := rfl

theorem endedTree_region (r : BitVec 12) (e : EndCause) (tree : List (BitVec 12)) (s : State) (x : BitVec 12) :
    (endedTree r e tree s).region x = if x ∈ tree then none else s.region x := by
  unfold endedTree
  rw [foldl_dropRegion_region]
  split
  · rfl
  next hx =>
    rw [region_congr (writeRcb_accessed _ r 88 _).keeps.2.2.1, region_congr (writeRcb_accessed _ r 5 _).keeps.2.2.1,
      foldl_updates_region (fun t y z => setRegionState_region t y .faulted z) (map_map_self fun _ => rfl), if_neg hx]
    exact region_congr (List.foldlRecOn (motive := fun t : State => t.regions = s.regions) _ _ rfl
      fun t ht y _ => (releaseGranules_regions t y).trans ht) x

theorem endedTree_ended (r : BitVec 12) (e : EndCause) (tree : List (BitVec 12)) (s : State) : Ended s (endedTree r e tree s) := by
  refine .trans ?_ (foldl_ended (fun t x => dropRegion_ended t x) _ _)
  refine .trans ?_ (ended_of_accessed (writeRcb_accessed _ r 88 _))
  refine .trans ?_ (ended_of_accessed (writeRcb_accessed _ r 5 _))
  exact (foldl_ended (fun t x => releaseGranules_ended t x) _ _).trans
    (foldl_ended (fun t x => (setRegionState_recorded t x .faulted).ended) _ _)

/-- The domain is forgotten; what ran for it had stopped before. -/
theorem finishDomain_keeps (r : BitVec 12) (g : Region) (e : EndCause) (s : State) :
    (finishDomain r g e s).regions = (endedTree r e (s.subtree r) s).regions ∧ (finishDomain r g e s).cores = s.cores := by
  have hcores := (endedTree_ended r e (s.subtree r) s).1
  rw [finishDomain_eq]
  dsimp only
  split
  · split
    · obtain ⟨hc, hr, -⟩ := launchEnded_keeps (endedTree r e (s.subtree r) s) _ e.cause
      exact ⟨hr, hc.trans hcores⟩
    · exact ⟨rfl, hcores⟩
  · split
    · obtain ⟨hended, hr⟩ := advance_keeps (endedTree r e (s.subtree r) s) _
      exact ⟨hr, hended.1.trans hcores⟩
    · exact ⟨rfl, hcores⟩

theorem finishDomain_region (r : BitVec 12) (g : Region) (e : EndCause) (s : State) (x : BitVec 12) :
    (finishDomain r g e s).region x = if x ∈ s.subtree r then none else s.region x := by
  rw [region_congr (finishDomain_keeps r g e s).1, endedTree_region]

/-- A root's launch ends with the cause. -/
theorem finishDomain_launch {r : BitVec 12} {g : Region} {e : EndCause} {s : State} {n : Nat} {l : Machine.Launch} (hroot : g.parent = 0)
    (hn : (s.life r).launch = some n) (hl : s.launch n = some l) :
    (finishDomain r g e s).launch n = some { l with ended := some e.cause } := by
  simp only [finishDomain_eq, hroot, hn, if_true]
  exact launchEnded_launch (((endedTree_ended r e _ s).launch n).trans hl) e.cause

section Drain

variable {r : BitVec 12} {g : Region} {e : EndCause} {s : State} (hg : s.region r = some g) (he : g.ending = some e) (htop : e.top = r)
include hg he htop

omit htop in
theorem drainDomain_waits (h : s.quiet (s.subtree r) = false) : drainDomain r s = s := by
  simp only [drainDomain, hg, he, h, Bool.and_false, Bool.false_eq_true, if_false]

theorem drainDomain_finishes (h : s.quiet (s.subtree r) = true) : drainDomain r s = finishDomain r g e s := by
  simp only [drainDomain, hg, he, htop, h, beq_self_eq_true, Bool.and_true, if_true]

end Drain

/-! #### A fault -/

/-- The folds of the subtree of `r` end, and its completions under way are withdrawn. -/
def withdrawnTree (r : BitVec 12) (s : State) : State :=
  { s with
    folds := s.folds.map (fun f => if (s.subtree r).contains f.region && f.ended == 0 then { f with ended := 2 } else f)
    dist := { s.dist with adds := s.dist.adds.filter (fun a => !(s.subtree r).contains a.parent) } }

/-- Everything that runs for the subtree of `r` has stopped. -/
def stoppedTree (r : BitVec 12) (s : State) : State := stopRegions (s.subtree r) (withdrawnTree r s)

theorem stoppedTree_stopped (r : BitVec 12) (s : State) : Stopped s (stoppedTree r s) :=
  .trans (t := withdrawnTree r s) ⟨rfl, rfl, rfl, rfl, fun _ => rfl⟩ (stopRegions_stopped _ _)

/-- A region that takes an end. -/
def takeEnd (e : EndCause) (g : Region) : Region := { g with ending := some e }

theorem markEnding_eq (r : BitVec 12) (e : EndCause) (s : State) :
    s.markEnding r e = (s.subtree r).foldl (fun t x => t.modRegion x (takeEnd e)) s := rfl

/-- The subtree of `r` takes an end. -/
def endingTree (r : BitVec 12) (e : EndCause) (s : State) : State := (stoppedTree r s).markEnding r e

theorem endDomain_starts {r : BitVec 12} {g : Region} {s : State} (hg : s.region r = some g) (he : g.ending = none) (cause : Byte) (pc : Addr)
    (core : Nat) : ∃ e xs, e.top = r ∧ e.cause = cause
      ∧ endDomain r cause pc core s = (drainDomain r (endingTree r e s)).pushAll xs := by
  simp only [endDomain, hg, he]
  exact ⟨{ top := r, cause := cause, pc := pc, core := core, at_ := s.cycle }, _, rfl, rfl, rfl⟩

/-- An end is noted with the regions alone. -/
theorem markEnding_regions (r : BitVec 12) (e : EndCause) (s : State) : { s.markEnding r e with regions := s.regions } = s := by
  refine List.foldlRecOn (motive := fun t : State => { t with regions := s.regions } = s) _ _ rfl fun t ht y _ => ?_
  unfold State.modRegion
  split <;> exact ht

section Ending

variable (r : BitVec 12) (e : EndCause) (s : State)

theorem endingTree_region (x : BitVec 12) :
    (endingTree r e s).region x = if x ∈ s.subtree r then (s.region x).map (takeEnd e) else s.region x := by
  have hregions := (stoppedTree_stopped r s).regions
  rw [endingTree, markEnding_eq, foldl_modRegion_region (f := takeEnd e) fun _ => rfl, region_congr hregions]
  simp only [(sameTree_of_regions hregions).mem_subtree]

theorem endingTree_subtree (x : BitVec 12) : x ∈ (endingTree r e s).subtree r ↔ x ∈ s.subtree r :=
  ((sameTree_of_regions (stoppedTree_stopped r s).regions).trans
    (foldl_sameTree (fun t y => modRegion_sameTree t y (f := takeEnd e) fun _ => rfl) _ _)).mem_subtree r x

theorem endingTree_quiet : (endingTree r e s).quiet ((endingTree r e s).subtree r) = s.quiet (s.subtree r) := by
  have hu := stoppedTree_stopped r s
  have hmark := markEnding_regions r e (stoppedTree r s)
  exact quiet_congr ((congrArg State.mesh hmark).trans hu.mesh) ((congrArg State.links hmark).trans hu.links) (endingTree_subtree r e s)

theorem endingTree_launch (x : BitVec 12) (n : Nat) :
    ((endingTree r e s).life x).launch = (s.life x).launch ∧ (endingTree r e s).launch n = s.launch n := by
  have hu := stoppedTree_stopped r s
  have hmark := markEnding_regions r e (stoppedTree r s)
  exact ⟨(congrArg (fun t : State => (t.life x).launch) hmark).trans (hu.launch x),
    (congrArg (fun t : State => t.launch n) hmark).trans (congrArg (fun f : Lfe => Assoc.find? f.launches n) hu.lfe)⟩

theorem endingTree_idle {k : Nat} {c : Core} (hk : (k, c) ∈ s.cores) (hrun : c.user.running = true)
    (hc : c.user.id.region ∈ s.subtree r) : CoreIdle (endingTree r e s) k :=
  coreIdle_congr (congrArg State.cores (markEnding_regions r e (stoppedTree r s))) (stopRegions_idle hk hrun hc)

end Ending

end Sys2Proof.Proofs.Regions

/-!
O57. Regions: submission, completion and the end of a fault domain (R103, R104, R107 to R109).
-/

namespace Sys2Proof.Proofs.Regions

open Sys2Proof Sys2Proof.Machine Sys2Proof.Safety Sys2Proof.Laws Sys2Proof.Proofs.Package Sys2Proof.Proofs.Links Sys2Proof.Proofs.Launch

/-! ### `REGION_COMPLETION` -/

theorem exec_regionCompletion_of {s : State} {r : BitVec 12} (hn : s.inp.n = r.toNat) :
    exec .regionCompletion s = .next (regionCompletion r s) := by
  rw [exec_regionCompletion, execRegionCompletion, hn, BitVec.ofNat_toNat, BitVec.setWidth_eq]

section Completion

variable {r : BitVec 12} {g : Region} {s : State}

/-- A root ends with its launch. -/
theorem rootDone_spec (hg : s.region r = some g) (hw : MemInv s) :
    let t := match (s.life r).launch with | some n => (doneRegion r s).launchEnded n 0 | none => doneRegion r s
    (∀ x, t.region x = if x = r then none else s.region x)
    ∧ ∀ n l, (s.life r).launch = some n → s.launch n = some l → t.launch n = some { l with ended := some 0 }
      ∧ ((keyed (physCell g.rcb + 4) = true → Assoc.get false s.security.keys (physKey g.rcb).toNat = true) →
        t.byteKey (physKey g.rcb) (physCell g.rcb + 4) = 4) := by
  dsimp only
  split
  next n hn =>
    obtain ⟨-, hregions, hmem, hkeys⟩ := launchEnded_keeps (doneRegion r s) n 0
    refine ⟨fun x => (region_congr hregions x).trans (doneRegion_region r s x), fun m l hm hl => ?_⟩
    obtain rfl : n = m := Option.some.inj (hn.symm.trans hm)
    exact ⟨launchEnded_launch (((doneRegion_ended r s).launch n).trans hl) 0,
      fun hkey => (byteKey_congr hmem hkeys _ _).trans (doneRegion_state hg hw hkey)⟩
  next hn =>
    exact ⟨doneRegion_region r s, fun m l hm => absurd (hn.symm.trans hm) nofun⟩

/-- A child's parent is told. -/
theorem childDone_spec (r : BitVec 12) (g : Region) (s : State) :
    let t := (doneRegion r s).advance (doneAdd s r g)
    (∀ x, t.region x = if x = r then none else s.region x)
    ∧ (g.parent ≠ r → s.region g.parent ≠ none → (t.life g.parent).children = (s.life g.parent).children - 1
      ∨ ((s.life r).donebw ≠ 0 ∧ (t.life g.parent).children = (s.life g.parent).children
        ∧ ∃ a ∈ t.dist.adds, a.va = (s.life r).donebw ∧ a.n = (s.life r).doneadd ∧ a.parent = g.parent)) := by
  refine ⟨fun x => (region_congr (advance_keeps _ _).2 x).trans (doneRegion_region r s x), fun hne hparent => ?_⟩
  have hthere : (doneRegion r s).region (doneAdd s r g).parent ≠ none := by
    rw [doneRegion_region]
    exact (if_neg hne).trans_ne hparent
  rw [← doneRegion_life s hne]
  exact (advance_children (doneRegion r s) (doneAdd s r g) hthere).imp id
    fun ⟨hva, hchildren, hadd⟩ => ⟨hva, hchildren, _, hadd, rfl, rfl, rfl⟩

end Completion

/-! ### `REGION_FAULT` -/

theorem exec_regionFault_of {s : State} {r : BitVec 12} (hn : s.inp.n = r.toNat) :
    exec .regionFault s = .next (regionFault r (s.inp.value.extractLsb' 0 8) (s.inp.addr.getD 0) s.inp.m s.inp.who s) := by
  rw [exec_regionFault, execRegionFault, hn, BitVec.ofNat_toNat, BitVec.setWidth_eq]

/-- An ancestor of a region that is not in its subtree is none of the regions. -/
theorem region_none_of_not_mem {s : State} {r x : BitVec 12} (h : s.isAncestor 9 r x = true) (hx : x ∉ s.subtree r) : s.region x = none := by
  by_contra hne
  exact hx (mem_subtree_of_region hne h)

theorem not_mem_subtree {s : State} {r x : BitVec 12} (h : s.isAncestor 9 r x = false) : x ∉ s.subtree r :=
  fun hx => absurd (isAncestor_of_mem hx) (ne_true_of_eq_false h)

/-- What a domain that has drained leaves of its regions: nothing. -/
theorem finishDomain_forgets (r : BitVec 12) (g : Region) (e : EndCause) {s : State} {x : BitVec 12} (h : s.isAncestor 9 r x = true) :
    (finishDomain r g e s).region x = none := by
  rw [finishDomain_region]
  split
  · rfl
  next hx => exact region_none_of_not_mem h hx

section Fault

variable {s : State} {d : BitVec 12} {h : Region} (hd : s.region d = some h) (e : EndCause) (htop : e.top = d)
include hd

theorem endingTree_top : (endingTree d e s).region d = some (takeEnd e h) := by
  rw [endingTree_region, if_pos (mem_subtree_of_region (hd.trans_ne nofun) (isAncestor_self s d)), hd]
  rfl

include htop

theorem drained_quiet (hq : s.quiet (s.subtree d) = true) :
    drainDomain d (endingTree d e s) = finishDomain d (takeEnd e h) e (endingTree d e s) :=
  drainDomain_finishes (endingTree_top hd e) rfl htop ((endingTree_quiet d e s).trans hq)

omit htop in
theorem drained_waits (hq : s.quiet (s.subtree d) = false) : drainDomain d (endingTree d e s) = endingTree d e s :=
  drainDomain_waits (endingTree_top hd e) rfl ((endingTree_quiet d e s).trans hq)

theorem drained_region (x : BitVec 12) : (drainDomain d (endingTree d e s)).region x =
    if x ∈ s.subtree d then (if s.quiet (s.subtree d) then none else (s.region x).map (takeEnd e)) else s.region x := by
  cases hq : s.quiet (s.subtree d)
  · rw [drained_waits hd e hq, endingTree_region]
    rfl
  · rw [drained_quiet hd e htop hq, finishDomain_region, endingTree_region]
    simp only [endingTree_subtree]
    split <;> rfl

theorem drained_cores : (drainDomain d (endingTree d e s)).cores = (endingTree d e s).cores := by
  cases hq : s.quiet (s.subtree d)
  · rw [drained_waits hd e hq]
  · rw [drained_quiet hd e htop hq]
    exact (finishDomain_keeps d _ e _).2

theorem drained_launch (hq : s.quiet (s.subtree d) = true) (hroot : h.parent = 0) {n : Nat} {l : Machine.Launch}
    (hn : (s.life d).launch = some n) (hl : s.launch n = some l) :
    (drainDomain d (endingTree d e s)).launch n = some { l with ended := some e.cause } := by
  obtain ⟨hlife, hlaunch⟩ := endingTree_launch d e s d n
  rw [drained_quiet hd e htop hq]
  exact finishDomain_launch (g := takeEnd e h) hroot (hlife.trans hn) (hlaunch.trans hl)

end Fault

theorem regionFault_outside {s : State} {r : BitVec 12} (h : s.region r = none) (cause : Byte) (pc : Addr) (core : Nat) (who : Agent) :
    regionFault r cause pc core who s = s.modCtxOf who (fun c => { c with running := false }) := by
  simp only [regionFault, h]

theorem regionFault_starts {s : State} {r : BitVec 12} {g : Region} (hg : s.region r = some g) (he : g.ending = none) (cause : Byte)
    (pc : Addr) (core : Nat) (who : Agent) : regionFault r cause pc core who s = endDomain (s.faultDomain 9 r) cause pc core s := by
  simp only [regionFault, hg, he]

theorem regionFault_drains {s : State} {r : BitVec 12} {g : Region} {e : EndCause} (hg : s.region r = some g) (he : g.ending = some e)
    (htop : e.top = r) (pc : Addr) (core : Nat) (who : Agent) : regionFault r 0 pc core who s = drainDomain r s := by
  simp only [regionFault, hg, he, htop, if_true]

/-! ### The claim -/

/-- Settles O57: a submission by the code that refuses it or the child it makes, a completion by what its parent or its launch is told,
and the end of a fault domain by what stops at once and what is forgotten once its traffic has drained. -/
theorem regionsLive : Obligations.RegionsLive := by
  refine ⟨fun s pid rcb p hn hv hp => ?submission, fun s r g hn hg hw => ?completion, fun s r hn => ?fault⟩
  case submission =>
    rw [exec_spawnValidate_of hn hv]
    have hcount := countFar_accessed s (physCell rcb)
    refine ⟨fun h => congrArg Host.Outcome.next (spawnValidate_ignored rfl rfl hp h), fun hnew hend =>
      ⟨fun c hc hk hm hkey => ⟨_, rfl, ?refused⟩, fun g r hg hr => ⟨_, { g with state := .queued }, rfl, ?accepted⟩⟩,
      validate_illegal, validate_noRoom, validate_tooDeep⟩
    case refused => exact spawnValidate_refuses rfl rfl hp hnew hend hc hk hm hkey
    case accepted =>
      obtain ⟨hregion, hlive, hchildren, hnext⟩ := spawnValidate_accepts rfl rfl hp hnew hend hg hr
      obtain ⟨hparent, hroot, hpasid, hdepth, hprio, hdebug, hconf⟩ := validate_child hg
      exact ⟨hregion, rfl, hparent, hroot, hpasid, hdepth, hprio, hdebug, hconf, hlive, hchildren, hnext⟩
  case completion =>
    rw [exec_regionCompletion_of hn]
    refine ⟨fun h => congrArg Host.Outcome.next (regionCompletion_stays hg h), fun hlive hchild hp he => ⟨_, rfl, ?_⟩⟩
    rw [regionCompletion_ends hg hlive hchild hp he]
    split
    next hroot =>
      obtain ⟨hregion, hlaunch⟩ := rootDone_spec hg hw
      exact ⟨(hregion r).trans (if_pos rfl), fun q hq => (hregion q).trans (if_neg hq), fun _ => hlaunch, fun h => absurd hroot h⟩
    next hchild =>
      obtain ⟨hregion, hparent⟩ := childDone_spec r g s
      exact ⟨(hregion r).trans (if_pos rfl), fun q hq => (hregion q).trans (if_neg hq), fun h => absurd h hchild, fun _ => hparent⟩
  case fault =>
    rw [exec_regionFault_of hn]
    refine ⟨fun hnone => ⟨_, rfl, ?outside⟩, fun g hg he h hd hend => ?starts, fun g e hg he htop hcause => ?drains⟩
    case outside =>
      rw [regionFault_outside hnone, modCtxOf_ctxOf]
      exact ⟨rfl, modCtxOf_mem _ _ _⟩
    case starts =>
      rw [regionFault_starts hg he]
      generalize hdom : s.faultDomain 9 r = d at hd ⊢
      obtain ⟨e, xs, htop, hcause, hrun⟩ := endDomain_starts hd hend (s.inp.value.extractLsb' 0 8) (s.inp.addr.getD 0) s.inp.m
      have hregion := drained_region hd e htop
      refine ⟨_, rfl, ?_⟩
      rw [hrun, ← hcause]
      refine ⟨fun hq x hx => (hregion x).trans ?_, fun hq x hx hthere => ?_, fun x hx => (hregion x).trans (if_neg (not_mem_subtree hx)),
        fun k c hk _ hrunning hx hthere => ?_, fun n l hq hroot hlaunch hl => drained_launch hd e htop hq hroot hlaunch hl⟩
      · rw [hq]
        split
        · rfl
        next hmem => exact region_none_of_not_mem hx hmem
      · obtain ⟨y, hy⟩ := Option.ne_none_iff_exists'.mp hthere
        refine ⟨takeEnd e y, e, (hregion x).trans ?_, rfl, htop, rfl⟩
        rw [if_pos (mem_subtree_of_region hthere hx), if_neg hq, hy]
        rfl
      · exact coreIdle_congr (drained_cores hd e htop) (endingTree_idle d e s hk hrunning (mem_subtree_of_region hthere hx))
    case drains =>
      rw [hcause, regionFault_drains hg he htop]
      refine ⟨fun hq => congrArg Host.Outcome.next (drainDomain_waits hg he hq), fun hq => ⟨_, rfl, ?_⟩⟩
      rw [drainDomain_finishes hg he htop hq]
      exact ⟨fun x hx => finishDomain_forgets r g e hx, fun n l hroot hlaunch hl => finishDomain_launch hroot hlaunch hl⟩

end Sys2Proof.Proofs.Regions

/-!
O59, a root tree that is told to stop (R126): what is asked of its quills, and the reads that flush its posted writes.
-/

namespace Sys2Proof.Proofs.Regions

open Sys2Proof Sys2Proof.Machine Sys2Proof.Safety Sys2Proof.Laws Sys2Proof.Proofs.Package Sys2Proof.Proofs.Links Sys2Proof.Proofs.Launch

/-- What one step of a fold brings about, and no later step undoes, holds at its end. -/
theorem foldl_establishes {α : Type} {P : State → Prop} {F : State → α → State} {a : α} (hset : ∀ t, P (F t a))
    (hkeep : ∀ t b, P t → P (F t b)) {l : List α} (h : a ∈ l) (s : State) : P (l.foldl F s) := by
  obtain ⟨l₁, l₂, rfl⟩ := List.append_of_mem h
  rw [List.foldl_append, List.foldl_cons]
  exact List.foldlRecOn (motive := P) _ _ (hset _) fun t ht b _ => hkeep t b ht

/-! ### Quills that are to drain (R126, R338) -/

/-- The regions and what the quills hold are as they were, and a quill that was to drain still is. -/
structure Asked (s t : State) : Prop where
  regions : t.regions = s.regions
  fifo : ∀ k, (t.core k).quill.fifo = (s.core k).quill.fifo
  part : ∀ k, (t.core k).quill.part = (s.core k).quill.part
  flush : ∀ k, (s.core k).quill.flush = true → (t.core k).quill.flush = true

theorem Asked.refl (s : State) : Asked s s := ⟨rfl, fun _ => rfl, fun _ => rfl, fun _ => id⟩

theorem Asked.trans {s t u : State} (h : Asked s t) (h' : Asked t u) : Asked s u :=
  ⟨h'.regions.trans h.regions, fun k => (h'.fifo k).trans (h.fifo k), fun k => (h'.part k).trans (h.part k),
    fun k hk => h'.flush k (h.flush k hk)⟩

theorem foldl_asked {α : Type} {f : State → α → State} (hf : ∀ t x, Asked t (f t x)) (l : List α) (s : State) :
    Asked s (l.foldl f s) :=
  List.foldlRecOn (motive := fun t => Asked s t) _ _ (.refl s) fun t ht x _ => ht.trans (hf t x)

theorem asked_of_quills {s t : State} (hr : t.regions = s.regions) (hq : ∀ k, (t.core k).quill = (s.core k).quill) : Asked s t :=
  ⟨hr, fun k => congrArg Quill.fifo (hq k), fun k => congrArg Quill.part (hq k), fun k h => (congrArg Quill.flush (hq k)).trans h⟩

/-- The quill of core `k` is empty. -/
def QuillEmpty (s : State) (k : Nat) : Prop := (s.core k).quill.fifo = [] ∧ (s.core k).quill.part = []

theorem Asked.quillEmpty {s t : State} (h : Asked s t) (k : Nat) : QuillEmpty t k ↔ QuillEmpty s k := by
  rw [QuillEmpty, QuillEmpty, h.fifo, h.part]

/-- A quill that holds entries is told to drain. -/
def drainQuill (t : State) (k : Nat) : State :=
  if (t.core k).quill.fifo = [] && (t.core k).quill.part = [] then t
  else t.modCore k (fun c => { c with quill := { c.quill with flush := true } })

theorem drainQuill_empty {t : State} {k : Nat} (h : QuillEmpty t k) : drainQuill t k = t := by
  obtain ⟨hfifo, hpart⟩ := h
  simp only [drainQuill, hfifo, hpart, decide_true, Bool.and_self, if_true]

theorem drainQuill_asked (t : State) (k : Nat) : Asked t (drainQuill t k) := by
  unfold drainQuill
  split
  · exact .refl t
  · have hcore (j : Nat) := modCore_core t k (fun c => { c with quill := { c.quill with flush := true } }) j
    refine ⟨rfl, fun j => ?_, fun j => ?_, fun j h => ?_⟩ <;> rw [hcore]
    · split
      next hj => rw [hj]
      · rfl
    · split
      next hj => rw [hj]
      · rfl
    · split
      · rfl
      · exact h

theorem drainQuill_flush (t : State) (k : Nat) :
    ((drainQuill t k).core k).quill.fifo ≠ [] → ((drainQuill t k).core k).quill.flush = true := by
  unfold drainQuill
  split
  next h =>
    intro hfifo
    exact absurd (of_decide_eq_true (Bool.and_eq_true_iff.mp h).1) hfifo
  · intro _
    rw [modCore_core, if_pos rfl]

/-- The quills of some cores are told to drain. -/
def drainQuills (cores : List Nat) (s : State) : State := cores.foldl drainQuill s

theorem drainQuills_asked (cores : List Nat) (s : State) : Asked s (drainQuills cores s) := foldl_asked drainQuill_asked cores s

theorem drainQuills_empty {cores : List Nat} {s : State} (h : ∀ k ∈ cores, QuillEmpty s k) : drainQuills cores s = s :=
  List.foldlRecOn (motive := fun t => t = s) _ _ rfl fun t ht k hk => by
    rw [ht]
    exact drainQuill_empty (h k hk)

theorem drainQuills_flush {cores : List Nat} {s : State} {k : Nat} (hk : k ∈ cores) (h : (s.core k).quill.fifo ≠ []) :
    ((drainQuills cores s).core k).quill.flush = true := by
  have hask : ((drainQuills cores s).core k).quill.fifo ≠ [] → ((drainQuills cores s).core k).quill.flush = true :=
    foldl_establishes (P := fun t => (t.core k).quill.fifo ≠ [] → (t.core k).quill.flush = true) (fun t => drainQuill_flush t k)
      (fun t j ht hfifo => (drainQuill_asked t j).flush k (ht (((drainQuill_asked t j).fifo k).symm.trans_ne hfifo))) hk s
  exact hask (((drainQuills_asked cores s).fifo k).trans_ne h)

/-- A tree with a quill that holds entries has not drained. -/
theorem not_drained {s : State} {g : Region} {k : Nat} (hk : k ∈ g.cores) (h : ¬ QuillEmpty s k) (rs : List (BitVec 12)) :
    s.drained rs g = false := by
  refine Bool.eq_false_of_not_eq_true fun hd => h ?_
  unfold State.drained at hd
  rw [Bool.and_eq_true, Bool.and_eq_true, List.all_eq_true] at hd
  have hcore := hd.1.1 k hk
  dsimp only at hcore
  rw [Bool.and_eq_true, Bool.and_eq_true] at hcore
  exact ⟨of_decide_eq_true hcore.1.2, of_decide_eq_true hcore.2⟩

/-! ### The flushing reads (R179, R181) -/

theorem inject_asked (s : State) (p : Packet) : Asked s (s.inject p).1 := by
  obtain ⟨hcores, -, hregions, -⟩ := (inject_accessed s p).keeps
  exact asked_of_quills hregions fun k => congrArg Core.quill (core_congr hcores k)

theorem modCore_asked (s : State) (k : Nat) {f : Core → Core} (hf : ∀ c, (f c).quill = c.quill) : Asked s (s.modCore k f) := by
  refine asked_of_quills rfl fun j => ?_
  rw [modCore_core]
  split
  next hj => rw [hj, hf]
  · rfl

theorem setCtxOf_asked (s : State) (a : Agent) (c : Ctx) : Asked s (s.setCtxOf a c) := by
  cases a with
  | user k => exact modCore_asked s k (f := fun x => { x with user := c }) fun _ => rfl
  | matrix k => exact modCore_asked s k (f := fun x => { x with user := c }) fun _ => rfl
  | copy k => exact modCore_asked s k (f := fun x => { x with user := c }) fun _ => rfl
  | fw k => exact modCore_asked s k (f := fun x => { x with fw := c }) fun _ => rfl
  | lookup n => exact asked_of_quills rfl fun _ => rfl

theorem flush_asked (s : State) : Asked s s.flush := by
  unfold State.flush
  split
  · exact .refl s
  · dsimp only
    exact (inject_asked s _).trans (setCtxOf_asked _ _ _)

theorem setEngine_asked (s : State) (k : Nat) (copy : Bool) (e : Engine) : Asked s (s.setEngine k copy e) := by
  refine modCore_asked s k fun c => ?_
  split <;> rfl

theorem engFlush_asked (s : State) : Asked s s.engFlush := by
  unfold State.engFlush
  split
  · exact .refl s
  · dsimp only
    exact (inject_asked s _).trans (setEngine_asked _ _ _ _)

/-- A step that an agent makes in its own name. -/
theorem stepAs_asked {f : State → State} (hf : ∀ t, Asked t (f t)) (s : State) (a : Agent) :
    Asked s { f { s with cur := a } with cur := s.cur } :=
  .trans (t := { s with cur := a }) (asked_of_quills rfl fun _ => rfl) (.trans (hf _) (asked_of_quills rfl fun _ => rfl))

theorem flushTree_asked (g : Region) (s : State) : Asked s (flushTree g s) :=
  foldl_asked (fun t k => ((stepAs_asked flush_asked t (.user k)).trans (stepAs_asked engFlush_asked _ (.matrix k))).trans
    (stepAs_asked engFlush_asked _ (.copy k))) _ s

end Sys2Proof.Proofs.Regions

/-!
O59, a root tree that is saved (R126, R127): its regions are PREEMPTED and its cores free.
-/

namespace Sys2Proof.Proofs.Regions

open Sys2Proof Sys2Proof.Machine Sys2Proof.Safety Sys2Proof.Laws Sys2Proof.Proofs.Package Sys2Proof.Proofs.Links Sys2Proof.Proofs.Launch

/-! ### The image is written, and the cores are left -/

theorem unfill_stopped (k : Nat) (s : State) : Stopped s (unfill k s) := by
  unfold unfill
  split
  · refine .trans ?_ (modCore_stopped _ k _)
    exact foldl_stopped (fun t (l : Loc) => setBytesKey_stopped t l.key l.cell _) _ s
  · exact .refl s

theorem saveSram_stopped (key : BitVec 8) (at_ : Nat) (gs : List Nat) (s : State) : Stopped s (saveSram key at_ gs s) :=
  foldl_stopped (fun t _ => setBytesKey_stopped t key _ _) _ s

theorem saveContext_stopped (s : State) (a : Agent) (addr : BitVec 52) (parked : Bool) (copy : List Byte) :
    Stopped s (saveContext s a addr parked copy).2 := by
  unfold saveContext
  dsimp only
  exact setBytesKey_stopped s _ _ _

theorem saveSlot_stopped (save : BitVec 52) (a : Agent) (i : Nat) (acc : List Kept × State) :
    Stopped acc.2 (saveSlot save a i acc).2 := by
  unfold saveSlot
  dsimp only
  exact saveContext_stopped acc.2 a _ false _

/-- A fold that keeps something beside the state. -/
theorem foldl_pair_stopped {α β : Type} {f : β × State → α → β × State} (hf : ∀ acc x, Stopped acc.2 (f acc x).2) (l : List α)
    (acc : β × State) : Stopped acc.2 (l.foldl f acc).2 :=
  List.foldlRecOn (motive := fun b => Stopped acc.2 b.2) _ _ (.refl acc.2) fun b hb x _ => hb.trans (hf b x)

/-- Core `k` runs no task and keeps none. -/
def CoreLeft (s : State) (k : Nat) : Prop := (s.core k).user.running = false ∧ (s.core k).parked = none

theorem coreLeft_congr {s t : State} (h : t.cores = s.cores) {k : Nat} (hk : CoreLeft s k) : CoreLeft t k := by
  rwa [CoreLeft, core_congr h]

/-- A core is left by its task, and by one that is parked on it. -/
def leaveCore (s : State) (k : Nat) : State := (s.stopCore k).modCore k (fun c => { c with parked := none })

theorem leaveCore_stopped (s : State) (k : Nat) : Stopped s (leaveCore s k) := (stopCore_stopped s k).trans (modCore_stopped _ k _)

theorem leaveCore_left (s : State) (j : Nat) {k : Nat} (h : j = k ∨ CoreLeft s k) : CoreLeft (leaveCore s j) k := by
  rw [CoreLeft, leaveCore, modCore_core]
  split
  · rw [stopCore_core, if_pos rfl]
    exact ⟨rfl, rfl⟩
  next hne =>
    rw [stopCore_core, if_neg hne]
    exact h.resolve_left (Ne.symm hne)

theorem vacate_stopped (g : Region) (lks : List Nat) (s : State) : Stopped s (vacate g lks s) :=
  (foldl_stopped (fun t k => leaveCore_stopped t k) g.cores s).trans (foldl_stopped (fun t n => setLookup_stopped t n _) lks _)

theorem vacate_left {g : Region} {k : Nat} (hk : k ∈ g.cores) (lks : List Nat) (s : State) : CoreLeft (vacate g lks s) k :=
  List.foldlRecOn (motive := fun t => CoreLeft t k) lks _
    (foldl_establishes (fun t => leaveCore_left t k (.inl rfl)) (fun t j ht => leaveCore_left t j (.inr ht)) hk s) fun _ ht _ _ => ht

/-! ### The tree is put aside -/

/-- A region of a tree that is put aside. -/
def setAside (g : Region) : Region := { g with state := .preempted, stopping := false }

/-- The regions of a tree are PREEMPTED, and its granules are nobody's. -/
def putAside (root : BitVec 12) (rs : List (BitVec 12)) (f : RegionLife → RegionLife) (s : State) : State :=
  let s := rs.foldl (fun t r => (t.setRegionState r .preempted).modRegion r (fun x => { x with stopping := false })) s
  let s := { s with dist := { s.dist with owners := s.dist.owners.filter (fun e => !rs.contains e.2), nextOrder := s.dist.nextOrder + 1 } }
  s.modLife root f

theorem asideRegion_region (s : State) (r x : BitVec 12) :
    ((s.setRegionState r .preempted).modRegion r (fun x => { x with stopping := false })).region x =
      if x = r then (s.region r).map setAside else s.region x := by
  rw [modRegion_region, setRegionState_region, setRegionState_region]
  split
  · rw [if_pos rfl, Option.map_map]
    rfl
  · rfl

theorem putAside_region (root : BitVec 12) (rs : List (BitVec 12)) (f : RegionLife → RegionLife) (s : State) (x : BitVec 12) :
    (putAside root rs f s).region x = if x ∈ rs then (s.region x).map setAside else s.region x :=
  foldl_updates_region asideRegion_region (map_map_self fun _ => rfl) rs s x

theorem putAside_cores (root : BitVec 12) (rs : List (BitVec 12)) (f : RegionLife → RegionLife) (s : State) :
    (putAside root rs f s).cores = s.cores :=
  (foldl_recorded (fun t r => (setRegionState_recorded t r .preempted).trans (modRegion_recorded _ r _)) rs s).keeps.1

theorem putAside_owners (root : BitVec 12) (rs : List (BitVec 12)) (f : RegionLife → RegionLife) (s : State) :
    ∀ e ∈ (putAside root rs f s).dist.owners, e.2 ∉ rs := by
  intro e he hmem
  obtain ⟨-, hnot⟩ := List.mem_filter.mp he
  rw [List.contains_iff_mem.mpr hmem] at hnot
  exact absurd hnot (by decide)

/-- What is saved has stopped, and the tree is put aside. -/
theorem saveTree_asides (root : BitVec 12) (g : Region) (s : State) : ∃ v f, Stopped s v ∧ (∀ k ∈ g.cores, CoreLeft v k)
    ∧ saveTree root g s = putAside root (s.subtree root) f v := by
  unfold saveTree
  extract_lets save key base rs lks agents n ng fills s₁ nodes s₂ s₃ recs s₄
  split
  next kept s₅ hslots =>
  extract_lets parked s₆ s₇ was s₈ owners dist s₉
  have hfilled : Stopped s s₁ := foldl_stopped (fun t k => unfill_stopped k t) _ _
  have hsram : Stopped s₁ s₃ := (setBytesKey_stopped s₁ _ _ _).trans (saveSram_stopped _ _ _ _)
  have hslot : Stopped s₄ s₅ := by
    have h := foldl_pair_stopped (fun acc (e : Agent × Nat) => saveSlot_stopped save e.1 e.2 acc) agents.zipIdx ([], s₄)
    rwa [hslots] at h
  have hsaved : Stopped s s₅ := ((hfilled.trans hsram).trans (setBytesKey_stopped s₃ _ _ _)).trans hslot
  have hheader : MemoryOnly s₆ s₇ := setBytesKey_memoryOnly key _ s₆ base
  refine ⟨s₇, fun l => { l with saved := kept, savedParked := parked, was := was, preempted := s₉.dist.nextOrder },
    (hsaved.trans (vacate_stopped g lks s₅)).trans (stopped_of_memoryOnly hheader),
    fun k hk => coreLeft_congr hheader.keeps.2.2.2 (vacate_left hk lks s₅), rfl⟩

end Sys2Proof.Proofs.Regions

/-!
O59. A root tree is pre-empted and resumed (R125, R126).
-/

namespace Sys2Proof.Proofs.Regions

open Sys2Proof Sys2Proof.Machine Sys2Proof.Safety Sys2Proof.Laws Sys2Proof.Proofs.Package Sys2Proof.Proofs.Links Sys2Proof.Proofs.Launch

theorem find?_of_mem_keys {α : Type} {m : Assoc α} {k : Nat} (h : k ∈ Assoc.keys m) : Assoc.find? m k ≠ none := by
  induction m with
  | nil => exact absurd h List.not_mem_nil
  | cons e rest ih =>
    unfold Assoc.find?
    split
    · exact nofun
    next hne => exact ih ((List.mem_cons.mp h).resolve_left (Ne.symm hne))

/-- Where regions are numbered in 12 bits, what stands in a subtree is a region. -/
theorem region_of_mem_subtree {s : State} {r x : BitVec 12} (hn : ∀ e ∈ s.regions, e.1 < 4096) (hx : x ∈ s.subtree r) :
    s.region x ≠ none := by
  obtain ⟨⟨k, hk, rfl⟩, -⟩ := mem_subtree.mp hx
  obtain ⟨e, he, rfl⟩ := List.mem_map.mp hk
  rw [State.region, BitVec.toNat_ofNat, Nat.mod_eq_of_lt (hn e he)]
  exact find?_of_mem_keys hk

/-! ### `PREEMPT_REQUEST` -/

theorem exec_preemptRequest_of {s : State} {r : BitVec 12} (hn : s.inp.n = r.toNat) :
    exec .preemptRequest s = .next (preemptRequest r s) := by
  rw [exec_preemptRequest, execPreemptRequest, hn, BitVec.ofNat_toNat, BitVec.setWidth_eq]

/-- A region whose tree is to stop. -/
def stopping (g : Region) : Region := { g with stopping := true }

theorem modRegion_core (s : State) (r : BitVec 12) (f : Region → Region) (k : Nat) : (s.modRegion r f).core k = s.core k :=
  core_congr (modRegion_recorded s r f).keeps.1 k

/-- Empty quills need not drain. -/
theorem drainQuills_stopping {s u : State} {r : BitVec 12} {cores : List Nat} (h : ∀ k ∈ cores, QuillEmpty s k)
    (hu : s.modRegion r stopping = u) : drainQuills cores (s.modRegion r stopping) = u := by
  rw [← hu]
  refine drainQuills_empty fun k hk => ?_
  rw [QuillEmpty, modRegion_core]
  exact h k hk

section Request

variable {s : State} {r : BitVec 12} {g : Region} (hg : s.region r = some g)
include hg

theorem preemptRequest_stays (h : g.parent ≠ 0 ∨ g.state = .preempted ∨ g.ending ≠ none ∨ g.tiles = []) : preemptRequest r s = s := by
  have hskip : (g.parent != 0 || g.state == .preempted || g.ending.isSome || g.tiles = []) = true := by
    simpa [Option.isSome_iff_ne_none, or_assoc] using h
  simp only [preemptRequest, hg, hskip, if_true]

theorem stopping_region : (s.modRegion r stopping).region r = some (stopping g) := by
  rw [modRegion_region, if_pos rfl, hg]
  rfl

variable (hroot : g.parent = 0) (hstate : g.state ≠ .preempted) (hend : g.ending = none) (htiles : g.tiles ≠ [])
include hroot hstate hend htiles

theorem preemptRequest_steps : preemptRequest r s =
    let u := drainQuills g.cores (s.modRegion r stopping)
    if !u.drained (u.subtree r) g then flushTree g u
    else if !u.canSave (u.life r).save g then endDomain r 0xFF 0 0 u
    else saveTree r (stopping g) u := by
  have hgo : (g.parent != 0 || g.state == .preempted || g.ending.isSome || g.tiles = []) = false := by
    simp [hroot, hstate, hend, htiles]
  simp only [preemptRequest, hg, hgo, Bool.false_eq_true, if_false]
  rfl

/-- A quill that holds entries is told to drain, and the tree waits for it. -/
theorem preemptRequest_drains (h : ∃ k ∈ g.cores, ¬ QuillEmpty s k) :
    (preemptRequest r s).region r = some (stopping g)
    ∧ ∀ k ∈ g.cores, (s.core k).quill.fifo ≠ [] → ((preemptRequest r s).core k).quill.flush = true := by
  obtain ⟨j, hj, hquill⟩ := h
  have hdrain := drainQuills_asked g.cores (s.modRegion r stopping)
  have hflush := flushTree_asked g (drainQuills g.cores (s.modRegion r stopping))
  have hwaits : (drainQuills g.cores (s.modRegion r stopping)).drained ((drainQuills g.cores (s.modRegion r stopping)).subtree r) g = false :=
    not_drained hj (mt (hdrain.quillEmpty j).mp (by rwa [QuillEmpty, modRegion_core])) _
  rw [preemptRequest_steps hg hroot hstate hend htiles]
  simp only [hwaits, Bool.not_false, if_true]
  refine ⟨(region_congr (hdrain.trans hflush).regions r).trans (stopping_region hg), fun k hk hfifo => hflush.flush k ?_⟩
  exact drainQuills_flush hk (by rwa [modRegion_core])

section Quiet

variable (hquills : ∀ k ∈ g.cores, QuillEmpty s k) {u : State} (hu : s.modRegion r stopping = u)
include hquills hu

theorem preemptRequest_flushes (hd : u.drained (u.subtree r) g = false) : preemptRequest r s = flushTree g u := by
  simp only [preemptRequest_steps hg hroot hstate hend htiles, drainQuills_stopping hquills hu, hd,
    Bool.not_false, if_true]

variable (hd : u.drained (u.subtree r) g = true)
include hd

theorem preemptRequest_faults (hs : u.canSave (u.life r).save g = false) : preemptRequest r s = endDomain r 0xFF 0 0 u := by
  simp only [preemptRequest_steps hg hroot hstate hend htiles, drainQuills_stopping hquills hu, hd, hs,
    Bool.not_true, Bool.false_eq_true, Bool.not_false, if_false, if_true]

theorem preemptRequest_saves (hs : u.canSave (u.life r).save g = true) : preemptRequest r s = saveTree r (stopping g) u := by
  simp only [preemptRequest_steps hg hroot hstate hend htiles, drainQuills_stopping hquills hu, hd, hs,
    Bool.not_true, Bool.false_eq_true, if_false]

end Quiet

end Request

/-- A tree that is saved: its regions are PREEMPTED, its cores free and its granules nobody's. -/
theorem saveTree_saves {s u : State} {r : BitVec 12} {g : Region} (hn : ∀ e ∈ s.regions, e.1 < 4096) (hu : u = s.modRegion r stopping) :
    let t := saveTree r (stopping g) u
    (∀ x ∈ s.subtree r, ∃ h, t.region x = some h ∧ h.state = .preempted ∧ h.stopping = false)
    ∧ (∀ k ∈ g.cores, (t.core k).user.running = false ∧ (t.core k).parked = none) ∧ ∀ e ∈ t.dist.owners, e.2 ∉ s.subtree r := by
  have htree (x : BitVec 12) : x ∈ u.subtree r ↔ x ∈ s.subtree r := by
    rw [hu]
    exact (modRegion_sameTree s r (f := stopping) fun _ => rfl).mem_subtree r x
  obtain ⟨v, f, hv, hleft, hrun⟩ := saveTree_asides r (stopping g) u
  dsimp only
  rw [hrun]
  refine ⟨fun x hx => ?_, fun k hk => coreLeft_congr (putAside_cores r _ f v) (hleft k hk),
    fun e he => mt (htree e.2).mpr (putAside_owners r _ f v e he)⟩
  have hthere : u.region x ≠ none := by
    rw [hu, modRegion_region]
    split
    next hxr =>
      rw [← hxr]
      exact mt Option.map_eq_none_iff.mp (region_of_mem_subtree hn hx)
    · exact region_of_mem_subtree hn hx
  obtain ⟨y, hy⟩ := Option.ne_none_iff_exists'.mp hthere
  refine ⟨setAside y, ?_, rfl, rfl⟩
  rw [putAside_region, if_pos ((htree x).mpr hx), region_congr hv.regions, hy]
  rfl

/-- A domain that has no traffic is forgotten as soon as it faults. -/
theorem endDomain_forgets {s : State} {r : BitVec 12} {g : Region} (hg : s.region r = some g) (he : g.ending = none)
    (hq : s.quiet (s.subtree r) = true) (cause : Byte) (pc : Addr) (core : Nat) : (endDomain r cause pc core s).region r = none := by
  obtain ⟨e, xs, htop, -, hrun⟩ := endDomain_starts hg he cause pc core
  rw [hrun]
  refine (drained_region hg e htop r).trans ?_
  rw [if_pos (mem_subtree_of_region (hg.trans_ne nofun) (isAncestor_self s r)), if_pos hq]

/-! ### `PREEMPT_RESUME` -/

theorem exec_preemptResume_of {s : State} {r : BitVec 12} (hn : s.inp.n = r.toNat) :
    exec .preemptResume s = .next (preemptResume r s) := by
  rw [exec_preemptResume, execPreemptResume, hn, BitVec.ofNat_toNat, BitVec.setWidth_eq]

theorem loadTree_saved {s u : State} {r : BitVec 12} {g : Region} (h : loadTree r g s = some u) : (u.life r).saved = [] := by
  unfold loadTree at h
  extract_lets at h
  split at h
  · cases h
  · obtain ⟨_, -, h⟩ := Option.bind_eq_some_iff.mp h
    obtain ⟨_, -, rfl⟩ := Option.map_eq_some_iff.mp h
    rw [State.modLife, setLife_life, if_pos rfl]

section Resume

variable {s : State} {r : BitVec 12} {g : Region} (hg : s.region r = some g)
include hg

theorem preemptResume_stays (h : g.parent ≠ 0 ∨ g.state ≠ .preempted ∨ g.ending ≠ none ∨ g.tiles.all s.tileUp = false
    ∨ s.resumeBehind r g = true) : preemptResume r s = s := by
  have hskip : (g.parent != 0 || g.state != .preempted || g.ending.isSome || !g.tiles.all s.tileUp || s.resumeBehind r g) = true := by
    simp only [Bool.or_eq_true, bne_iff_ne, Option.isSome_iff_ne_none, Bool.not_eq_true', or_assoc]
    exact h
  simp only [preemptResume, hg, hskip, if_true]

variable (hroot : g.parent = 0) (hstate : g.state = .preempted) (hend : g.ending = none) (hup : g.tiles.all s.tileUp = true)
  (hfirst : s.resumeBehind r g = false)
include hroot hstate hend hup hfirst

theorem preemptResume_steps : preemptResume r s =
    if s.holders g = [] then (match loadTree r g s with | some t => t | none => endDomain r 0xFF 0 0 s)
    else if (s.holders g).all (fun x => match s.region x with | some h => decide (h.prio.toNat < g.prio.toNat) | none => true) then
      (s.holders g).foldl (fun t x => t.push .preemptRequest { n := x.toNat }) s
    else s := by
  have hgo : (g.parent != 0 || g.state != .preempted || g.ending.isSome || !g.tiles.all s.tileUp || s.resumeBehind r g) = false := by
    simp only [hroot, hstate, hend, hup, hfirst]
    rfl
  simp only [preemptResume, hg, hgo, Bool.false_eq_true, if_false] <;> rfl

/-- Where all that hold its tiles have a lower priority, they are asked to stop. -/
theorem preemptResume_asks (hheld : s.holders g ≠ [])
    (hlow : ∀ x ∈ s.holders g, ∀ h, s.region x = some h → h.prio.toNat < g.prio.toNat) :
    preemptResume r s =
      { s with sched := (s.holders g).reverse.map (fun x => .happen .preemptRequest { n := x.toNat }) ++ s.sched } := by
  have hall : (s.holders g).all (fun x => match s.region x with | some h => decide (h.prio.toNat < g.prio.toNat) | none => true) = true := by
    rw [List.all_eq_true]
    intro x hx
    split
    next h hh => exact decide_eq_true (hlow x hx h hh)
    · rfl
  rw [preemptResume_steps hg hroot hstate hend hup hfirst, if_neg hheld, if_pos hall, ← foldl_push_sched, List.reverse_reverse]

theorem preemptResume_waits {x : BitVec 12} {h : Region} (hx : x ∈ s.holders g) (hh : s.region x = some h)
    (hprio : g.prio.toNat ≤ h.prio.toNat) : preemptResume r s = s := by
  have hall : ¬ (s.holders g).all (fun x => match s.region x with | some h => decide (h.prio.toNat < g.prio.toNat) | none => true) = true := by
    rw [List.all_eq_true]
    intro hlow
    have hlt := hlow x hx
    rw [hh] at hlt
    exact absurd (of_decide_eq_true hlt) (Nat.not_lt.mpr hprio)
  rw [preemptResume_steps hg hroot hstate hend hup hfirst, if_neg (List.ne_nil_of_mem hx), if_neg hall]

end Resume

/-! ### The claim -/

/-- Settles O59: a tree that is told to stop by how far it has come (its quills, its traffic, its save area), and one that resumes by
who holds its tiles. -/
theorem treesYieldAndReturn : Obligations.TreesYieldAndReturn := by
  intro s r g hn hg hnames
  rw [exec_preemptRequest_of hn, exec_preemptResume_of hn]
  refine ⟨fun h => congrArg Host.Outcome.next (preemptRequest_stays hg h),
    fun hroot hstate hend htiles => ⟨_, rfl, ?held, fun hempty => ?free⟩,
    fun h => congrArg Host.Outcome.next (preemptResume_stays hg h), fun hroot hstate hend hup hfirst => ?resume⟩
  case held =>
    rintro ⟨k, hk, hquill⟩
    exact preemptRequest_drains hg hroot hstate hend htiles ⟨k, hk, fun h => hquill.elim (absurd h.1) (absurd h.2)⟩
  case free =>
    refine ⟨fun hwaits => preemptRequest_flushes hg hroot hstate hend htiles hempty rfl hwaits, fun hdrained hsave => ?_,
      fun hdrained hsave hquiet => ?_⟩
    · rw [preemptRequest_saves hg hroot hstate hend htiles hempty rfl hdrained hsave]
      exact saveTree_saves hnames rfl
    · rw [preemptRequest_faults hg hroot hstate hend htiles hempty rfl hdrained hsave]
      exact endDomain_forgets (stopping_region hg) hend hquiet 0xFF 0 0
  case resume =>
    refine ⟨fun hfree u hload => ?_, fun hfree hload => ?_, fun hheld hlow => ?_, ?_⟩
    · rw [preemptResume_steps hg hroot hstate hend hup hfirst, if_pos hfree, hload]
      exact ⟨rfl, loadTree_saved hload⟩
    · rw [preemptResume_steps hg hroot hstate hend hup hfirst, if_pos hfree, hload]
    · exact ⟨_, congrArg Host.Outcome.next (preemptResume_asks hg hroot hstate hend hup hfirst hheld hlow), rfl, rfl, rfl⟩
    · rintro ⟨x, hx, h, hh, hprio⟩
      exact congrArg Host.Outcome.next (preemptResume_waits hg hroot hstate hend hup hfirst hx hh hprio)

end Sys2Proof.Proofs.Regions

/-!
O6. What package reset leaves (R131 to R138, R298, R313, R314).
-/

namespace Sys2Proof.Proofs.Bundles

open Sys2Proof Sys2Proof.Machine Sys2Proof.Safety Sys2Proof.Laws

/-! ### Every core after reset -/

/-- After reset each core reads as the one that `Core`'s own defaults describe. -/
theorem reset_core (k : Nat) : State.reset.core k = {} := rfl

theorem reset_engine (k : Nat) (copy : Bool) : State.reset.engine k copy = {} := by
  cases copy <;> rfl

theorem reset_tile (t : Nat) : State.reset.tile t = {} := rfl

/-- Settles O6: every core, engine and tile reads as its defaults, and each register's word is computed from those. -/
theorem resetState : Obligations.ResetState := by
  refine ⟨rfl, rfl, rfl, rfl, rfl, rfl, fun k => ?cores, fun k copy => ?engines, fun t => ?leases, rfl, rfl⟩
  case cores =>
    simp only [reset_core]
    decide +kernel
  case engines =>
    rw [reset_engine]
    exact ⟨rfl, rfl⟩
  case leases =>
    rw [reset_tile]

end Sys2Proof.Proofs.Bundles

/-!
O10. The boundary after a bundle (R133, R189), the limit on results in flight (R188, R428), and bundles whose syllables read
before any of them writes (R187).
-/

namespace Sys2Proof.Proofs.Bundles

open Sys2Proof Sys2Proof.Machine Sys2Proof.Safety Sys2Proof.Laws

/-! ### The end of a bundle (R133, R189) -/

/-- The traps that wait for a boundary after a bundle that asks nothing of it: those before it, and DEBUG of a single step. -/
theorem endCtx_deferred (step : Bool) (len : Nat) (c : Ctx) :
    (endCtx step len c).deferred
      = if step then insertDeferred ⟨2, { code := tDebug, dbg := 1 }, []⟩ c.deferred else c.deferred := by
  obtain ⟨-, -, -, hage, -⟩ := age_keeps c
  obtain ⟨-, -, -, hwindow, -⟩ := passWindow_keeps c.age
  cases step
  · exact hwindow.trans hage
  · exact congrArg (insertDeferred _) (hwindow.trans hage)

theorem boundary_plain_ctx {u : State} (step : Bool) (h : Plain u) :
    (u.boundary step).ctx = endCtx step u.issue.len u.ctx := by
  rw [boundary_plain u step h]
  exact setCtx_ctx u _

theorem bundleEnd : Claims.BundleEnd := by
  intro u step h
  obtain ⟨hspecial, hpc, hcount, hregs, hpend, -, -⟩ := endCtx_keeps step u.issue.len u.ctx
  dsimp only
  rw [boundary_plain_ctx step h, hpend]
  exact ⟨⟨_, boundary_plain u step h⟩, hspecial, hpc, hcount, hregs, endCtx_deferred step _ _, age_pend u.ctx, age_quiet u.ctx⟩

/-! ### The limit on results in flight (R188, R428) -/

/-- A bundle that would pass the limits lets an empty one go first while a result that counts is on its way. -/
theorem commit_overLimit {s t : State} {p : Pend} (hp : p ∈ s.ctx.pend) (hf : p.frozen = false)
    (hover : t.ctx.overLimit = true) : s.commit t = { s.emptyBundle with issue := {} } := by
  have hcounts : s.ctx.pend.any (fun q => !q.frozen) = true := List.any_eq_true.mpr ⟨p, hp, by simp [hf]⟩
  simp only [State.commit, hover, hcounts, if_true]

/-- A functional instruction of two sources sends its result from the registers as its bundle found them. -/
theorem functional2_alone {s : State} (h : Alone s) (f : Dom → Dom → Dom) (lat : Nat) (dd da db : DReg) :
    functional2 f lat dd da db s = .ok (s.write lat (.d dd (f (s.ctx.regs.dom da) (s.ctx.regs.dom db)))) := by
  simp [functional2, State.src, h.2]

theorem inFlightLimit : Claims.InFlightLimit := by
  intro s dd da db p halone hp hf hover
  obtain ⟨hpc, hcount, -, -, -, -, hstatus, -⟩ := age_keeps s.ctx
  refine ⟨?_, ⟨s.ctx.age, rfl⟩, ?_⟩
  · rw [exec_mul, syllable, halone.1, functional2_alone halone]
    exact congrArg Host.Outcome.next (commit_overLimit hp hf hover)
  · rw [State.emptyBundle, modCtx_ctx]
    exact ⟨hpc, hstatus, hcount, age_regs s.ctx⟩

/-! ### Functional forms among other syllables (R187) -/

/-- An instruction that, among the syllables of a bundle that found the context `c`, sends one result and does nothing else. -/
structure Sends (c : Ctx) (i : Instr) (lat : Nat) (w : Write) : Prop where
  noPoint : isPoint i = false
  sends : ∀ s, Among c s → exec i s = .next (s.write lat w)

/-- A syllable that is no point and runs a body which sends one result. -/
theorem Sends.of_body {c : Ctx} {i : Instr} {lat : Nat} {w : Write} (body : State → Eff State) (hp : isPoint i = false)
    (hi : ∀ s, exec i s = syllable body s) (hb : ∀ s, s.src = c → body s = .ok (s.write lat w)) : Sends c i lat w where
  noPoint := hp
  sends s h := (hi s).trans (syllable_inner h.1 (hb s (by rw [State.src, h.2]; rfl)))

theorem Sends.two {c : Ctx} {i : Instr} {f : Dom → Dom → Dom} {lat : Nat} {dd da db : DReg} (hp : isPoint i = false)
    (hi : ∀ s, exec i s = syllable (functional2 f lat dd da db) s) :
    Sends c i lat (.d dd (f (c.regs.dom da) (c.regs.dom db))) :=
  .of_body _ hp hi (by rintro s rfl; rfl)

theorem Sends.imm {c : Ctx} {i : Instr} {f : Dom → Dom → Dom} {lat : Nat} {dd da : DReg} {k : Word} (hp : isPoint i = false)
    (hi : ∀ s, exec i s = syllable (functionalI f lat dd da k) s) :
    Sends c i lat (.d dd (f (c.regs.dom da) (Dom.single k))) :=
  .of_body _ hp hi (by rintro s rfl; rfl)

theorem Sends.one {c : Ctx} {i : Instr} {f : Dom → Dom} {dd da : DReg} (hp : isPoint i = false)
    (hi : ∀ s, exec i s = syllable (functional1 f dd da) s) : Sends c i 1 (.d dd (f (c.regs.dom da))) :=
  .of_body _ hp hi (by rintro s rfl; rfl)

theorem Sends.const {c : Ctx} {i : Instr} {lat : Nat} {w : Write} (hp : isPoint i = false)
    (hi : ∀ s, exec i s = syllable (fun s => .ok (s.write lat w)) s) : Sends c i lat w :=
  .of_body _ hp hi (fun _ _ => rfl)

/-- Every functional form of class 000 sends the one result that R275 and R281 give for the registers its bundle found. -/
theorem domainForms_send (c : Ctx) (dd da db : DReg) (k : Word) :
    ∀ f ∈ domainForms dd da db k (c.regs.dom da) (c.regs.dom db), Sends c f.1 f.2.1 (.d dd f.2.2) := by
  simp only [domainForms, List.forall_mem_cons]
  exact ⟨.two rfl (exec_add _ _ _), .imm rfl (exec_addI _ _ _), .two rfl (exec_sub _ _ _), .imm rfl (exec_subI _ _ _),
    .two rfl (exec_mul _ _ _), .imm rfl (exec_mulI _ _ _), .two rfl (exec_mulh _ _ _), .imm rfl (exec_mulhI _ _ _),
    .two rfl (exec_div _ _ _), .imm rfl (exec_divI _ _ _), .two rfl (exec_rem _ _ _), .imm rfl (exec_remI _ _ _),
    .two rfl (exec_min _ _ _), .imm rfl (exec_minI _ _ _), .two rfl (exec_max _ _ _), .imm rfl (exec_maxI _ _ _),
    .two rfl (exec_and _ _ _), .imm rfl (exec_andI _ _ _), .two rfl (exec_or _ _ _), .imm rfl (exec_orI _ _ _),
    .two rfl (exec_xor _ _ _), .imm rfl (exec_xorI _ _ _), .two rfl (exec_andn _ _ _), .imm rfl (exec_andnI _ _ _),
    .two rfl (exec_shl _ _ _), .imm rfl (exec_shlI _ _ _), .two rfl (exec_shr _ _ _), .imm rfl (exec_shrI _ _ _),
    .two rfl (exec_sra _ _ _), .imm rfl (exec_sraI _ _ _), .two rfl (exec_eq _ _ _), .imm rfl (exec_eqI _ _ _),
    .two rfl (exec_ne _ _ _), .imm rfl (exec_neI _ _ _), .two rfl (exec_lt _ _ _), .imm rfl (exec_ltI _ _ _),
    .two rfl (exec_le _ _ _), .imm rfl (exec_leI _ _ _), .one rfl (exec_abs _ _), .one rfl (exec_neg _ _),
    (Sends.one rfl (exec_mov dd da) :), .const rfl (exec_movi _ _), .one rfl (exec_clz _ _), .one rfl (exec_popc _ _),
    .one rfl (exec_sext _ _ _), .one rfl (exec_zext _ _ _), .const rfl (exec_dfull _), (Sends.one rfl (exec_dlo dd da) :),
    (Sends.one rfl (exec_dhi dd da) :), (Sends.one rfl (exec_dsize dd da) :), fun _ h => absurd h List.not_mem_nil⟩

/-! ### The bookkeeping of a bundle -/

/-- A state with other bookkeeping of the bundle in progress. -/
def noting (s : State) (i : Issue) : State := { s with issue := i }

@[simp] theorem noting_issue (s : State) (i : Issue) : (noting s i).issue = i := rfl

@[simp] theorem noting_noting (s : State) (i j : Issue) : noting (noting s i) j = noting s j := rfl

theorem noting_self {s : State} {i : Issue} (h : s.issue = i) : noting s i = s := by
  rw [← h]
  rfl

theorem noting_modCtx (s : State) (i : Issue) (f : Ctx → Ctx) : (noting s i).modCtx f = noting (s.modCtx f) i :=
  setCtx_with s (f s.ctx) i

/-- A result is sent in the same way whatever else its bundle has noted, from the slot that the bookkeeping names. -/
theorem noting_write (s : State) (i : Issue) (lat : Nat) (w : Write) :
    (noting s i).write lat w
      = noting (s.modCtx (fun c => { c with pend := insertPend ⟨lat, false, i.slot, c.count, w⟩ c.pend })) i :=
  noting_modCtx s i _

/-- A boundary does what its bundle asked of it, and depends on nothing else that the bundle noted. -/
theorem noting_boundary (u : State) (step : Bool) {i j : Issue} (hlen : i.len = j.len) (hafter : i.after = j.after)
    (hbudget : i.budget = j.budget) : (noting u i).boundary step = (noting u j).boundary step := by
  simp only [State.boundary, noting_issue, hlen, hafter, hbudget]
  rfl

theorem noting_commit (s : State) {u : State} {i : Issue} (h : Room u) :
    s.commit (noting u i) = (noting u i).boundary (stepping s) := commit_room s _ h

/-- What a syllable finds noted in its slot of a bundle that has noted `i` so far. -/
def slotIssue (i : Issue) (c : Ctx) (len : Nat) (slot : Slot) : Issue :=
  { i with snap := some c, len := len, slot := slot.rank, inner := true, phase := 0, trap := none, stall := 0 }

/-- Such an instruction sends its result from the slot of a bundle in which it runs. -/
theorem Sends.inSlot {c : Ctx} {i : Instr} {lat : Nat} {w : Write} (h : Sends c i lat w) (s : State) (len : Nat) (slot : Slot) :
    exec i (inSlot s c len slot 0) = .next ((noting s (slotIssue s.issue c len slot)).write lat w) :=
  h.sends _ ⟨rfl, rfl⟩

/-! ### A bundle that meets nothing (R317) -/

theorem bestTrap_quiet {ts : List State} (n : Nat) (h : ∀ t ∈ ts, t.issue.trap = none) : bestTrap n ts = none := by
  induction ts with
  | nil => rfl
  | cons t rest ih =>
    rw [bestTrap, h t List.mem_cons_self]
    exact ih (fun u hu => h u (List.mem_cons_of_mem t hu))

/-- A bundle with no propagation point performs where none of its syllables, tried alone, traps or has to wait. -/
theorem runBundle_quiet {s : State} {b : List (Slot × Instr)} {ts : List State} (h : s.issue = {})
    (hpoints : b.filter (fun x => isPoint x.2) = []) (htrials : trials exec s.ctx s b.length b = .next ts)
    (hquiet : ∀ t ∈ ts, t.issue.trap = none ∧ t.issue.stall = 0) : runBundle exec b s = perform exec b s s := by
  have hstalls (n : Nat) (hn : 0 ≠ n) : ts.find? (fun t => t.issue.stall == n) = none :=
    List.find?_eq_none.mpr (fun t ht => by simp [(hquiet t ht).2, hn])
  have htrap : bestTrap 320 ts = none := bestTrap_quiet 320 (fun t ht => (hquiet t ht).1)
  have hfresh : ({ s with issue := { fixed := s.issue.fixed } } : State) = s := noting_self (by rw [h])
  simp only [runBundle, htrials, hstalls 2 (by decide), htrap, hstalls 1 (by decide), hpoints, runSlots, hfresh,
    List.any_nil, Bool.and_false, Bool.false_eq_true, if_false, List.filterMap_none, bestTrap]

/-! ### A bundle of two syllables that send their results (R187) -/

section Two

variable {s : State} {i j : Instr} {li lj : Nat} {wi wj : Write}

/-- A bundle of two syllables has sent a result from slot DA and one from slot DB. -/
def bothSent (s : State) (li : Nat) (wi : Write) (lj : Nat) (wj : Write) : State :=
  (noting ((noting s { len := 2, slot := 0 }).write li wi) { len := 2, slot := 1 }).write lj wj

theorem trials_two (hi : Sends s.ctx i li wi) (hj : Sends s.ctx j lj wj) :
    trials exec s.ctx s 2 [(.da, i), (.db, j)] = .next [(noting s (slotIssue s.issue s.ctx 2 .da)).write li wi,
      (noting s (slotIssue s.issue s.ctx 2 .db)).write lj wj] := by
  simp only [trials, trial, hi.inSlot, hj.inSlot]

theorem runSlots_two (hi : Sends s.ctx i li wi) (hj : Sends s.ctx j lj wj) (phase : Nat) :
    runSlots exec s.ctx 2 phase [(.da, i), (.db, j)] s
      = .next (.inl (noting (bothSent s li wi lj wj) (slotIssue s.issue s.ctx 2 .db))) := by
  simp only [runSlots, hi.noPoint, hj.noPoint, Bool.false_eq_true, if_false, hi.inSlot, hj.inSlot, noting_issue,
    bothSent, noting_write, noting_noting, slotIssue]
  rfl

theorem noPoints_two (hi : Sends s.ctx i li wi) (hj : Sends s.ctx j lj wj) :
    [(Slot.da, i), (Slot.db, j)].filter (fun x => isPoint x.2) = [] := by
  simp [hi.noPoint, hj.noPoint]

/-- Two syllables that each send a result commit with both, in the order of their slots. -/
theorem perform_two (hi : Sends s.ctx i li wi) (hj : Sends s.ctx j lj wj) :
    perform exec [(.da, i), (.db, j)] s s = .next (s.commit (noting (bothSent s li wi lj wj)
      { slotIssue s.issue s.ctx 2 .db with snap := none, inner := false })) := by
  have hothers : [(Slot.da, i), (Slot.db, j)].filter (fun x => !isPoint x.2) = [(Slot.da, i), (Slot.db, j)] := by
    simp [hi.noPoint, hj.noPoint]
  have hlen : [(Slot.da, i), (Slot.db, j)].length = 2 := rfl
  simp only [perform, noPoints_two hi hj, hothers, hlen, List.nil_append, runSlots_two hi hj, noting_issue]
  rfl

theorem runBundle_two (h : s.issue = {}) (hi : Sends s.ctx i li wi) (hj : Sends s.ctx j lj wj) :
    runBundle exec [(.da, i), (.db, j)] s = .next (s.commit (noting (bothSent s li wi lj wj)
      { slotIssue s.issue s.ctx 2 .db with snap := none, inner := false })) := by
  refine (runBundle_quiet h (noPoints_two hi hj) (trials_two hi hj) ?_).trans (perform_two hi hj)
  simp [slotIssue]

end Two

theorem bundleReadsBefore : Claims.BundleReadsBefore := by
  intro s k dd da db ee ea eb f g hf hg one two u hs hroom
  have hf := domainForms_send s.ctx dd da db k f hf
  have hg := domainForms_send s.ctx ee ea eb k g hg
  have hu : u = bothSent s f.2.1 (.d dd f.2.2) g.2.1 (.d ee g.2.2) := rfl
  rw [hu] at hroom ⊢
  rw [runBundle_two hs hf hg, noting_commit s hroom, hs]
  refine congrArg Host.Outcome.next ((noting_boundary _ _ rfl rfl rfl).trans (congrArg _ (noting_self ?_)))
  exact write_issue ..

/-- Settles O10: a bundle's end by the laws of landing, its limit by the commit that an empty bundle goes before, and reading
before writing because every functional form sends what R275 gives for the registers that its bundle found. -/
theorem bundlesReadBeforeTheyWrite : Obligations.BundlesReadBeforeTheyWrite :=
  ⟨bundleEnd, inFlightLimit, bundleReadsBefore⟩

end Sys2Proof.Proofs.Bundles

/-!
O54. A block sealed under a trace key (R136). The seal holds a trace key as a list of bytes. `SEAL_TRACE_KEY_INSTALL` leaves
one of 32 bytes (R136), but the statement speaks of every key that a state may hold.
-/

namespace Sys2Proof.Proofs.Trace

open Sys2Proof Sys2Proof.Machine Sys2Proof.Safety Sys2Proof.Laws Sys2Proof.Proofs.Package

/-! ### A key of no bytes enciphers nothing -/

theorem addBytes_nil (b : List Byte) : addBytes b [] = [] := List.zipWith_nil_right

theorem aesKeys_nil : aesKeys [] = List.replicate 15 [] := by decide +kernel

/-- The last round adds a round key, which leaves no more bytes than the key has. -/
theorem aesRounds_nil (n : Nat) (b : List Byte) : aesRounds (List.replicate (n + 1) []) b = [] := by
  induction n generalizing b with
  | zero => exact addBytes_nil _
  | succ n ih => exact ih _

theorem aesBlock_nil (b : List Byte) : aesBlock (aesKeys []) b = [] := by
  rw [aesKeys_nil]
  exact aesRounds_nil 13 _

theorem aesGcm_nil (nonce : List Byte) (aad plain : List (List Byte)) : aesGcm [] nonce aad plain = [] := by
  simp [aesGcm, aesBlock_nil, addBytes_nil]

/-! ### The ring's place (R134) -/

/-- Bytes of the ring stand where its pages map them, if their home answers under their key. -/
theorem ringAt_of_translate {s t : State} {k off n : Nat} {pa : BitVec 52}
    (h : s.translate (.tile (k / 4)) (s.core k).user.id.conf (s.core k).user.id.pasid
      (BitVec.ofNat 48 (((s.core k).user.dbg.tracectl.extractLsb' 12 36).toNat * 4096 + off)) accWrite = .ok pa t)
    (hserved : (offCell (physCell pa) || !t.inService (physCell pa) || n = 0
      || (keyed (physCell pa) && !Assoc.get false t.security.keys (physKey pa).toNat)) = false) :
    ringAt s k off n = .ok (physKey pa) (physCell pa) t := by
  simp only [ringAt, h, hserved, Bool.false_eq_true, if_false]

/-! ### The counterexample -/

/-- A record that waits to be sealed. -/
def gathered : TraceRec := { stamp := 9, payload := 8, group := 7, core := 0, kind := 1, fw := false, pc := 0x1000 }

/-- Core 0 of a confidential region of PASID 0 has gathered a record 4,096 cycles ago, for its ring of 4 KiB at 0x8000 of HBM
stack 0. The trace key of PASID 0 has no bytes. -/
def emptyKeyed : State :=
  { State.reset with
    cycle := 4096
    boot := { State.reset.boot with hbm := 1 }
    tiles := [(0, { tlb := [lowPage 0] })]
    cores := [(0, { user := { id := { conf := true }, dbg := { tracectl := 0x8000 } }, quill := { part := [gathered] } })]
    security := { State.reset.security with traceKeys := [(0, [])] } }

theorem emptyKeyed_head : ringAt emptyKeyed 0 0 32 = .ok 0 0x8000 emptyKeyed :=
  ringAt_of_translate (translate_of_hit (e := lowPage 0) (by decide) (by decide +kernel) (by decide +kernel)) (by decide +kernel)

theorem emptyKeyed_place : ringAt emptyKeyed 0 64 256 = .ok 0 0x8040 emptyKeyed :=
  ringAt_of_translate (translate_of_hit (e := lowPage 0) (by decide) (by decide +kernel) (by decide +kernel)) (by decide +kernel)

/-- The ring has written nothing and read nothing. -/
theorem emptyKeyed_counts : leNat (emptyKeyed.bytesKey 0 0x8000 8) = 0 ∧ leNat (emptyKeyed.bytesKey 0 (0x8000 + 8) 8) = 0 := by
  decide +kernel

/-- Refutes O54: `TraceDrains` wants a sealed block of 256 bytes under whatever trace key the state holds, and under a key of no
bytes the block is its nonce and its count alone. -/
theorem not_timersAndTrace : ¬ Obligations.TimersAndTrace := by
  rintro ⟨-, -, hseal, -⟩
  obtain ⟨-, -, -, hblock⟩ := hseal emptyKeyed 0 rfl
  obtain ⟨hwritten, hread⟩ := emptyKeyed_counts
  have hblock := hblock (by decide +kernel) (by decide +kernel) (by decide +kernel) (by decide +kernel) [] rfl 0 0x8000 emptyKeyed
    emptyKeyed_head rfl
  simp only [hwritten, hread] at hblock
  obtain ⟨t, -, -, -, hlength, -⟩ := hblock (by decide +kernel) (by decide) 0 0x8040 emptyKeyed emptyKeyed_place rfl
  rw [aesGcm_nil] at hlength
  simp [leBytes_length] at hlength

end Sys2Proof.Proofs.Trace
